-- ==== Sys2Proof/Word.lean ====
section
/-! DEFINITION. The word types of the Lofahan and the plain shapes its state is built of. -/

namespace Sys2Proof

/-- A byte of memory, of a packet or of a frame (R7). -/
abbrev Byte := BitVec 8

/-- A 64-bit register, address or tick count. -/
abbrev Word := BitVec 64

/-- An FP32 value as its bits (R47). -/
abbrev F32 := BitVec 32

/-- Things held by number: an association list, ascending by key where `Tab.set` builds it. -/
abbrev Tab (α : Type) := List (Nat × α)

end Sys2Proof
end

