-- ==== Sys2Proof/Syntax.lean ====
section
/-! DEFINITION. The commands and events of the block: one constructor for each row of opcode_table.json. The table
gives no operands, so the operands are the model's: they name what the rule of the row says arrives. -/

namespace Sys2Proof

/-- Who has asked for a translation or a host line. -/
inductive Who where
  /-- the command with this handle -/
  | cmd (h : Nat)
  /-- the slot fetch of this submission queue -/
  | fetch (q : Nat)
  /-- the bias request in progress -/
  | bias
  /-- the engine itself: requests of peers, spill records, skew records, trace dumps -/
  | engine
deriving DecidableEq, Repr

/-- What an answer from a peer engine says of a row request, a contribution or a replica write (R81, R83, R421, R161). -/
inductive Reply where
  /-- the stored bytes of the row and the offsets of its poisoned sectors -/
  | row (bytes : List Byte) (poison : List Nat)
  /-- absent under R81 -/
  | absent
  /-- the contribution was buffered, or the replica written -/
  | accepted
  /-- the contribution was refused (R421) -/
  | refused
deriving DecidableEq, Repr

/-- The payload of a beacon (Table 14-9). -/
structure Beacon where
  engine : Nat
  group : Nat
  /-- the `admit` field -/
  admitNo : Nat
  inc : Nat
  bseq : Nat
  /-- the `state` field: bit 0 is 0 for JOINING and 1 for UP, bit 1 marks a change beacon -/
  state : Nat
  /-- the 256-bit presence map -/
  presence : Nat
deriving DecidableEq, Repr

/-- What a sector read returns (R304, R305). -/
inductive SectorResult where
  | clean
  /-- an error in one symbol, corrected -/
  | corrected
  /-- an error in two or three symbols, or a wider one that is detected -/
  | uncorrectable
  /-- an escaped error: the data returned is not the data written -/
  | escaped
  /-- a parity error on the command, address or write data, which the retry met too (Table 13-1) -/
  | parity
deriving DecidableEq, Repr

/-- A scored row of one query (R129). -/
structure ScanEntry where
  value : F32
  row : Nat
deriving DecidableEq, Repr

/-- One part of a scan for one query (R131, R133): its best entries, its pair (m, z) (a void pair is −∞ and +0), and whether a
score was poisoned. -/
structure ScanQuery where
  top : List ScanEntry
  m : F32
  z : F32
  poisoned : Bool
deriving DecidableEq, Repr

/-- What a peer says of one part of a scan: the Press events of its scores (nan_in, inf_in, invalid, overflow), and its results for each
query; none says that the part is absent. -/
structure ScanAnswer where
  events : List Nat
  queries : List ScanQuery
deriving DecidableEq, Repr

/-- One command or event. [DESIGN CHOICE, log 1] -/
inductive Instr where
  -- data commands, on the handle of an admitted command
  | lookup (h : Nat)
  | lookupPool (h : Nat)
  | scoreTopk (h : Nat)
  | scatterGrad (h : Nat)
  | applyStep (h : Nat)
  | rowWrite (h : Nat)
  | migrate (h : Nat)
  | replicate (h : Nat)
  | stream (h : Nat)
  | multicast (h : Nat)
  | tileRead (h : Nat)
  | tileWrite (h : Nat)
  | fenceSignal (h : Nat)
  | fenceWait (h : Nat)
  | barrier (h : Nat)
  | buoy (h : Nat)
  -- management commands, on a handle
  | planLoad (h : Nat)
  | planBind (h : Nat)
  | planUnbind (h : Nat)
  | planUnload (h : Nat)
  | tableOpen (h : Nat)
  | replaceBegin (h : Nat)
  | replaceCommit (h : Nat)
  | tableClose (h : Nat)
  | hotLoad (h : Nat)
  | contextKill (h : Nat)
  | query (h : Nat)
  -- management actions: a KPR_MGMT_CMD write through `port` with this `tag` in [31:16]
  | ctxOpen (port : Fin 4) (tag : BitVec 16)
  | ctxKill (port : Fin 4) (tag : BitVec 16)
  | sqCreate (port : Fin 4) (tag : BitVec 16)
  | sqDestroy (port : Fin 4) (tag : BitVec 16)
  | cqCreate (port : Fin 4) (tag : BitVec 16)
  | cqDestroy (port : Fin 4) (tag : BitVec 16)
  | fenceAlloc (port : Fin 4) (tag : BitVec 16)
  | fenceFree (port : Fin 4) (tag : BitVec 16)
  | fenceGrant (port : Fin 4) (tag : BitVec 16)
  | fenceRevoke (port : Fin 4) (tag : BitVec 16)
  | fwSet (port : Fin 4) (tag : BitVec 16)
  -- register writes with a row of their own
  | biasToDevice (port : Fin 4) (first count : Nat) (owner : Fin 4096) (own : Bool)
  | biasToHost (port : Fin 4) (first count : Nat) (owner : Fin 4096) (own : Bool)
  | bootRepair (port : Fin 4)
  | bootSkip (port : Fin 4)
  /-- triggers in the order 0 a register write, 1 the slice's spoke going down, 2 an internal fault of the slice, an uncorrectable word in its
  control state (R362, Table 19-9 code 0x22) -/
  | sliceRestart (slice : Fin 4) (trigger : Fin 3)
  | opEnable (port : Fin 4) (on : Bool)
  | opUp (port : Fin 4) (on : Bool)
  | readmit (port : Fin 4)
  | traceStart (port : Fin 4) (data : Word)
  | traceDeepRelease (port : Fin 4) (data : Word)
  | traceDump (port : Fin 4) (addr : Word)
  | traceMark (port : Fin 4) (value : Word)
  | skewEnable (port : Fin 4) (data : Word)
  | skewRelease (port : Fin 4) (tail : BitVec 32)
  | tgRun (port : Fin 4) (chan : Fin 3) (data : Word)
  | tgStop (port : Fin 4) (chan : Fin 3) (data : Word)
  | powerLimitWrite (port : Fin 4) (cap : BitVec 16)
  | doorbell (port : Fin 4) (ctx : Fin 4096) (n : Fin 64) (tail : BitVec 32)
  | completionRelease (port : Fin 4) (ctx : Fin 4096) (n : Fin 64) (released : BitVec 32)
  | fenceSlotCommit (port : Fin 4) (ctx : Fin 4096) (data : Word)
  | faultClear (port : Fin 4) (ctx : Fin 4096)
  | flush (port : Fin 4) (ctx : Fin 4096)
  | readBack (port : Fin 4) (ctx : Fin 4096) (offset : Fin 4096)
  | registerWrite (port : Fin 4) (offset : Nat) (size : Nat) (data : Word) (poisoned : Bool)
  -- host transactions
  | windowWrite (port : Fin 4) (ctx : Fin 4096) (offset : Nat) (bytes : List Byte) (enables : List Bool) (poisoned : Bool)
  | memWrite (port : Fin 4) (addr : Nat) (bytes : List Byte) (poisoned : Bool)
  | memRead (port : Fin 4) (addr : Nat) (count : Nat)
  | snoop (port : Fin 4) (addr : Nat)
  | atsInvalidation (port : Fin 4) (pasid : BitVec 20) (firstPage pages : Nat)
  /-- grant: read, write, whether the target is the engine's own device memory, and the target page -/
  | atsResponse (port : Fin 4) (who : Who) (page : Nat) (read write toDevice : Bool) (target : Nat)
  | goResponse (port : Fin 4) (ctx : Fin 4096)
  | commandPortTransaction (port : Fin 8) (write : Bool) (ctx : Nat) (offset : Nat) (bytes : List Byte) (poisoned : Bool)
  -- sequencer events
  | packetFetch (q : Nat)
  | packetReread (q : Nat)
  | admission (q : Nat)
  | completionRecord (h : Nat)
  | waitSlotTimeout (q : Nat)
  | fenceWaitTimeout (h : Nat)
  | fenceApply
  | fenceValueDelivery (slice : Fin 4) (fence : Nat)
  | sealSend (h : Nat)
  | sealArrival (src : Nat) (table : Nat) (step : Word)
  | sealTimeout (h : Nat)
  | barrierReached (h : Nat)
  | barrierArrival (src : Nat) (tag : Word)
  | barrierTimeout (h : Nat)
  | detachTimeout (h : Nat)
  | epochAdopt (slice : Fin 4) (table : Nat)
  | drainComplete (table : Nat)
  | versionPublication (table : Nat)
  | tileDrain (slice : Fin 4) (vat : Fin 16)
  | killStepDone (ctx : Fin 4096)
  -- package links and groups
  /-- link 0 to 11: slice L / 3, direction L mod 3 of Table 14-4; 12 to 29: KPR_DD_LINK[L - 12]; the 256 bytes of the flit -/
  | flitReceive (link : Nat) (module : Nat) (flit : List Byte)
  | linkControlFlit (link : Nat) (module : Nat) (flit : List Byte)
  | moduleLockLoss (link : Nat) (module : Nat)
  | retrainComplete (link : Nat) (module : Nat) (failRx failTx : BitVec 34)
  | frameReceive (port : Fin 6) (frame : List Byte)
  | beaconSend (port : Fin 6)
  | beaconReceive (port : Fin 6) (b : Beacon)
  | peerRowRequest (src : Nat) (table mapId row tag : Nat)
  | rowReply (src : Nat) (tag : Nat) (reply : Reply)
  | contributionArrival (src : Nat) (srcSlice : Fin 4) (table mapId : Nat) (step : Word) (row batch : Nat)
      (elems : List (F32 × Bool)) (tag : Nat)
  | scanRequest (src : Nat) (table mapId tag : Nat) (packet image : List Byte) (variant : Nat)
      (queries : List (List (F32 × Bool))) (mask : List Byte) (parts : List Nat)
  /-- `part` is a bucket, or B + r for the override row r -/
  | scanPartial (src : Nat) (tag : Nat) (fed masked absent : Nat) (part : Nat) (answer : ScanAnswer)
  | replicaWrite (src : Nat) (table mapId row : Nat) (bytes : List Byte) (poison : List Nat) (tag : Nat)
  /-- the frame's header of 8 bytes, and its payload and check (Table 14-6) -/
  | linkControlFrame (port : Fin 6) (head body : List Byte)
  | missTimeout (port : Fin 6)
  | lossOfLight (port : Fin 6)
  | opLos (port : Fin 6) (dark : Bool)
  | opLock (port : Fin 6) (locked : Bool)
  | wavelengthChange (port : Fin 6) (count : Fin 17)
  | lossStateAdopt (slice : Fin 4)
  -- power, memory channels and observation
  /-- millivolts and milliamperes of the 18 rails (four of each pool slice, then two of the keeper), and the ten junction
  sensors, none for a read that failed -/
  | powerSample (rails : List (Nat × Nat)) (junctions : List (Option Nat))
  | powerWindow
  /-- demand in tenths of an ampere -/
  | slewPeriod (slice : Fin 4) (demand : Nat)
  | thermalSample (stack : Fin 12) (value : Option Nat)
  /-- the plans whose commands have traffic queued on the channel -/
  | splitReselect (stack : Fin 12) (plans : List Nat)
  /-- `retried`: a parity error came first, and `result` is that of the retry (Table 13-1) -/
  | sectorRead (stack : Fin 12) (offset : Nat) (result : SectorResult) (retried : Bool)
  | repair (stack : Fin 12)
  | retireMove (stack : Fin 12)
  | scrubPatrol (stack : Fin 12) (result : SectorResult)
  | scrubLate (stack : Fin 12)
  | counterForward (slice : Fin 4)
  | skewWindowEnd (slice : Fin 4)
  | skewMerge
  -- crossing queues
  /-- the word's bytes, its valid bytes, its poison bits and whether it ends its packet -/
  | queueWrite (queue : Nat) (word : List Byte) (vbytes : Nat) (psec : Nat) (last : Bool)
  | queueRead (queue : Nat)
  | queueDrop (queue : Nat)
  -- reset, power and test
  | por
  | engineReset
  | resetRelease (engine gsize : BitVec 8)
  /-- what failed: bits 0 to 3 the slices whose part of the step failed; bit 4 the keeper, at step 2; bits 8 to 15 the command
  ports and 16 to 21 the photonic attachments whose modules did not train, at step 3; bit 24 + l the ring direction l whose modules did
  not train, at step 5; at step 10 bit i is set if the hard repair of entry i failed -/
  | bootStepDone (result : Nat)
  /-- at step 4, bit 0: the spoke is still down; at step 5, bits 0 to 3: the ring directions into the slice from its lower and its upper
  neighbour, and out of it to its upper and its lower one, whose modules did not train -/
  | restartStepDone (slice : Fin 4) (result : Nat)
  | powerOff
  /-- code 0 IDCODE, 1 BYPASS, 2 SAMPLE, 3 a read of an IEEE 1687 or wrapper register; every other code is an instruction or
  write that the field lock turns into BYPASS -/
  | tapInstruction (code : Nat) (data : Nat)
  | h2dResponse (port : Fin 4) (who : Who) (line : Nat) (data : List Byte) (poisoned : Bool)
  | registerRead (port : Fin 4) (offset : Nat) (size : Nat)
deriving DecidableEq, Repr

end Sys2Proof
end

