-- ==== Sys2Proof/Config.lean ====
section
/-! DEFINITION. What a Lofahan fixes (Tables 1-6, 11-1, 17-5, 18-2) and the free values: constants with no body,
so that no proof can rest on what they are. -/

namespace Sys2Proof.Config

open Sys2Proof

/-! Free values: each has a log entry. -/

/-- The n-th free byte: the data bits of a poisoned element (R110), bytes a destination descriptor addresses twice
(R203), overlapping bytes of a STREAM (R205), a row the host wrote while its table was open (R169), and data of a
sector whose error escaped detection (R304). [DESIGN CHOICE, log 23, 24, 25, 27] -/
opaque freeByte : Nat → Byte

/-- The square root of a NaN or of a value below zero, for which R156 states no value. [DESIGN CHOICE, log 28] -/
opaque sqrtOpen : F32 → F32

/-- A quotient whose divisor is a NaN, an infinity or a zero, for which R156 states no value. [DESIGN CHOICE, log 28] -/
opaque quotOpen : F32 → F32 → F32

/-- Repair resources of a stack's bank groups beyond the 2 that R292 requires, by stack and bank group. [DESIGN CHOICE, log 29] -/
opaque repairSpare : Nat → Nat → Nat

/-- The IDCODE value that the licensee programs at integration (R415). [DESIGN CHOICE, log 31] -/
opaque idcode : Nat

/-- The n-th free number: counts of busy and idle cycles, values that the test chain observes, and the patterns of a
traffic generator's reads, for which no rule gives a value. [DESIGN CHOICE, log 31, 32, 33] -/
opaque freeNat : Nat → Nat

/-- Whether the image of a plan is in the keeper's plan cache, at a count of free values: no rule says which images it keeps (R40, R365).
[DESIGN CHOICE, log 93] -/
opaque planCached : Nat → Nat → Bool

/-- Whether the bias entry of a page is in a slice's cache, at a count of free values (R365). [DESIGN CHOICE, log 93] -/
opaque biasCached : Nat → Nat → Bool

/-! Fixed quantities of the Lofahan. -/

/-- Bytes of one stack, 48 GiB (R294). -/
abbrev stackBytes : Nat := 51539607552
/-- Bytes of device memory, 576 GiB (R294). -/
abbrev devBytes : Nat := 618475290624
/-- Contexts (R247). -/
abbrev contexts : Nat := 4096
/-- Submission queues and completion rings of the engine (Table 11-1). -/
abbrev queues : Nat := 16384
/-- Fences (R254). -/
abbrev fences : Nat := 262144
/-- Plan slots are 1 to this number (R40). -/
abbrev planSlots : Nat := 1023
/-- Request trackers of a slice (Table 1-2). -/
abbrev trackers : Nat := 65536
/-- Stream SRAM of a vat in bytes (R200). -/
abbrev streamSram : Nat := 524288
/-- Hot store of a slice in bytes (R175). -/
abbrev hotBytes : Nat := 67108864
/-- Rows a slice's hot set holds at most (R175). -/
abbrev hotRows : Nat := 524288
/-- Overrides of a table at most (Table 2-1). -/
abbrev overridesMax : Nat := 262144
/-- Entries of a slice's translation cache (Table 12-1). -/
abbrev atcEntries : Nat := 8192
/-- Device addresses of the pinned regions (Table 18-2). -/
abbrev biasBase : Nat := 0x17FFE00000
abbrev retireBase : Nat := 0x17FFF20000
abbrev capPtr : Nat := 0x17FFF30000
abbrev fenceBase : Nat := 0x17FEE00000
abbrev planBase : Nat := 0x2300000000
/-- Staging backing of PSn, at the top of stack S(3n) (Table 18-2). -/
abbrev stageBase (n : Nat) : Nat := 3 * n * stackBytes + 0xBF0000000

end Sys2Proof.Config
end

