-- ==== Sys2Proof/Machine/Tab.lean ====
section
/-! DEFINITION. Reading and writing things held by number (`Tab`), and small list helpers. -/

namespace Sys2Proof

/-- The entry of key `k`, if there is one. -/
def Tab.get? {α : Type} (t : Tab α) (k : Nat) : Option α :=
  match t with
  | [] => none
  | (j, a) :: r => if j = k then some a else Tab.get? r k

/-- The entry of key `k`, or `d`. -/
def Tab.getD {α : Type} (t : Tab α) (k : Nat) (d : α) : α := (Tab.get? t k).getD d

/-- Put `a` at key `k`; entries stay ascending by key. -/
def Tab.set {α : Type} (t : Tab α) (k : Nat) (a : α) : Tab α :=
  match t with
  | [] => [(k, a)]
  | (j, b) :: r => if j = k then (k, a) :: r else if k < j then (k, a) :: (j, b) :: r else (j, b) :: Tab.set r k a

/-- Drop the entry of key `k`. -/
def Tab.erase {α : Type} (t : Tab α) (k : Nat) : Tab α := t.filter (fun p => p.1 != k)

/-- Apply `f` to the entry of key `k`, if there is one. -/
def Tab.modify {α : Type} (t : Tab α) (k : Nat) (f : α → α) : Tab α :=
  match Tab.get? t k with
  | none => t
  | some a => Tab.set t k (f a)

/-- The first number from `i` on, within `fuel` tries, that satisfies `p`. -/
def firstFrom (p : Nat → Bool) (i : Nat) (fuel : Nat) : Option Nat :=
  match fuel with
  | 0 => none
  | f + 1 => if p i then some i else firstFrom p (i + 1) f

/-- The lowest number below `n` that no entry has, if there is one. -/
def Tab.lowestFree {α : Type} (t : Tab α) (n : Nat) : Option Nat := firstFrom (fun k => (Tab.get? t k).isNone) 0 n

/-- Bit `i` of `x`. -/
def bitAt (x i : Nat) : Bool := x / 2 ^ i % 2 == 1

/-- Bits [hi:lo] of `x`. -/
def bits (x hi lo : Nat) : Nat := x / 2 ^ lo % 2 ^ (hi + 1 - lo)

/-- `x` with bits [hi:lo] replaced by the low bits of `v`. -/
def putBits (x hi lo v : Nat) : Nat :=
  x - bits x hi lo * 2 ^ lo + v % 2 ^ (hi + 1 - lo) * 2 ^ lo

/-- Set or clear bit `i` of `x`. -/
def putBit (x i : Nat) (b : Bool) : Nat := putBits x i i (if b then 1 else 0)

/-- `a` saturated at `m`. -/
def satTo (m a : Nat) : Nat := if a ≤ m then a else m

/-- Ceiling division. -/
def cdiv (a b : Nat) : Nat := (a + b - 1) / b

/-- `a` rounded up to a multiple of `b`. -/
def roundUp (a b : Nat) : Nat := cdiv a b * b

/-- Least `l` at or above `i` with `n ≤ 2 ^ l`, within `fuel` tries. -/
def log2UpFrom (n i : Nat) (fuel : Nat) : Nat :=
  match fuel with
  | 0 => i
  | f + 1 => if n ≤ 2 ^ i then i else log2UpFrom n (i + 1) f

/-- The exponent of the least power of two at or above `n` (0 for `n` at most 1). -/
def log2Up (n : Nat) : Nat := log2UpFrom n 0 64

/-- Drop later repeats. -/
def nubNat (l : List Nat) : List Nat :=
  l.foldl (fun acc a => if acc.contains a then acc else acc ++ [a]) []

/-- Take `n` entries, filling with `d`. -/
def padTo {α : Type} (n : Nat) (d : α) (l : List α) : List α :=
  l.take n ++ List.replicate (n - l.length) d

/-- The list in chunks of `k` entries, `n` chunks at most. -/
def chunks {α : Type} (k : Nat) (l : List α) (n : Nat) : List (List α) :=
  match n with
  | 0 => []
  | m + 1 => if l.isEmpty then [] else l.take k :: chunks k (l.drop k) m

/-- Insert into a sorted list by a strict order, keeping the list sorted. -/
def insertBy {α : Type} (lt : α → α → Bool) (a : α) : List α → List α
  | [] => [a]
  | b :: r => if lt b a then b :: insertBy lt a r else a :: b :: r

/-- Sort by a strict order; entries that neither precedes keep their order. -/
def sortBy {α : Type} (lt : α → α → Bool) (l : List α) : List α :=
  l.foldr (insertBy lt) []

end Sys2Proof
end

