-- ==== Sys2Proof/Machine/Bytes.lean ====
section
/-! DEFINITION. Byte order (R7), the checks CRC-32 (Table 2-1) and CRC-32C (R318), and SipHash-2-4 (R25). -/

namespace Sys2Proof

/-- The number that a little-endian byte list spells (R7). -/
def leNat : List Byte → Nat
  | [] => 0
  | b :: r => b.toNat + 256 * leNat r

/-- `n` little-endian bytes of `x` (R7). -/
def natLE : Nat → Nat → List Byte
  | 0, _ => []
  | n + 1, x => BitVec.ofNat 8 x :: natLE n (x / 256)

/-- `n` bytes of `l` at offset `o`; bytes beyond the list are zero. -/
def slice (l : List Byte) (o n : Nat) : List Byte := padTo n 0 ((l.drop o).take n)

/-- The little-endian field of `n` bytes at offset `o`. -/
def field (l : List Byte) (o n : Nat) : Nat := leNat (slice l o n)

/-- One bit step of a reflected CRC. -/
def crcBit (poly c : Nat) : Nat := if c % 2 = 1 then (c / 2) ^^^ poly else c / 2

/-- One byte step of a reflected CRC. -/
def crcByte (poly c : Nat) (b : Byte) : Nat :=
  let c0 := c ^^^ b.toNat
  crcBit poly (crcBit poly (crcBit poly (crcBit poly (crcBit poly (crcBit poly (crcBit poly (crcBit poly c0)))))))

/-- A reflected 32-bit CRC, initial value and final exclusive OR 0xFFFF_FFFF. -/
def crcWith (poly : Nat) (l : List Byte) : Nat :=
  (l.foldl (crcByte poly) 0xFFFFFFFF) ^^^ 0xFFFFFFFF

/-- CRC-32 of IEEE 802.3 (Table 2-1). -/
def crc32 (l : List Byte) : Nat := crcWith 0xEDB88320 l

/-- CRC-32C, the Castagnoli polynomial (R318). -/
def crc32c (l : List Byte) : Nat := crcWith 0x82F63B78 l

/-- The four words of a SipHash state. -/
structure Sip where
  v0 : Word
  v1 : Word
  v2 : Word
  v3 : Word
deriving DecidableEq, Repr

/-- One SipRound. -/
def sipRound (s : Sip) : Sip :=
  let a0 := s.v0 + s.v1
  let a1 := s.v1.rotateLeft 13 ^^^ a0
  let a0r := a0.rotateLeft 32
  let a2 := s.v2 + s.v3
  let a3 := s.v3.rotateLeft 16 ^^^ a2
  let b0 := a0r + a3
  let b3 := a3.rotateLeft 21 ^^^ b0
  let b2 := a2 + a1
  let b1 := a1.rotateLeft 17 ^^^ b2
  { v0 := b0, v1 := b1, v2 := b2.rotateLeft 32, v3 := b3 }

/-- Take one 64-bit message word in. -/
def sipWord (s : Sip) (m : Word) : Sip :=
  let t := sipRound (sipRound { s with v3 := s.v3 ^^^ m })
  { t with v0 := t.v0 ^^^ m }

/-- SipHash-2-4 of a message whose length is 16 bytes, under a 16-byte key: the only lengths R25 and R61 use. -/
def siphash24 (key msg : List Byte) : Word :=
  let k0 := BitVec.ofNat 64 (field key 0 8)
  let k1 := BitVec.ofNat 64 (field key 8 8)
  let s0 : Sip := { v0 := k0 ^^^ 0x736f6d6570736575, v1 := k1 ^^^ 0x646f72616e646f6d,
                    v2 := k0 ^^^ 0x6c7967656e657261, v3 := k1 ^^^ 0x7465646279746573 }
  let s1 := sipWord s0 (BitVec.ofNat 64 (field msg 0 8))
  let s2 := sipWord s1 (BitVec.ofNat 64 (field msg 8 8))
  let s3 := sipWord s2 0x1000000000000000
  let s4 := sipRound (sipRound (sipRound (sipRound { s3 with v2 := s3.v2 ^^^ 0xff })))
  s4.v0 ^^^ s4.v1 ^^^ s4.v2 ^^^ s4.v3

/-- One bijection of [0, 2^m): four Feistel rounds keyed with `key` (R25). -/
def permRound (key : List Byte) (t m i : Nat) (p : Nat × Nat) : Nat × Nat :=
  let msg := natLE 1 i ++ natLE 2 t ++ List.replicate 5 0 ++ natLE 8 p.2
  let f := (siphash24 key msg).toNat % 2 ^ (m / 2)
  (p.2, p.1 ^^^ f)

/-- `perm` of R25. -/
def perm (key : List Byte) (t m x : Nat) : Nat :=
  let h := m / 2
  let p0 := (x / 2 ^ h, x % 2 ^ h)
  let p4 := permRound key t m 3 (permRound key t m 2 (permRound key t m 1 (permRound key t m 0 p0)))
  p4.1 * 2 ^ h + p4.2

/-- The inverse of one round. -/
def unpermRound (key : List Byte) (t m i : Nat) (p : Nat × Nat) : Nat × Nat :=
  let msg := natLE 1 i ++ natLE 2 t ++ List.replicate 5 0 ++ natLE 8 p.1
  let f := (siphash24 key msg).toNat % 2 ^ (m / 2)
  (p.2 ^^^ f, p.1)

/-- `perm_inverse` of R124. -/
def unperm (key : List Byte) (t m x : Nat) : Nat :=
  let h := m / 2
  let p0 := (x / 2 ^ h, x % 2 ^ h)
  let p4 := unpermRound key t m 0 (unpermRound key t m 1 (unpermRound key t m 2 (unpermRound key t m 3 p0)))
  p4.1 * 2 ^ h + p4.2

/-- Iterate `f` from `f x` until the value is below `n`; a cycle of [0, 2^m) ends within `fuel` = 2^m steps (R25). -/
def iterBelow (f : Nat → Nat) (n x : Nat) (fuel : Nat) : Nat :=
  match fuel with
  | 0 => x
  | k + 1 => if f x < n then f x else iterBelow f n (f x) k

/-- `walk` of R25. -/
def walk (key : List Byte) (t m n r : Nat) : Nat := iterBelow (perm key t m) n r (2 ^ m)

/-- `unwalk` of R124: the r with walk r = p. -/
def unwalk (key : List Byte) (t m n p : Nat) : Nat := iterBelow (unperm key t m) n p (2 ^ m)

end Sys2Proof
end

