-- ==== Sys2Proof/Machine/Float.lean ====
section
/-! DEFINITION. Number formats and FP32 arithmetic: exact values, the single roundings, conversions
(03_number_formats_and_rows.md, R46 to R64) and the two-operand rules of R108, R418 and R156. -/

namespace Sys2Proof

/-- The encoding parameters of a float format (Table 3-2). -/
structure FloatFmt where
  expBits : Nat
  fracBits : Nat
  bias : Nat
  /-- largest finite magnitude code -/
  maxCode : Nat
  /-- the magnitude code of infinity, when the format has one -/
  inf : Option Nat
deriving DecidableEq, Repr

/-- FP32 (Table 3-2). -/
abbrev fp32 : FloatFmt := { expBits := 8, fracBits := 23, bias := 127, maxCode := 0x7F7FFFFF, inf := some 0x7F800000 }
/-- BF16. -/
abbrev bf16 : FloatFmt := { expBits := 8, fracBits := 7, bias := 127, maxCode := 0x7F7F, inf := some 0x7F80 }
/-- FP16. -/
abbrev fp16 : FloatFmt := { expBits := 5, fracBits := 10, bias := 15, maxCode := 0x7BFF, inf := some 0x7C00 }
/-- FP8 E4M3: no infinity, NaN at 0x7F. -/
abbrev e4m3 : FloatFmt := { expBits := 4, fracBits := 3, bias := 7, maxCode := 0x7E, inf := none }
/-- FP8 E5M2. -/
abbrev e5m2 : FloatFmt := { expBits := 5, fracBits := 2, bias := 15, maxCode := 0x7B, inf := some 0x7C }
/-- FP6 E3M2. -/
abbrev e3m2 : FloatFmt := { expBits := 3, fracBits := 2, bias := 3, maxCode := 0x1F, inf := none }
/-- FP6 E2M3. -/
abbrev e2m3 : FloatFmt := { expBits := 2, fracBits := 3, bias := 1, maxCode := 0x1F, inf := none }
/-- FP4 E2M1. -/
abbrev e2m1 : FloatFmt := { expBits := 2, fracBits := 1, bias := 1, maxCode := 0x7, inf := none }

/-- Width of a float element in bits. -/
def FloatFmt.width (f : FloatFmt) : Nat := 1 + f.expBits + f.fracBits

/-- What a format code names (Table 3-1). -/
inductive Kind where
  | float (f : FloatFmt)
  /-- two's complement of `w` bits -/
  | signed (w : Nat)
  /-- unsigned of `w` bits -/
  | unsigned (w : Nat)
  /-- affine row, unsigned codes of `w` bits -/
  | affine (w : Nat)
  /-- INT32 words, not a row format -/
  | int32
  | reserved
deriving DecidableEq, Repr

/-- Table 3-1. -/
def kindOf (code : Nat) : Kind :=
  match code with
  | 0x0 => .float fp32
  | 0x1 => .float bf16
  | 0x2 => .float fp16
  | 0x3 => .float e4m3
  | 0x4 => .float e5m2
  | 0x5 => .float e3m2
  | 0x6 => .float e2m3
  | 0x7 => .float e2m1
  | 0x8 => .signed 8
  | 0x9 => .unsigned 8
  | 0xA => .signed 4
  | 0xB => .unsigned 4
  | 0xC => .affine 8
  | 0xD => .affine 4
  | 0xE => .int32
  | _ => .reserved

/-- Element bits of a format code (Table 3-1); an affine element counts its code only. -/
def elemBits (code : Nat) : Nat :=
  match kindOf code with
  | .float f => f.width
  | .signed w => w
  | .unsigned w => w
  | .affine w => w
  | .int32 => 32
  | .reserved => 0

/-- Whether rows of this format carry a rind (R53). -/
def isAffine (code : Nat) : Bool := code == 0xC || code == 0xD

/-- 2^e for an integer e, exactly. -/
def pow2 (e : Int) : Rat := if 0 ≤ e then ((2 ^ e.toNat : Nat) : Rat) else 1 / ((2 ^ (-e).toNat : Nat) : Rat)

/-- The exact magnitude a finite magnitude code has (R47). -/
def FloatFmt.mag (f : FloatFmt) (c : Nat) : Rat :=
  let e := c / 2 ^ f.fracBits
  let m := c % 2 ^ f.fracBits
  if e = 0 then (m : Rat) * pow2 (1 - (f.bias : Int) - (f.fracBits : Int))
  else ((2 ^ f.fracBits + m : Nat) : Rat) * pow2 ((e : Int) - (f.bias : Int) - (f.fracBits : Int))

/-! FP32 values by their bits. -/

/-- Sign bit of an FP32. -/
def F32.neg (x : F32) : Bool := x.toNat / 0x80000000 == 1
/-- Magnitude code of an FP32. -/
def F32.code (x : F32) : Nat := x.toNat % 0x80000000
/-- e = 255 and f ≠ 0. -/
def F32.isNaN (x : F32) : Bool := decide (0x7F800000 < F32.code x)
/-- e = 255 and f = 0. -/
def F32.isInf (x : F32) : Bool := F32.code x == 0x7F800000
/-- Neither a NaN nor an infinity. -/
def F32.finite (x : F32) : Bool := decide (F32.code x < 0x7F800000)
/-- +0 or −0. -/
def F32.isZero (x : F32) : Bool := F32.code x == 0
/-- A NaN with the most significant fraction bit set; sign and payload kept (R108). -/
def F32.quiet (x : F32) : F32 := x ||| 0x00400000
/-- The default NaN (R99). -/
abbrev F32.nan : F32 := 0x7FC00000
/-- −∞. -/
abbrev F32.negInf : F32 := 0xFF800000
/-- 1.0. -/
abbrev F32.one : F32 := 0x3F800000
/-- The exact value of a finite FP32 (R47). -/
def F32.val (x : F32) : Rat := if F32.neg x then -(fp32.mag (F32.code x)) else fp32.mag (F32.code x)
/-- An infinity or zero of a sign, or any magnitude code. -/
def F32.mk (neg : Bool) (c : Nat) : F32 := BitVec.ofNat 32 (c + if neg then 0x80000000 else 0)

/-! Rounding of exact values. -/

/-- How an inexact magnitude is rounded. -/
inductive Round where
  /-- to nearest, ties to even -/
  | nearest
  /-- toward zero in magnitude -/
  | down
  /-- away from zero in magnitude -/
  | up
  /-- stochastic, with its 24-bit draw (R62) -/
  | draw (h24 : Nat)
deriving DecidableEq, Repr

/-- Round n/d to an integer, n and d natural, d positive (R59, R62). -/
def roundQuot (m : Round) (n d : Nat) : Nat :=
  let k := n / d
  let r := n % d
  match m with
  | .nearest => if d < 2 * r ∨ (2 * r = d ∧ k % 2 = 1) then k + 1 else k
  | .down => k
  | .up => if r = 0 then k else k + 1
  | .draw h => if h * d < r * 2 ^ 24 then k + 1 else k

/-- ⌊log2 (n/d)⌋ for positive n and d. -/
def log2Quot (n d : Nat) : Int :=
  let l : Int := (n.log2 : Int) - (d.log2 : Int)
  if 0 ≤ l then (if n < d * 2 ^ l.toNat then l - 1 else l)
  else (if n * 2 ^ (-l).toNat < d then l - 1 else l)

/-- The magnitude code that a non-negative exact value rounds to, with the exponent range unbounded above: the
code may lie above `maxCode` (R59's first step). -/
def FloatFmt.roundMag (f : FloatFmt) (m : Round) (x : Rat) : Nat :=
  let n := x.num.natAbs
  let d := x.den
  if n = 0 then 0
  else
    let eMin : Int := 1 - (f.bias : Int)
    let e := max (log2Quot n d) eMin
    let q : Int := e - (f.fracBits : Int)
    let k := if 0 ≤ q then roundQuot m n (d * 2 ^ q.toNat) else roundQuot m (n * 2 ^ (-q).toNat) d
    (e - eMin).toNat * 2 ^ f.fracBits + k

/-- `round_fp32` of an exact value (R11): to nearest even; an overflow gives an infinity; an exact zero is +0. -/
def roundFp32 (x : Rat) : F32 :=
  let c := fp32.roundMag .nearest (if x < 0 then -x else x)
  F32.mk (decide (x < 0)) (if 0x7F800000 ≤ c then 0x7F800000 else c)

/-! The Press event counts (R109), carried beside the values that cause them. -/

/-- nan_in, inf_in, invalid and overflow (R109). -/
structure Ev where
  nanIn : Nat := 0
  infIn : Nat := 0
  invalid : Nat := 0
  overflow : Nat := 0
deriving DecidableEq, Repr

/-- Events of two parts together. -/
def Ev.add (a b : Ev) : Ev :=
  { nanIn := a.nanIn + b.nanIn, infIn := a.infIn + b.infIn, invalid := a.invalid + b.invalid, overflow := a.overflow + b.overflow }

/-- Events of a list of parts. -/
def Ev.sum (l : List Ev) : Ev := l.foldl Ev.add {}

/-- A rounded finite result and its overflow event. -/
def ovf (r : F32) : F32 × Ev := (r, { overflow := if F32.isInf r then 1 else 0 })

/-- `add(a, b)` (Table 5-2). -/
def fadd (a b : F32) : F32 × Ev :=
  if F32.isNaN a then (F32.quiet a, {})
  else if F32.isNaN b then (F32.quiet b, {})
  else if F32.isInf a && F32.isInf b && (F32.neg a != F32.neg b) then (F32.nan, { invalid := 1 })
  else if F32.isInf a then (a, {})
  else if F32.isInf b then (b, {})
  else
    let x := F32.val a + F32.val b
    if x = 0 then (if F32.neg a && F32.isZero a && F32.neg b && F32.isZero b then a else 0, {})
    else ovf (roundFp32 x)

/-- The negation of an FP32: its sign bit flipped. -/
def fneg (a : F32) : F32 := a ^^^ 0x80000000

/-- A difference by Table 5-2, the left operand first (R156); a NaN right operand keeps its sign. -/
def fsub (a b : F32) : F32 × Ev := if F32.isNaN b then fadd a b else fadd a (fneg b)

/-- `mul(a, b)` (Table 5-8). -/
def fmul (a b : F32) : F32 × Ev :=
  let sg := F32.neg a != F32.neg b
  if F32.isNaN a then (F32.quiet a, {})
  else if F32.isNaN b then (F32.quiet b, {})
  else if (F32.isInf a && F32.isZero b) || (F32.isZero a && F32.isInf b) then (F32.nan, { invalid := 1 })
  else if F32.isInf a || F32.isInf b then (F32.mk sg 0x7F800000, {})
  else
    let x := F32.val a * F32.val b
    if x = 0 then (F32.mk sg 0, {})
    else
      let r := ovf (roundFp32 x)
      (if F32.isZero r.1 then F32.mk sg 0 else r.1, r.2)

/-- A quotient rounded once. A NaN or an infinity as dividend carries through, and a zero keeps its sign, as R79 says
of the mean; a divisor that is a NaN, an infinity or a zero has no stated value. [DESIGN CHOICE, log 28] -/
def fdiv (a b : F32) : F32 :=
  if !(F32.finite b) || F32.isZero b then Config.quotOpen a b
  else if F32.isNaN a then F32.quiet a
  else if F32.isInf a then F32.mk (F32.neg a != F32.neg b) 0x7F800000
  else if F32.isZero a then F32.mk (F32.neg a != F32.neg b) 0
  else
    let r := roundFp32 (F32.val a / F32.val b)
    if F32.isZero r then F32.mk (F32.neg a != F32.neg b) 0 else r

/-- A quotient by a positive integer (R79, `sq ÷ D` of R156). -/
def fdivNat (a : F32) (n : Nat) : F32 :=
  if F32.isNaN a || F32.isInf a || F32.isZero a then a
  else
    let r := roundFp32 (F32.val a / (n : Rat))
    if F32.isZero r then F32.mk (F32.neg a) 0 else r

/-- Integer square root of `n`, bit by bit from `2 ^ i`. -/
def isqrtFrom (n r : Nat) (i : Nat) : Nat :=
  match i with
  | 0 => if (r + 1) * (r + 1) ≤ n then r + 1 else r
  | j + 1 => if (r + 2 ^ (j + 1)) * (r + 2 ^ (j + 1)) ≤ n then isqrtFrom n (r + 2 ^ (j + 1)) j else isqrtFrom n r j

/-- The greatest natural whose square is at most `n`. -/
def isqrt (n : Nat) : Nat := isqrtFrom n 0 (n.log2 / 2 + 1)

/-- `sqrt_fp32`: correctly rounded (R156). The root is formed with 64 more bits than FP32 holds and half a unit for
the rest, so one rounding gives the correct one. [DESIGN CHOICE, log 28] -/
def fsqrt (a : F32) : F32 :=
  if F32.isNaN a || (F32.neg a && !F32.isZero a) then Config.sqrtOpen a
  else if F32.isInf a || F32.isZero a then a
  else
    let x := fp32.mag (F32.code a)
    let n := x.num.natAbs * 2 ^ 512 / x.den
    let r := isqrt n
    roundFp32 (((2 * r + if r * r = n then 0 else 1 : Nat) : Rat) / ((2 ^ 257 : Nat) : Rat))

/-! `exp_fp32` (R130): e^d rounded correctly. e^(x ÷ 256) is enclosed by its series in integers scaled by 2^400, squared
eight times and inverted; both ends of the enclosure then round alike. -/

/-- Scale of the enclosure. -/
abbrev expScale : Nat := 2 ^ 400

/-- Sums of `k` further series terms, rounded down and up: (term down, term up, sum down, sum up), at index `i`. -/
def expSeries (n d i : Nat) (t : Nat × Nat) (s : Nat × Nat) (k : Nat) : Nat × Nat :=
  match k with
  | 0 => (s.1, s.2 + 2 * t.2 + 2)
  | j + 1 =>
    let u := (t.1 * n / (d * i), t.2 * n / (d * i) + 1)
    expSeries n d (i + 1) u (s.1 + u.1, s.2 + u.2) j

/-- Square an enclosure `k` times. -/
def expSquare (s : Nat × Nat) (k : Nat) : Nat × Nat :=
  match k with
  | 0 => s
  | j + 1 => expSquare (s.1 * s.1 / expScale, s.2 * s.2 / expScale + 1) j

/-- An enclosure of e^(−x) for 0 ≤ x ≤ 104. -/
def expNegEnclosure (x : Rat) : Rat × Rat :=
  let y := x / 256
  let e := expSquare (expSeries y.num.natAbs y.den 1 (expScale, expScale) (expScale, expScale) 70) 8
  ((expScale : Rat) / (e.2 : Rat), (expScale : Rat) / (e.1 : Rat))

/-- `exp_fp32(d)` for d that is a zero, negative or −∞, as `stat` uses it (R130). -/
def exp32 (d : F32) : F32 :=
  if F32.isZero d then F32.one
  else if F32.isInf d then 0
  else
    let x := fp32.mag (F32.code d)
    if 104 < x then 0 else roundFp32 (expNegEnclosure x).1

/-! Conversions. -/

/-- Counts of R60: saturations, NaN replacements, non-finite affine rows. -/
structure Conv where
  sat : Nat := 0
  nan : Nat := 0
  rows : Nat := 0
deriving DecidableEq, Repr

/-- Counts of two parts together. -/
def Conv.add (a b : Conv) : Conv := { sat := a.sat + b.sat, nan := a.nan + b.nan, rows := a.rows + b.rows }

/-- Counts of a list of parts. -/
def Conv.sum (l : List Conv) : Conv := l.foldl Conv.add {}

/-- `widen` of a float element code (R58). -/
def widenFloat (f : FloatFmt) (c : Nat) : F32 :=
  let sgn := decide (2 ^ (f.width - 1) ≤ c)
  let m := c % 2 ^ (f.width - 1)
  if f = fp32 then (if 0x7F800000 < m then F32.quiet (BitVec.ofNat 32 c) else BitVec.ofNat 32 c)
  else if f = e4m3 ∧ m = 0x7F then F32.mk sgn 0x7FC00000
  else match f.inf with
    | some i =>
      if m = i then F32.mk sgn 0x7F800000
      else if i < m then F32.quiet (F32.mk sgn (0x7F800000 + (m - i) * 2 ^ (23 - f.fracBits)))
      else F32.mk sgn (F32.code (roundFp32 (f.mag m)))
    | none => F32.mk sgn (F32.code (roundFp32 (f.mag m)))

/-- `widen` of an element code of formats 0x0 to 0xB (R58). FP32 elements are their own value: a NaN passes as it is. -/
def widen (code c : Nat) : F32 :=
  match kindOf code with
  | .float f => if code = 0 then BitVec.ofNat 32 c else widenFloat f c
  | .signed w => roundFp32 (if 2 ^ (w - 1) ≤ c then ((c : Int) - (2 ^ w : Nat) : Int) else (c : Int) : Rat)
  | .unsigned _ => roundFp32 (c : Rat)
  | _ => roundFp32 (c : Rat)

/-- Narrow a finite FP32 to a float format: round, then saturate (R59, R62). -/
def narrowFloat (f : FloatFmt) (m : Round) (x : F32) : Nat × Conv :=
  let sgn := if F32.neg x then 2 ^ (f.width - 1) else 0
  let v := fp32.mag (F32.code x)
  match m with
  | .draw _ =>
    -- above the largest finite value there is no neighbour away from zero (R62)
    if f.mag f.maxCode ≤ v then (sgn + f.maxCode, {}) else (sgn + f.roundMag m v, {})
  | _ =>
    let c := f.roundMag m v
    if f.maxCode < c then (sgn + f.maxCode, { sat := 1 }) else (sgn + c, {})

/-- Round a finite exact value to an integer and clamp it to [lo, hi], counting one saturation when it lay outside. -/
def roundClamp (m : Round) (x : Rat) (lo hi : Int) : Int × Conv :=
  let k := roundQuot m x.num.natAbs x.den
  let i : Int := if x < 0 then -(k : Int) else (k : Int)
  if i < lo then (lo, { sat := 1 }) else if hi < i then (hi, { sat := 1 }) else (i, {})

/-- Narrow an FP32 to one element of formats 0x0 to 0xB: finite values by R59 and R62, the others by Table 3-6. -/
def narrow (code : Nat) (m : Round) (x : F32) : Nat × Conv :=
  match kindOf code with
  | .float f =>
    if code = 0 then (x.toNat, {})
    else
      let sgn := if F32.neg x then 2 ^ (f.width - 1) else 0
      if F32.isNaN x then
        match f.inf with
        | some i => (sgn + i + ((F32.code x - 0x7F800000) / 2 ^ (23 - f.fracBits) ||| 2 ^ (f.fracBits - 1)), {})
        | none => if f = e4m3 then (sgn + 0x7F, {}) else (0, { nan := 1 })
      else if F32.isInf x then
        match f.inf with
        | some i => (sgn + i, {})
        | none => (sgn + f.maxCode, { sat := 1 })
      else narrowFloat f m x
  | .signed w =>
    if F32.isNaN x then (0, { nan := 1 })
    else if F32.isInf x then (if F32.neg x then 2 ^ (w - 1) else 2 ^ (w - 1) - 1, { sat := 1 })
    else
      let r := roundClamp m (F32.val x) (-(2 ^ (w - 1) : Nat)) ((2 ^ (w - 1) : Nat) - 1)
      ((r.1 % (2 ^ w : Nat)).toNat, r.2)
  | .unsigned w =>
    if F32.isNaN x then (0, { nan := 1 })
    else if F32.isInf x then (if F32.neg x then 0 else 2 ^ w - 1, { sat := 1 })
    else
      let r := roundClamp m (F32.val x) 0 ((2 ^ w : Nat) - 1)
      (r.1.toNat, r.2)
  | _ => (0, {})

/-- Round an exact value to FP16 toward −∞ (`towardNeg`) or +∞, to the largest finite value in place of an infinity,
counting that (R63). The exact zero is +0. -/
def fp16Directed (towardNeg : Bool) (x : Rat) : Nat × Conv :=
  let neg := decide (x < 0)
  let m : Round := if neg == towardNeg then .up else .down
  let c := fp16.roundMag m (if x < 0 then -x else x)
  let s := if neg then 0x8000 else 0
  if 0x7BFF < c then (s + 0x7BFF, { sat := if m = .up then 1 else 0 }) else (s + c, {})

/-- The exact value of a finite FP16. -/
def fp16Val (c : Nat) : Rat := if 0x8000 ≤ c then -(fp16.mag (c % 0x8000)) else fp16.mag (c % 0x8000)

end Sys2Proof
end

