-- ==== Sys2Proof/Machine/Row.lean ====
section
/-! DEFINITION. Rows: sizes and packing (R50 to R53), decoding with poison (R54 to R57), the terms a row gives (R77),
encoding of rows (R59 to R64, R159) and the stochastic draw (R61). -/

namespace Sys2Proof

/-- A byte as it arrives from memory or leaves for it: its data and why it is poisoned (0 = it is not; 1 to 4 are the
causes of Table 11-8; 5 = it leaves with the marking, its data as stated). -/
structure PB where
  b : Byte
  p : Nat := 0
deriving DecidableEq, Repr

/-- The marking of a byte whose data a rule states (R90). -/
abbrev markedData : Nat := 5

/-- Unpoisoned bytes. -/
def cleanBytes (l : List Byte) : List PB := l.map (fun b => { b := b })

/-- The data of a byte list. -/
def dataOf (l : List PB) : List Byte := l.map PB.b

/-- The cause of the first poisoned byte, 0 if there is none. -/
def firstCause (l : List PB) : Nat := ((l.find? (fun x => x.p != 0)).map PB.p).getD 0

/-- Whether any byte is poisoned. -/
def anyPoison (l : List PB) : Bool := l.any (fun x => x.p != 0)

/-- `n` bytes at offset `o`, zero beyond the end. -/
def sliceP (l : List PB) (o n : Nat) : List PB := padTo n { b := 0 } ((l.drop o).take n)

/-- Rind bytes of a format (R53). -/
def rindBytes (fmt : Nat) : Nat := if isAffine fmt then 4 else 0

/-- Content bytes of a row (R51). -/
def contentBytes (fmt d : Nat) : Nat := rindBytes fmt + cdiv (d * elemBits fmt) 8

/-- Stored bytes of a row (R51). -/
def storedBytes (fmt d : Nat) : Nat := roundUp (contentBytes fmt d) 32

/-- Largest code of an affine format. -/
def codeMax (fmt : Nat) : Nat := 2 ^ elemBits fmt - 1

/-- The bytes that element `e` has a bit in (R50). -/
def elemBytes {α : Type} (fmt e : Nat) (l : List α) : List α :=
  let o := e * elemBits fmt
  (l.drop (rindBytes fmt + o / 8)).take ((o % 8 + elemBits fmt + 7) / 8)

/-- The code of element `e` of a row's bytes (R50). -/
def elemCode (fmt e : Nat) (l : List Byte) : Nat :=
  leNat (elemBytes fmt e l) / 2 ^ (e * elemBits fmt % 8) % 2 ^ elemBits fmt

/-- Pack element codes, then zero bytes up to the stored size (R50, R52). -/
def packRow (fmt d : Nat) (rind : List Byte) (codes : List Nat) : List Byte :=
  let w := elemBits fmt
  let n := codes.foldr (fun c acc => c % 2 ^ w + 2 ^ w * acc) 0
  padTo (storedBytes fmt d) 0 (rind ++ natLE (cdiv (d * w) 8) n)

/-- `scale × code`, exact, with the special scales of R55: the product and its Press event (R418). -/
def scaleTerm (scale code : Nat) : F32 × Ev :=
  let s := widenFloat fp16 scale
  if F32.isNaN s then (s, {})
  else if F32.isInf s then (if code = 0 then (F32.nan, { invalid := 1 }) else (s, {}))
  else if code = 0 ∨ F32.isZero s then (F32.mk (F32.neg s) 0, {})
  else (roundFp32 (F32.val s * (code : Rat)), {})

/-- The offset term of a rind (R77). -/
def offsetTerm (off : Nat) : F32 := widenFloat fp16 off

/-- Scale and offset codes of a rind. -/
def rindOf (l : List Byte) : Nat × Nat := (field l 0 2, field l 2 2)

/-- Element `e` decoded on its own: R54 for affine rows, `widen` for others. -/
def decodeElem (fmt : Nat) (l : List Byte) (e : Nat) : F32 :=
  if isAffine fmt then
    (fadd (scaleTerm (rindOf l).1 (elemCode fmt e l)).1 (offsetTerm (rindOf l).2)).1
  else widen fmt (elemCode fmt e l)

/-- Whether the rind of an affine row is poisoned (R57). -/
def rindPoisoned (fmt : Nat) (l : List PB) : Bool := isAffine fmt && anyPoison (l.take 4)

/-- Whether element `e` is poisoned (R57). -/
def elemPoisoned (fmt : Nat) (l : List PB) (e : Nat) : Bool := rindPoisoned fmt l || anyPoison (elemBytes fmt e l)

/-- One FP32 element and whether it is poisoned. -/
structure PF where
  v : F32
  p : Bool := false
deriving DecidableEq, Repr

/-- A row decoded element by element (R54, R57, R58). -/
def decodeRow (fmt d : Nat) (l : List PB) : List PF :=
  (List.range d).map (fun e => { v := decodeElem fmt (dataOf l) e, p := elemPoisoned fmt l e })

/-- Elements of FP32, BF16 or FP16 in memory, widened (R58). -/
def widenList (fmt d : Nat) (l : List PB) : List PF := decodeRow fmt d l

/-- The unweighted element term of a row (R77) and its event. -/
def elemTerm (fmt : Nat) (l : List Byte) (e : Nat) : F32 × Ev :=
  if isAffine fmt then scaleTerm (rindOf l).1 (elemCode fmt e l) else (widen fmt (elemCode fmt e l), {})

/-- Whether PASS or SCALE terms of this format are of the exact class (R95). -/
def exactClass (fmt : Nat) : Bool := decide (3 ≤ fmt ∧ fmt ≤ 13)

/-- The stochastic draw of an element (R61). -/
def draw24 (seed step : Word) (table row e : Nat) : Nat :=
  let key := natLE 8 seed.toNat ++ natLE 8 step.toNat
  let msg := natLE 5 row ++ natLE 2 (table % 4096) ++ [0] ++ natLE 2 e ++ List.replicate 6 0
  (siphash24 key msg).toNat % 2 ^ 24

/-- Rounding of element `e`: nearest, or by its draw (R159). -/
def roundingOf (sr : Option (Word × Word)) (table row e : Nat) : Round :=
  match sr with
  | none => .nearest
  | some (seed, step) => .draw (draw24 seed step table row e)

/-- The smaller or larger of two exact values. -/
def ratMin (a b : Rat) : Rat := if b < a then b else a
def ratMax (a b : Rat) : Rat := if a < b then b else a

/-- `encode_affine` of R63, and the row of R64 when an input is not finite. -/
def encodeAffine (fmt d : Nat) (rnd : Nat → Round) (x : List F32) : List Byte × Conv :=
  if x.any (fun v => !F32.finite v) then
    (packRow fmt d (natLE 2 0x7E00 ++ natLE 2 0) [], { rows := 1 })
  else
    let vals := x.map F32.val
    let lo := vals.tail.foldl ratMin (vals.headD 0)
    let hi := vals.tail.foldl ratMax (vals.headD 0)
    let off := fp16Directed true lo
    let span := hi - fp16Val off.1
    if span = 0 then (packRow fmt d (natLE 2 0 ++ natLE 2 off.1) [], off.2)
    else
      let sc := fp16Directed false (span / (codeMax fmt : Rat))
      let cs := (List.range d).map (fun e =>
        roundClamp (rnd e) ((vals.getD e 0 - fp16Val off.1) / fp16Val sc.1) 0 (codeMax fmt))
      (packRow fmt d (natLE 2 sc.1 ++ natLE 2 off.1) (cs.map (fun c => c.1.toNat)),
       Conv.add (Conv.add off.2 sc.2) (Conv.sum (cs.map Prod.snd)))

/-- A row written from FP32 values in its format (R159), with zero pad (R52), and the conversion counts (R60). -/
def encodeRow (fmt d : Nat) (rnd : Nat → Round) (x : List F32) : List Byte × Conv :=
  if isAffine fmt then encodeAffine fmt d rnd x
  else
    let cs := (List.range d).map (fun e => narrow fmt (rnd e) (x.getD e 0))
    (packRow fmt d [] (cs.map Prod.fst), Conv.sum (cs.map Prod.snd))

/-- An output element in FP32, BF16 or FP16 (R89): its bytes and counts. -/
def outElem (fmt : Nat) (x : F32) : List Byte × Conv :=
  let c := narrow fmt .nearest x
  (natLE (elemBits fmt / 8) c.1, c.2)

/-- An index word (Table 3-7). -/
structure IndexWord where
  valid : Bool
  reserved : Nat
  table : Nat
  row : Nat
deriving DecidableEq, Repr

/-- The fields of an index word (R65). -/
def indexWord (w : Nat) : IndexWord :=
  { valid := bitAt w 63, reserved := bits w 62 52, table := bits w 51 40, row := bits w 39 0 }

end Sys2Proof
end

