-- ==== Sys2Proof/Machine/Press.lean ====
section
/-! DEFINITION. The Press (05_press_reduction.md): groups, blocks, the canonical tree, splits, compensated mode. A void
is `none`; events are carried beside the value (R109). -/

namespace Sys2Proof

/-- A value in the Press: sum and error, the error +0 in plain mode (R105). -/
structure PV where
  s : F32
  e : F32 := 0
deriving DecidableEq, Repr

/-- A value or a void, with the events that led to it. -/
structure PR where
  v : Option PV := none
  ev : Ev := {}
deriving DecidableEq, Repr

/-- What a reduction descriptor says of the arithmetic (R32, R104). -/
structure Shape where
  /-- terms per group: 4, 8 or 16 -/
  g : Nat
  comp : Bool
  free : Bool := false
  parts : Nat := 1
  bounds : List Nat := []
deriving DecidableEq, Repr

/-- `cnode` of R106 on two values. -/
def cnode (p q : PV) : PV × Ev :=
  let s := fadd p.s q.s
  if !F32.finite s.1 then ({ s := s.1 }, s.2)
  else
    let t := F32.val p.s + F32.val q.s - F32.val s.1
    ({ s := s.1, e := roundFp32 (F32.val p.e + F32.val q.e + t) }, s.2)

/-- Two values combined, plain or compensated. -/
def joinPV (comp : Bool) (p q : PV) : PV × Ev :=
  if comp then cnode p q else let r := fadd p.s q.s; ({ s := r.1 }, r.2)

/-- `node` (R97). -/
def node (comp : Bool) (a b : PR) : PR :=
  match a.v, b.v with
  | none, _ => { v := b.v, ev := Ev.add a.ev b.ev }
  | _, none => { v := a.v, ev := Ev.add a.ev b.ev }
  | some p, some q =>
    let r := joinPV comp p q
    { v := some r.1, ev := Ev.add (Ev.add a.ev b.ev) r.2 }

/-- One level of a balanced tree: neighbouring pairs in order. -/
def pairLevel (comp : Bool) : List PR → List PR
  | a :: b :: r => node comp a b :: pairLevel comp r
  | l => l

/-- A balanced tree of `k` levels over 2^k leaves. -/
def tree (comp : Bool) (l : List PR) (k : Nat) : PR :=
  match k with
  | 0 => l.headD {}
  | j + 1 => tree comp (pairLevel comp l) j

/-- A NaN term counts nan_in, an infinite one inf_in (R99, R108). -/
def termEv (t : F32) : Ev := { nanIn := if F32.isNaN t then 1 else 0, infIn := if F32.isInf t then 1 else 0 }

/-- Events of the live terms of a group. -/
def groupEv (g : List (Option F32)) : Ev := Ev.sum (g.filterMap (fun t => t.map termEv))

/-- `group_rounded` (R98). -/
def groupRounded (comp : Bool) (g : List (Option F32)) : PR :=
  tree comp (g.map (fun t => { v := t.map (fun x => { s := x }), ev := Ev.sum ((t.map termEv).toList) })) (log2Up g.length)

/-- `group_exact` (R99) and its error in compensated mode (R105). -/
def groupExact (comp : Bool) (g : List (Option F32)) : PR :=
  let live := g.filterMap id
  let ev := groupEv g
  if live.isEmpty then {}
  else
    match live.find? F32.isNaN with
    | some t => { v := some { s := F32.quiet t }, ev := ev }
    | none =>
      let infs := live.filter F32.isInf
      if infs.any F32.neg && infs.any (fun t => !F32.neg t) then
        { v := some { s := F32.nan }, ev := Ev.add ev { invalid := 1 } }
      else match infs with
        | t :: _ => { v := some { s := t }, ev := ev }
        | [] =>
          let x := (live.map F32.val).foldl (· + ·) 0
          if x = 0 then
            { v := some { s := if live.all (fun t => t == 0x80000000) then 0x80000000 else 0 }, ev := ev }
          else
            let h := roundFp32 x
            { v := some { s := h, e := if comp then roundFp32 (x - F32.val h) else 0 }, ev := ev }

/-- A group by its class. -/
def groupSum (exact comp : Bool) (g : List (Option F32)) : PR :=
  if exact then groupExact comp g else groupRounded comp g

/-- `block_sum` over at most 256 terms (R100); void groups at the end change nothing (R97). -/
def blockSum (exact : Bool) (sh : Shape) (b : List (Option F32)) : PR :=
  (chunks sh.g b 256).foldl (fun r g => node sh.comp r (groupSum exact sh.comp (padTo sh.g none g))) {}

/-- The canonical tree, its root possibly void (R101). -/
def canonicalTree (exact : Bool) (sh : Shape) (t : List (Option F32)) : PR :=
  let bs := (chunks 256 t t.length).map (blockSum exact sh)
  let k := log2Up bs.length
  tree sh.comp (padTo (2 ^ k) {} bs) k

/-- A void root is +0 (R101). -/
def voidZero (r : PR) : PR := { r with v := some (r.v.getD { s := 0 }) }

/-- `canonical(t)` (R101). -/
def canonical (exact : Bool) (sh : Shape) (t : List (Option F32)) : PR := voidZero (canonicalTree exact sh t)

/-- Blocks `lo` to `hi` - 1 of a term list. -/
def blocksOf {α : Type} (t : List α) (lo hi : Nat) : List α := (t.drop (256 * lo)).take (256 * (hi - lo))

/-- The part values of a free split (R103): starts, ends at `b` blocks. -/
def freeParts (exact : Bool) (sh : Shape) (t : List (Option F32)) (b : Nat) : List Nat → List PR
  | [] => []
  | [lo] => [if b ≤ lo then {} else canonical exact sh (blocksOf t lo b)]
  | lo :: hi :: r => (if b ≤ lo then {} else canonical exact sh (blocksOf t lo (min hi b))) :: freeParts exact sh t b (hi :: r)

/-- A reduction's value under its descriptor. A canonical split gives the bits of the unsplit tree (R102); a free split
combines its parts by a left chain (R103). -/
def reduction (exact : Bool) (sh : Shape) (t : List (Option F32)) : PR :=
  if sh.free && decide (1 < sh.parts) then
    let b := cdiv t.length 256
    voidZero ((freeParts exact sh t b (0 :: sh.bounds.take (sh.parts - 1))).foldl (node sh.comp) {})
  else canonical exact sh t

/-- `fin(s, e)` (R107). -/
def fin (p : PV) : F32 × Ev :=
  if F32.isZero p.e || !F32.finite p.s then (p.s, {})
  else ovf (roundFp32 (F32.val p.s + F32.val p.e))

/-- The finished value of a reduction. -/
def finish (sh : Shape) (r : PR) : F32 × Ev :=
  let p := r.v.getD { s := 0 }
  let f := if sh.comp then fin p else (p.s, {})
  (f.1, Ev.add r.ev f.2)

/-- The pooled sum of an affine bag (R78, R107): P first, then O. -/
def pooledSum (comp : Bool) (p o : PV) : F32 × Ev :=
  if !comp || !F32.finite p.s || !F32.finite o.s || (F32.isZero p.e && F32.isZero o.e) then fadd p.s o.s
  else ovf (roundFp32 (F32.val p.s + F32.val p.e + F32.val o.s + F32.val o.e))

/-- Terms with poison: a poisoned term is void in the arithmetic (R110). -/
def termsOf (l : List PF) : List (Option F32) := l.map (fun t => if t.p then none else some t.v)

/-- Whether a term is poisoned (R110). -/
def poisonedTerms (l : List PF) : Bool := l.any PF.p

end Sys2Proof
end

