-- ==== Sys2Proof/Machine/State.lean ====
section
/-! DEFINITION. The state of a Lofahan as plain data, and the state right after reset. INVENTORY.md lists every field
with the rule that names it and its reset value. -/

namespace Sys2Proof.Machine

open Sys2Proof

/-- Why the machine stops with a fault. [DESIGN CHOICE, log 78] -/
inductive Fault where
  /-- A host read or write of device memory at or above 576 GiB, an address no rule gives the engine (R294). Raised by
  MEM_READ and MEM_WRITE only; safe: the model stops where the spec says nothing. -/
  | noSuchAddress (addr : Nat)
deriving DecidableEq, Repr

/-- Why a command has no meaning. -/
inductive Refusal where
  /-- The command's meaning is not written yet; safe. -/
  | notModelled (mnemonic : String)
deriving DecidableEq, Repr

/-! Device memory. -/

/-- Device memory: bytes that differ from 0 in ascending address order, the sectors with the poison marking (R305) and
the sectors that read uncorrectable (R304), by sector number, ascending. [DESIGN CHOICE, log 5] -/
structure Mem where
  cells : List Host.Cell := []
  poison : List Nat := []
  bad : List Nat := []
deriving DecidableEq, Repr

/-! Contexts, queues and fences (11). -/

/-- A capture of a fence slot entry (R253). -/
structure Cap where
  fence : Nat
  value : Word
  timeout : Nat
deriving DecidableEq, Repr

/-- A fence slot entry (R252). -/
structure FSlot where
  fence : Nat := 0
  value : Word := 0
  step : Nat := 0
  timeout : Nat := 0
  valid : Bool := false
  err : Bool := false
deriving DecidableEq, Repr

/-- The allow list of a firewall port (R267). -/
structure FwList where
  ctxs : List Nat := []
  ranges : List (Nat × Nat) := []
  ops : Nat := 0
deriving DecidableEq, Repr

/-- A firewall port: its list, dropped writes, credits and reads outstanding (R267, R268, R326). [DEDUCED, log 70] -/
structure FwPort where
  list : FwList := {}
  dropped : Nat := 0
  credits : Nat := 64
  /-- credits that the next control flit returns -/
  owed : Nat := 0
  reads : Nat := 0
deriving DecidableEq, Repr

/-- A packet fetched past stage 1 that waits for its admission in queue order (R239). -/
structure Pkt where
  bytes : List Byte
  ext : List Byte
  /-- status and detail of the stage 2 to 8 that rejects it -/
  verdict : Option (Nat × Nat) := none
  waitCap : Option Cap := none
  sigCap : Option Cap := none
  /-- the allow list in force at its stage 8 -/
  fw : Option FwList := none
  /-- the tick at which its wait began (R233) -/
  waitFrom : Option Nat := none
deriving DecidableEq, Repr

/-- A submission queue (R250). -/
structure SQ where
  ctx : Nat
  idx : Nat
  slice : Nat
  base : Nat
  logSize : Nat
  cq : Nat
  fetch : Nat := 0
  tail : Nat := 0
  seq : Nat := 0
  stopped : Bool := false
  ignored : Nat := 0
  /-- a failed read waits for its re-read: re-reads made and the tick at which the last read was issued (R232) -/
  reread : Option (Nat × Nat) := none
  /-- the tick at which the present read was issued, while it waits for translations or lines -/
  issued : Option Nat := none
  /-- pages whose translation the present read was denied -/
  denied : List Nat := []
  pkts : List Pkt := []
  slots : Tab FSlot := []
  /-- the tail held at revocation (R262), and whether draining has ended (R264) -/
  heldTail : Option Nat := none
  drained : Bool := false
deriving DecidableEq, Repr

/-- A completion ring (R251). -/
structure CQ where
  ctx : Nat
  idx : Nat
  base : Nat
  logSize : Nat
  written : Nat := 0
  released : Nat := 0
  ignored : Nat := 0
deriving DecidableEq, Repr

/-- The fault record of a context (Table 11-8). -/
structure FaultRec where
  valid : Bool := false
  more : Bool := false
  cause : Nat := 0
  which : Nat := 0
  opcode : Nat := 0
  queue : Nat := 0
  seq : Nat := 0
  tick : Nat := 0
  addr : Nat := 0
  coords : List Nat := []
  count : Nat := 0
deriving DecidableEq, Repr

/-- A teardown in progress (R264): the CONTEXT_KILL command, or none for the CTX_KILL action; the step of Table 11-11;
the counts of R265. -/
structure Kill where
  h : Option Nat
  step : Nat := 1
  ended : Nat := 0
  discarded : Nat := 0
  orphaned : Nat := 0
  pages : Nat := 0
  /-- handles of the commands it found running -/
  handles : List Nat := []
deriving DecidableEq, Repr

/-- A context (R247). `state` by Table 11-2. -/
structure Ctx where
  state : Nat := 0
  pasid : Nat := 0
  mgmt : Bool := false
  fw : Bool := false
  fwPort : Nat := 0
  home : Nat := 0
  whey : Nat := 0
  fault : FaultRec := {}
  bindings : List Nat := []
  kill : Option Kill := none
deriving DecidableEq, Repr

/-- A signal that waits at the fence store front-end (R255): the FENCE_SIGNAL command, or none for a `sig_slot`. -/
structure Signal where
  fence : Nat
  value : Word
  h : Option Nat := none
deriving DecidableEq, Repr

/-! Tables and epochs (02, 08). -/

/-- An override entry (R28). -/
structure Ovr where
  row : Nat
  owner : Nat
  slot : Nat
deriving DecidableEq, Repr

/-- The layers of one epoch of a table at a slice (R171). -/
structure Layer where
  num : Nat := 0
  closing : Bool := false
  replacing : Bool := false
  ovr : List Ovr := []
  /-- per bucket: `replica_set` in [15:0] and `rep_ordinal` in [31:16], as in a layer image (R189) -/
  reps : List Nat := []
  /-- replica sets: four owner descriptors each -/
  sets : List (List Nat) := []
  /-- pending moves of a mode-0 MIGRATE and the step from which they hold (R184) -/
  pend : List Ovr := []
  pendStep : Word := 0
  /-- the hot sets of the four slices under this epoch: a slice's register set holds its own, by which a read it serves is
  resolved (Table 2-3, step 4) -/
  hots : List (List Nat) := [[], [], [], []]
deriving DecidableEq, Repr

/-- A buffered contribution (R147): key, step, elements, the owner slice that holds it and where. -/
structure Contrib where
  row : Nat
  engine : Nat
  slice : Nat
  batch : Nat
  step : Word
  elems : List PF
  owner : Nat
  /-- 0 the update partition, 1 + i the spill area of near stack i -/
  level : Nat
  /-- its record's place in that level -/
  pos : Nat := 0
  /-- arrival number, which orders equal keys (R144) -/
  arrival : Nat
  /-- the handle of the request of a peer that it is, while it waits for space: a drain awaits it (R172) -/
  id : Nat := 0
  /-- the stack of its owner location -/
  stack : Nat := 0
deriving DecidableEq, Repr

/-- A row of a replacing table whose last write is not yet current for every command: its stamp (R195). -/
structure Journal where
  table : Nat
  row : Nat
  stamp : Nat
deriving DecidableEq, Repr

/-- An open table (R167). -/
structure Table where
  desc : List Byte
  mapId : Nat
  fmt : Nat
  dim : Nat
  rows : Nat
  mbits : Nat
  stride : Nat
  key : List Byte
  buckets : List Nat
  train : Bool
  replace : Bool
  ripen : Bool
  step : Word
  openSteps : List Word := []
  /-- the steps whose APPLY_STEP has been admitted (R139) -/
  closedSteps : List Word := []
  /-- the newest layers, which the last publication installed or installs: the keeper's own copy -/
  layer : Layer := {}
  /-- rows that the shard map itself overrides (R28), the same on every engine that opened it (R170) -/
  ovr0 : List Nat := []
  contribs : List Contrib := []
  /-- contributions of peers that wait for space, with the tags of their answers (R148) -/
  stalled : List (Contrib × Nat) := []
  /-- arrivals so far -/
  arrivals : Nat := 0
  /-- seals held for (source engine, step) (R152) -/
  seals : List (Nat × Word) := []
  /-- engines declared lost before their seal for a step had come: nothing of theirs is applied in it (R154) -/
  dropped : List (Nat × Word) := []
  /-- a TABLE_CLOSE has been admitted -/
  closing : Bool := false
  /-- rows that the keeper moves off retired DRAM rows, and the handle from which commands and requests count as later (R311) -/
  shift : List Nat := []
  shiftFrom : Nat := 0
  /-- contributions discarded by a TABLE_CLOSE (R174) -/
  discarded : Nat := 0
  /-- a version publication is due: writes not yet published, and the tick of the last publication (R195) -/
  unpublished : Bool := false
  lastVersion : Nat := 0
  /-- the layer of a REPLICATE that fills, whose positions also take writes (R189) -/
  newReps : List Nat := []
  newSets : List (List Nat) := []
  /-- steps of which a slice restart lost contributions (R364) -/
  lostSteps : List Word := []
deriving DecidableEq, Repr

/-- A publication that not every slice has adopted yet (R171): `next` is the slice that adopts next. -/
structure Pub where
  table : Nat
  layer : Layer
  next : Nat := 0
  /-- the command that makes it, none for the keeper's own -/
  maker : Option Nat := none
  /-- hot rows (per slice), override slots, and rows whose bucket slot and replicas, that its drain releases (R172) -/
  oldHots : List (List Nat) := []
  oldOvr : List Ovr := []
  oldRows : List Nat := []
deriving DecidableEq, Repr

/-- The drain of a publication (R172): it waits for commands admitted under an epoch number before `num`. -/
structure Drain where
  table : Nat
  num : Nat
  /-- handles of the commands it waits for -/
  waits : List Nat
  oldHots : List (List Nat) := []
  oldOvr : List Ovr := []
  oldRows : List Nat := []
deriving DecidableEq, Repr

/-- A plan slot (R40). -/
structure PlanSlot where
  image : List Byte
  retiring : Bool := false
deriving DecidableEq, Repr

/-! Commands past their fetch. -/

/-- Where a command stands. -/
inductive Phase where
  /-- admitted, not begun -/
  | ready
  /-- begun; the number is the command's own step -/
  | stage (k : Nat)
  /-- ended; its completion record waits -/
  | done
deriving DecidableEq, Repr

/-- One write of a command to its context's address space, or one device-memory write. -/
structure OutWr where
  slice : Nat
  addr : Nat
  bytes : List PB
  which : Nat
  /-- fault coordinates of its first byte; the last one advances by one each `unit` bytes -/
  coords : List Nat
  unit : Nat := 0
deriving DecidableEq, Repr

/-- What a command awaits from a peer engine. -/
inductive Want where
  | row (r : Nat)
  | contribution (i : Nat)
  | replica (r : Nat)
  | scan (bucket : Nat)
deriving DecidableEq, Repr

/-- One part of a scan: a bucket, or the override row r as number B + r (R131, R133). `src` is the engine that scans it;
`pending` says that its answer is awaited, `locked` that the merge has consumed its statistics (R134). -/
structure ScanPart where
  num : Nat
  src : Nat
  pending : Bool := false
  locked : Bool := false
  fed : Nat := 0
  masked : Nat := 0
  absent : Nat := 0
  /-- an override row of a peer that no request named: the peer has moved it itself -/
  extra : Bool := false
  /-- a bucket scanned here: the vat it was dealt to, and the Rows entry it came through (R124, R211) -/
  via : Option (Nat × Option Nat) := none
  queries : List ScanQuery := []
deriving DecidableEq, Repr

/-- A translation request outstanding, with the coordinates its fault would record (R285). -/
structure AtsReq where
  slice : Nat
  who : Who
  ctx : Nat
  page : Nat
  write : Bool
  which : Nat
  addr : Nat
  coords : List Nat
deriving DecidableEq, Repr

/-- A slot ring in a vat's stream SRAM (R202): its slots, their bytes, how many fetching may fill ahead (0 for all), and the counters
of its consumer and its producer, modulo 2 × slots. -/
structure Ring where
  slots : Nat := 0
  size : Nat := 0
  ahead : Nat := 0
  head : Nat := 0
  tail : Nat := 0
deriving DecidableEq, Repr

/-- A node of a MULTICAST's tree as it runs (R216, R217): its ring; how much of the stream it has received, and for a buffer slot how much
is written; the tick since which it has been holding; the source elements of which a byte was suppressed. -/
structure McNode where
  ring : Ring := {}
  got : Nat := 0
  put : Nat := 0
  since : Option Nat := none
  lost : List Nat := []
deriving DecidableEq, Repr

/-- A command past its fetch (R227). -/
structure Cmd where
  slice : Nat
  ctx : Nat
  q : Nat
  cq : Nat
  seq : Nat
  opcode : Nat
  pkt : List Byte
  ext : List Byte
  waitCap : Option Cap := none
  sigCap : Option Cap := none
  fw : Option FwList := none
  /-- admission: tick, plan number and image, active variant, the layers of the named table, the engines present -/
  tick : Nat := 0
  plan : Nat := 0
  image : List Byte := []
  variant : Nat := 0
  view : Option Layer := none
  present : Nat := 0
  /-- engines its slice has lost since, in order, each with the presence map then adopted (R83, R420) -/
  reissue : List (Nat × Nat) := []
  trackers : Nat := 0
  /-- the whey base in force at admission (R401) -/
  whey : Nat := 0
  phase : Phase := .ready
  /-- it has issued its first read (R207) -/
  begun : Bool := false
  status : Nat := 0
  detail : Nat := 0
  c0 : Nat := 0
  c1 : Nat := 0
  c2 : Nat := 0
  c3 : Nat := 0
  aux : Option Word := none
  /-- order in which commands ended (R241) -/
  doneAt : Nat := 0
  /-- the requests for a translation that were refused to it (R285) -/
  faulted : List AtsReq := []
  /-- places of faults that are recorded already (`FaultEv.site`) -/
  noted : List Nat := []
  /-- replies of peers -/
  got : List (Want × Reply) := []
  /-- results of a LOOKUP_POOL that wait in their vat for the drain: vat number and writes -/
  held : List (Nat × List OutWr) := []
  /-- engines whose arrival, seal or partial is awaited, or that were lost meanwhile -/
  expect : List Nat := []
  lost : List Nat := []
  /-- a SCORE_TOPK's queries, its mask (0xFF where a mask byte was poisoned), whether either read met poison, and the parts
  of its scan -/
  queries : List (List PF) := []
  mask : List Byte := []
  inPoison : Bool := false
  scans : List ScanPart := []
  /-- the descriptors of a STREAM, or the source descriptor and destination list of a MULTICAST, as read at admission -/
  descs : List Byte := []
  /-- the bag lengths that check 0x25 read from the staging area (R70), with the cause of the word that ended them -/
  lens : Option (List Nat × Option Nat) := none
  /-- the tick at which its hold or wait began (R217, R224) -/
  since : Nat := 0
  /-- contributions of a SCATTER_GRAD that wait for space at their owner here (R148) -/
  waiting : List Contrib := []
  /-- a MULTICAST: the stream as far as its root has read it, its nodes, and the tops of the subtrees that it has detached (R216, R217) -/
  data : List PB := []
  nodes : List McNode := []
  detached : List Nat := []
  /-- the epoch number whose publication, or drain, the command waits for -/
  pubNum : Nat := 0
  /-- owner slots a MIGRATE has assigned -/
  moves : List Ovr := []
  /-- its sig_slot has been signalled -/
  signalled : Bool := false
deriving DecidableEq, Repr

/-! Vats (05). -/

/-- An accumulator row (R111): 256 entries, the numbers of poisoned entries, offset fields, armed bit, last writer. -/
structure AccRow where
  entries : List F32
  poison : List Nat
  offSum : F32
  offErr : F32
  offPoison : Bool
  armed : Bool
  writer : Option Nat
deriving DecidableEq, Repr

/-- A vat: working and shadow set, rows by number, and the command whose finished tile waits in the working set. -/
structure Vat where
  work : Tab AccRow := []
  shadow : Tab AccRow := []
  finished : Option Nat := none
deriving DecidableEq, Repr

/-! The host path (12). -/

/-- An entry of a slice's translation cache (R284). -/
structure Xlat where
  pasid : Nat
  page : Nat
  read : Bool
  write : Bool
  toDevice : Bool
  target : Nat
deriving DecidableEq, Repr

/-- A CXL.cache request outstanding: RdCurr (`own` false) or RdOwnNoData, for a host line or a line of a host-bias page. -/
structure LineReq where
  slice : Nat
  who : Who
  /-- whether the line number is one of device memory -/
  device : Bool
  own : Bool
  line : Nat
deriving DecidableEq, Repr

/-- A line granted or delivered to an asker (R277, R282, R287). -/
structure Line where
  who : Who
  device : Bool
  own : Bool
  line : Nat
  data : List Byte := []
  poisoned : Bool := false
deriving DecidableEq, Repr

/-- A host-memory write of at most one line, issued in order per slice and context (R277). -/
structure HostWr where
  slice : Nat
  ctx : Nat
  h : Nat
  addr : Nat
  bytes : List Byte
  poisoned : Bool
  /-- the buffer-slot node of a MULTICAST that it writes for -/
  node : Nat := 0
deriving DecidableEq, Repr

/-- A FLUSH read that waits: its port (from 4 up a command port, with the read's tag if it came in a flit), context, and
per slice the number of writes it waits for (R279, R326). -/
structure FlushWait where
  port : Nat
  tag : Option Nat := none
  ctx : Nat
  waits : List (Nat × Nat)
deriving DecidableEq, Repr

/-- An ATS invalidation whose completion waits (R286): its port; per context the host writes it waits for, and the host
lines whose data it waits for. -/
structure Inval where
  port : Nat
  waits : List (Nat × Nat)
  reads : List LineReq
deriving DecidableEq, Repr

/-- The bias request in progress (R282): its pages, target and owner, the page that flips now, and how many of its lines
have been asked for and granted. -/
structure BiasReq where
  first : Nat
  count : Nat
  toDevice : Bool
  owner : Nat
  own : Bool
  page : Nat
  asked : Nat := 0
  granted : Nat := 0
deriving DecidableEq, Repr

/-- A captured management action: code, tag and the sixteen argument words (R395). -/
structure MgmtAct where
  action : Nat
  tag : Nat
  args : List Nat
deriving DecidableEq, Repr

/-- An answer owed to a peer engine, or a request made of one. -/
structure PeerReq where
  tag : Nat
  h : Nat
  peer : Nat
  want : Want
deriving DecidableEq, Repr

/-- A request of a peer engine that waits for lines, earlier reads or space (R84, R173, R282): its handle, by which a drain
awaits it (R172), and the request. -/
structure HeldPeer where
  id : Nat
  ins : Instr
  /-- the layers of its table at its arrival, which is its admission (R173) -/
  view : Layer
deriving DecidableEq, Repr

/-- Which write of the engine's own an `EngWr` is. -/
inductive EngAct where
  /-- a contribution record of a table in a spill area (R148) -/
  | spill (table : Nat)
  /-- a skew record at the head of the skew ring (R179) -/
  | skew
  /-- a block of a trace dump (R412) -/
  | dump
deriving DecidableEq, Repr

/-- A write of device memory by the engine itself that waits until the slice that owns the memory runs (R15) and its lines are
granted (R277, R282). -/
structure EngWr where
  act : EngAct
  addr : Nat
  bytes : List Byte
deriving DecidableEq, Repr

/-- A message to a peer engine. -/
inductive PeerMsg where
  | rowRequest (table mapId row tag : Nat)
  | reply (tag : Nat) (r : Reply)
  | contribution (slice table mapId : Nat) (step : Word) (row batch : Nat) (elems : List PF) (tag : Nat)
  | seal (table : Nat) (step : Word)
  | arrival (tag : Word)
  | scanRequest (table mapId tag : Nat) (packet image : List Byte) (variant : Nat) (queries : List (List PF)) (mask : List Byte)
      (parts : List Nat)
  | scanPartial (tag rows masked absent bucket : Nat) (events : List Nat) (queries : List ScanQuery)
  | replicaWrite (table mapId row : Nat) (bytes : List PB) (tag : Nat)
deriving DecidableEq, Repr

/-- The frame class that carries a message (Table 14-7). -/
def PeerMsg.cls (m : PeerMsg) : Nat :=
  match m with
  | .rowRequest _ _ _ _ => 1
  | .reply _ _ => 2
  | .contribution _ _ _ _ _ _ _ _ => 3
  | .seal _ _ => 4
  | .arrival _ => 5
  | .scanRequest _ _ _ _ _ _ _ _ _ => 6
  | .scanPartial _ _ _ _ _ _ _ => 7
  | .replicaWrite _ _ _ _ _ => 8

/-- A frame to send, without its `seq` and check: its bytes where the spec lays them out (Table 14-6, Table 14-9), or a message of
the engine's own, whose payload is implementation-defined (R328). One message is one frame. [DESIGN CHOICE, log 90] -/
inductive Frame where
  | bytes (l : List Byte)
  | peer (engine : Nat) (m : PeerMsg)
deriving DecidableEq, Repr

/-- A message the engine drives at one of its ports (R271, R289, R320, R329, R333). -/
inductive Msg where
  /-- an MSI-X message through the port of this slice -/
  | msix (slice vector : Nat)
  /-- a read response at a host port or, from 4 up, at a command port -/
  | readData (port : Nat) (data : List Byte) (poisoned : Bool)
  /-- RspIHitI -/
  | snoopMiss (port : Nat)
  /-- the completion of an ATS invalidation -/
  | invalDone (port : Nat)
  /-- a non-posted request or access answered with an error -/
  | error (port : Nat)
  /-- a frame of class 0x1 to 0x8 of the engine's own: the optical port, the `seq`, `dst` and message that make its header
  (Table 14-6); its payload is implementation-defined (R328) -/
  | toPeer (port seq engine : Nat) (m : PeerMsg)
  /-- a frame whose 256 bytes the spec lays out -/
  | frame (port : Nat) (bytes : List Byte)
  /-- payload that a link direction passes on in order (R319) -/
  | payload (link : Nat) (bytes : List Byte)
  /-- a flit dealt to a module of a link: its 256 bytes -/
  | flit (link module : Nat) (bytes : List Byte)
  /-- `op_tx_en` of a photonic die, when it changes -/
  | laser (port : Nat) (lit : Bool)
  /-- what a read of a crossing queue returns: data and the tag of Table 15-3 -/
  | queueWord (queue : Nat) (data : List Byte) (tag : Nat)
  /-- the instruction the test chain performs and the value shifted out -/
  | tap (code : Nat) (value : Nat)
deriving DecidableEq, Repr

/-! Slices and the keeper. -/

/-- What a slice measures of one table in a skew window (R178). -/
structure SkewCount where
  near : List Nat := [0, 0, 0]
  hot : Nat := 0
  peer : Nat := 0
  accesses : Nat := 0
  buckets : Tab Nat := []
  rows : Tab Nat := []
deriving DecidableEq, Repr

/-- A skew window that a slice has ended and the keeper has not merged (R179): its number, counts by table, and the near
stacks that were at or above T1 in it. -/
structure SkewWin where
  num : Nat
  counts : Tab SkewCount
  warm : List Nat
deriving DecidableEq, Repr

/-- A pool slice (01). [DESIGN CHOICE, log 4] -/
structure Slice where
  tick : Nat := 0
  lastLoad : Nat := 0
  /-- 0 held in reset, 1 restarting, 2 running or booting (R362) -/
  run : Nat := 0
  /-- restart step in progress, 1 to 8, 0 for none (R363) -/
  rstep : Nat := 0
  layers : Tab Layer := []
  /-- adopted presence map (R336) -/
  loss : Nat := 0
  /-- fence values and orphan marks this slice has sampled for its waiters (R259) -/
  seen : Tab (Word × Bool) := []
  /-- CTX_FSLOT_SEL of each context (R249) -/
  fsel : Tab Nat := []
  atc : List Xlat := []
  regs : Tab Word := []
  /-- increments not yet forwarded: context × 8 + counter, table × 4 + counter (R406) -/
  incCtx : Tab Nat := []
  incTbl : Tab Nat := []
  skew : Tab SkewCount := []
  /-- the skew window that runs, the near stacks at or above T1 in it, and windows not yet merged -/
  window : Nat := 0
  warm : List Nat := []
  ended : List SkewWin := []
deriving DecidableEq, Repr

/-- An entry of the engine error record (Table 19-8). -/
structure ErrEntry where
  tick : Nat
  source : Nat
  code : Nat
  recovery : Nat
  number : Nat
  detail : List Byte
deriving DecidableEq, Repr

/-- The engine error record (R413): entries made, the first entry, the latest 504, newest last. -/
structure ErrRec where
  total : Nat := 0
  first : Option ErrEntry := none
  latest : List ErrEntry := []
deriving DecidableEq, Repr

/-- Boot state (R359, Table 16-2): the step in progress, its outcome, straps (R380) and the field lock (R416). [DESIGN CHOICE, log 3] -/
structure Boot where
  step : Nat := 0
  ready : Bool := false
  failed : Bool := false
  failStep : Nat := 0
  slices : Nat := 0
  repairsDone : Nat := 0
  repairsFailed : Nat := 0
  rstFail : Bool := false
  halted : Bool := false
  strapEngine : Nat := 0
  strapGsize : Nat := 0
  lock : Bool := false
deriving DecidableEq, Repr

/-! Memory channels (13). -/

/-- A DRAM row: pseudo-channel, bank and row as R295 numbers them. -/
structure DRow where
  pc : Nat
  bank : Nat
  drow : Nat
deriving DecidableEq, Repr

/-- A run of a traffic generator (R314, R315): its range of stack offsets, whether it checks, its share of reads, sectors of an access,
pattern, seed, and accesses left (none for a run without end); the offset that the fill pass has reached, and the offset of the next
sequential access. -/
structure TgRun where
  lo : Nat
  hi : Nat
  check : Bool
  rdPct : Nat
  size : Nat
  pattern : Nat
  seed : Nat
  left : Option Nat
  fill : Nat
  pos : Nat
deriving DecidableEq, Repr

/-- A memory channel: one stack with its controller. [DESIGN CHOICE, log 4] -/
structure Chan where
  /-- thermal state: 0 Normal, 1 T1, 2 T2, 3 T3 (Table 13-3) and failed temperature reads in a row (R303) -/
  thermal : Nat := 0
  badReads : Nat := 0
  /-- the split in force, and one selected that the next frame of issue slots takes up (R34, R209) -/
  split : Nat := 0x000F193C
  nextSplit : Option Nat := none
  /-- rows marked for repair, oldest first, with whether for an uncorrectable sector (R308) -/
  marks : List (DRow × Bool) := []
  /-- repair resources used, by bank group: pseudo-channel × 16 + bank / 4 (R309) -/
  used : Tab Nat := []
  /-- retired rows (R311), whose table rows move off as tables allow -/
  retired : List DRow := []
  /-- the next sector the patrol reads, the tick its pass began, the sectors it corrected in this pass and the last, and
  whether this pass is recorded as late (R307, R308) -/
  patrol : Nat := 0
  passStart : Nat := 0
  fixed : List Nat := []
  fixedBefore : List Nat := []
  late : Bool := false
  /-- the traffic generator's run in progress -/
  tg : Option TgRun := none
deriving DecidableEq, Repr

/-! Package links and optical ports (14). -/

/-- A lane module as its receiver holds it (Table 14-3): its state, flits carried, the numbers of the CRC failures among the last
1,024 of them, its counts. A bad lane, and having been HALF or DISABLED, lasts until both end slices have been reset (R322): beside
each stands which ends have been, 1 the sender's, 2 the receiver's. -/
structure LinkMod where
  state : Nat := 0
  flits : Nat := 0
  fails : List Nat := []
  crcErr : Nat := 0
  retrains : Nat := 0
  marginal : Nat := 0
  bad : List (Nat × Nat) := []
  half : Option Nat := none
deriving DecidableEq, Repr

/-- A link direction (R319, R320): the next `seq` expected, flits since the last nak, in-order flits not yet acknowledged;
for the way out the next `seq` and the flits not acknowledged. [DESIGN CHOICE, log 4] -/
structure LinkDir where
  expected : Nat := 0
  nakGap : Nat := 64
  unacked : Nat := 0
  next : Nat := 0
  replay : List (Nat × List Byte) := []
  /-- how many flits at the end of the replay buffer are not dealt yet, or not dealt again since a nak -/
  unsent : Nat := 0
  /-- the module whose turn it is, and the HALF modules that pass on their next turn (R319) -/
  turn : Nat := 0
  passes : List Nat := []
  /-- payloads that wait for room in the replay buffer -/
  waiting : List (List Byte) := []
  down : Bool := false
deriving DecidableEq, Repr

/-- An optical port (R327 to R338). [DESIGN CHOICE, log 4] -/
structure OptPort where
  los : Bool := false
  losSince : Nat := 0
  lock : Bool := false
  lambda : Nat := 0
  /-- put down by 16 sends without acknowledgement (R329) -/
  dead : Bool := false
  deny : Nat := 0
  retry : Nat := 0
  /-- the direct partner, its last beacon, when it came, how many UP beacons with consecutive `bseq` have come -/
  partner : Option Nat := none
  beacon : Option Beacon := none
  heard : Nat := 0
  run : Nat := 0
  present : Bool := false
  /-- beacons sent since `enable`, and the tick of the next periodic one (R333) -/
  bseq : Nat := 0
  nextBeacon : Nat := 0
  /-- frames: next `seq` out, next `seq` expected, frames since the last nak, frames not acknowledged with their sends -/
  txSeq : Nat := 0
  rxSeq : Nat := 0
  nakGap : Nat := 64
  unacked : Nat := 0
  replay : List (Nat × Frame × Nat) := []
  /-- frames that wait for room in the replay buffer -/
  waiting : List Frame := []
deriving DecidableEq, Repr

/-- A presence publication on its way to the slices (R336): the map, the slice that adopts next, the changes (engine, present,
cause of Table 19-4). -/
structure LossPub where
  map : Nat
  next : Nat := 0
  changes : List (Nat × Bool × Nat)
deriving DecidableEq, Repr

/-! Power (16), trace (19), crossing queues (15). -/

/-- The power and thermal manager (R367 to R369): sixteenths withheld by power and by junction, which thresholds of Table 16-8
hold; sums of the present millisecond in mW and mA; last slew estimates. [DEDUCED, log 72; DESIGN CHOICE, log 4] -/
structure Power where
  withheld : Nat := 0
  junction : Nat := 0
  /-- what the last junction sample decided, in force from the next one (R368) -/
  nextJunction : Nat := 0
  /-- the keeper tick of the last write of the cap, and the cap before it (R372) -/
  capAt : Option (Nat × Nat) := none
  hot95 : Bool := false
  hot100 : Bool := false
  hot105 : Bool := false
  hottest : Nat := 0
  samples : Nat := 0
  sum : Nat := 0
  sliceSum : List Nat := [0, 0, 0, 0]
  sliceAmp : List Nat := [0, 0, 0, 0]
  slew : List Nat := [0, 0, 0, 0]
  slewHit : Bool := false
deriving DecidableEq, Repr

/-- A trace record (Table 19-3). -/
structure TraceRec where
  tick : Nat
  source : Nat
  kind : Nat
  tseq : Nat
  context : Nat
  queue : Nat
  seq : Nat
  opcode : Nat
  status : Nat
  payload : List Byte
deriving DecidableEq, Repr

/-- The trace buffer, oldest first, the `tseq` counts by source, records lost and copied (R409 to R412). -/
structure Trace where
  recs : List TraceRec := []
  tseq : List Nat := [0, 0, 0, 0, 0]
  lost : Nat := 0
  copied : Nat := 0
deriving DecidableEq, Repr

/-- A word of a crossing queue with its tag (Table 15-3). -/
structure QWord where
  data : List Byte
  vbytes : Nat
  eop : Bool
  psec : Nat
deriving DecidableEq, Repr

/-- A dual-clock queue (R344 to R351): entries by slot, binary pointers with the Gray code that each registers in its own domain,
the two synchroniser flops on each side, the narrow words packed so far, the words that the producer holds because they found the
queue full, whether the consumer is inside a packet, and whether it drops. [DESIGN CHOICE, log 4] -/
structure Cdc where
  entries : Tab QWord := []
  wptr : Nat := 0
  rptr : Nat := 0
  wGray : Nat := 0
  rGray : Nat := 0
  /-- the Gray code of the write pointer as it has reached the consumer, and that of the read pointer at the producer -/
  wSync : Nat × Nat := (0, 0)
  rSync : Nat × Nat := (0, 0)
  pack : List QWord := []
  held : List QWord := []
  inPkt : Bool := false
  dropping : Bool := false
deriving DecidableEq, Repr

/-- The whole engine. -/
structure State where
  pending : List Instr
  out : List Msg
  /-- MSI-X vectors raised while the host ports are not ready (R289) -/
  msiWait : List Nat
  freeCtr : Nat
  powered : Bool
  trip : Bool
  boot : Boot
  /-- the half of a keeper cycle: the keeper's counter advances by two at every second step (R355) -/
  half : Bool
  restartQ : List (Nat × Nat)
  kTick : Nat
  slices : List Slice
  dev : Mem
  atsReqs : List AtsReq
  lineReqs : List LineReq
  lines : List Line
  hostWr : List HostWr
  /-- CXL.mem accesses of the host that wait while the stack they name is under hard repair (boot step 10, R359) -/
  memHeld : List Instr
  flushes : List FlushWait
  invals : List Inval
  biasReq : Option BiasReq
  /-- bias commands that wait for PS0's restart (R365) -/
  biasWait : List BiasReq
  kpr : Tab Word
  mgmtQ : List MgmtAct
  mgmtBusy : Option MgmtAct
  /-- retire-list entries held while PS0 restarts: slot and bytes (R365) -/
  retirePend : List (Nat × List Byte)
  ctxs : Tab Ctx
  sqs : Tab SQ
  cqs : Tab CQ
  fenceQ : List Signal
  fw : Tab FwPort
  cmds : Tab Cmd
  nextCmd : Nat
  plans : Tab PlanSlot
  tables : Tab Table
  adopt : List Pub
  drains : List Drain
  /-- the holder of the staging SRAM: 0 none, 1 deep trace, 2 + t the replacement of table t (R385) -/
  staging : Nat
  journal : List Journal
  vats : Tab Vat
  arrivals : List (Nat × Word)
  /-- arrivals held back on their links for want of space (R224) -/
  stalledArr : List (Nat × Word)
  /-- keeper presence map: bit i set if engine i is present (R288) -/
  declared : Nat
  /-- engines declared lost and not present again since (R336) -/
  lostMap : Nat
  /-- the (`inc`, `admit`) pairs recorded at the losses of direct partners (R334) -/
  lostPairs : Tab (Nat × Nat)
  lossAdopt : List LossPub
  /-- the presence map the host sees (R288) -/
  visible : Nat
  peerReqs : List PeerReq
  nextTag : Nat
  heldPeer : List HeldPeer
  work : List EngWr
  chans : Tab Chan
  links : Tab LinkDir
  mods : Tab LinkMod
  optics : Tab OptPort
  power : Power
  trace : Trace
  cdc : Tab Cdc
  cntCtx : Tab Nat
  cntTbl : Tab Nat
  cntKs : Tab Nat
  errs : ErrRec
deriving DecidableEq, Repr

/-- Keeper page registers whose reset value is not 0 (Table 18-3): the pinned bases, the power cap, the routes. [DESIGN CHOICE, log 4] -/
def kprReset : Tab Word :=
  [ (0x110, BitVec.ofNat 64 Config.biasBase), (0x118, BitVec.ofNat 64 Config.fenceBase), (0x120, BitVec.ofNat 64 Config.planBase),
    (0x128, BitVec.ofNat 64 Config.retireBase), (0x240, 260) ] ++
  (List.range 32).map (fun i => (0xA00 + 8 * i, 0x7777777777777777))

/-- The engine with a reset input low (R354, R358): nothing is kept, no clock runs; boot begins when reset is released. [DESIGN CHOICE, log 2, 4, 75] -/
def State.reset : State :=
  { pending := [], out := [], msiWait := [], freeCtr := 0, powered := true, trip := false, boot := {}, half := false, restartQ := [],
    kTick := 0, slices := [{}, {}, {}, {}], dev := {}, atsReqs := [], lineReqs := [], lines := [], hostWr := [], memHeld := [], flushes := [],
    invals := [], biasReq := none, biasWait := [], kpr := kprReset, mgmtQ := [], mgmtBusy := none, retirePend := [],
    ctxs := [], sqs := [], cqs := [], fenceQ := [], fw := [], cmds := [], nextCmd := 0, plans := [], tables := [], adopt := [],
    drains := [], staging := 0, journal := [], vats := [], arrivals := [], stalledArr := [], declared := 0, lostMap := 0, lostPairs := [], lossAdopt := [],
    visible := 0, peerReqs := [], nextTag := 0, heldPeer := [], work := [], chans := [], links := [], mods := [], optics := [], power := {}, trace := {},
    cdc := [], cntCtx := [], cntTbl := [], cntKs := [], errs := {} }

end Sys2Proof.Machine
end

