-- ==== Sys2Proof/Machine/Ops.lean ====
section
/-! DEFINITION. Named operations over the state: device memory by sector (R304 to R306), slices, commands, counters, the
error record (R413), MSI-X (R289), fault records (R261), presence (R288) and outputs. -/

namespace Sys2Proof.Machine

open Sys2Proof

/-! Sorted sets of numbers. -/

/-- Put `a` into an ascending list. -/
def insNat (l : List Nat) (a : Nat) : List Nat :=
  match l with
  | [] => [a]
  | b :: r => if a < b then a :: b :: r else if a = b then b :: r else b :: insNat r a

/-- Take `a` out of a list. -/
def delNat (l : List Nat) (a : Nat) : List Nat := l.filter (fun b => b != a)

/-! Device memory. -/

/-- The byte a cell list holds at `a`; an unlisted address reads 0 (boot step 7 of R359). -/
def cellAt (l : List Host.Cell) (a : Nat) : Byte :=
  match l with
  | [] => 0
  | (k, b) :: r => if k = a then b else cellAt r a

/-- Write one byte, keeping addresses ascending and no entry equal to 0. -/
def putCell (l : List Host.Cell) (a : Nat) (b : Byte) : List Host.Cell :=
  match l with
  | [] => if b = 0 then [] else [(a, b)]
  | (k, c) :: r =>
    if a < k then (if b = 0 then (k, c) :: r else (a, b) :: (k, c) :: r)
    else if a = k then (if b = 0 then r else (k, b) :: r)
    else (k, c) :: putCell r a b

/-- One byte of device memory. [DESIGN CHOICE, log 5] -/
def Mem.byte (m : Mem) (a : Nat) : Byte := cellAt m.cells a

/-- The channel of stack `k`. -/
def State.chan (s : State) (k : Nat) : Chan := Tab.getD s.chans k {}

/-- The thermal state in force: T2 while three reads in a row have failed (R303). [DEDUCED, log 51] -/
def Chan.state (c : Chan) : Nat := if 3 ≤ c.badReads then 2 else c.thermal

/-- Why sector `k` is delivered poisoned: 2 uncorrectable, 4 the poison marking, 0 neither. -/
def Mem.sector (m : Mem) (k : Nat) : Nat := if m.bad.contains k then 2 else if m.poison.contains k then 4 else 0

/-- `n` bytes at `a` as a read delivers them (R304, R305). -/
def Mem.read (m : Mem) (a n : Nat) : List PB :=
  (List.range n).map (fun i => { b := m.byte (a + i), p := m.sector ((a + i) / 32) })

/-- `n` data bytes at `a`, whatever the sectors' state. -/
def Mem.bytes (m : Mem) (a n : Nat) : List Byte := (List.range n).map (fun i => m.byte (a + i))

/-- The little-endian number of `n` bytes at `a`. -/
def Mem.num (m : Mem) (a n : Nat) : Nat := leNat (m.bytes a n)

/-- Store data bytes from `a` upward. -/
def putCells (l : List Host.Cell) (a : Nat) (bs : List Byte) : List Host.Cell :=
  match bs with
  | [] => l
  | b :: r => putCells (putCell l a b) (a + 1) r

/-- Set the state of sector `k` that a write leaves: poisoned or clean. -/
def Mem.mark (m : Mem) (k : Nat) (poisoned : Bool) : Mem :=
  { m with poison := if poisoned then insNat m.poison k else delNat m.poison k, bad := delNat m.bad k }

/-- Write the part of `bs` (which starts at `a`) that lies in sector `k`: a partial write of a sector that reads
uncorrectable or poisoned leaves it poisoned (R306); a poisoned byte marks it (R287, R305). -/
def Mem.markWrite (m : Mem) (a : Nat) (bs : List PB) (k : Nat) : Mem :=
  let lo := 32 * k
  let whole := decide (a ≤ lo ∧ lo + 32 ≤ a + bs.length)
  let part := (bs.drop (lo - a)).take (lo + 32 - max a lo)
  m.mark k (anyPoison part || (!whole && m.sector k != 0))

/-- Write bytes at `a`. -/
def Mem.write (m : Mem) (a : Nat) (bs : List PB) : Mem :=
  match bs with
  | [] => m
  | _ =>
    let ks := (List.range ((a + bs.length - 1) / 32 + 1 - a / 32)).map (fun i => a / 32 + i)
    let m1 := ks.foldl (fun acc k => acc.markWrite a bs k) m
    { m1 with cells := putCells m1.cells a (dataOf bs) }

/-- Write clean bytes at `a`. -/
def Mem.writeClean (m : Mem) (a : Nat) (bs : List Byte) : Mem := m.write a (cleanBytes bs)

/-- Whether `n` bytes at `a` lie in device memory (R294). [DESIGN CHOICE, log 78] -/
def inDevice (a n : Nat) : Bool := decide (a + n ≤ Config.devBytes)

/-- The stack of a device address (R294). -/
def stackOf (a : Nat) : Nat := a / Config.stackBytes

/-- The slice that owns a device address (R294). -/
def sliceOf (a : Nat) : Nat := stackOf a / 3

/-- Write `bs` at device address `a` of the engine's own memory. -/
def State.devWrite (s : State) (a : Nat) (bs : List PB) : State := { s with dev := s.dev.write a bs }

/-- Write clean bytes to device memory. -/
def State.devPut (s : State) (a : Nat) (bs : List Byte) : State := { s with dev := s.dev.writeClean a bs }

/-! Slices, contexts and commands. -/

/-- Pool slice `n`. -/
def State.slc (s : State) (n : Nat) : Slice := s.slices.getD n {}

/-- Change pool slice `n`. -/
def State.modSlice (s : State) (n : Nat) (f : Slice → Slice) : State := { s with slices := s.slices.set n (f (s.slc n)) }

/-- Tick of slice `n`; from 4 up the keeper's (R355). -/
def State.tickOf (s : State) (n : Nat) : Nat := if n < 4 then (s.slc n).tick else s.kTick

/-- Context `x`. -/
def State.ctx (s : State) (x : Nat) : Ctx := Tab.getD s.ctxs x {}

/-- Change context `x`. -/
def State.modCtx (s : State) (x : Nat) (f : Ctx → Ctx) : State := { s with ctxs := Tab.set s.ctxs x (f (s.ctx x)) }

/-- Whether context `x` is OPEN. -/
def State.isOpen (s : State) (x : Nat) : Bool := (s.ctx x).state == 1

/-- Change command `h`, if it exists. -/
def State.modCmd (s : State) (h : Nat) (f : Cmd → Cmd) : State := { s with cmds := Tab.modify s.cmds h f }

/-- Change queue `q`, if it exists. -/
def State.modSq (s : State) (q : Nat) (f : SQ → SQ) : State := { s with sqs := Tab.modify s.sqs q f }

/-- Change table `t`, if it is open. -/
def State.modTable (s : State) (t : Nat) (f : Table → Table) : State := { s with tables := Tab.modify s.tables t f }

/-- Drive a message. -/
def State.send (s : State) (m : Msg) : State := { s with out := s.out ++ [m] }

/-- A fresh free byte. [DESIGN CHOICE, log 23] -/
def State.freeBytes (s : State) (n : Nat) : List Byte := (List.range n).map (fun i => Config.freeByte (s.freeCtr + i))

/-- Whether the host ports assert ready (R359, R361): from boot step 9, or after a boot that stopped because PS0 failed. [DEDUCED, log 42; DESIGN CHOICE, log 9] -/
def State.hostReady (s : State) : Bool :=
  s.powered && !s.trip && (decide (9 ≤ s.boot.step) || (s.boot.halted && s.boot.failed))

/-- Whether slice `n` is out of reset and not restarting. -/
def State.sliceUp (s : State) (n : Nat) : Bool := (s.slc n).run == 2

/-- Whether slice `n`'s host port serves requests (R290). [DESIGN CHOICE, log 9] -/
def State.portUp (s : State) (n : Nat) : Bool := s.hostReady && s.sliceUp n

/-- Raise an MSI-X vector through the lowest-numbered slice not in reset (R289); while no port can carry it, it waits. [DEDUCED, log 41] -/
def State.msix (s : State) (vector : Nat) : State :=
  match (List.range 4).find? s.portUp with
  | some n => s.send (.msix n vector)
  | none => { s with msiWait := s.msiWait ++ [vector] }

/-- Send the messages that waited for a port. [DEDUCED, log 41] -/
def State.msixFlush (s : State) : State := s.msiWait.foldl State.msix { s with msiWait := [] }

/-- A keeper register's value. -/
def State.kreg (s : State) (off : Nat) : Nat := (Tab.getD s.kpr off 0).toNat

/-- Set a keeper register. -/
def State.setKreg (s : State) (off v : Nat) : State := { s with kpr := Tab.set s.kpr off (BitVec.ofNat 64 v) }

/-- A slice page register's value. -/
def State.sreg (s : State) (n off : Nat) : Nat := (Tab.getD (s.slc n).regs off 0).toNat

/-- Set a slice page register. -/
def State.setSreg (s : State) (n off v : Nat) : State :=
  s.modSlice n (fun l => { l with regs := Tab.set l.regs off (BitVec.ofNat 64 v) })

/-- Add to a slice page counter, modulo 2^64. -/
def State.addSreg (s : State) (n off k : Nat) : State := s.setSreg n off (s.sreg n off + k)

/-- Host-port event counter `i` of slice `n` (Table 19-1, PSn_CNT_HP). [DEDUCED, log 15] -/
def State.countHp (s : State) (n i : Nat) : State := s.addSreg n (0x4000 + 8 * i) 1

/-- Channel counter `i` of stack `k` (Table 19-1, PSn_CNT_MCk). -/
def State.countMc (s : State) (k i : Nat) : State := s.addSreg (k / 3) (0x4200 + 0x80 * (k % 3) + 8 * i) 1

/-- Sequencer counter `i` of slice `n` (PSn_CNT_SEQ). [DEDUCED, log 15] -/
def State.countSeq (s : State) (n i : Nat) : State := s.addSreg n (0x4800 + 8 * i) 1

/-- Add to a context counter at a slice; it reaches the keeper when forwarded (R406). -/
def State.countCtx (s : State) (n x i k : Nat) : State :=
  if k = 0 then s
  else s.modSlice n (fun l => { l with incCtx := Tab.set l.incCtx (8 * x + i) (Tab.getD l.incCtx (8 * x + i) 0 + k) })

/-- Add to a table counter at a slice (R149, R161, R421). -/
def State.countTbl (s : State) (n t i k : Nat) : State :=
  if k = 0 then s
  else s.modSlice n (fun l => { l with incTbl := Tab.set l.incTbl (4 * t + i) (Tab.getD l.incTbl (4 * t + i) 0 + k) })

/-- Count Press events for a context (R109). [DEDUCED, log 73] -/
def State.countPress (s : State) (n x : Nat) (e : Ev) : State :=
  (((s.countCtx n x 3 e.nanIn).countCtx n x 4 e.infIn).countCtx n x 5 e.invalid).countCtx n x 6 e.overflow

/-- Count conversion events for a context (R60). [DEDUCED, log 73] -/
def State.countConv (s : State) (n x : Nat) (c : Conv) : State :=
  ((s.countCtx n x 0 c.sat).countCtx n x 1 c.nan).countCtx n x 2 c.rows

/-- Make a trace record, if trace runs and its kind is enabled (R409 to R411). `source` 0 to 3 is a slice, 4 the keeper. [DESIGN CHOICE, log 44] -/
def State.traceRec (s : State) (source kind x q seq opcode status : Nat) (payload : List Byte) : State :=
  let ctl := s.kreg 0x8000
  if !bitAt ctl 63 || !bitAt ctl kind then s
  else
    let n := s.trace.tseq.getD source 0
    let r : TraceRec := { tick := s.tickOf source, source := source, kind := kind, tseq := n, context := x, queue := q, seq := seq,
                          opcode := opcode, status := status, payload := padTo 12 0 payload }
    let t := { s.trace with tseq := s.trace.tseq.set source ((n + 1) % 65536) }
    if s.trace.recs.length < (if bitAt ctl 62 then 524288 else 262144) then { s with trace := { t with recs := t.recs ++ [r] } }
    else if bitAt ctl 61 then { s with trace := { t with recs := t.recs.drop 1 ++ [r] } }
    else { s with trace := t }.setKreg 0x8000 (putBit ctl 63 false)

/-- Make an entry of the engine error record and raise vector 1 (R413). `source` 0 to 3 is a slice, 4 the keeper. [DESIGN CHOICE, log 44, 100] -/
def State.errEntry (s : State) (source code recovery : Nat) (detail : List Byte) : State :=
  let e : ErrEntry := { tick := s.tickOf source, source := source, code := code, recovery := recovery,
                        number := s.errs.total, detail := padTo 16 0 detail }
  let latest := s.errs.latest ++ [e]
  let r : ErrRec := { total := s.errs.total + 1, first := some (s.errs.first.getD e),
                      latest := latest.drop (latest.length - 504) }
  ({ s with errs := r }.traceRec source 8 0 0 0 0 0 (natLE 1 code ++ natLE 4 s.errs.total)).msix 1

/-- A fault event of a context (R261): an empty record takes every field, and its KPR_FAULT_PEND bit and vector 2
follow (R289); a filled one counts it. -/
def State.faultEvent (s : State) (slice x q seq opcode cause which addr : Nat) (coords : List Nat) : State :=
  let f := (s.ctx x).fault
  if f.valid then
    s.modCtx x (fun c => { c with fault := { f with more := true, count := satTo 0xFFFFFFFF (f.count + 1) } })
  else
    let g : FaultRec := { valid := true, more := false, cause := cause, which := which, opcode := opcode, queue := q,
                          seq := seq, tick := s.tickOf slice, addr := addr, coords := coords, count := 0 }
    let s1 := (s.modCtx x (fun c => { c with fault := g })).traceRec slice 7 x q seq opcode 0
      (natLE 1 cause ++ natLE 1 which ++ natLE 8 addr)
    (s1.setKreg (0x0400 + 8 * (x / 64)) (putBit (s1.kreg (0x0400 + 8 * (x / 64))) (x % 64) true)).msix 2

/-- The state of page `p`'s bias entry (R281). -/
def State.biasEntry (s : State) (p : Nat) : Nat := s.dev.num (Config.biasBase + 4 * p) 4

/-- Whether a device address lies in a page in host bias (R281). -/
def State.hostBias (s : State) (a : Nat) : Bool := !bitAt (s.biasEntry (a / 2097152)) 0

/-- Whether the page of a device address is flipping, so that engine accesses to it wait (Table 12-5). -/
def State.flipping (s : State) (a : Nat) : Bool := bitAt (s.biasEntry (a / 2097152)) 2

/-! Fence store (R254, Table 11-7). -/

/-- Device address of fence `f`'s record. -/
def fenceAddr (f : Nat) : Nat := Config.fenceBase + 64 * f

/-- Value, owner and state of a fence. -/
def State.fenceValue (s : State) (f : Nat) : Word := BitVec.ofNat 64 (s.dev.num (fenceAddr f) 8)
def State.fenceOwner (s : State) (f : Nat) : Nat := s.dev.num (fenceAddr f + 8) 2 % 4096
def State.fenceState (s : State) (f : Nat) : Nat := s.dev.num (fenceAddr f + 0xA) 1
def State.fenceIgnored (s : State) (f : Nat) : Nat := s.dev.num (fenceAddr f + 0xC) 4
/-- Grant entry `i` of a fence. -/
def State.fenceGrant (s : State) (f i : Nat) : Nat := s.dev.num (fenceAddr f + 0x10 + 4 * i) 4

/-- The grant entry of context `x`, if it has one. -/
def State.grantOf (s : State) (f x : Nat) : Option Nat :=
  (List.range 7).find? (fun i => bitAt (s.fenceGrant f i) 14 && s.fenceGrant f i % 4096 == x)

/-- Whether context `x` has the wait right (`bit` 12) or the signal right (13) on fence `f`; the owner has both. -/
def State.fenceRight (s : State) (f x bit : Nat) : Bool :=
  s.fenceOwner f == x || (match s.grantOf f x with
    | some i => bitAt (s.fenceGrant f i) bit
    | none => false)

/-- d(x, y) ≥ 0 and d(x, y) > 0 of R255. -/
def notBehind (x y : Word) : Bool := decide (0 ≤ (x - y).toInt)
def ahead (x y : Word) : Bool := decide (0 < (x - y).toInt)

/-- This engine's number and its group's size (R380, capability word 15). -/
def State.self (s : State) : Nat := s.boot.strapEngine
def State.groupSize (s : State) : Nat := s.boot.strapGsize + 1

/-! Presence (R288). -/

/-- Whether engine `e` is this engine or is set in presence map `m`. -/
def presentIn (self m e : Nat) : Bool := e == self || bitAt m e

/-! Command ends. -/

/-- End a command with a status, detail and counts: it waits for its completion record (R241). [DESIGN CHOICE, log 2] -/
def State.endCmd (s : State) (h : Nat) (f : Cmd → Cmd) : State :=
  { (s.modCmd h (fun c => { f c with phase := .done, doneAt := s.nextCmd })) with nextCmd := s.nextCmd + 1 }

/-- End with a status and no counts. -/
def State.endWith (s : State) (h status detail : Nat) : State :=
  s.endCmd h (fun c => { c with status := status, detail := detail })

/-- Whether a command has ended. -/
def Cmd.ended (c : Cmd) : Bool := c.phase == .done

/-- Whether a status is of the complete class (Table 10-16). -/
def completeClass (st : Nat) : Bool := decide (st ≤ 3)

/-- Earlier commands of the same queue that have not ended or whose host writes are outstanding (R207). -/
def State.earlierBusy (s : State) (h : Nat) (c : Cmd) : Bool :=
  s.cmds.any (fun p => p.1 < h && p.2.q == c.q && !p.2.ended) ||
  s.hostWr.any (fun w => w.h < h && (match Tab.get? s.cmds w.h with
    | some d => d.q == c.q
    | none => true) && w.ctx == c.ctx)

/-- Whether a command carries the dependence flag (Table 10-1). -/
def Cmd.dep (c : Cmd) : Bool := bitAt (field c.pkt 0 8) 30

/-- Whether an earlier flagged command of the same queue has not issued its first read yet, behind which the reads of the commands
after it wait (R207). -/
def State.firstReadBefore (s : State) (h : Nat) (c : Cmd) : Bool :=
  s.cmds.any (fun p => p.1 < h && p.2.q == c.q && p.2.phase == .ready && p.2.dep && !p.2.begun)

/-- Whether `dep` lets the command go on (R207, R234, R256, R257): FENCE_WAIT and BARRIER wait by their own rules; a FENCE_SIGNAL and a
BUOY, which read nothing, wait for their own flag only; every other command also waits behind flagged commands. [DEDUCED, log 88] -/
def State.mayRead (s : State) (h : Nat) (c : Cmd) : Bool :=
  if c.opcode = 0x11 ∨ c.opcode = 0x12 then true
  else (!c.dep || !s.earlierBusy h c) && (c.opcode == 0x10 || c.opcode == 0x13 || !s.firstReadBefore h c)

end Sys2Proof.Machine
end

