-- ==== Sys2Proof/Machine/Clock.lean ====
section
/-! DEFINITION. Whether the engine runs, and which of its clock domains do (R341, R355, R359, R363). -/

namespace Sys2Proof.Machine

/-- Whether the engine has power, is not tripped and no reset input is low. -/
def State.live (s : State) : Bool := s.powered && !s.trip && s.boot.step != 0

/-- Whether a slice's tick counter runs: out of reset, or restarting with `seq` not in reset (Table 16-4: steps 1, 2, and 5
on). [DEDUCED, log 46; DESIGN CHOICE, log 30] -/
def Slice.clocked (l : Slice) : Bool := l.run == 2 || (l.run == 1 && (decide (l.rstep ≤ 2) || decide (5 ≤ l.rstep)))

/-- The clock domains of a pool slice and of the keeper that crossing queues join (Table 15-1). -/
inductive Domain where
  | vat
  | seq
  | mc
  | ring
  | spoke
  | host
  | mgmt
  | trace
deriving DecidableEq, Repr

/-- The boot step and the restart step with which a domain of a slice leaves reset (Tables 16-1 and 16-4); the tables name no step for
`host`, which is taken to leave reset with `seq`. [DESIGN CHOICE, log 60] -/
def Domain.steps (d : Domain) : Nat × Nat :=
  match d with
  | .vat => (11, 7)
  | .mc => (6, 6)
  | .ring => (5, 5)
  | _ => (3, 4)

/-- Whether a domain of PSn, or of the keeper, is out of reset: in a restart all eight domains of the slice run until step 3
(R359, R363). -/
def State.domUp (s : State) (n : Nat) (d : Domain) : Bool :=
  match d with
  | .mgmt => s.live
  | .trace => s.live
  | _ =>
    let l := s.slices.getD n {}
    s.live && ((l.run == 2 && decide (d.steps.1 ≤ s.boot.step)) ||
      (l.run == 1 && (decide (l.rstep ≤ 2) || decide (d.steps.2 ≤ l.rstep))))

end Sys2Proof.Machine
end

