-- ==== Sys2Proof/Machine/Wire.lean ====
section
/-! DEFINITION. What leaves the engine: flits over the modules of a link direction (R318 to R321), command-port transactions (R326),
answers to FLUSH (R279), and optical frames over the port that the route table names (R328, R329, R331). -/

namespace Sys2Proof.Machine

open Sys2Proof

/-! Link directions and modules. -/

/-- A link direction. -/
def State.link (s : State) (l : Nat) : LinkDir := Tab.getD s.links l {}

/-- Change a link direction. -/
def State.modLink (s : State) (l : Nat) (f : LinkDir → LinkDir) : State := { s with links := Tab.set s.links l (f (s.link l)) }

/-- A module. -/
def State.linkMod (s : State) (l m : Nat) : LinkMod := Tab.getD s.mods (8 * l + m) {}

/-- Change a module. -/
def State.modMod (s : State) (l m : Nat) (f : LinkMod → LinkMod) : State :=
  { s with mods := Tab.set s.mods (8 * l + m) (f (s.linkMod l m)) }

/-- Modules of a link direction (Table 14-1), by the numbering of FLIT_RECEIVE. -/
def modulesOf (l : Nat) : Nat := if l < 12 then (if l % 3 = 2 then 4 else 8) else if l < 22 then 4 else 1

/-- The direction that leads back from the receiver of direction `l` to its sender; between the keeper and another die both have one
number, and their modules are taken to be in one state. [DESIGN CHOICE, log 56] -/
def linkBack (l : Nat) : Nat :=
  if l < 12 then (if l % 3 = 0 then 3 * ((l / 3 + 3) % 4) + 1 else if l % 3 = 1 then 3 * ((l / 3 + 1) % 4) else 12 + l / 3)
  else if l < 16 then 3 * (l - 12) + 2
  else l

/-- The ring links of `k` hops from slice `a` in ascending slice number, and in descending (R12). -/
def ringUp (a k : Nat) : List Nat := (List.range k).map (fun i => 3 * ((a + i + 1) % 4))
def ringDown (a k : Nat) : List Nat := (List.range k).map (fun i => 3 * ((a + 3 * i + 3) % 4) + 1)

/-- The links that traffic from slice `a` to slice `b` takes: the shorter way round the ring, for two hops the way that the plan's `route`
fixes (R12, Table 2-3); the other way round where a link of it is down (R323). -/
def ringPath (route : Nat) (down : Nat → Bool) (a b : Nat) : List Nat :=
  let k := (b + 4 - a) % 4
  let up := ringUp a k
  let dn := ringDown a ((4 - k) % 4)
  let falls := if k = 2 then bitAt route (a % 2) else k == 3
  let way := if falls then dn else up
  if way.any down then (if falls then up else dn) else way

/-- Whether an asker reaches the stacks of a slice: a command over the ring from its own slice. -/
def State.reaches (s : State) (who : Who) (n : Nat) : Bool :=
  match who with
  | .cmd h => match Tab.get? s.cmds h with
    | some c => !(ringPath (field c.image 0xF 1) (fun l => (s.link l).down) c.slice n).any (fun l => (s.link l).down)
    | none => true
  | _ => true

/-- Whether a module is in the rotation: FULL or HALF (R319). -/
def State.carries (s : State) (l m : Nat) : Bool := (s.linkMod l m).state == 1 || (s.linkMod l m).state == 2

/-- A flit (Table 14-2). -/
def flitOf (head : Nat) (payload : List Byte) : List Byte :=
  let l := natLE 2 head ++ padTo 250 0 payload
  l ++ natLE 4 (crc32c l)

/-! Dealing (R319). -/

/-- The module that takes the next data flit, the turn after it and the HALF modules that pass then: ascending module numbers, a HALF
module every second turn, its first turn taken. [DESIGN CHOICE, log 56] -/
def State.deal (s : State) (l turn : Nat) (passes : List Nat) (fuel : Nat) : Option (Nat × Nat × List Nat) :=
  match fuel with
  | 0 => none
  | n + 1 =>
    let m := turn % modulesOf l
    if (s.linkMod l m).state = 1 then some (m, m + 1, passes)
    else if (s.linkMod l m).state = 2 then
      (if passes.contains m then s.deal l (m + 1) (delNat passes m) n else some (m, m + 1, insNat passes m))
    else s.deal l (m + 1) passes n

/-- Deal the next flit that is not sent, if there is one and a module takes it. -/
def State.linkDeal (s : State) (l : Nat) : State :=
  let d := s.link l
  if d.unsent = 0 then s
  else match s.deal l d.turn d.passes (2 * modulesOf l), d.replay.drop (d.replay.length - d.unsent) with
    | some (m, t, ps), x :: _ =>
      (s.modLink l (fun d => { d with unsent := d.unsent - 1, turn := t, passes := ps })).send (.flit l m (flitOf x.1 x.2))
    | _, _ => s

/-- Deal what is not sent, while modules take it. -/
def State.linkPump (s : State) (l : Nat) : State := (List.range (s.link l).unsent).foldl (fun acc _ => acc.linkDeal l) s

/-- Send a payload over link `l` as a data flit: it waits while 512 flits are unacknowledged (R320) and while no module is in the
rotation (R321); a direction that is down delivers nothing (R323). [DESIGN CHOICE, log 56] -/
def State.linkSend (s : State) (l : Nat) (payload : List Byte) : State :=
  let d := s.link l
  let p := padTo 250 0 payload
  if d.down then s
  else if d.replay.length < 512 then
    (s.modLink l (fun d => { d with next := (d.next + 1) % 4096, replay := d.replay ++ [(d.next, p)], unsent := d.unsent + 1 })).linkPump l
  else s.modLink l (fun d => { d with waiting := d.waiting ++ [p] })

/-- Send waiting payloads, as far as the replay buffer has room. -/
def State.linkWaiting (s : State) (l : Nat) (fuel : Nat) : State :=
  match fuel with
  | 0 => s
  | n + 1 =>
    match (s.link l).waiting with
    | [] => s
    | p :: r => if (s.link l).replay.length < 512 then ((s.modLink l (fun d => { d with waiting := r })).linkSend l p).linkWaiting l n else s

/-- A firewall port. -/
def State.fwp (s : State) (p : Nat) : FwPort := Tab.getD s.fw p {}

/-- Change a firewall port. -/
def State.modFw (s : State) (p : Nat) (f : FwPort → FwPort) : State := { s with fw := Tab.set s.fw p (f (s.fwp p)) }

/-- The receiver of direction `l` sends a control flit: `ack` is the `seq` expected, and at a command port the credits owed return with
it (R320, R326). It goes on the lowest module of the way back that is in the rotation; with none it is not sent.
[DESIGN CHOICE, log 56] -/
def State.linkControl (s : State) (l : Nat) (nak : Bool) : State :=
  let b := linkBack l
  match (List.range (modulesOf b)).find? (s.carries b) with
  | none => s
  | some m =>
    let d := s.link l
    let back := if 22 ≤ l then (s.fwp (l - 22)).owed else 0
    let s1 := s.modLink l (fun d => { d with unacked := 0, nakGap := if nak then 0 else d.nakGap })
    let s2 := if back = 0 then s1 else s1.modFw (l - 22) (fun f => { f with credits := satTo 64 (f.credits + back), owed := 0 })
    s2.send (.flit b m (flitOf 0x8000 (natLE 2 (d.expected + (if nak then 0x8000 else 0)) ++ natLE 2 back)))

/-! Command ports (R326). -/

/-- A command-port transaction of the engine: header of Table 14-5 and data. -/
def cmdTransaction (type x off tag : Nat) (data : List Byte) (poison : Bool) : List Byte :=
  natLE 1 type ++ natLE 1 (data.length - 1) ++ natLE 2 x ++ natLE 2 off ++ natLE 1 tag ++ [0] ++ natLE 1 (if poison then 1 else 0) ++
  List.replicate 7 0 ++ data

/-- Answer a read: at a host port, or at a command port, there in a flit if the read came in one. -/
def State.answer (s : State) (port : Nat) (tag : Option Nat) (x off : Nat) (data : List Byte) (poison : Bool) : State :=
  if 4 ≤ port ∧ (s.link (18 + port)).down = true then s
  else
    let s1 := s.send (.readData port data poison)
    match tag with
    | some t => s1.linkSend (18 + port) (cmdTransaction 3 x off t data poison)
    | none => s1

/-- Refuse a read at a command port (type 4 and no data). [DESIGN CHOICE, log 9] -/
def State.refuseRead (s : State) (port : Nat) (tag : Option Nat) (x off : Nat) : State :=
  let s1 := s.send (.error port)
  match tag with
  | some t => s1.linkSend (18 + port) (cmdTransaction 4 x off t [] false)
  | none => s1

/-- A request of the chiplet at port `port` takes a credit; a read is outstanding until it completes. [DEDUCED, log 70] -/
def State.fwTake (s : State) (port : Nat) (read : Bool) : State :=
  if port < 4 then s
  else s.modFw (port - 4) (fun f => { f with credits := f.credits - 1, reads := if read then f.reads + 1 else f.reads })

/-- A request of a command port is complete: the next control flit returns its credit. -/
def State.fwReturn (s : State) (port : Nat) (read : Bool) : State :=
  if port < 4 then s
  else s.modFw (port - 4) (fun f => { f with owed := f.owed + 1, reads := if read then f.reads - 1 else f.reads })

/-- Return the credits owed at command port `port`, if there are any. -/
def State.creditBack (s : State) (port : Nat) : State :=
  if port < 4 ∨ (s.fwp (port - 4)).owed = 0 ∨ (s.link (18 + port)).down = true then s else s.linkControl (18 + port) false

/-! FLUSH (R279). -/

/-- The slice whose tick a FLUSH returns: the port's, or for a command port the context's `home_slice`. -/
def State.flushSlice (s : State) (port x : Nat) : Nat := if port < 4 then port else (s.ctx x).home

/-- CTX_FLUSH as slice `n` reads it for context `x`: its tick, and in [63] that the context is not OPEN. -/
def State.flushWord (s : State) (n x : Nat) : Nat := s.tickOf n % 2 ^ 63 + (if s.isOpen x then 0 else 2 ^ 63)

/-- Answer a FLUSH. -/
def State.flushAnswer (s : State) (f : FlushWait) : State :=
  s.answer f.port f.tag f.ctx 0x010 (natLE 8 (s.flushWord (s.flushSlice f.port f.ctx) f.ctx)) false

/-- Answer a FLUSH that waited: its command port's credit returns. -/
def State.flushDone (s : State) (f : FlushWait) : State := ((s.flushAnswer f).fwReturn f.port true).creditBack f.port

/-- Answer the FLUSH reads that wait for nothing more (R279). -/
def State.flushSettle (s : State) : State :=
  (s.flushes.filter (fun f => f.waits.isEmpty)).foldl State.flushDone { s with flushes := s.flushes.filter (fun f => !f.waits.isEmpty) }

/-! Optical ports and routes. -/

/-- Optical port `p`. -/
def State.optic (s : State) (p : Nat) : OptPort := Tab.getD s.optics p {}

/-- Change an optical port. -/
def State.modOptic (s : State) (p : Nat) (f : OptPort → OptPort) : State := { s with optics := Tab.set s.optics p (f (s.optic p)) }

/-- Whether the photonic attachment of port `p` is up (R323). -/
def State.attached (s : State) (p : Nat) : Bool := s.live && decide (4 ≤ s.boot.step) && !(s.link (16 + p)).down

/-- Whether a port could carry frames: its attachment is up, its die is locked (R342) and it has eight wavelengths (R330). -/
def State.portFit (s : State) (p : Nat) : Bool := s.attached p && (s.optic p).lock && decide (8 ≤ (s.optic p).lambda)

/-- Whether a port is down (R323, R329, R330, R342). -/
def State.portDown (s : State) (p : Nat) : Bool := !s.portFit p || (s.optic p).dead

/-- The primary and the alternate port of a route entry (R331). -/
def State.routeEntry (s : State) (e : Nat) : Nat × Nat :=
  let b := s.kreg (0xA00 + 8 * (e / 8)) / 256 ^ (e % 8) % 256
  (b % 8, b / 16 % 8)

/-- Whether a port is up and its direct partner present. -/
def State.usable (s : State) (p : Nat) : Bool := decide (p < 6) && !s.portDown p && (s.optic p).present

/-- The port on which a frame to engine `e` leaves, if any (R331). -/
def State.routePort (s : State) (e : Nat) : Option Nat :=
  let r := s.routeEntry e
  if s.usable r.1 then some r.1 else if s.usable r.2 then some r.2 else none

/-! Frames. -/

/-- A frame but for its `seq` and check (Table 14-6). -/
def frameOf (dst src cls len hops : Nat) (payload : List Byte) : List Byte :=
  natLE 1 dst ++ natLE 1 src ++ natLE 2 (cls % 16 + len % 256 * 16 + hops % 8 * 4096) ++ [0, 0, 0, 0] ++ padTo 244 0 payload

/-- A frame with its `seq` and its check. -/
def stampFrame (f : List Byte) (seq : Nat) : List Byte :=
  let l := f.take 4 ++ natLE 2 seq ++ [0, 0] ++ (f.drop 8).take 244
  l ++ natLE 4 (crc32c l)

/-- The engine a frame is for. -/
def Frame.dst (f : Frame) : Nat :=
  match f with
  | .bytes l => field l 0 1
  | .peer e _ => e

/-- A frame as it leaves on port `p`. -/
def Frame.msg (f : Frame) (p seq : Nat) : Msg :=
  match f with
  | .bytes l => .frame p (stampFrame l seq)
  | .peer e m => .toPeer p seq e m

/-- Send a frame on a port; with 640 frames unacknowledged it waits (R329). -/
def State.sendFrame (s : State) (p : Nat) (f : Frame) : State :=
  let o := s.optic p
  if o.replay.length < 640 then
    (s.modOptic p (fun o => { o with txSeq := (o.txSeq + 1) % 65536, replay := o.replay ++ [(o.txSeq, f, 1)] })).send (f.msg p o.txSeq)
  else s.modOptic p (fun o => { o with waiting := o.waiting ++ [f] })

/-- Send a frame to the engine it names by the route entry in force now; without a port it is not sent (R331). -/
def State.sendRouted (s : State) (f : Frame) : State :=
  match s.routePort f.dst with
  | some p => s.sendFrame p f
  | none => s

/-- Send what waited, as far as there is room: a beacon on its port, every other frame by the route in force now (R331). -/
def State.sendWaiting (s : State) (p : Nat) (fuel : Nat) : State :=
  match fuel with
  | 0 => s
  | n + 1 =>
    match (s.optic p).waiting with
    | [] => s
    | f :: r =>
      if 640 ≤ (s.optic p).replay.length then s
      else
        let s1 := s.modOptic p (fun o => { o with waiting := r })
        (if f.dst = 0xFF then s1.sendFrame p f else s1.sendRouted f).sendWaiting p n

/-- Send a link-control frame on port `p`: not numbered, not routed (Table 14-7, R329). [DESIGN CHOICE, log 98] -/
def State.frameCtl (s : State) (p : Nat) (nak : Bool) (ack : Nat) : State :=
  s.send (.frame p (stampFrame (frameOf ((s.optic p).partner.getD 0xFF) s.self 0xF 3 0 (natLE 2 ack ++ [if nak then 1 else 0])) 0))

/-- Send a message to a peer engine; to an engine that is not present, or that no route reaches, none is sent (R331, R336).
[DEDUCED, log 82; DESIGN CHOICE, log 90] -/
def State.toPeer (s : State) (engine : Nat) (m : PeerMsg) : State :=
  if presentIn s.self s.declared engine then s.sendRouted (.peer engine m) else s

end Sys2Proof.Machine
end

