-- ==== Sys2Proof/Machine/Access.lean ====
section
/-! DEFINITION. How the engine reaches memory for a context (R269, R277, R281 to R287): translation, firewall ranges, page
bias, host lines; what an access still awaits; reads as data with poison, and the writes of a command. -/

namespace Sys2Proof.Machine

open Sys2Proof

/-- Something an access waits for. -/
inductive Need where
  | ats (r : AtsReq)
  | line (r : LineReq)
  | peer (engine : Nat) (w : Want)
  /-- the page is flipping (Table 12-5), or its stack's slice is in reset (R352) -/
  | flip (page : Nat)
deriving DecidableEq, Repr

/-- A fault event of a read or write, not yet recorded (R261). `site` is the place that one command records once: 4 × the device sector,
4 × the host line + 1, 4 × the context page + 2 for a refused read and + 3 for a refused write. -/
structure FaultEv where
  slice : Nat
  cause : Nat
  which : Nat
  addr : Nat
  coords : List Nat
  site : Option Nat := none
deriving DecidableEq, Repr

/-- A value with what it awaits and the fault events met on the way. -/
structure Acc (α : Type) where
  val : α
  needs : List Need := []
  evs : List FaultEv := []
deriving DecidableEq, Repr

/-- Continue with the value. -/
def Acc.bind {α β : Type} (a : Acc α) (f : α → Acc β) : Acc β :=
  let b := f a.val
  { val := b.val, needs := a.needs ++ b.needs, evs := a.evs ++ b.evs }

/-- Apply a function to the value. -/
def Acc.map {α β : Type} (a : Acc α) (f : α → β) : Acc β := { val := f a.val, needs := a.needs, evs := a.evs }

/-- Give each event and translation request the coordinates that its address has. -/
def Acc.recoord {α : Type} (a : Acc α) (f : Nat → List Nat) : Acc α :=
  { val := a.val,
    needs := a.needs.map (fun n => match n with
      | .ats r => .ats { r with coords := f r.addr }
      | n => n),
    evs := a.evs.map (fun e => { e with coords := f e.addr }) }

/-- Continue with the value once nothing is awaited for it; until then ask only for that. -/
def Acc.bindReady {α β : Type} (a : Acc α) (d : β) (f : α → Acc β) : Acc β :=
  if a.needs.isEmpty then a.bind f else { val := d, needs := a.needs, evs := a.evs }

/-- All values of a list in order. -/
def Acc.list {α : Type} : List (Acc α) → Acc (List α)
  | [] => { val := [] }
  | a :: r => a.bind (fun x => (Acc.list r).map (fun xs => x :: xs))

/-- Who accesses memory for a context: the asker of its translations and lines, the context, the ranges that confine it
(R269), the pages refused to it so far (R285), and the places of faults already recorded. -/
structure Actor where
  who : Who
  ctx : Nat
  pasid : Nat
  fw : Option FwList
  faulted : List (Nat × Bool) := []
  noted : List Nat := []
deriving DecidableEq, Repr

/-- The actor of command `h`. -/
def State.actor (s : State) (h : Nat) (c : Cmd) : Actor :=
  { who := .cmd h, ctx := c.ctx, pasid := (s.ctx c.ctx).pasid, fw := c.fw, faulted := c.faulted.map (fun r => (r.page, r.write)), noted := c.noted }

/-- Whether a context address lies in a range of the list; no list confines nothing (R269). [DEDUCED, log 13] -/
def inRanges (fw : Option FwList) (addr : Nat) : Bool :=
  match fw with
  | none => true
  | some l => l.ranges.any (fun r => decide (r.1 ≤ addr ∧ addr < r.2))

/-- What the translation of a context page gives: a device page, a host page, refused, or not here yet. -/
inductive Where where
  | device (page : Nat)
  | host (page : Nat)
  | refused
  | awaited
deriving DecidableEq, Repr

/-- Translate a context page for `a` at a slice (R284, R285). A refused read refuses every later access to the page; a refused write every
later write: a command makes all its reads before its first write. [DEDUCED, log 21] -/
def State.translate (s : State) (a : Actor) (slice page : Nat) (write : Bool) : Where :=
  if a.faulted.any (fun f => f.1 == page && (write || !f.2)) then .refused
  else match (s.slc slice).atc.find? (fun x => x.pasid == a.pasid && x.page == page && (if write then x.write else x.read)) with
    | some x => if x.toDevice then .device x.target else .host x.target
    | none => .awaited

/-- A line of a host-bias page must have been granted to the asker before the access (Table 12-5): the need, if any. [DEDUCED, log 22] -/
def State.lineNeed (s : State) (who : Who) (own : Bool) (addr : Nat) : List Need :=
  if !s.hostBias addr then []
  else if s.lines.any (fun l => l.who == who && l.device && l.line == addr / 64 && (l.own || !own)) then []
  else [.line { slice := sliceOf addr, who := who, device := true, own := own, line := addr / 64 }]

/-- The needs of an access to `n` bytes of device memory at `addr`: no page is flipping (Table 12-5), the slice of each stack runs
(R352), no stack is in T3, in which it serves nothing (R302), the ring leads there (R12, R323), the page's bias entry can be read or is in the slice's
cache (R365), and lines of host-bias pages are granted. [DEDUCED, log 47; DESIGN CHOICE, log 93] -/
def State.devNeeds (s : State) (who : Who) (own : Bool) (addr n : Nat) : List Need :=
  if n = 0 ∨ Config.devBytes ≤ addr then []
  else
    let m := min n (Config.devBytes - addr)
    ((List.range ((addr + m - 1) / 2097152 + 1 - addr / 2097152)).filter (fun i =>
      let a := 2097152 * (addr / 2097152 + i)
      s.flipping a || !s.sliceUp (sliceOf a) || !s.reaches who (sliceOf a) ||
        (!s.sliceUp 0 && !Config.biasCached (a / 2097152) s.freeCtr) || (s.chan (stackOf a)).state == 3)).map (fun i => .flip (addr / 2097152 + i)) ++
    (List.range ((addr + m - 1) / 64 + 1 - addr / 64)).flatMap (fun i => s.lineNeed who own (64 * (addr / 64 + i)))

/-- The fault events of a read at context address `addr` that met poison: one for each sector of 32 bytes at device address
`dev`, or each host line of 64, at its first byte read (R261); none for a place already noted. [DEDUCED, log 79] -/
def poisonEv (noted : List Nat) (host : Bool) (slice which : Nat) (coords : List Nat) (addr dev : Nat) (l : List PB) : List FaultEv :=
  let u := if host then 64 else 32
  let site := fun (i : Nat) => 4 * ((dev + i) / u) + (if host then 1 else 0)
  (l.zipIdx.filter (fun x => x.1.p != 0 && (x.2 == 0 || (dev + x.2) % u == 0) && !noted.contains (site x.2))).map (fun x =>
    { slice := slice, cause := x.1.p, which := which, addr := addr + x.2, coords := coords, site := some (site x.2) })

/-- The fault event of an access to a page whose translation was refused (R285): one for the page and direction. [DEDUCED, log 79] -/
def pageEv (noted : List Nat) (slice which : Nat) (coords : List Nat) (addr : Nat) (write : Bool) : List FaultEv :=
  let site := 4 * (addr / 4096) + (if write then 3 else 2)
  if noted.contains site then [] else [{ slice := slice, cause := 1, which := which, addr := addr, coords := coords, site := some site }]

/-- `n` bytes at `addr` as the engine reads them itself: beyond device memory nothing answers, and every byte there arrives as from an
uncorrectable sector. [DESIGN CHOICE, log 78] -/
def State.devBytes (s : State) (addr n : Nat) : List PB :=
  (s.dev.read addr n).zipIdx.map (fun x => if addr + x.2 < Config.devBytes then x.1 else { b := 0, p := 2 })

/-- Read device memory for an actor without translation: table rows, plan images, descriptors. A fault record names the
device address, `which` 8 for rows and 4 for images. [DESIGN CHOICE, log 20] -/
def State.devRead (s : State) (a : Actor) (slice which : Nat) (coords : List Nat) (addr n : Nat) : Acc (List PB) :=
  let l := s.devBytes addr n
  { val := l, needs := s.devNeeds a.who false addr n, evs := poisonEv a.noted false slice which coords addr addr l }

/-- Bytes of one host line that has been delivered to the asker (R287). -/
def State.hostLine (s : State) (who : Who) (slice line lo n : Nat) : Acc (List PB) :=
  match s.lines.find? (fun l => l.who == who && !l.device && l.line == line) with
  | some l => { val := (padTo n 0 ((l.data.drop lo).take n)).map (fun b => { b := b, p := if l.poisoned then 4 else 0 }) }
  | none => { val := List.replicate n { b := 0 },
              needs := [.line { slice := slice, who := who, device := false, own := false, line := line }] }

/-- Pieces of a range that do not cross a multiple of `g`: start and length of each. -/
def pieces (g addr n fuel : Nat) : List (Nat × Nat) :=
  match fuel with
  | 0 => []
  | k + 1 =>
    if n = 0 then []
    else
      let m := min n (g - addr % g)
      (addr, m) :: pieces g (addr + m) (n - m) k

/-- The pieces of a range, by pages or lines of `g` bytes. -/
def piecesOf (g addr n : Nat) : List (Nat × Nat) := pieces g addr n (n / g + 2)

/-- Bytes of one page of context memory. -/
def State.readPage (s : State) (a : Actor) (slice which : Nat) (coords : List Nat) (addr n : Nat) : Acc (List PB) :=
  if !inRanges a.fw addr then
    { val := List.replicate n { b := 0, p := 3 },
      evs := [{ slice := slice, cause := 3, which := which, addr := addr, coords := coords }] }
  else match s.translate a slice (addr / 4096) false with
    | .refused => { val := List.replicate n { b := 0, p := 1 }, evs := pageEv a.noted slice which coords addr false }
    | .awaited => { val := List.replicate n { b := 0 },
                    needs := [.ats { slice := slice, who := a.who, ctx := a.ctx, page := addr / 4096, write := false,
                                     which := which, addr := addr, coords := coords }] }
    | .device p =>
      let d := p * 4096 + addr % 4096
      let l := s.dev.read d n
      { val := l, needs := s.devNeeds a.who false d n, evs := poisonEv a.noted false slice which coords addr d l }
    | .host p =>
      let d := p * 4096 + addr % 4096
      let r := (Acc.list ((piecesOf 64 d n).map (fun q => s.hostLine a.who slice (q.1 / 64) (q.1 % 64) q.2))).map List.flatten
      { r with evs := poisonEv a.noted true slice which coords addr d r.val }

/-- Read `n` bytes of context memory (R284 to R287). -/
def State.ctxRead (s : State) (a : Actor) (slice which : Nat) (coords : List Nat) (addr n : Nat) : Acc (List PB) :=
  (Acc.list ((piecesOf 4096 addr n).map (fun q => s.readPage a slice which coords q.1 q.2))).map List.flatten

/-- Read from a context's staging area at a slice (R272): `off` is a window offset. -/
def State.stageRead (s : State) (a : Actor) (slice which : Nat) (coords : List Nat) (off n : Nat) : Acc (List PB) :=
  let d := Config.stageBase slice + a.ctx * 0x10000 + off
  let l := s.dev.read d n
  { val := l, evs := poisonEv a.noted false slice which coords off d l }

/-- A list by its source: 1 the window, otherwise context memory (R70). -/
def State.listRead (s : State) (a : Actor) (slice src which : Nat) (coords : List Nat) (addr n : Nat) : Acc (List PB) :=
  if src = 1 then s.stageRead a slice which coords addr n else s.ctxRead a slice which coords addr n

/-! Writes. -/

/-- What becomes of one page of an output write: its device bytes, its host bytes, or nothing. -/
structure Landing where
  device : List (Nat × List PB) := []
  host : List (Nat × List PB) := []
  suppressed : Bool := false
deriving DecidableEq, Repr

/-- The fault coordinates of the byte of `w` at `addr` (Table 11-8). -/
def OutWr.coordsAt (w : OutWr) (addr : Nat) : List Nat :=
  if w.unit = 0 then w.coords
  else w.coords.dropLast ++ (w.coords.getLast?.map (fun c => c + (addr - w.addr) / w.unit)).toList

/-- One page of an output write (R220, R269, R277, R284). -/
def State.writePage (s : State) (a : Actor) (w : OutWr) (addr : Nat) (bs : List PB) : Acc Landing :=
  if !inRanges a.fw addr then
    { val := { suppressed := true },
      evs := [{ slice := w.slice, cause := 3, which := w.which, addr := addr, coords := w.coordsAt addr }] }
  else match s.translate a w.slice (addr / 4096) true with
    | .refused => { val := { suppressed := true }, evs := pageEv a.noted w.slice w.which (w.coordsAt addr) addr true }
    | .awaited => { val := {}, needs := [.ats { slice := w.slice, who := a.who, ctx := a.ctx, page := addr / 4096, write := true,
                                                which := w.which, addr := addr, coords := w.coordsAt addr }] }
    | .device p =>
      let d := p * 4096 + addr % 4096
      { val := { device := [(d, bs)] }, needs := s.devNeeds a.who true d bs.length }
    | .host p => { val := { host := [(p * 4096 + addr % 4096, bs)] } }

/-- An output write, page by page. -/
def State.writeAcc (s : State) (a : Actor) (w : OutWr) : Acc (List Landing) :=
  Acc.list ((piecesOf 4096 w.addr w.bytes.length).map (fun q =>
    s.writePage a w q.1 ((w.bytes.drop (q.1 - w.addr)).take q.2)))

/-- Data bits of poisoned bytes are free (R110): the `i`-th byte from the free counter; a byte whose data a rule states keeps it (R90).
[DESIGN CHOICE, log 23] -/
def freeData (ctr : Nat) (bs : List PB) : List PB :=
  (List.range bs.length).map (fun i =>
    let x := bs.getD i { b := 0 }
    if x.p = 0 ∨ x.p = markedData then x else { x with b := Config.freeByte (ctr + i) })

/-- Whether a device address lies in a region that only the engine itself writes: the fence store (R254) and the copy of the capability
table (R246). A write of a command or of the host leaves it as it is. [DESIGN CHOICE, log 89] -/
def guarded (a : Nat) : Bool :=
  decide (Config.fenceBase ≤ a ∧ a < Config.fenceBase + 64 * Config.fences) || decide (Config.capPtr ≤ a ∧ a < Config.capPtr + 192)

/-- The runs of bytes of a write at `a` that do not lie in a guarded region: address and bytes of each. -/
def openRuns (a : Nat) : List PB → List (Nat × List PB)
  | [] => []
  | b :: r =>
    if guarded a then openRuns (a + 1) r
    else match openRuns (a + 1) r with
      | (k, l) :: t => if k = a + 1 then (a, b :: l) :: t else (a, [b]) :: (k, l) :: t
      | [] => [(a, [b])]

/-- A write of a command or of the host to device memory: guarded bytes stay. -/
def State.outWrite (s : State) (a : Nat) (bs : List PB) : State :=
  if bs.zipIdx.any (fun x => guarded (a + x.2)) then (openRuns a bs).foldl (fun acc p => acc.devWrite p.1 p.2) s else s.devWrite a bs

/-- Land the device bytes of a write; poisoned bytes take free data. -/
def State.landDevice (s : State) (l : List (Nat × List PB)) : State :=
  l.foldl (fun acc p => { acc.outWrite p.1 (freeData acc.freeCtr p.2) with freeCtr := acc.freeCtr + p.2.length }) s

/-- Issue the host bytes of a write, line by line, behind earlier writes of the slice and context (R277); a line with a
poisoned byte is written with poison (R287). -/
def State.landHost (s : State) (slice x h : Nat) (l : List (Nat × List PB)) : State :=
  l.foldl (fun acc p =>
    let bs := freeData acc.freeCtr p.2
    let ws := (piecesOf 64 p.1 bs.length).map (fun q =>
      let part := (bs.drop (q.1 - p.1)).take q.2
      { slice := slice, ctx := x, h := h, addr := q.1, bytes := dataOf part, poisoned := anyPoison part : HostWr })
    { acc with hostWr := acc.hostWr ++ ws, freeCtr := acc.freeCtr + p.2.length }) s

/-- Land one output write. -/
def State.landWrite (s : State) (x h slice : Nat) (l : List Landing) : State :=
  l.foldl (fun acc w => (acc.landDevice w.device).landHost slice x h w.host) s

/-- Everything a command's output writes await and meet. -/
def State.outAcc (s : State) (a : Actor) (ws : List OutWr) : Acc (List (OutWr × List Landing)) :=
  Acc.list (ws.map (fun w => (s.writeAcc a w).map (fun l => (w, l))))

/-- Land a list of output writes in order. -/
def State.landAll (s : State) (x h : Nat) (l : List (OutWr × List Landing)) : State :=
  l.foldl (fun acc p => acc.landWrite x h p.1.slice p.2) s

/-- Whether any page of the writes was suppressed (R86, R136, R220). -/
def anySuppressed (l : List (OutWr × List Landing)) : Bool := l.any (fun p => p.2.any Landing.suppressed)

/-! Recording what an access met. -/

/-- The events of a list without those whose sector or host line an earlier one names. [DEDUCED, log 79] -/
def onceEach (seen : List Nat) : List FaultEv → List FaultEv
  | [] => []
  | e :: r => match e.site with
    | none => e :: onceEach seen r
    | some k => if seen.contains k then onceEach seen r else e :: onceEach (k :: seen) r

/-- Record fault events for a command, in order (R261): one for each sector, host line or refused page that it met. [DEDUCED, log 79] -/
def State.faults (s : State) (c : Cmd) (evs : List FaultEv) : State :=
  (onceEach [] evs).foldl (fun acc e => acc.faultEvent e.slice c.ctx c.q c.seq c.opcode e.cause e.which e.addr e.coords) s

/-- Ask for what is awaited, each thing once: translations, lines, rows of peers. [DEDUCED, log 82; DESIGN CHOICE, log 2, 6] -/
def State.ask (s : State) (h : Nat) (n : Need) : State :=
  match n with
  | .ats r =>
    if s.atsReqs.any (fun q => q.slice == r.slice && q.who == r.who && q.page == r.page && q.write == r.write) then s
    else { s with atsReqs := s.atsReqs ++ [r] }
  | .line r => if s.lineReqs.contains r then s else { s with lineReqs := s.lineReqs ++ [r] }
  | .peer e w =>
    if s.peerReqs.any (fun q => q.h == h && q.want == w && q.peer == e) then s
    else
      let s1 := match Tab.get? s.cmds h, w with
        | some c, .row r =>
          let t := field c.pkt 8 2 % 4096
          s.toPeer e (.rowRequest t (((Tab.get? s.tables t).map Table.mapId).getD 0) r s.nextTag)
        | _, _ => s
      { s1 with peerReqs := s1.peerReqs ++ [{ tag := s.nextTag, h := h, peer := e, want := w }], nextTag := s.nextTag + 1 }
  | .flip _ => s

/-- Ask for everything awaited. -/
def State.askAll (s : State) (h : Nat) (l : List Need) : State := l.foldl (fun acc n => acc.ask h n) s

/-- A command waits: it has issued its first read (R207), and asks for everything that it awaits. -/
def State.await (s : State) (h : Nat) (l : List Need) : State := (s.modCmd h (fun c => { c with begun := true })).askAll h l

/-- Drop what was granted to an asker when it has ended. What it has asked for is outstanding at the port until its response comes, which
an invalidation may wait for (R286). -/
def State.release (s : State) (who : Who) : State := { s with lines := s.lines.filter (fun l => l.who != who) }

/-! Host writes that waits count. -/

/-- Complete the invalidations that wait for nothing more (R286). -/
def State.invalSettle (s : State) : State :=
  let free := fun (v : Inval) => v.waits.isEmpty && v.reads.isEmpty
  (s.invals.filter free).foldl (fun acc v => acc.send (.invalDone v.port)) { s with invals := s.invals.filter (fun v => !free v) }

/-- The waits of a list after only the host writes that satisfy `keep` go on: of the first `k` writes of a slice and context that a wait
counts, those that go on. -/
def State.keptWaits (s : State) (keep : HostWr → Bool) (l : List ((Nat × Nat) × Nat)) : List ((Nat × Nat) × Nat) :=
  (l.map (fun p => (p.1, (((s.hostWr.filter (fun w => w.slice == p.1.1 && w.ctx == p.1.2)).take p.2).filter keep).length))).filter
    (fun p => p.2 != 0)

/-- Give up the host writes that do not satisfy `keep`: they are never issued, and no FLUSH and no invalidation waits for them (R262, R279,
R286). -/
def State.dropWrites (s : State) (keep : HostWr → Bool) : State :=
  ({ s with
      hostWr := s.hostWr.filter keep,
      flushes := s.flushes.map (fun f => { f with waits := (s.keptWaits keep (f.waits.map (fun p => ((p.1, f.ctx), p.2)))).map (fun p => (p.1.1, p.2)) }),
      invals := s.invals.map (fun v => { v with waits := (s.keptWaits keep (v.waits.map (fun p => ((v.port, p.1), p.2)))).map (fun p => (p.1.2, p.2)) }) } :
    State).flushSettle.invalSettle

/-- The places of the events of a list. -/
def sitesOf (evs : List FaultEv) : List Nat := evs.filterMap FaultEv.site

end Sys2Proof.Machine
end

