-- ==== Sys2Proof/Machine/Operands.lean ====
section
/-! DEFINITION. Operand forms: the packet header and parameter areas (Tables 10-1, 10-4 to 10-10), plan images (Tables
2-4 to 2-7), stream sets (Table 9-1), multicast trees (R36, R214), stream descriptors (R203), shard maps (Tables 2-1,
2-2) and table descriptors (Tables 8-1, 8-2). -/

namespace Sys2Proof.Machine

open Sys2Proof

/-! Packets. -/

/-- A packet field of `n` bytes at offset `o`. -/
def Cmd.fld (c : Cmd) (o n : Nat) : Nat := field c.pkt o n

/-- The fields of a packet header (Table 10-1). -/
structure Header where
  opcode : Nat
  context : Nat
  plan : Nat
  dep : Bool
  reserved : Bool
  seq : Nat
  gen : Nat
  wait : Nat
  sig : Nat
deriving DecidableEq, Repr

/-- Read a header. -/
def headerOf (p : List Byte) : Header :=
  let w := field p 0 8
  { opcode := bits w 7 0, context := bits w 19 8, plan := bits w 29 20, dep := bitAt w 30, reserved := bitAt w 31,
    seq := bits w 47 32, gen := bits w 55 48, wait := bits w 59 56, sig := bits w 63 60 }

/-- Whether an opcode is in Table 10-2. -/
def opcodeKnown (o : Nat) : Bool :=
  decide (1 ≤ o ∧ o ≤ 12) || decide (0x10 ≤ o ∧ o ≤ 0x13) || decide (0x20 ≤ o ∧ o ≤ 0x24) || o == 0x30

/-- Whether an opcode is a management opcode (R227). -/
def opcodeMgmt (o : Nat) : Bool := decide (0x20 ≤ o)

/-- Whether a LOOKUP or LOOKUP_POOL packet has an extension slot (R230). -/
def hasExt (p : List Byte) : Bool :=
  let o := field p 0 1
  let src := bits (field p 0xA 1) 4 3
  let n := if o = 2 then field p 0xE 2 else field p 0xC 2
  (o == 1 || o == 2) && src == 0 && decide (5 ≤ n ∧ n ≤ 12)

/-- `ext_chk` of an extension slot and a header (R231). -/
def extCheck (p ext : List Byte) : Nat :=
  (List.range 16).foldl (fun acc i => acc ^^^ field ext (4 * i) 4) (field p 4 4)

/-- The table number of a packet. -/
def Cmd.table (c : Cmd) : Nat := c.fld 8 2 % 4096

/-- Whether an opcode names a table. -/
def namesTable (o : Nat) : Bool := decide (1 ≤ o ∧ o ≤ 8) || decide (0x21 ≤ o ∧ o ≤ 0x23)

/-- `src` of a packet that has one. -/
def Cmd.src (c : Cmd) : Nat := bits (c.fld 0xA 1) 4 3

/-- Inline index word `i` (R230). -/
def Cmd.inlineWord (c : Cmd) (i : Nat) : Nat := if i < 4 then c.fld (0x20 + 8 * i) 8 else field c.ext (8 * (i - 4)) 8

/-- Reserved parts of a parameter area as (offset, bytes, mask of reserved bits in the little-endian field), by opcode
(Tables 10-4 to 10-10). -/
def reservedParts (p : List Byte) : List (Nat × Nat × Nat) :=
  let tab : Nat × Nat × Nat := (8, 2, 0xF000)
  let inline := bits (field p 0xA 1) 4 3 == 0
  match field p 0 1 with
  | 0x01 =>
    [tab, (0xA, 1, 0xE6), (0xB, 1, 0xF0), (0xE, 2, 0xFFFF)] ++ (if hasExt p then [] else [(0x1C, 4, 0xFFFFFFFF)]) ++
    (if inline then [] else [(0x28, 8, 2 ^ 64 - 1), (0x30, 8, 2 ^ 64 - 1), (0x38, 8, 2 ^ 64 - 1)])
  | 0x02 =>
    [tab, (0xA, 1, 0xE0), (0xB, 1, 0xF0)] ++ (if hasExt p then [] else [(0x1C, 4, 0xFFFFFFFF)]) ++
    (if inline then [] else [(0x38, 8, 2 ^ 64 - 1)])
  | 0x03 => [tab, (0xA, 1, 0x80), (0xB, 1, 0xE0), (0xC, 1, 0x80), (0xD, 3, 2 ^ 24 - 1), (0x20, 8, 0xFFFFFF0000000000)]
  | 0x04 => [tab, (0xA, 1, 0xE7), (0xB, 1, 0xF0), (0xC, 4, 0xFFFF0000), (0x30, 16, 2 ^ 128 - 1)]
  | 0x05 => [tab, (0xA, 1, 0xF8), (0xB, 1, 0xFF), (0x38, 8, 2 ^ 64 - 1)]
  | 0x06 => [tab, (0xA, 1, 0xE6), (0xB, 1, 0xF0), (0xC, 4, 0xFFFF0000), (0x1C, 4, 2 ^ 32 - 1), (0x28, 24, 2 ^ 192 - 1)]
  | 0x07 => [tab, (0xA, 1, 0xFE), (0xB, 1, 0xFF), (0xC, 4, 0xFFFF0000), (0x20, 32, 2 ^ 256 - 1)]
  | 0x08 => [tab, (0xA, 2, 0xFFFF), (0x18, 40, 2 ^ 320 - 1)]
  | 0x09 => [(8, 2, 0xFFFF), (0xA, 1, 0xE7), (0xC, 4, 2 ^ 32 - 1), (0x30, 16, 2 ^ 128 - 1)]
  | 0x0A => [(8, 2, 0xFFFF), (0xA, 1, 0xE7), (0xB, 1, 0xFF), (0x20, 32, 2 ^ 256 - 1)]
  | 0x0B => [(0xA, 1, 0xFE), (0xC, 4, 0xFFFFFF00), (0x18, 40, 2 ^ 320 - 1)]
  | 0x0C => [(0xA, 1, 0xFC), (0xC, 4, 0xFFFFFF00), (0x18, 40, 2 ^ 320 - 1)]
  | 0x10 => [(8, 4, 2 ^ 32 - 1), (0x18, 40, 2 ^ 320 - 1)]
  | 0x11 => [(8, 4, 2 ^ 32 - 1), (0x1C, 36, 2 ^ 288 - 1)]
  | 0x12 => [(8, 2, 0xFFFF), (0xA, 1, 0xFE), (0xB, 1, 0xFF), (0x18, 40, 2 ^ 320 - 1)]
  | 0x13 => [(8, 56, 2 ^ 448 - 1)]
  | 0x20 => [(8, 2, 0xF000), (0xA, 1, 0xFC), (0xB, 1, 0xFF), (0x18, 40, 2 ^ 320 - 1)]
  | 0x21 => [tab, (0xB, 5, 2 ^ 40 - 1), (0x18, 40, 2 ^ 320 - 1)]
  | 0x22 => [tab, (0xA, 54, 2 ^ 432 - 1)]
  | 0x23 => [tab, (0xB, 1, 0xFF), (0x18, 40, 2 ^ 320 - 1)]
  | 0x24 => [(8, 2, 0xF000), (0xA, 54, 2 ^ 432 - 1)]
  | 0x30 => [(0xA, 2, 0xFFFF), (0x18, 40, 2 ^ 320 - 1)]
  | _ => []

/-- Whether every reserved field of the packet is zero (stage 13, R235). -/
def reservedZero (p : List Byte) : Bool :=
  !(headerOf p).reserved && (reservedParts p).all (fun r => field p r.1 r.2.1 &&& r.2.2 == 0)

/-! Plan images. -/

/-- A section: offset, size and count (Table 2-5). -/
structure Sec where
  type : Nat
  off : Nat
  size : Nat
  count : Nat
deriving DecidableEq, Repr

/-- The directory of an image. -/
def secsOf (img : List Byte) : List Sec :=
  (List.range (field img 0xC 2)).map (fun i =>
    { type := field img (0x40 + 16 * i) 2, off := field img (0x44 + 16 * i) 4,
      size := field img (0x48 + 16 * i) 4, count := field img (0x4C + 16 * i) 4 })

/-- The section of a type; an absent one is empty. -/
def secOf (img : List Byte) (t : Nat) : Sec :=
  ((secsOf img).find? (fun x => x.type == t)).getD { type := t, off := 0, size := 0, count := 0 }

/-- Entry `i` of `n` bytes of a section. -/
def secEntry (img : List Byte) (t n i : Nat) : List Byte := slice img ((secOf img t).off + n * i) n

/-- A field of `n` bytes at `o` within a section. -/
def secField (img : List Byte) (t o n : Nat) : Nat := field img ((secOf img t).off + o) n

/-- `slice_mask` of an image. -/
def sliceMask (img : List Byte) : Nat := field img 7 1 % 16

/-- The peer list (section 6). -/
def peersOf (img : List Byte) : List Nat := (List.range (secOf img 6).count).map (fun i => secField img 6 i 1)

/-- Variants of an image. -/
def variantCount (img : List Byte) : Nat := (secOf img 7).count

/-- Loss mask and schedule index for an opcode of variant `v` (R37). -/
def variantMask (img : List Byte) (v : Nat) : Nat := leNat ((secEntry img 7 96 v).take 32)
def variantSched (img : List Byte) (v op : Nat) : Nat := field (secEntry img 7 96 v) (32 + 2 * op) 2

/-- The active variant (R39): the first whose mask covers every lost peer; `lost` says which engine numbers are lost. -/
def activeVariant (img : List Byte) (lost : Nat → Bool) : Nat :=
  let peers := peersOf img
  let need := (List.range peers.length).filter (fun i => lost (peers.getD i 0))
  ((List.range (variantCount img)).find? (fun v => need.all (fun i => bitAt (variantMask img v) i))).getD 0

/-- The schedule entry of an opcode under a variant (Table 2-7). -/
def schedOf (img : List Byte) (v op : Nat) : List Byte := secEntry img 2 32 (variantSched img v op)

/-- `issue_rows`, 0 meaning 256. -/
def issueRows (sched : List Byte) : Nat := if field sched 1 1 = 0 then 256 else field sched 1 1

/-- The reduction descriptor of a schedule (Table 2-6). -/
def redOf (img sched : List Byte) : List Byte := secEntry img 3 64 (field sched 2 2)

/-- Number of parts of a descriptor. -/
def partsOf (red : List Byte) : Nat :=
  let p := bits (field red 0 1) 7 4
  if bitAt (field red 0 1) 3 then p + 1 else 2 ^ p

/-- The arithmetic shape of a descriptor (R32). -/
def shapeOf (red : List Byte) : Shape :=
  let b := field red 0 1
  { g := 4 * 2 ^ (b % 4), comp := bitAt b 2, free := bitAt b 3, parts := partsOf red,
    bounds := (List.range 11).map (fun i => field red (20 + 4 * i) 4) }

/-- A vat byte ([7:6] slice, [3:0] vat) as slice × 16 + vat. -/
def vatByte (b : Nat) : Nat := 16 * bits b 7 6 + b % 16

/-- The binding of a table in an image: map_id and format (Table 2-5). -/
def bindingOf (img : List Byte) (t : Nat) : Option (Nat × Nat) :=
  ((List.range (secOf img 1).count).map (fun i => leNat (secEntry img 1 8 i))).findSome? (fun w =>
    if w % 4096 = t then some (bits w 63 32, bits w 19 16) else none)

/-! Stream sets. -/

/-- The stream entries of a set that starts at byte `o` of the section. -/
def setEntriesAt (img : List Byte) (o : Nat) : List (List Byte) :=
  let base := (secOf img 4).off + o
  (List.range (field img base 2)).map (fun i => slice img (base + 8 + 16 * i) 16)

/-- The byte offset of stream set `k` within its section. -/
def setOffset (img : List Byte) (k : Nat) : Nat :=
  (List.range k).foldl (fun o _ => o + 8 + 16 * secField img 4 o 2) 0

/-- The stream entries of set `k`. -/
def setEntries (img : List Byte) (k : Nat) : List (List Byte) := setEntriesAt img (setOffset img k)

/-- Role of a stream entry, and its vat. -/
def entryRole (e : List Byte) : Nat := field e 4 1 % 16
def entryVat (e : List Byte) : Nat := vatByte (field e 0 1)

/-- Whether a schedule's set has an entry of a role on a vat. -/
def hasRoleOn (img sched : List Byte) (role vat : Nat) : Bool :=
  (setEntries img (field sched 4 2)).any (fun e => entryRole e == role && entryVat e == vat)

/-! Multicast trees. -/

/-- First node and node count of tree `t` (R36). -/
def treeSpan (img : List Byte) (t : Nat) : Nat × Nat := (secField img 5 (4 * t) 2, secField img 5 (4 * t + 2) 2)

/-- A node: its consumer field and its parent (R35, R214). -/
def treeNode (img : List Byte) (t i : Nat) : Nat × Nat :=
  let o := roundUp (4 * (secOf img 5).count) 8 + 8 * ((treeSpan img t).1 + i)
  (secField img 5 o 2, secField img 5 (o + 2) 2)

/-- Whether a node is a buffer slot, and its writing slice and number (R214). -/
def nodeIsSlot (n : Nat × Nat) : Bool := bitAt n.1 15
def nodeSlice (n : Nat × Nat) : Nat := bits n.1 7 6
def nodeSlot (n : Nat × Nat) : Nat := n.1 % 64

/-- All nodes of a tree. -/
def treeNodes (img : List Byte) (t : Nat) : List (Nat × Nat) := (List.range (treeSpan img t).2).map (treeNode img t)

/-! Stream descriptors. -/

/-- A descriptor (Table 9-3). -/
structure Desc where
  base : Nat
  run : Nat
  counts : List Nat
  strides : List Int
deriving DecidableEq, Repr

/-- A 48-bit two's-complement stride. -/
def stride48 (v : Nat) : Int := if v < 2 ^ 47 then (v : Int) else (v : Int) - (2 ^ 48 : Nat)

/-- Fields of a descriptor. -/
def descOf (l : List Byte) : Desc :=
  { base := field l 0 8, run := field l 8 4, counts := (List.range 5).map (fun k => field l (0x10 + 2 * k) 2),
    strides := (List.range 5).map (fun k => stride48 (field l (0x20 + 6 * k) 6)) }

/-- Length of a descriptor in bytes, over its `d` dimensions. -/
def Desc.length (x : Desc) (d : Nat) : Nat := (x.counts.take d).foldl (· * ·) x.run

/-- Whether a descriptor obeys R203. -/
def descLegal (l : List Byte) : Bool :=
  let x := descOf l
  let d := field l 0xC 1
  decide (1 ≤ x.run ∧ x.run ≤ 65536) && decide (1 ≤ d ∧ d ≤ 5) && field l 0xD 3 == 0 && field l 0x1A 6 == 0 &&
  field l 0x3E 2 == 0 && (x.counts.take d).all (fun n => n != 0) && (x.counts.drop d).all (fun n => n == 0) &&
  (x.strides.drop d).all (fun n => n == 0) && decide (x.length d ≤ 2 ^ 40)

/-- The coordinates of linear element `i`, i0 fastest (R203). -/
def Desc.coords (x : Desc) (d i : Nat) : List Nat :=
  ((x.counts.take d).foldl (fun (acc : List Nat × Nat) n => (acc.1 ++ [acc.2 % n], acc.2 / n)) ([], i)).1

/-- The address of linear element `i`. -/
def Desc.addr (x : Desc) (d i : Nat) : Nat :=
  let cs := x.coords d i
  let off := (List.range d).foldl (fun (acc : Int) k => acc + ((cs.getD k 0 : Nat) : Int) * x.strides.getD k 0) 0
  (((x.base : Int) + off) % ((2 ^ 64 : Nat) : Int)).toNat

/-! Owners, shard maps and table descriptors. -/

/-- The parts of an owner descriptor (Table 2-2). -/
def ownEngine (d : Nat) : Nat := d % 256
def ownStack (d : Nat) : Nat := 3 * bits d 9 8 + bits d 11 10

/-- Whether an owner descriptor is legal in a group of `g` engines; [31:16] are ignored. -/
def ownerLegal (g d : Nat) : Bool := decide (ownEngine d < g) && decide (bits d 11 10 < 3) && bits d 15 12 == 0

/-- The buckets of a map image. -/
def mapBuckets (m : List Byte) : List Nat := (List.range (field m 0x18 4)).map (fun i => field m (0x40 + 8 * i) 8)

/-- The replica sets of a map image: four owner descriptors each. -/
def setsAt (m : List Byte) (o n : Nat) : List (List Nat) :=
  (List.range n).map (fun i => (List.range 4).map (fun k => field m (o + 16 * i + 4 * k) 4))

def mapSets (m : List Byte) : List (List Nat) := setsAt m (0x40 + 8 * field m 0x18 4) (field m 0x30 4)

/-- Bytes of a map image by its header. -/
def mapSize (m : List Byte) : Nat := 0x40 + 8 * field m 0x18 4 + 16 * field m 0x30 4 + 16 * field m 0x34 4

/-- The override entries of a map image. -/
def mapOvrs (m : List Byte) : List Ovr :=
  let o := 0x40 + 8 * field m 0x18 4 + 16 * field m 0x30 4
  (List.range (field m 0x34 4)).map (fun i =>
    { row := field m (o + 16 * i) 5, owner := field m (o + 16 * i + 8) 4, slot := field m (o + 16 * i + 12) 4 })

/-- The layer of replicas in a bucket table: `replica_set` and `rep_ordinal` of each bucket as a layer image has them. -/
def repsOf (buckets : List Nat) : List Nat := buckets.map (fun b => bits b 31 16 + 0x10000 * bits b 63 48)

/-- A region field of stack `k` of a table descriptor (Table 8-2). -/
def Table.region (t : Table) (k o : Nat) : Nat := field t.desc (0x40 + 64 * k + o) 8
def Table.stateStride (t : Table) : Nat := field t.desc 0x20 4
def Table.updPart (t : Table) : Nat := field t.desc 0x24 4
def Table.spillSize (t : Table) : Nat := field t.desc 0x28 4
def Table.ovrSlots (t : Table) : Nat := field t.desc 0x2C 4

/-- Slots per bucket, S of R26. -/
def Table.slots (t : Table) : Nat := cdiv t.rows t.buckets.length

/-- Buckets the map places on stack `k` of engine `e`. -/
def Table.onStack (t : Table) (e k : Nat) : Nat := (t.buckets.filter (fun b => ownEngine b == e && ownStack b == k)).length

/-- Where a copy of a row lies: engine, stack, region (0 row, 1 replica, 2 override) and slot in it (R26 to R28). -/
structure Loc where
  engine : Nat
  stack : Nat
  region : Nat
  slot : Nat
deriving DecidableEq, Repr

/-- `walk(t, r)` of a table (R25). -/
def Table.place (t : Table) (num r : Nat) : Nat := walk t.key num t.mbits t.rows r

/-- The bucket of a row (R26). -/
def Table.bucket (t : Table) (num r : Nat) : Nat := t.place num r % t.buckets.length

/-- The owner of a row by the bucket table (R26). -/
def Table.bucketOwner (t : Table) (num r : Nat) : Loc :=
  let p := t.place num r
  let b := t.buckets.getD (p % t.buckets.length) 0
  { engine := ownEngine b, stack := ownStack b, region := 0, slot := bits b 47 32 * t.slots + p / t.buckets.length }

/-- The override of a row, if any. -/
def ovrOf (l : List Ovr) (r : Nat) : Option Ovr := l.find? (fun o => o.row == r)

/-- The location an override names (R28). -/
def ovrLoc (o : Ovr) : Loc := { engine := ownEngine o.owner, stack := ownStack o.owner, region := 2, slot := o.slot }

/-- The owner of a row: steps 2 and 3 of Table 2-3. -/
def Table.owner (t : Table) (y : Layer) (num r : Nat) : Loc :=
  match ovrOf y.ovr r with
  | some o => ovrLoc o
  | none => t.bucketOwner num r

/-- The replica positions of a row without an override under a layer: its locations in set order (R27). -/
def Table.replicas (t : Table) (reps : List Nat) (sets : List (List Nat)) (num r : Nat) : List Loc :=
  let p := t.place num r
  let v := reps.getD (p % t.buckets.length) 0
  if v % 65536 = 0 then []
  else ((sets.getD (v % 65536 - 1) []).filter (fun d => d != 0xFFFFFFFF)).map (fun d =>
    { engine := ownEngine d, stack := ownStack d, region := 1, slot := v / 65536 * t.slots + p / t.buckets.length })

/-- The copy that serves a read of row `r` by engine `self` under presence map `m` (R420), none if the row is absent. -/
def Table.copyFor (t : Table) (y : Layer) (num r self m : Nat) : Option Loc :=
  match ovrOf y.ovr r with
  | some o => if presentIn self m (ovrLoc o).engine then some (ovrLoc o) else none
  | none =>
    let o := t.bucketOwner num r
    let reps := t.replicas y.reps y.sets num r
    if presentIn self m o.engine then some ((reps.find? (fun l => l.engine == self)).getD o)
    else reps.find? (fun l => l.engine == self || presentIn self m l.engine)

/-- Base of a region on a stack, primary or alternate (Table 8-2). -/
def Table.base (t : Table) (l : Loc) (alt : Bool) : Nat :=
  t.region l.stack (match l.region with
    | 0 => if alt then 0x20 else 0x00
    | 1 => if alt then 0x28 else 0x08
    | _ => if alt then 0x30 else 0x10)

/-- Device address of a copy in its primary (slot 0) or alternate (slot 1) region (R192). -/
def Table.addrOf (t : Table) (l : Loc) (alt : Bool) : Nat := t.base l alt + l.slot * t.stride

/-- Slots of the region a location lies in, on this engine. -/
def Table.regionSlots (t : Table) (self : Nat) (reps : List Nat) (sets : List (List Nat)) (l : Loc) : Nat :=
  match l.region with
  | 0 => t.onStack self l.stack * t.slots
  | 1 =>
    let qs := reps.filterMap (fun v =>
      if v % 65536 ≠ 0 ∧ (sets.getD (v % 65536 - 1) []).any (fun d => d != 0xFFFFFFFF && ownEngine d == self && ownStack d == l.stack)
      then some (v / 65536 + 1) else none)
    qs.foldl max 0 * t.slots
  | _ => t.ovrSlots

/-- Device address of the version entry of a copy (R192): behind the mirrored rows of the alternate region. -/
def Table.versionAddr (t : Table) (self : Nat) (reps : List Nat) (sets : List (List Nat)) (l : Loc) : Nat :=
  t.base l true + t.regionSlots self reps sets l * t.stride + 4 * l.slot

/-- Device address of the state row of a row's owner location (R157): override slots follow the bucket slots. -/
def Table.stateAddr (t : Table) (self : Nat) (l : Loc) : Nat :=
  t.region l.stack 0x18 + (if l.region = 2 then t.onStack self l.stack * t.slots + l.slot else l.slot) * t.stateStride

/-- Stored bytes of a row of the table. -/
def Table.stored (t : Table) : Nat := storedBytes t.fmt t.dim

end Sys2Proof.Machine
end

