-- ==== Sys2Proof/Machine/Ring.lean ====
section
/-! DEFINITION. Streams (R199 to R202, R211 to R214): the slot rings of a command in the stream SRAM of its vats, what each ring may do, the
streams that terms come through, and the order in which a vat starts tiles. -/

namespace Sys2Proof.Machine

open Sys2Proof

/-! One ring (R202). -/

/-- Filled slots: what the counters differ by. -/
def Ring.filled (r : Ring) : Nat := (r.tail + 2 * r.slots - r.head) % (2 * r.slots)

/-- Empty when the counters are equal; its consumer then receives the buoy item, from which no term comes (R202, R349). -/
def Ring.isEmpty (r : Ring) : Bool := r.head == r.tail

/-- Full when the counters differ by `slots`. -/
def Ring.isFull (r : Ring) : Bool := r.filled == r.slots

/-- Whether the producer may write a slot: not full, and fewer slots filled than `ahead`, for which 0 means `slots`. -/
def Ring.mayFill (r : Ring) : Bool := !r.isFull && decide (r.filled < (if r.ahead = 0 then r.slots else r.ahead))

/-- The producer completes a slot. -/
def Ring.fill (r : Ring) : Ring := { r with tail := (r.tail + 1) % (2 * r.slots) }

/-- The consumer takes the oldest slot: each is consumed once. -/
def Ring.take (r : Ring) : Ring := { r with head := (r.head + 1) % (2 * r.slots) }

/-- Stream SRAM of a ring. -/
def Ring.bytes (r : Ring) : Nat := r.slots * r.size

/-- The ring of a stream entry (Table 9-1). -/
def entryRing (e : List Byte) : Ring := { slots := field e 1 1, size := 32 * field e 2 2, ahead := field e 5 1 }

/-! The rings of a command. -/

/-- The schedule of a command's opcode, and the entries of its stream set. -/
def Cmd.schedule (c : Cmd) : List Byte := schedOf c.image c.variant c.opcode
def Cmd.streamSet (c : Cmd) : List (List Byte) := setEntries c.image (field c.schedule 4 2)

/-- The multicast tree of a command's schedule, if it names one (R36). -/
def multicastTree (c : Cmd) : Option Nat :=
  let t := field c.schedule 6 2
  if t = 0xFFFF then none else some t

/-- The vat that a TILE_READ or TILE_WRITE names. -/
def Cmd.tileVat (c : Cmd) : Nat := 16 * c.fld 8 1 + c.fld 9 1

/-- A ring of the first Multicast entry of a vat (R214). -/
def Cmd.mcRing (c : Cmd) (vat : Nat) : Ring :=
  ((c.streamSet.find? (fun e => entryRole e == 5 && entryVat e == vat)).map entryRing).getD {}

/-- The vat of a tree node that forwards, or on which a detached buffer slot has its ring: for a slot that of its parent (R217). -/
def nodeVat (img : List Byte) (t i : Nat) : Nat :=
  let n := treeNode img t i
  vatByte ((if nodeIsSlot n then (treeNode img t n.2).1 else n.1) % 256)

/-- The rings that a command has on its vats: for opcodes 1 to 5 those of its stream set, for STREAM that of its Transfer entry, for MULTICAST
one for each vat node and each buffer slot that reads on its own, for TILE_READ and TILE_WRITE those of its vat. [DESIGN CHOICE, log 91] -/
def Cmd.rings (c : Cmd) : List (Nat × Ring) :=
  let of := fun (l : List (List Byte)) => l.map (fun e => (entryVat e, entryRing e))
  if 1 ≤ c.opcode ∧ c.opcode ≤ 5 then of c.streamSet
  else if c.opcode = 9 then of (((c.streamSet.filter (fun e => entryRole e == 4)).drop (c.fld 0xB 1)).take 1)
  else if c.opcode = 0xA then match multicastTree c with
    | none => []
    | some t => (List.range (treeSpan c.image t).2).map (fun i =>
        (nodeVat c.image t i, match c.nodes[i]? with
          | some n => n.ring
          | none => if nodeIsSlot (treeNode c.image t i) then {} else c.mcRing (nodeVat c.image t i)))
  else if c.opcode = 0xB then of (c.streamSet.filter (fun e => entryRole e == 3 && entryVat e == c.tileVat))
  else if c.opcode = 0xC then of (c.streamSet.filter (fun e => entryRole e == 2 && entryVat e == c.tileVat))
  else []

/-- Stream SRAM that a list of rings takes on a vat. -/
def ringBytes (l : List (Nat × Ring)) (vat : Nat) : Nat := ((l.filter (fun r => r.1 == vat)).map (fun r => r.2.bytes)).sum

/-- The rings allocated: those of the commands that have first issued and have not completed (R201). No ring is shared. -/
def State.rings (s : State) : List (Nat × Ring) := (s.cmds.filter (fun p => p.2.begun && !p.2.ended)).flatMap (fun p => p.2.rings)

/-- Whether rings fit in what their vats have free. -/
def State.ringsFit (s : State) (l : List (Nat × Ring)) : Bool :=
  l.all (fun r => decide (ringBytes s.rings r.1 + ringBytes l r.1 ≤ Config.streamSram))

/-- Whether a command has its rings, or finds room for them: until then its first issue waits (R201). [DESIGN CHOICE, log 91] -/
def State.ringsFree (s : State) (c : Cmd) : Bool := c.begun || s.ringsFit c.rings

/-! Streams of terms. -/

/-- The entries of a role on a vat, as numbers in set order. -/
def streamsOn (set : List (List Byte)) (role vat : Nat) : List Nat :=
  (List.range set.length).filter (fun i => match set[i]? with
    | some e => entryRole e == role && entryVat e == vat
    | none => false)

/-- The Rows entry of a vat through which bag `b` of a command, or the part of it that the vat reduces, comes; for SCORE_TOPK the `b`-th
bucket of the vat's deal (R211). -/
def Cmd.rowsStream (c : Cmd) (vat b : Nat) : Option Nat :=
  let l := streamsOn c.streamSet 0 vat
  l[b % l.length]?

/-- The slice through which a data command's queries and weights are fetched: that of the root of the tree that delivers them, or its own
(R214). -/
def Cmd.feedSlice (c : Cmd) : Nat :=
  match multicastTree c with
  | some t => nodeSlice (treeNode c.image t 0)
  | none => c.slice

/-- The vats that a data command's tree feeds: its vat nodes (R214). -/
def Cmd.fedVats (c : Cmd) : List Nat :=
  match multicastTree c with
  | some t => ((treeNodes c.image t).filter (fun n => !nodeIsSlot n)).map (fun n => vatByte (n.1 % 256))
  | none => []

/-! The order of tiles on a vat (R117, R213). -/

/-- The vats on which a command has rings. -/
def Cmd.vats (c : Cmd) : List Nat := nubNat (c.rings.map Prod.fst)

/-- Whether an earlier TILE_READ or TILE_WRITE on one of the vats has not ended: it precedes the tiles of later commands
(R117). -/
def State.tilesBefore (s : State) (h : Nat) (used : List Nat) : Bool :=
  s.cmds.any (fun p => p.1 < h && (p.2.opcode == 0xB || p.2.opcode == 0xC) && !p.2.ended && used.contains p.2.tileVat)

/-- Whether command `d` runs as a pair of `c`: the schedule of `c` names the plan of `d` as `pair_plan`, and the context is the same (R213). -/
def Cmd.pairs (c d : Cmd) : Bool := field c.schedule 8 2 != 0 && field c.schedule 8 2 == d.plan && c.ctx == d.ctx

/-- Whether a vat that the command may use owes its turn to a command admitted before: a tile read or write, or a LOOKUP_POOL that has not
pooled and of which this one is no pair (R117, R213). -/
def State.turnsBefore (s : State) (h : Nat) (c : Cmd) : Bool :=
  s.tilesBefore h c.vats ||
  s.cmds.any (fun p => p.1 < h && p.2.opcode == 2 && p.2.phase == .ready && !p.2.pairs c && p.2.vats.any c.vats.contains)

end Sys2Proof.Machine
end

