-- ==== Sys2Proof/Machine/Flags.lean ====
section
/-! DEFINITION. Status and count words: completion records (Table 10-14), the context state word (Table 11-6), queue and
ring status words (Table 11-5), the fault record's bytes (Table 11-8), and the status that ends a command (R91, R136,
R146, R163, R193, R220). -/

namespace Sys2Proof.Machine

open Sys2Proof

/-- The first status whose condition holds, else OK (R244). -/
def firstStatus : List (Bool × Nat) → Nat
  | [] => 0
  | (b, st) :: r => if b then st else firstStatus r

/-- A 32-bit count, saturating (R243). [DEDUCED, log 73] -/
def count32 (n : Nat) : Nat := satTo 0xFFFFFFFF n

/-- The 32 bytes of a completion record (Table 10-14). -/
def recordBytes (c : Cmd) (phase : Bool) (tick : Nat) : List Byte :=
  natLE 2 c.seq ++ natLE 1 c.status ++ natLE 1 c.detail ++ natLE 1 c.opcode ++ natLE 1 (if phase then 1 else 0) ++
  natLE 2 (c.q % 16384) ++ natLE 4 (count32 c.c0) ++ natLE 4 (count32 c.c1) ++ natLE 4 (count32 c.c2) ++
  natLE 4 (count32 c.c3) ++ natLE 8 ((c.aux.map BitVec.toNat).getD tick)

/-- CTX_STATE of context `x` (Table 11-6). -/
def State.ctxWord (s : State) (x : Nat) : Nat :=
  let c := s.ctx x
  let inflight := (s.cmds.filter (fun p => p.2.ctx == x && !p.2.ended)).length
  satTo 65535 inflight * 2 ^ 32 + (s.cqs.filter (fun p => p.2.ctx == x)).length % 256 * 2 ^ 24 +
  (s.sqs.filter (fun p => p.2.ctx == x)).length % 256 * 2 ^ 16 + (if c.fault.valid then 64 else 0) +
  (if c.fw then 32 else 0) + (if c.mgmt then 16 else 0) + c.state

/-- The 128 bytes of a fault record (Table 11-8). -/
def faultBytes (f : FaultRec) : List Byte :=
  natLE 1 ((if f.valid then 1 else 0) + (if f.more then 2 else 0) + 16 * f.cause) ++ natLE 1 f.which ++ natLE 1 f.opcode ++
  natLE 1 0 ++ natLE 2 f.queue ++ natLE 2 f.seq ++ natLE 8 f.tick ++ natLE 8 f.addr ++
  ((List.range 6).flatMap (fun i => natLE 8 (f.coords.getD i 0))) ++ natLE 4 f.count ++ List.replicate 52 0

/-- CTX_SQ_STAT of a queue (Table 11-5). -/
def sqStat (q : SQ) : Nat := q.fetch % 2 ^ 32 + (if q.stopped then 2 ^ 32 else 0) + satTo 255 q.ignored * 2 ^ 40

/-- CTX_CQ_STAT of a ring. -/
def cqStat (q : CQ) : Nat := q.written % 2 ^ 32 + satTo 255 q.ignored * 2 ^ 40

/-- Free entries of a ring (R251). -/
def ringFree (q : CQ) : Nat := (2 ^ q.logSize + 2 ^ 32 - (q.written + 2 ^ 32 - q.released) % 2 ^ 32) % 2 ^ 32

/-- The status of a LOOKUP or LOOKUP_POOL (R91): the status of a length word that ended the bags, a faulted curd page,
absence, poison, drops. -/
def gatherStatus (lengthEnd : Option Nat) (suppressed : Bool) (absent poisoned dropped : Nat) : Nat :=
  match lengthEnd with
  | some cause => if cause = 1 ∨ cause = 3 then 0x16 else 0x18
  | none => firstStatus [(suppressed, 0x16), (absent != 0, 3), (poisoned != 0, 2), (dropped != 0, 1)]

end Sys2Proof.Machine
end

