-- ==== Sys2Proof/Machine/Rows.lean ====
section
/-! DEFINITION. Index words against a table (R73), whey counters (R75, R76), the copy a row is read from (R80, R82, R83,
R192, R420), writes of every copy of a row (R161, R195), and the skew monitor's counting (R178). -/

namespace Sys2Proof.Machine

open Sys2Proof

/-! Index words. -/

/-- The reason an index word is dropped for (Table 4-4); none if it is valid. `rows` is the row count of the open
table, none if the table is not open. -/
def dropReason (table : Nat) (rows : Option Nat) (poisoned : Bool) (w : Nat) : Option Nat :=
  let x := indexWord w
  if poisoned then some 0
  else if !x.valid then some 1
  else if x.reserved ≠ 0 then some 2
  else if x.table ≠ table then some 3
  else match rows with
    | none => some 4
    | some n => if n ≤ x.row then some 5 else none

/-- An index word as read: its value, whether it arrived poisoned, and why it is dropped. -/
structure Idx where
  word : Nat
  poisoned : Bool
  drop : Option Nat
deriving DecidableEq, Repr

/-- The table a command sees under its layers: none if it is not open to it (Table 2-3, step 1). -/
def State.viewOf (s : State) (c : Cmd) : Option (Table × Layer) :=
  match c.view, Tab.get? s.tables c.table with
  | some y, some t => some (t, y)
  | _, _ => none

/-- Read the index words of a list, word by word, with the coordinates of each. -/
def State.indexList (s : State) (a : Actor) (c : Cmd) (coords : Nat → List Nat) (addr n : Nat) : Acc (List Idx) :=
  let rows := (s.viewOf c).map (fun v => v.1.rows)
  Acc.list ((List.range n).map (fun i =>
    if c.src = 0 then
      { val := { word := c.inlineWord i, poisoned := false, drop := dropReason c.table rows false (c.inlineWord i) } }
    else
      (s.listRead a c.slice c.src 0 (coords i) (addr + 8 * i) 8).map (fun l =>
        { word := leNat (dataOf l), poisoned := anyPoison l,
          drop := dropReason c.table rows (anyPoison l) (leNat (dataOf l)) })))

/-- The valid words of a list: the compacted sequence (R74). -/
def validRows (l : List Idx) : List Nat := (l.filter (fun x => x.drop.isNone)).map (fun x => (indexWord x.word).row)

/-- Indices dropped of a list. -/
def droppedCount (l : List Idx) : Nat := (l.filter (fun x => x.drop.isSome)).length

/-! Whey counters. -/

/-- The counters one dropped word increments: offsets in the whey area (R75). -/
def wheyOffsets (x : Idx) : List Nat :=
  match x.drop with
  | none => []
  | some 0 => [0x8000]
  | some r => [8 * (indexWord x.word).table, 0x8000 + 8 * r]

/-- Where a counter lies, or that its increment is not made: the landing of an 8-byte access for which a host page is a
fault too (R75); an uncorrectable or poison-marked sector that it reads is an event (R261). [DEDUCED, log 17] -/
def State.wheyAcc (s : State) (a : Actor) (slice base off : Nat) : Acc (Option Nat) :=
  let w : OutWr := { slice := slice, addr := base + off, bytes := List.replicate 8 { b := 0 }, which := 12, coords := [off] }
  let r := s.writePage a w (base + off) w.bytes
  match r.val.device, r.val.host with
  | (d, _) :: _, _ => { r with val := some d, evs := r.evs ++ poisonEv a.noted false slice 12 [off] (base + off) d (s.dev.read d 8) }
  | [], _ :: _ =>
    { val := none, needs := r.needs,
      evs := r.evs ++ [{ slice := slice, cause := 1, which := 12, addr := base + off, coords := [off] }] }
  | [], [] => { r with val := none }

/-- All increments of a command's dropped words, in order; a zero base keeps no counts. -/
def State.wheyAll (s : State) (a : Actor) (slice base : Nat) (l : List Idx) : Acc (List (Option Nat)) :=
  if base = 0 then { val := [] } else Acc.list ((l.flatMap wheyOffsets).map (s.wheyAcc a slice base))

/-- The whey base of a command: the value at its admission (R401), none once its context is killed (R262). [DEDUCED, log 17] -/
def State.wheyBase (s : State) (c : Cmd) : Nat := if s.isOpen c.ctx then c.whey else 0

/-- Make the increments, each an atomic add modulo 2^64 (R76). -/
def State.wheyAdd (s : State) (l : List (Option Nat)) : State :=
  l.foldl (fun acc d => match d with
    | none => acc
    | some d => acc.devPut d (natLE 8 (acc.dev.num d 8 + 1))) s

/-! Skew monitor. -/

/-- Ticks of a skew window (R178). -/
abbrev windowTicks : Nat := 100000000

/-- Whether the tick of slice `n` lies beyond the window that runs on it. -/
def State.windowOver (s : State) (n : Nat) : Bool := decide ((s.slc n).window < (s.slc n).tick / windowTicks)

/-- The window that runs on slice `n` ends and waits for the merge; the one that holds the slice's tick begins (R178). [DESIGN CHOICE, log 58] -/
def State.rollWindow (s : State) (n : Nat) : State :=
  if !s.windowOver n then s
  else
    let hot := (List.range 3).filter (fun i => (s.chan (3 * n + i)).state != 0)
    s.modSlice n (fun l =>
      { l with ended := l.ended ++ [{ num := l.window, counts := l.skew, warm := l.warm }], skew := [], warm := hot, window := l.tick / windowTicks })

/-- Count one key in a space-saving table of 64 entries (R178): a new key takes the place of the least count, which it
inherits; among equals the lowest key goes. [DESIGN CHOICE, log 26] -/
def spaceSave (t : Tab Nat) (k : Nat) : Tab Nat :=
  match Tab.get? t k with
  | some n => Tab.set t k (n + 1)
  | none =>
    if t.length < 64 then Tab.set t k 1
    else
      let m := t.foldl (fun acc p => if p.2 < acc.2 then p else acc) (t.headD (0, 0))
      Tab.set (Tab.erase t m.1) k (m.2 + 1)

/-- Count one served row read or accepted contribution of table `num` in the window that holds the tick of its service (R178). -/
def State.skewAccess (s : State) (num stack bucket row : Nat) (hot peer : Bool) : State :=
  (s.rollWindow (stack / 3)).modSlice (stack / 3) (fun l =>
    let k := Tab.getD l.skew num {}
    let k1 := { k with
      near := if hot then k.near else k.near.set (stack % 3) (k.near.getD (stack % 3) 0 + 1),
      hot := if hot then k.hot + 1 else k.hot,
      peer := if peer then k.peer + 1 else k.peer,
      accesses := k.accesses + 1 }
    let k2 := if k1.accesses % 16 = 0 then { k1 with buckets := spaceSave k1.buckets bucket, rows := spaceSave k1.rows row } else k1
    { l with skew := Tab.set l.skew num k2 })

/-! Reading a row. -/

/-- The slot a read of a replacing table takes (R192): `entry` is the version entry, `k` the epoch number. -/
def versionSlot (entry k : Nat) : Bool :=
  let d := BitVec.ofNat 31 (k % 2 ^ 31) - BitVec.ofNat 31 (entry / 2)
  if 0 ≤ d.toInt then bitAt entry 0 else !bitAt entry 0

/-- Whether row `r` at an owner location is in the hot set of its slice under layers `y` (Table 2-3, step 4, by the epoch in force
at the read's admission, R17). [DEDUCED, log 19] -/
def isHot (y : Layer) (r : Nat) (l : Loc) : Bool := l.region != 1 && (y.hots.getD (l.stack / 3) []).contains r

/-- `n` bytes that the hot store holds of a row at `addr`: the content of its stack copy (R175), which an uncorrectable sector of the
stack does not touch; the poison marking is content. [DEDUCED, log 19] -/
def State.hotBytes (s : State) (addr n : Nat) : List PB := (s.dev.read addr n).map (fun b => if b.p = 2 then { b with p := 0 } else b)

/-- The stored bytes of one copy on this engine: under a replacing layer the slot its version entry selects, every byte
poisoned if the version sector cannot be read; a hot row is served from the hot store (R80, R192, Table 2-3 step 4). [DEDUCED, log 19] -/
def State.copyBytes (s : State) (a : Actor) (slice : Nat) (coords : List Nat) (t : Table) (y : Layer) (r : Nat) (l : Loc) :
    Acc (List PB) :=
  let n := t.stored
  if isHot y r l && !y.replacing then { val := s.hotBytes (t.addrOf l false) n }
  else if !y.replacing then s.devRead a slice 8 coords (t.addrOf l false) n
  else
    let v := t.versionAddr s.self y.reps y.sets l
    let e := s.devRead a slice 8 coords v 4
    if anyPoison e.val then { e with val := List.replicate n { b := 0, p := firstCause e.val } }
    else
      let row := s.devRead a slice 8 coords (t.addrOf l (versionSlot (leNat (dataOf e.val)) y.num)) n
      { row with needs := e.needs ++ row.needs }

/-- A row a peer has sent: the offsets of its poisoned sectors mark its bytes. -/
def replyBytes (n : Nat) (bytes : List Byte) (poison : List Nat) : List PB :=
  (List.range n).map (fun i => { b := bytes.getD i 0, p := if poison.contains (i / 32) then 4 else 0 })

/-- The copy that serves row `r` for a command (R420): chosen under the loss state of its admission, and again under each loss state
with which its slice has since lost the engine then asked (R83); a position that REPLICATE fills from a lost engine is left out
(Table 8-9). [DEDUCED, log 47] -/
def Table.served (t : Table) (y : Layer) (c : Cmd) (self r : Nat) : Option Loc :=
  c.reissue.foldl (fun l m => match l with
    | some l =>
      if l.engine ≠ self ∧ l.engine = m.1 then (if c.opcode = 8 then none else t.copyFor y c.table r self m.2) else some l
    | none => none) (t.copyFor y c.table r self c.present)

/-- A row for a command (R80 to R84): its bytes, or none if it is absent. A row on another engine is one of the peers'
replies or is asked for. [DEDUCED, log 47] -/
def State.rowRead (s : State) (a : Actor) (c : Cmd) (t : Table) (y : Layer) (coords : List Nat) (r : Nat) :
    Acc (Option (List PB)) :=
  match c.got.find? (fun g => g.1 == .row r) with
  | some (_, .row bytes poison) => { val := some (replyBytes t.stored bytes poison) }
  | some _ => { val := none }
  | none =>
    match t.served y c s.self r with
    | none => { val := none }
    | some l =>
      if l.engine = s.self then
        (if s.sliceUp (l.stack / 3) then (s.copyBytes a c.slice coords t y r l).map some else { val := none })
      else { val := some [], needs := [.peer l.engine (.row r)] }

/-- Count the reads of a command's rows that this engine's stacks or hot stores served. -/
def State.skewReads (s : State) (c : Cmd) (rows : List Nat) : State :=
  match s.viewOf c with
  | none => s
  | some (t, y) => rows.foldl (fun acc r =>
      match t.served y c s.self r with
      | some l => if l.engine = s.self then acc.skewAccess c.table l.stack (t.bucket c.table r) r (isHot y r l) false else acc
      | none => acc) s

/-! Writing a row. -/

/-- The layers of a table under which a row may be read now: those in force at the slices, and those on their way to them, so that every
copy holds the same bits under either epoch (R29, R171). -/
def State.liveLayers (s : State) (num : Nat) : List Layer :=
  s.slices.filterMap (fun l => Tab.get? l.layers num) ++ (s.adopt.filter (fun p => p.table == num)).map Pub.layer

/-- The layer that a REPLICATE fills, whose positions also take writes (R189). -/
def Table.filling (t : Table) : Layer := { reps := t.newReps, sets := t.newSets }

/-- Every copy of a row: its owner and the replicas of its bucket, none for a row with an override (R28, R161). -/
def Table.copiesUnder (t : Table) (num r : Nat) (y : Layer) : List Loc :=
  let o := t.owner y num r
  if o.region = 2 then [o] else o :: t.replicas y.reps y.sets num r

/-- Drop later repeats of locations. -/
def nubLoc (l : List Loc) : List Loc := l.foldl (fun acc a => if acc.contains a then acc else acc ++ [a]) []

/-- The copies that a write of a row under layers `y` goes to (R161, R189, R194). [DEDUCED, log 19] -/
def State.copies (s : State) (t : Table) (y : Layer) (num r : Nat) : List Loc :=
  nubLoc ((y :: s.liveLayers num).flatMap (t.copiesUnder num r) ++
    (if (t.owner y num r).region = 2 then [] else t.replicas t.newReps t.newSets num r))

/-- The copies on this engine. -/
def State.copiesHere (s : State) (t : Table) (y : Layer) (num r : Nat) : List Loc :=
  (s.copies t y num r).filter (fun l => l.engine == s.self)

/-- The other engines that hold the row or a replica of it. -/
def State.copiesAway (s : State) (t : Table) (y : Layer) (num r : Nat) : List Nat :=
  nubNat (((s.copies t y num r).filter (fun l => l.engine != s.self)).map Loc.engine)

/-- The locations whose slice is up; copies elsewhere on this engine are unreachable (R363). [DEDUCED, log 47] -/
def State.upLocs (s : State) (locs : List Loc) : List Loc := locs.filter (fun l => s.sliceUp (l.stack / 3))

/-- Needs of writing every copy here. -/
def State.copyNeeds (s : State) (who : Who) (t : Table) (locs : List Loc) : List Need :=
  (s.upLocs locs).flatMap (fun l => s.devNeeds who true (t.addrOf l false) t.stored)

/-- Write a row's stored bytes to its primary slot at each location. -/
def State.writeCopies (s : State) (t : Table) (locs : List Loc) (bytes : List PB) : State :=
  (s.upLocs locs).foldl (fun acc l => acc.devWrite (t.addrOf l false) bytes) s

/-- Stored bytes as they are written: the pad behind the content, and the pad bits of its last byte, are zero (R52); a byte's poison
stays. -/
def zeroPad (fmt dim : Nat) (l : List PB) : List PB :=
  let n := contentBytes fmt dim
  let k := (rindBytes fmt * 8 + dim * elemBits fmt) % 8
  (List.range l.length).map (fun i =>
    let x := l.getD i { b := 0 }
    if n ≤ i then { x with b := 0 } else if i + 1 = n ∧ k ≠ 0 then { x with b := BitVec.ofNat 8 (x.b.toNat % 2 ^ k) } else x)

/-- Needs of writing every copy here on a replacing table: the slot opposite each version entry, and the entry (R195). -/
def State.alternateNeeds (s : State) (who : Who) (t : Table) (y : Layer) (locs : List Loc) : List Need :=
  (s.upLocs locs).flatMap (fun l =>
    let v := t.versionAddr s.self y.reps y.sets l
    s.devNeeds who true (t.addrOf l (!bitAt (s.dev.num v 4) 0)) t.stored ++ s.devNeeds who true v 4)

/-- Write a row of a replacing table into the slot opposite each copy's version entry, and the entry as that slot under
`stamp` (R195). -/
def State.writeAlternate (s : State) (t : Table) (y : Layer) (locs : List Loc) (bytes : List PB) (stamp : Nat) : State :=
  (s.upLocs locs).foldl (fun acc l =>
    let v := t.versionAddr acc.self y.reps y.sets l
    let other := !bitAt (acc.dev.num v 4) 0
    (acc.devWrite (t.addrOf l other) bytes).devPut v (natLE 4 ((stamp % 2 ^ 31) * 2 + (if other then 1 else 0)))) s

/-- The stamp of a write: the epoch number of the table's next version publication (R195). -/
def Table.nextStamp (t : Table) : Nat := (t.layer.num + 1) % 2 ^ 32

/-- Put a row into the journal of pending writes under a stamp (R195). -/
def putJournal (l : List Journal) (num row stamp : Nat) : List Journal :=
  l.filter (fun j => !(j.table == num && j.row == row)) ++ [{ table := num, row := row, stamp := stamp }]

/-- Whether a request of a peer reads rows of table `num`. -/
def readsRows (num : Nat) (i : Instr) : Bool :=
  match i with
  | .peerRowRequest _ t _ _ _ => t == num
  | .scanRequest _ t _ _ _ _ _ _ _ _ => t == num
  | _ => false

/-- Commands that a drain does not wait for when it is a second write of a row that asks (R195): the write itself, other ROW_WRITEs that
wait as it does, and the commands that wait for them. [DEDUCED, log 19] -/
def State.awaitsWrite (s : State) (h : Nat) : Bool :=
  match Tab.get? s.cmds h with
  | none => true
  | some c => c.ended || (c.opcode == 6 && c.phase == .ready) || c.opcode == 0x21 || c.opcode == 0x22

/-- Whether the publication of stamp `k` is complete and every command admitted under an earlier epoch number has completed, so that a second
write of a row stamped `k` may go on (R195). -/
def State.stampDone (s : State) (num k : Nat) : Bool :=
  match s.drains.find? (fun d => d.table == num && d.num == k) with
  | some d => d.waits.all (fun h => s.awaitsWrite h && !s.heldPeer.any (fun p => p.id == h && readsRows num p.ins))
  | none => false

/-- Whether a row still has a write in the journal whose drain is not over, or the journal has no place for the rows (R195). -/
def State.journalBusy (s : State) (num : Nat) (rows : List Nat) : Bool :=
  rows.any (fun r => s.journal.any (fun j => j.table == num && j.row == r && !s.stampDone num j.stamp)) ||
  decide (524288 < s.journal.length + (rows.filter (fun r => !s.journal.any (fun j => j.table == num && j.row == r))).length)

/-- Write a row into its copies here: at once, or on a replacing table into the other slots, for the next version publication. -/
def State.writeRow (s : State) (num : Nat) (t : Table) (y : Layer) (row : Nat) (bytes : List PB) : State :=
  let locs := s.copiesHere t y num row
  if y.replacing then
    let s1 := (s.writeAlternate t y locs bytes t.nextStamp).modTable num (fun t => { t with unpublished := true })
    { s1 with journal := putJournal s1.journal num row t.nextStamp }
  else s.writeCopies t locs bytes

/-- What a write of a row here awaits. -/
def State.rowNeeds (s : State) (who : Who) (num : Nat) (t : Table) (y : Layer) (row : Nat) : List Need :=
  let locs := s.copiesHere t y num row
  if y.replacing then s.alternateNeeds who t y locs else s.copyNeeds who t locs

/-- Commands admitted, and requests of peers that arrived, before `h` whose reads of rows of the table are not done (R84, R164, R173,
R194): a gathering or scoring command reads when it runs, and scans again what a lost peer has not answered. -/
def State.readersBefore (s : State) (h num : Nat) : Bool :=
  s.cmds.any (fun p => p.1 < h && decide (1 ≤ p.2.opcode ∧ p.2.opcode ≤ 3) && p.2.table == num &&
    (p.2.phase == .ready || (!p.2.ended && p.2.scans.any ScanPart.pending))) ||
  s.heldPeer.any (fun p => p.id < h && readsRows num p.ins)

end Sys2Proof.Machine
end

