-- ==== Sys2Proof/Machine/Gather.lean ====
section
/-! DEFINITION. LOOKUP and LOOKUP_POOL (04_gather_and_pool.md), accumulator rows and the drain of a finished tile (R111 to
R114), seeds and claims on armed rows (R119, R120). -/

namespace Sys2Proof.Machine

open Sys2Proof

/-! Checks before admission. -/

/-- Whether a window list lies wholly inside the staging area (R70); the offset of a list of no bytes lies there too. [DESIGN CHOICE, log 84] -/
def inStaging (off n : Nat) : Bool := decide (0x1000 ≤ off ∧ off + n ≤ 0x10000)

/-- The first failing check of a list: its detail (checks in order). -/
def firstFail : List (Bool × Nat) → Option Nat
  | [] => none
  | (bad, d) :: r => if bad then some d else firstFail r

/-- Whether an output format is FP32, BF16 or FP16. -/
def outFmtOk (f : Nat) : Bool := decide (f ≤ 2)

/-- The lengths before the first that arrived poisoned, and the cause of that one (R86). -/
def lengthsOf (l : List (List PB)) : List Nat × Option Nat :=
  ((l.takeWhile (fun w => !anyPoison w)).map (fun w => leNat (dataOf w)), (l.find? anyPoison).map firstCause)

/-- The bag length list of a LOOKUP_POOL whose lists lie in the window, as check 0x25 reads it (R70). -/
def State.windowLens (s : State) (a : Actor) (c : Cmd) : Acc (Option (List Nat × Option Nat)) :=
  if c.opcode = 2 ∧ c.src = 1 ∧ 1 < c.fld 0xC 2 ∧ inStaging (c.fld 0x28 8) (2 * c.fld 0xC 2) ∧ c.fld 0x28 8 % 2 = 0 then
    (Acc.list ((List.range (c.fld 0xC 2)).map (fun b => s.stageRead a c.slice 1 [b, b] (c.fld 0x28 8 + 2 * b) 2))).map (fun l =>
      some (lengthsOf l))
  else { val := none }

/-- Checks of Table 4-3 for LOOKUP_POOL. `tile` says that the schedule selects tile order; `dim` is D of the open table. -/
def State.checkPool (s : State) (a : Actor) (c : Cmd) (tile : Bool) (dim : Option Nat) : Option Nat :=
  let b := c.fld 0xA 1
  let pool := b % 4
  let n := c.fld 0xC 2
  let fmt := c.fld 0xB 1 % 16
  let win := c.src == 1
  let lensOk := !(win && decide (1 < n)) || inStaging (c.fld 0x28 8) (2 * n)
  let total := if n ≤ 1 then c.fld 0xE 2
    else (((s.windowLens a c).val).map (fun l => l.1.sum)).getD 0
  let out := c.fld 0x10 8
  firstFail
    [ (pool == 3 || c.src == 3, 0x21),
      (n == 0 || decide (4096 < n) || (decide (1 < n) && c.src == 0), 0x22),
      (c.src == 0 && decide (12 < c.fld 0xE 2), 0x23),
      (pool == 2 && c.src == 0, 0x24),
      ((c.src != 0 && c.fld 0x20 8 % 8 != 0) || (decide (1 < n) && c.fld 0x28 8 % 2 != 0) ||
        (pool == 2 && c.fld 0x30 8 % 4 != 0) || out % (if tile then 4096 else 32) != 0 || !lensOk ||
        (win && !inStaging (c.fld 0x20 8) (8 * total)) ||
        (win && pool == 2 && !inStaging (c.fld 0x30 8) (4 * total)), 0x25),
      (!outFmtOk fmt, 0x26),
      (!tile && (decide (c.fld 0x18 4 < 32) || decide (1048576 < c.fld 0x18 4) || c.fld 0x18 4 % 32 != 0 ||
        (match dim with
          | some d => decide (c.fld 0x18 4 < d * (elemBits fmt / 8))
          | none => false)), 0x27) ]

/-- Checks of Table 4-3 for LOOKUP. `table` is format and D of the open table; of a table that is not open no row size is known, and the
lower bound of `out_stride` is 32. [DESIGN CHOICE, log 85] -/
def checkLookup (c : Cmd) (table : Option (Nat × Nat)) : Option Nat :=
  let raw := !bitAt (c.fld 0xA 1) 0
  let n := c.fld 0xC 2
  let fmt := c.fld 0xB 1 % 16
  let st := c.fld 0x18 4
  let row := match table with
    | some (f, d) => if raw then storedBytes f d else d * (elemBits fmt / 8)
    | none => 0
  firstFail
    [ (c.src == 3, 0x21),
      (n == 0, 0x22),
      (c.src == 0 && decide (12 < n), 0x23),
      ((c.src != 0 && c.fld 0x20 8 % 8 != 0) || c.fld 0x10 8 % 32 != 0 || (c.src == 1 && !inStaging (c.fld 0x20 8) (8 * n)), 0x25),
      (!raw && !outFmtOk fmt, 0x26),
      (st % 32 != 0 || decide (st < 32) || decide (1048576 < st) || decide (st < row), 0x27) ]

/-! Running a command. -/

/-- Whether a command of a killed context runs to its end (Table 11-10). -/
def Cmd.runsOn (c : Cmd) : Bool :=
  decide (6 ≤ c.opcode ∧ c.opcode ≤ 8) || decide (0x20 ≤ c.opcode ∧ c.opcode ≤ 0x24) || c.opcode == 0x10 ||
  (c.opcode == 5 && c.phase == .stage 2)

/-- Whether a command's context lets it run: OPEN, or being killed and the command runs to its end (R262, R263). -/
def State.mayRun (s : State) (c : Cmd) : Bool := s.isOpen c.ctx || ((s.ctx c.ctx).state == 2 && c.runsOn)

/-- Command `h` if it has opcode `op`, has not ended, its context may still run it, its slice runs and its reads may issue
(R207, R262). [DESIGN CHOICE, log 6] -/
def State.running (s : State) (h op : Nat) : Option Cmd :=
  match Tab.get? s.cmds h with
  | some c => if c.opcode = op ∧ !c.ended ∧ s.mayRun c ∧ (s.slc c.slice).run = 2 ∧ s.mayRead h c then some c else none
  | none => none

/-- Output elements as bytes: converted (R89), poisoned ones marked. The conversion of a poisoned element, whose value is open, counts as
any other does. [DESIGN CHOICE, log 86] -/
def outBytes (fmt : Nat) (l : List PF) : List PB × Conv :=
  let cs := l.map (fun x => (outElem fmt x.v, x.p))
  (cs.flatMap (fun c => c.1.1.map (fun b => { b := b, p := if c.2 then 4 else 0 })), Conv.sum (cs.map (fun c => c.1.2)))

/-- What the run of a gathering command comes to before it lands. -/
structure GatherOut where
  writes : List (Option Nat × OutWr) := []
  dropped : Nat := 0
  absent : Nat := 0
  poisoned : Nat := 0
  conv : Conv := {}
  press : Ev := {}
  rows : List Nat := []
  idx : List Idx := []
  lengthEnd : Option Nat := none
deriving DecidableEq, Repr

/-- One output row of a LOOKUP (R90). -/
def lookupRow (raw : Bool) (fmt : Nat) (t : Table) (x : Idx) (row : Option (List PB)) : List PB × Conv :=
  let mark := if x.drop == some 0 then markedData else 0
  match row with
  | none =>
    (List.replicate (if raw then t.stored else t.dim * (elemBits fmt / 8)) { b := 0, p := mark }, {})
  | some l =>
    if raw then (padTo t.stored { b := 0 } (l.take (contentBytes t.fmt t.dim)), {})
    else outBytes fmt (decodeRow t.fmt t.dim l)

/-- A LOOKUP up to its writes. [DEDUCED, log 16] -/
def State.lookupRun (s : State) (h : Nat) (c : Cmd) : Acc GatherOut :=
  let a := s.actor h c
  let raw := !bitAt (c.fld 0xA 1) 0
  let fmt := c.fld 0xB 1 % 16
  (s.indexList a c (fun i => [0, i]) (c.fld 0x20 8) (c.fld 0xC 2)).bindReady {} (fun idx =>
    let base : GatherOut := { dropped := droppedCount idx, idx := idx, rows := validRows idx }
    match s.viewOf c with
    | none => { val := base }
    | some (t, y) =>
      (Acc.list ((List.range idx.length).map (fun i =>
        let x := idx.getD i { word := 0, poisoned := false, drop := some 1 }
        let row : Acc (Option (List PB)) :=
          if x.drop.isSome then { val := none } else s.rowRead a c t y [0, i] (indexWord x.word).row
        row.map (fun r => (x, r, lookupRow raw fmt t x r))))).map (fun l =>
          { base with
            absent := (l.filter (fun p => p.1.drop.isNone && p.2.1.isNone)).length,
            poisoned := (l.filter (fun p => anyPoison p.2.2.1)).length,
            conv := Conv.sum (l.map (fun p => p.2.2.2)),
            writes := (List.range l.length).map (fun i =>
              (none, { slice := c.slice, addr := c.fld 0x10 8 + i * c.fld 0x18 4,
                       bytes := match l[i]? with
                         | some p => p.2.2.1
                         | none => [],
                       which := 3, coords := [i, 0], unit := if raw then 1 else elemBits fmt / 8 })) }))

/-! LOOKUP_POOL. -/

/-- The bags that lengths give (R72): start and length of each. -/
def bagsOf (l : List Nat) : List (Nat × Nat) :=
  (l.foldl (fun (acc : List (Nat × Nat) × Nat) k => (acc.1 ++ [(acc.2, k)], acc.2 + k)) ([], 0)).1

/-- The bags of a command (R72): start and length of each; the cause of the length word that ended them (R86). Lengths in the window are
those that check 0x25 read (R70). -/
def State.bags (s : State) (a : Actor) (c : Cmd) : Acc (List (Nat × Nat) × Option Nat) :=
  let n := c.fld 0xC 2
  if n ≤ 1 then { val := ([(0, c.fld 0xE 2)], none) }
  else match c.lens with
    | some l => { val := (bagsOf l.1, l.2) }
    | none =>
      (Acc.list ((List.range n).map (fun b => s.listRead a c.slice c.src 1 [b, b] (c.fld 0x28 8 + 2 * b) 2))).map (fun l =>
        (bagsOf (lengthsOf l).1, (lengthsOf l).2))

/-- One valid word of a bag with its row and weight. -/
structure PoolTerm where
  row : Option (List PB)
  weight : PF
deriving DecidableEq, Repr

/-- Element term `e` of a row under a pooling mode (Table 4-5), and its Press event; an absent row gives +0 (R82), which a poisoned weight
poisons too (R85). -/
def poolElem (t : Table) (weighted : Bool) (e : Nat) (x : PoolTerm) : PF × Ev :=
  match x.row with
  | none => ({ v := 0, p := weighted && x.weight.p }, {})
  | some l =>
    let v := elemTerm t.fmt (dataOf l) e
    let m := if weighted then fmul x.weight.v v.1 else (v.1, {})
    let p := elemPoisoned t.fmt l e || (weighted && x.weight.p)
    ({ v := m.1, p := p }, if p then {} else Ev.add v.2 m.2)

/-- Offset term of an affine row (Table 4-5). -/
def poolOffset (t : Table) (weighted : Bool) (x : PoolTerm) : PF × Ev :=
  match x.row with
  | none => ({ v := 0, p := weighted && x.weight.p }, {})
  | some l =>
    let o := offsetTerm (rindOf (dataOf l)).2
    let m := if weighted then fmul x.weight.v o else (o, {})
    let p := rindPoisoned t.fmt l || (weighted && x.weight.p)
    ({ v := m.1, p := p }, if p then {} else m.2)

/-- A reduced element: its value in the Press, its poison, and events. -/
structure Reduced where
  v : PV
  p : Bool
  ev : Ev
deriving DecidableEq, Repr

/-- Reduce a list of terms with their own events. -/
def reduceTerms (exact : Bool) (sh : Shape) (l : List (PF × Ev)) : Reduced :=
  let r := reduction exact sh (termsOf (l.map Prod.fst))
  { v := r.v.getD { s := 0 }, p := poisonedTerms (l.map Prod.fst), ev := Ev.add (Ev.sum (l.map Prod.snd)) r.ev }

/-- Rows an accumulated curd takes (R111). -/
def rowsPerCurd (dim : Nat) (comp : Bool) : Nat := cdiv dim 256 * (if comp then 2 else 1)

/-- Bags a tile holds (R111). -/
def bagsPerTile (dim : Nat) (comp : Bool) : Nat := 64 / rowsPerCurd dim comp

/-- The vat to which the rotation deals issue group `g` of a command (Table 2-7): slice × 16 + vat. [DESIGN CHOICE, log 18] -/
def dealtVat (slice order g : Nat) : Nat :=
  16 * slice + (if bitAt order 4 then (order % 16 + 16 * (g + 1) - g) % 16 else (order % 16 + g) % 16)

/-- The result vat of a bag whose first issue group is number `g` of the command (R111). [DESIGN CHOICE, log 18] -/
def resultVat (red : List Byte) (slice order g : Nat) : Nat :=
  if 2 ≤ partsOf red then vatByte (field red 1 1) else dealtVat slice order g

/-- An accumulator row that was never written (R118). -/
def AccRow.zero : AccRow :=
  { entries := [], poison := [], offSum := 0, offErr := 0, offPoison := false, armed := false, writer := none }

/-- Entry `e` of an accumulator row; a short list stands for +0 entries. -/
def AccRow.at (r : AccRow) (e : Nat) : F32 := r.entries.getD e 0

/-- A vat of the engine. -/
def State.vat (s : State) (v : Nat) : Vat := Tab.getD s.vats v {}

/-- The accumulator rows of one bag: sums, errors in compensated mode, offset state in its first row (R111). -/
def bagRows (comp affine : Bool) (x : Nat) (dim : Nat) (es : List Reduced) (o : Option Reduced) : List AccRow :=
  let k := cdiv dim 256
  let mk := fun (f : Reduced → F32) (i : Nat) (first : Bool) =>
    let part := (es.drop (256 * i)).take 256
    { entries := part.map f, poison := (List.range part.length).filter (fun j => (part.map Reduced.p).getD j false),
      offSum := if first && affine then (o.map (fun r => r.v.s)).getD 0 else 0,
      offErr := if first && affine && comp then (o.map (fun r => r.v.e)).getD 0 else 0,
      offPoison := first && affine && (o.map Reduced.p).getD false, armed := false, writer := some x : AccRow }
  ((List.range k).map (fun i => mk (fun r => r.v.s) i (i == 0))) ++
  (if comp then (List.range k).map (fun i => mk (fun r => r.v.e) i false) else [])

/-- The seed of element `e` in rows that begin at `row0` (R119): its pair and poison. -/
def seedAt (v : Vat) (comp : Bool) (dim row0 e : Nat) : PV × Bool :=
  let s := Tab.getD v.work (row0 + e / 256) AccRow.zero
  let r := Tab.getD v.work (row0 + cdiv dim 256 + e / 256) AccRow.zero
  ({ s := s.at (e % 256), e := if comp then r.at (e % 256) else 0 },
   s.poison.contains (e % 256) || (comp && r.poison.contains (e % 256)))

/-- Whether an accumulator row is armed by context `x` (`mine`) or by another. -/
def armedRow (v : Vat) (x row : Nat) (mine : Bool) : Bool :=
  let r := Tab.getD v.work row AccRow.zero
  r.armed && ((r.writer == some x) == mine)

/-- Whether one of rows `row0` to `row0 + n - 1` is armed by another context (R120). -/
def armedAway (v : Vat) (x row0 n : Nat) : Bool := (List.range n).any (fun i => armedRow v x (row0 + i) false)

/-- A pooled bag: the rows it leaves in its vat and the finished elements before mean division. -/
structure BagOut where
  bag : Nat
  vat : Nat
  /-- the Rows entry through which its terms came (R211) -/
  stream : Option Nat := none
  row0 : Nat
  rows : List AccRow
  elems : List PF
  ev : Ev
  valid : Nat
  absent : Nat
deriving DecidableEq, Repr

/-- Pool one bag (R77, R78, R119). `v` is its vat as the bag finds it. -/
def poolBag (t : Table) (sh : Shape) (weighted bagPoison : Bool) (x bag vat row0 : Nat) (v : Vat) (l : List PoolTerm) : BagOut :=
  let exact := exactClass t.fmt && !weighted
  let es := (List.range t.dim).map (fun e => reduceTerms exact sh (l.map (poolElem t weighted e)))
  let affine := isAffine t.fmt
  let o := if affine then some (reduceTerms exact sh (l.map (poolOffset t weighted))) else none
  let op := (o.map Reduced.p).getD false || bagPoison
  let seeded := fun (e : Nat) => armedRow v x (row0 + e / 256) true
  -- the result that lands: with a seed, the pooled sum of an affine bag joins it
  let landed : List (Reduced × F32 × Ev) := (List.range t.dim).map (fun e =>
    let r := es.getD e { v := { s := 0 }, p := false, ev := {} }
    if seeded e then
      let res := match o with
        | some r0 => let q := pooledSum sh.comp r.v r0.v; (({ s := q.1 } : PV), q.2)
        | none => (r.v, {})
      let sd := seedAt v sh.comp t.dim row0 e
      let j := joinPV sh.comp sd.1 res.1
      let f := if sh.comp then fin j.1 else (j.1.s, {})
      ({ v := j.1, p := r.p || op || sd.2, ev := Ev.add r.ev (Ev.add res.2 j.2) }, f.1, f.2)
    else
      let f := match o with
        | some r0 => pooledSum sh.comp r.v r0.v
        | none => if sh.comp then fin r.v else (r.v.s, {})
      ({ r with p := r.p || bagPoison }, f.1, f.2))
  { bag := bag, vat := vat, row0 := row0,
    rows := bagRows sh.comp affine x t.dim (landed.map Prod.fst) (if seeded 0 then none else o),
    elems := landed.map (fun q => { v := q.2.1, p := q.1.p || op }),
    ev := Ev.add (Ev.sum (landed.map (fun q => Ev.add q.1.ev q.2.2))) ((o.map Reduced.ev).getD {}),
    valid := l.length, absent := (l.filter (fun q => q.row.isNone)).length }

/-- Put the rows of a bag into its vat's working set. -/
def landBag (v : Vat) (b : BagOut) : Vat :=
  { v with work := (List.range b.rows.length).foldl (fun acc i => Tab.set acc (b.row0 + i) (b.rows.getD i AccRow.zero)) v.work }

/-- Mean division of a finished element (R79): `n` is the divisor, none for no division. -/
def meanOf (div : Option Nat) (x : PF) : PF :=
  match div with
  | none => x
  | some 0 => { x with v := 0 }
  | some n => { x with v := fdivNat x.v n }

/-- The output writes of one bag (R87, R88). -/
def curdWrites (c : Cmd) (tile : Bool) (dim : Nat) (b : BagOut) (bytes : List PB) : List OutWr :=
  let fmt := c.fld 0xB 1 % 16
  let es := elemBits fmt / 8
  let out := c.fld 0x10 8
  if !tile then
    [{ slice := b.vat / 16, addr := out + b.bag * c.fld 0x18 4, bytes := bytes, which := 3, coords := [b.bag, 0], unit := es }]
  else
    let cols := cdiv dim 32
    (List.range cols).map (fun j =>
      { slice := b.vat / 16, addr := out + (b.bag / 32 * cols + j) * (1024 * es) + b.bag % 32 * 32 * es,
        bytes := padTo (32 * es) { b := 0 } ((bytes.drop (32 * es * j)).take (32 * es)), which := 3,
        coords := [b.bag, 32 * j], unit := es })

/-- The +0 rows beyond the last bag of a tile-order buffer (R88). -/
def padWrites (c : Cmd) (dim slice : Nat) : List OutWr :=
  let es := elemBits (c.fld 0xB 1 % 16) / 8
  let cols := cdiv dim 32
  let n := c.fld 0xC 2
  (List.range (roundUp n 32 - n)).flatMap (fun i => (List.range cols).map (fun j =>
    { slice := slice, addr := c.fld 0x10 8 + ((n + i) / 32 * cols + j) * (1024 * es) + (n + i) % 32 * 32 * es,
      bytes := List.replicate (32 * es) { b := 0 }, which := 3, coords := [n + i, 32 * j], unit := es }))

/-- Pool all bags in order, threading the vats; none when a result would land in a row armed by another context (R120). -/
def State.poolBags (s : State) (c : Cmd) (t : Table) (sched red : List Byte)
    (l : List (List Idx × List PoolTerm)) : Option (List BagOut × Tab Vat) :=
  let sh := shapeOf red
  let weighted := c.fld 0xA 1 % 4 == 2
  let n := rowsPerCurd t.dim sh.comp
  let q := bagsPerTile t.dim sh.comp
  ((List.range l.length).foldl (fun (acc : Option (List BagOut × Tab Vat × Nat)) b =>
    match acc, l[b]? with
    | some (outs, vats, g), some (idx, terms) =>
      let vat := resultVat red c.slice (field sched 10 1) g
      let row0 := b % q * n
      let v0 := Tab.getD vats vat {}
      -- the vat's previous tile drains into the shadow set before the next tile's first write (R113)
      let v := if outs.any (fun o => o.vat == vat && o.bag / q != b / q) && !outs.any (fun o => o.vat == vat && o.bag / q == b / q)
        then { v0 with shadow := v0.work } else v0
      if armedAway v c.ctx row0 n then none
      else
        let o := poolBag t sh weighted (idx.any (fun x => x.drop == some 0)) c.ctx b vat row0 v terms
        some (outs ++ [{ o with stream := c.rowsStream vat b }], Tab.set vats vat (landBag v o), g + cdiv terms.length (issueRows sched))
    | _, _ => none) (some ([], s.vats, 0))).map (fun r => (r.1, r.2.1))

/-- What a LOOKUP_POOL comes to: its results, its vats, or the claim it was denied. -/
structure PoolRun where
  out : GatherOut := {}
  vats : Tab Vat := []
  used : List Nat := []
  denied : Bool := false
deriving DecidableEq, Repr

/-- A LOOKUP_POOL up to its writes. -/
def State.poolRun (s : State) (h : Nat) (c : Cmd) : Acc PoolRun :=
  let a := s.actor h c
  let pool := c.fld 0xA 1 % 4
  let fmt := c.fld 0xB 1 % 16
  (s.bags a c).bindReady {} (fun bg =>
    (Acc.list ((List.range bg.1.length).map (fun b =>
      let st := (bg.1.getD b (0, 0)).1
      s.indexList a c (fun i => [b, st + i]) (c.fld 0x20 8 + 8 * st) (bg.1.getD b (0, 0)).2))).bindReady {} (fun lists =>
        let idx := lists.flatten
        let base : GatherOut := { dropped := droppedCount idx, idx := idx, rows := validRows idx, lengthEnd := bg.2 }
        match s.viewOf c with
        | none => { val := { out := base, vats := s.vats } }
        | some (t, y) =>
          let sched := schedOf c.image c.variant 2
          let red := redOf c.image sched
          let tile := field sched 11 1 == 1
          (Acc.list ((List.range lists.length).map (fun b =>
            let st := (bg.1.getD b (0, 0)).1
            let words := lists.getD b []
            (Acc.list ((List.range words.length).map (fun i =>
              let x := words.getD i { word := 0, poisoned := false, drop := some 1 }
              let wt : Acc PF := if pool = 2 then
                  (s.listRead a (if c.src = 1 then c.slice else c.feedSlice) c.src 2 [b, st + i] (c.fld 0x30 8 + 4 * (st + i)) 4).map (fun l =>
                    { v := BitVec.ofNat 32 (leNat (dataOf l)), p := anyPoison l })
                else { val := { v := 0 } }
              let row : Acc (Option (List PB)) :=
                if x.drop.isSome then { val := none } else s.rowRead a c t y [b, st + i] (indexWord x.word).row
              wt.bind (fun w => row.map (fun r => (x, ({ row := r, weight := w } : PoolTerm))))))).map (fun l =>
                (words, (l.filter (fun q => q.1.drop.isNone)).map Prod.snd))))).map (fun bags =>
            match s.poolBags c t sched red bags with
            | none => { out := { base with absent := (bags.map (fun b => (b.2.filter (fun q => q.row.isNone)).length)).sum },
                        vats := s.vats, denied := true }
            | some (outs, vats) =>
              let div := fun (o : BagOut) => if pool = 1 then
                  some (if bitAt (c.fld 0xA 1) 2 then (bg.1.getD o.bag (0, 0)).2 else o.valid) else none
              let done := outs.map (fun o => (o, outBytes fmt (o.elems.map (meanOf (div o)))))
              let q := bagsPerTile t.dim (shapeOf red).comp
              let used := nubNat (outs.map BagOut.vat)
              let last := fun (v : Nat) => (outs.filter (fun o => o.vat == v)).foldl (fun m o => max m (o.bag / q)) 0
              let ws := done.flatMap (fun p => (curdWrites c tile t.dim p.1 p.2.1).map (fun w =>
                (if p.1.bag / q = last p.1.vat then some p.1.vat else none, w)))
              let pads := if tile && bg.2.isNone then
                  (padWrites c t.dim ((outs.getLast?.map (fun o => o.vat / 16)).getD c.slice)).map (fun w =>
                    (outs.getLast?.map BagOut.vat, w)) else []
              { out := { base with
                  writes := ws ++ pads, absent := (outs.map BagOut.absent).sum,
                  poisoned := (outs.filter (fun o => o.elems.any PF.p)).length,
                  conv := Conv.sum (done.map (fun p => p.2.2)), press := Ev.sum (outs.map BagOut.ev) },
                vats := vats, used := used })))

/-! Landing. -/

/-- The parts of a gathering command that both commands share once nothing is awaited: fault events, whey counters,
counters, and the reads counted by the skew monitor. [DEDUCED, log 73] -/
def State.gatherBooks (s : State) (c : Cmd) (o : GatherOut) (evs : List FaultEv) (whey : List (Option Nat)) : State :=
  ((((s.faults c evs).wheyAdd whey).countConv c.slice c.ctx o.conv).countPress c.slice c.ctx o.press).skewReads c o.rows

/-- Status and counts of a gathering command. -/
def Cmd.gathered (c : Cmd) (o : GatherOut) (suppressed : Bool) : Cmd :=
  { c with status := gatherStatus o.lengthEnd suppressed o.absent o.poisoned o.dropped,
           c0 := o.dropped, c1 := o.absent, c2 := o.poisoned }

/-- LOOKUP (R90 to R92). [DEDUCED, log 16; DESIGN CHOICE, log 7] -/
def execLookup (h : Nat) (s : State) : Host.Outcome State Fault Refusal :=
  match s.running h 1 with
  | none => .next s
  | some c =>
    if !s.ringsFree c then .next s
    else
      let a := s.actor h c
      let r := s.lookupRun h c
      let w := s.outAcc a (r.val.writes.map Prod.snd)
      let y := s.wheyAll a c.slice (s.wheyBase c) r.val.idx
      let needs := if r.needs.isEmpty then w.needs ++ y.needs else r.needs
      if needs.isEmpty then
        .next ((((s.gatherBooks c r.val (r.evs ++ w.evs ++ y.evs) y.val).landAll c.ctx h w.val).endCmd h
          (fun d => d.gathered r.val (anySuppressed w.val))).release (.cmd h))
      else .next (s.await h needs)

/-- Whether every vat a command would use is free of a finished tile of another command (R114). [DEDUCED, log 72] -/
def State.vatsFree (s : State) (used : List Nat) : Bool := used.all (fun v => (s.vat v).finished.isNone)

/-- The vats after a LOOKUP_POOL: each vat it used holds its last tile finished (R113). -/
def finishVats (vats : Tab Vat) (h : Nat) (used : List Nat) : Tab Vat :=
  used.foldl (fun acc v => Tab.set acc v { (Tab.getD acc v {}) with finished := some h }) vats

/-- LOOKUP_POOL (R68 to R92): reduce every bag, write the curds of all tiles but the last of each vat, and leave the last
tile finished in the working set, its curds to be written by the drain (R113, R114). A claim denied under R120 ends the command before any
curd is written, whatever status R91 would have given. [DESIGN CHOICE, log 87] -/
def execLookupPool (h : Nat) (s : State) : Host.Outcome State Fault Refusal :=
  match s.running h 2 with
  | none => .next s
  | some c =>
    if c.phase ≠ .ready || s.turnsBefore h c || !s.ringsFree c then .next s
    else
      let a := s.actor h c
      let r := s.poolRun h c
      let o := r.val.out
      let w := s.outAcc a (o.writes.map Prod.snd)
      let y := s.wheyAll a c.slice (s.wheyBase c) o.idx
      let needs := if r.needs.isEmpty then w.needs ++ y.needs else r.needs
      if !needs.isEmpty then .next (s.await h needs)
      else if !s.vatsFree r.val.used then .next (s.await h [])
      else
        let s1 := s.gatherBooks c o (r.evs ++ w.evs ++ y.evs) y.val
        if r.val.denied then
          .next ((s1.endCmd h (fun d => { d with status := 0x19, detail := 2, c0 := o.dropped, c1 := o.absent })).release (.cmd h))
        else
          let now := (List.zip o.writes w.val).filter (fun p => p.1.1.isNone)
          let held := r.val.used.map (fun v => (v, (o.writes.filter (fun p => p.1 == some v)).map Prod.snd))
          let s2 := (s1.landAll c.ctx h (now.map Prod.snd)).modCmd h (fun d => d.gathered o (anySuppressed w.val))
          if held.isEmpty then .next ((s2.endCmd h id).release (.cmd h))
          else
            .next { (s2.modCmd h (fun d => { d with phase := .stage 1, begun := true, held := held, noted := d.noted ++ sitesOf (r.evs ++ w.evs ++ y.evs) })) with
                    vats := finishVats r.val.vats h r.val.used }

/-- TILE_DRAIN (R113, R114): the finished tile of a vat moves into its shadow set and its results are read out; the
command ends with its last drain. -/
def execTileDrain (slice : Fin 4) (vat : Fin 16) (s : State) : Host.Outcome State Fault Refusal :=
  let v := 16 * slice.val + vat.val
  match (s.vat v).finished with
  | none => .next s
  | some h =>
    match Tab.get? s.cmds h with
    | none => .next { s with vats := Tab.set s.vats v { (s.vat v) with shadow := (s.vat v).work, finished := none } }
    | some c =>
      let ws := ((c.held.find? (fun p => p.1 == v)).map Prod.snd).getD []
      let w := s.outAcc (s.actor h c) ws
      if !w.needs.isEmpty then .next (s.askAll h w.needs)
      else
        let s0 := { s with vats := Tab.set s.vats v { (s.vat v) with shadow := (s.vat v).work, finished := none } }
        if c.ended || !s.isOpen c.ctx then .next s0
        else
          let rest := c.held.filter (fun p => p.1 != v)
          let late := anySuppressed w.val && c.status != 0x18
          -- what its ranges refuse was recorded when it ran; a page refused since is recorded now
          let new := w.evs.filter (fun e => e.site.isSome)
          let s1 := ((s0.faults c new).landAll c.ctx h w.val).modCmd h (fun d =>
            { d with held := rest, status := if late then 0x16 else d.status, noted := d.noted ++ sitesOf new })
          if rest.isEmpty then .next ((s1.endCmd h id).release (.cmd h)) else .next s1

end Sys2Proof.Machine
end

