-- ==== Sys2Proof/Machine/Train.lean ====
section
/-! DEFINITION. Training (07_training_updates.md): SCATTER_GRAD, update buffers, seals, APPLY_STEP with its optimisers, and
the arrivals of contributions, seals and replica writes. -/

namespace Sys2Proof.Machine

open Sys2Proof

/-! Checks before admission. -/

/-- Table 7-2. `v` is the open table with the layers in force at admission (R17). -/
def checkScatter (c : Cmd) (v : Option (Table × Layer)) : Option Nat :=
  let n := c.fld 0xC 2
  let fmt := c.fld 0xB 1 % 16
  let st := c.fld 0x18 4
  let step := BitVec.ofNat 64 (c.fld 0x10 8)
  firstFail
    [ (c.src == 0 || c.src == 3, 0x51),
      (n == 0, 0x52),
      (!outFmtOk fmt, 0x53),
      (c.fld 0x20 8 % 8 != 0 || c.fld 0x28 8 % 32 != 0 || (c.src == 1 && !inStaging (c.fld 0x20 8) (8 * n)), 0x54),
      (match v with
        | some (t, _) => decide (st < t.dim * (elemBits fmt / 8)) || decide (1048576 < st) || st % 32 != 0
        | none => false, 0x55),
      (decide (2 ^ 32 < c.fld 0x1C 4 + n), 0x56),
      (match v with
        | some (t, y) => (step != t.step && step != t.step + 1) || t.closedSteps.contains step || !t.train || y.replacing
        | none => false, 0x57) ]

/-- Whether an FP32 field is finite and its value satisfies a test. -/
def finiteAnd (v : Nat) (p : Rat → Bool) : Bool := F32.finite (BitVec.ofNat 32 v) && p (F32.val (BitVec.ofNat 32 v))

/-- Stored size of a state row (Table 7-5). -/
def stateBytes (opt dim : Nat) : Nat :=
  match opt with
  | 1 => 32
  | 2 => roundUp (4 + 2 * dim) 32
  | _ => 0

/-- Table 7-4. `busy` says that another APPLY_STEP for the table is in progress. -/
def checkApply (c : Cmd) (t : Option Table) (busy : Bool) : Option Nat :=
  let opt := c.fld 0xA 1 % 4
  let unit := fun (o : Nat) => finiteAnd (c.fld o 4) (fun v => decide (0 ≤ v) && decide (v < 1))
  let corr := fun (o : Nat) => finiteAnd (c.fld o 4) (fun v => decide (0 < v) && decide (v ≤ 1))
  firstFail
    [ (opt == 3, 0x61),
      (!finiteAnd (c.fld 0x20 4) (fun _ => true) || (opt != 0 && !finiteAnd (c.fld 0x24 4) (fun v => decide (0 < v))) ||
        (opt == 2 && !(unit 0x28 && unit 0x2C && corr 0x30 && corr 0x34)), 0x62),
      (match t with
        | some t => opt != 0 && decide (t.stateStride < stateBytes opt t.dim)
        | none => false, 0x63),
      (match t with
        | some t => !t.train || BitVec.ofNat 64 (c.fld 0x10 8) != t.step
        | none => true, 0x64),
      (busy, 0x65) ]

/-! Update buffers. -/

/-- Bytes of a contribution record (R147). -/
def recordSize (dim : Nat) : Nat := roundUp (16 + 4 * dim) 32

/-- A contribution record (R147). -/
def contribBytes (dim : Nat) (k : Contrib) : List Byte :=
  let hdr := k.row % 2 ^ 40 + k.engine % 256 * 2 ^ 40 + k.slice % 4 * 2 ^ 48 + k.step.toNat % 2 * 2 ^ 50 +
    (if k.elems.any PF.p then 2 ^ 51 else 0) + k.batch % 2 ^ 32 * 2 ^ 64
  padTo (recordSize dim) 0 (natLE 16 hdr ++ k.elems.flatMap (fun e => natLE 4 e.v.toNat))

/-- Bytes a level holds: 0 the update partition, 1 to 3 the spill areas of the near stacks (R148). -/
def Table.levelBytes (t : Table) (owner level : Nat) : Nat :=
  if level = 0 then t.updPart else if t.region (3 * owner + level - 1) 0x38 = 0 then 0 else t.spillSize

/-- Records a level of an owner slice holds. -/
def Table.atLevel (t : Table) (owner level : Nat) : List Contrib :=
  t.contribs.filter (fun k => k.owner == owner && k.level == level)

/-- Whether a level has room for one record more. [DEDUCED, log 62] -/
def Table.hasRoom (t : Table) (owner level : Nat) : Bool :=
  decide (((t.atLevel owner level).length + 1) * recordSize t.dim ≤ t.levelBytes owner level)

/-- The level that takes the next record at a slice (R148): the partition, else the spill areas in rotation. [DEDUCED, log 62] -/
def Table.nextLevel (t : Table) (owner : Nat) : Option Nat :=
  let spilled := t.contribs.filter (fun k => k.owner == owner && k.level != 0)
  let last := spilled.foldl (fun (acc : Option Contrib) k => match acc with
    | some b => if b.arrival < k.arrival then some k else some b
    | none => some k) none
  let first := match last with
    | some k => k.level % 3
    | none => 0
  ([0] ++ (List.range 3).map (fun i => (first + i) % 3 + 1)).find? (t.hasRoom owner)

/-- Device address of the record of a contribution in a spill area. -/
def Table.spillAddr (t : Table) (k : Contrib) : Nat := t.region (3 * k.owner + k.level - 1) 0x38 + k.pos * recordSize t.dim

/-- Take a contribution into the owner slice's buffer, and count it in the skew monitor; none when there is no room (R148, R178). A
record in a spill area is a write of the engine's own. [DEDUCED, log 62] -/
def State.buffer (s : State) (num : Nat) (k : Contrib) : Option State :=
  match Tab.get? s.tables num with
  | none => none
  | some t =>
    match t.nextLevel k.owner with
    | none => none
    | some lv =>
      let used := (t.atLevel k.owner lv).map Contrib.pos
      let pos := ((List.range (used.length + 1)).find? (fun i => !used.contains i)).getD 0
      let k1 := { k with level := lv, pos := pos, arrival := t.arrivals, id := 0 }
      let s1 := (s.modTable num (fun t => { t with contribs := t.contribs ++ [k1], arrivals := t.arrivals + 1 })).skewAccess
        num k.stack (t.bucket num k.row) k.row false (k.engine != s.self)
      if lv = 0 then some s1
      else
        let s2 := s1.countTbl k.owner num 0 1
        some { s2 with work := s2.work ++ [{ act := .spill num, addr := t.spillAddr k1, bytes := contribBytes t.dim k1 }] }

/-- The slot of a move that removes the row's override entry (R183). -/
abbrev noSlot : Nat := 0xFFFFFFFF

/-- Where a move takes its row. -/
def moveLoc (t : Table) (num : Nat) (m : Ovr) : Loc := if m.slot = noSlot then t.bucketOwner num m.row else ovrLoc m

/-- The owner location of a contribution to a row (R143, R184): a pending move holds from its step on. -/
def Table.contribOwner (t : Table) (y : Layer) (num : Nat) (step : Word) (r : Nat) : Loc :=
  match ovrOf y.pend r with
  | some o => if step = y.pendStep ∨ step = y.pendStep + 1 then moveLoc t num o else t.owner y num r
  | none => t.owner y num r

/-- Accept, in order, the contributions that have room; the others stay. -/
def State.bufferAll (s : State) (num : Nat) (l : List Contrib) : State × List Contrib :=
  l.foldl (fun acc k => match acc.1.buffer num k with
    | some s1 => (s1, acc.2)
    | none => (acc.1, acc.2 ++ [k])) (s, [])

/-- Count each contribution that is held back, once, at its owner slice (R149). [DESIGN CHOICE, log 96] -/
def State.countStalls (s : State) (num : Nat) (l : List Contrib) : State :=
  l.foldl (fun acc k => acc.countTbl k.owner num 1 1) s

/-! SCATTER_GRAD. -/

/-- A SCATTER_GRAD's words and contributions, read (R142). -/
def State.scatterRun (s : State) (h : Nat) (c : Cmd) (dim : Nat) : Acc (List (Idx × List PF)) :=
  let a := s.actor h c
  let fmt := c.fld 0xB 1 % 16
  (s.indexList a c (fun i => [i]) (c.fld 0x20 8) (c.fld 0xC 2)).bind (fun idx =>
    Acc.list ((List.range idx.length).map (fun i =>
      let x := idx.getD i { word := 0, poisoned := false, drop := some 1 }
      (s.ctxRead a c.slice 8 [i] (c.fld 0x28 8 + i * c.fld 0x18 4) (dim * (elemBits fmt / 8))).map (fun l =>
        (x, widenList fmt dim l)))))

/-- Contribution `i` of a SCATTER_GRAD (R143). -/
def Cmd.contribution (c : Cmd) (self : Nat) (t : Table) (y : Layer) (i : Nat) (x : Idx) (e : List PF) : Loc × Contrib :=
  let step := BitVec.ofNat 64 (c.fld 0x10 8)
  let row := (indexWord x.word).row
  let o := t.contribOwner y c.table step row
  (o, { row := row, engine := self, slice := c.slice, batch := c.fld 0x1C 4 + i, step := step, elems := e,
        owner := o.stack / 3, level := 0, arrival := 0, stack := o.stack })

/-- Send a contribution to another engine; its answer is awaited (R143, R421). -/
def State.sendContribution (s : State) (h : Nat) (c : Cmd) (t : Table) (i : Nat) (o : Loc) (k : Contrib) : State :=
  let s1 : State := { s with peerReqs := s.peerReqs ++ [{ tag := s.nextTag, h := h, peer := o.engine, want := .contribution i }],
                             nextTag := s.nextTag + 1 }
  s1.toPeer o.engine
    (.contribution c.slice c.table t.mapId k.step k.row k.batch k.elems s.nextTag)

/-- Whether a command still awaits a peer. -/
def State.awaitsPeer (s : State) (h : Nat) : Bool := s.peerReqs.any (fun r => r.h == h)

/-- Contributions of a command that its peers refused (R421). -/
def Cmd.refusals (c : Cmd) : Nat := (c.got.filter (fun g => g.2 == .refused)).length

/-- End a SCATTER_GRAD once every contribution is accepted, discarded or refused (R146). -/
def State.scatterEnd (s : State) (h : Nat) : State :=
  match Tab.get? s.cmds h with
  | none => s
  | some c =>
    if !c.waiting.isEmpty || s.awaitsPeer h then s
    else (s.endCmd h (fun d =>
      let absent := d.c1 + d.refusals
      { d with c1 := absent, status := firstStatus [(absent != 0, 3), (d.c2 != 0, 2), (d.c0 != 0, 1)] })).release (.cmd h)

/-- SCATTER_GRAD (R140 to R146). -/
def execScatterGrad (h : Nat) (s : State) : Host.Outcome State Fault Refusal :=
  match s.running h 4 with
  | none => .next s
  | some c =>
    if c.phase ≠ .ready then
      let r := s.bufferAll c.table c.waiting
      .next ((r.1.modCmd h (fun d => { d with waiting := r.2 })).scatterEnd h)
    else if !s.ringsFree c then .next s
    else
      let view := s.viewOf c
      let r := s.scatterRun h c ((view.map (fun v => v.1.dim)).getD 0)
      let idx := r.val.map Prod.fst
      let y := s.wheyAll (s.actor h c) c.slice (s.wheyBase c) idx
      let needs := if r.needs.isEmpty then y.needs else r.needs
      if !needs.isEmpty then .next (s.await h needs)
      else
        let s1 := (s.faults c (r.evs ++ y.evs)).wheyAdd y.val
        match view with
        | none => .next ((s1.endCmd h (fun d => { d with c0 := droppedCount idx, status := firstStatus [(droppedCount idx != 0, 1)] })).release (.cmd h))
        | some (t, l) =>
          let ks := (List.range r.val.length).filterMap (fun i => match r.val[i]? with
            | some (x, e) => if x.drop.isSome then none else some (i, c.contribution s.self t l i x e)
            | none => none)
          let lost := fun (o : Loc) => !presentIn s.self c.present o.engine || !presentIn s.self (s.slc c.slice).loss o.engine ||
            (o.engine == s.self && !s.sliceUp (o.stack / 3))
          let here := ks.filter (fun k => k.2.1.engine == s.self && !lost k.2.1)
          let away := ks.filter (fun k => k.2.1.engine != s.self && !lost k.2.1)
          let gone := ks.filter (fun k => lost k.2.1)
          let b := s1.bufferAll c.table (here.map (fun k => k.2.2))
          let s2 := away.foldl (fun acc k => acc.sendContribution h c t k.1 k.2.1 k.2.2) (b.1.countStalls c.table b.2)
          .next ((s2.modCmd h (fun d => { d with
            phase := .stage 1, begun := true, waiting := b.2, c0 := droppedCount idx, c1 := gone.length,
            c2 := (ks.filter (fun k => k.2.2.elems.any PF.p)).length })).scatterEnd h)

/-! Arrivals. -/

/-- Whether an arriving contribution is refused (R421), by the state after the last publication all slices adopted. [DEDUCED, log 61] -/
def State.refuses (s : State) (num mapId : Nat) (step : Word) (row n : Nat) : Bool :=
  match Tab.get? s.tables num, Tab.get? (s.slc 3).layers num with
  | some t, some y =>
    y.closing || t.mapId != mapId || y.replacing || (step != t.step && step != t.step + 1) ||
    decide (t.rows ≤ row) || (t.contribOwner y num step row).engine != s.self || n != t.dim
  | _, _ => true

/-- Whether the owner slice of a contribution is in reset or restarting (R337). -/
def State.ownerDown (s : State) (num : Nat) (step : Word) (row : Nat) : Bool :=
  match Tab.get? s.tables num, Tab.get? (s.slc 3).layers num with
  | some t, some y => !s.sliceUp ((t.contribOwner y num step row).stack / 3)
  | _, _ => false

/-- CONTRIBUTION_ARRIVAL (R147, R148, R421): a contribution from another engine is buffered and answered, held back for
want of space, or refused. [DEDUCED, log 61] -/
def execContributionArrival (src : Nat) (srcSlice : Fin 4) (table mapId : Nat) (step : Word) (row batch : Nat)
    (elems : List (F32 × Bool)) (tag : Nat) (s : State) : Host.Outcome State Fault Refusal :=
  if !presentIn s.self s.declared src then .next s
  else if s.refuses table mapId step row elems.length || s.ownerDown table step row then
    .next ((s.countTbl 0 table 3 1).toPeer src (.reply tag .refused))
  else
    match Tab.get? s.tables table, Tab.get? (s.slc 3).layers table with
    | some t, some y =>
      let o := t.contribOwner y table step row
      let k : Contrib := { row := row, engine := src, slice := srcSlice.val, batch := batch, step := step,
                           elems := elems.map (fun e => { v := e.1, p := e.2 }), owner := o.stack / 3, level := 0, arrival := 0,
                           id := s.nextCmd, stack := o.stack }
      match s.buffer table k with
      | some s1 => .next (s1.toPeer src (.reply tag .accepted))
      | none =>
        let s1 := (s.countTbl k.owner table 1 1).modTable table (fun t => { t with stalled := t.stalled ++ [(k, tag)] })
        .next { s1 with nextCmd := s1.nextCmd + 1 }
    | _, _ => .next s

/-- A stalled contribution to the step just applied comes too late: one of a lost source is discarded, another refused (R421). [DEDUCED, log 62] -/
def State.dropLate (s : State) (num : Nat) (gone : List Nat) (late : List (Contrib × Nat)) : State :=
  let s1 := s.modTable num (fun t => { t with stalled := t.stalled.filter (fun k => !late.contains k) })
  (late.filter (fun k => !gone.contains k.1.engine)).foldl (fun acc k =>
    (acc.countTbl k.1.owner num 3 1).toPeer k.1.engine (.reply k.2 .refused)) s1

/-- Accept stalled contributions of peers that now have room (R148). [DEDUCED, log 62] -/
def State.unstall (s : State) (num : Nat) : State :=
  match Tab.get? s.tables num with
  | none => s
  | some t =>
    t.stalled.foldl (fun acc k => match acc.buffer num k.1 with
      | some s1 => s1.toPeer k.1.engine (.reply k.2 .accepted)
      | none => acc.modTable num (fun t => { t with stalled := t.stalled ++ [k] }))
      (s.modTable num (fun t => { t with stalled := [] }))

/-! The apply. -/

/-- What APPLY_STEP's packet says of the optimiser (Table 7-3). -/
structure Hyper where
  opt : Nat
  sr : Option (Word × Word)
  lr : F32
  eps : F32
  beta1 : F32
  beta2 : F32
  corr1 : F32
  corr2 : F32
deriving DecidableEq, Repr

/-- The optimiser fields of a packet (Table 10-6). -/
def hyperOf (c : Cmd) : Hyper :=
  let f := fun (o : Nat) => BitVec.ofNat 32 (c.fld o 4)
  { opt := c.fld 0xA 1 % 4,
    sr := if bitAt (c.fld 0xA 1) 2 then some (BitVec.ofNat 64 (c.fld 0x18 8), BitVec.ofNat 64 (c.fld 0x10 8)) else none,
    lr := f 0x20, eps := f 0x24, beta1 := f 0x28, beta2 := f 0x2C, corr1 := f 0x30, corr2 := f 0x34 }

/-- Order of contributions to a row (R155): engine, slice, batch position; equal keys by arrival (R144). -/
def keyLt (a b : Contrib) : Bool :=
  decide (a.engine < b.engine) || (a.engine == b.engine && (decide (a.slice < b.slice) || (a.slice == b.slice &&
    (decide (a.batch < b.batch) || (a.batch == b.batch && decide (a.arrival < b.arrival))))))

/-- Whether two contributions have equal keys. -/
def sameKey (a b : Contrib) : Bool := a.engine == b.engine && a.slice == b.slice && a.batch == b.batch

/-- Whether a sorted list holds two equal keys (R144). -/
def collides : List Contrib → Bool
  | a :: b :: r => sameKey a b || collides (b :: r)
  | _ => false

/-- The combined contribution of a row (R155): element values, poison, events. -/
def combine (sh : Shape) (dim : Nat) (l : List Contrib) : List PF × Ev :=
  let one := { sh with free := false, parts := 1 }
  let es := (List.range dim).map (fun e =>
    let ts := l.map (fun k => k.elems.getD e { v := 0 })
    let f := finish one (reduction false one (termsOf ts))
    (({ v := f.1, p := poisonedTerms ts } : PF), f.2))
  (es.map Prod.fst, Ev.sum (es.map Prod.snd))

/-- Sum of squares over D (R156): `ms`, with its events. -/
def meanSquare (sh : Shape) (dim : Nat) (g : List F32) : F32 × Ev :=
  let one := { sh with free := false, parts := 1 }
  let ps := g.map (fun v => fmul v v)
  let f := finish one (reduction false one (ps.map (fun p => some p.1)))
  (fdivNat f.1 dim, Ev.add (Ev.sum (ps.map Prod.snd)) f.2)

/-- `apply_row` of R156: new values, the new state row's bytes, and the events of its products and reduction. `st` is the
state row. -/
def applyRow (hy : Hyper) (sh : Shape) (dim : Nat) (w g : List F32) (st : List Byte) : List F32 × List Byte × Ev :=
  let at' := fun (l : List F32) (e : Nat) => l.getD e 0
  match hy.opt with
  | 1 =>
    let ms := meanSquare sh dim g
    let acc := (fadd (BitVec.ofNat 32 (field st 0 4)) ms.1).1
    let den := (fadd (fsqrt acc) hy.eps).1
    let es := (List.range dim).map (fun e =>
      let p := fmul hy.lr (at' g e)
      ((fsub (at' w e) (fdiv p.1 den)).1, p.2))
    (es.map Prod.fst, padTo 32 0 (natLE 4 acc.toNat), Ev.add ms.2 (Ev.sum (es.map Prod.snd)))
  | 2 =>
    let ms := meanSquare sh dim g
    let c1 := (fsub F32.one hy.beta1).1
    let c2 := (fsub F32.one hy.beta2).1
    let v1 := fmul hy.beta2 (BitVec.ofNat 32 (field st 0 4))
    let v2 := fmul c2 ms.1
    let v := (fadd v1.1 v2.1).1
    let den := (fadd (fsqrt (fdiv v hy.corr2)) hy.eps).1
    let es := (List.range dim).map (fun e =>
      let m1 := fmul hy.beta1 (widen 1 (field st (4 + 2 * e) 2))
      let m2 := fmul c1 (at' g e)
      let m := (fadd m1.1 m2.1).1
      let p := fmul hy.lr (fdiv m hy.corr1)
      ((fsub (at' w e) (fdiv p.1 den)).1, narrow 1 .nearest m, Ev.add m1.2 (Ev.add m2.2 p.2)))
    (es.map Prod.fst,
     padTo (stateBytes 2 dim) 0 (natLE 4 v.toNat ++ es.flatMap (fun e => natLE 2 e.2.1.1)),
     Ev.add ms.2 (Ev.add v1.2 (Ev.add v2.2 (Ev.sum (es.map (fun e => e.2.2))))))
  | _ =>
    let es := (List.range dim).map (fun e =>
      let p := fmul hy.lr (at' g e)
      ((fsub (at' w e) p.1).1, p.2))
    (es.map Prod.fst, [], Ev.sum (es.map Prod.snd))

/-- The saturations and NaN replacements of storing Adam's first moments (R156, R60). -/
def momentConv (hy : Hyper) (dim : Nat) (g : List F32) (st : List Byte) : Conv :=
  if hy.opt ≠ 2 then {}
  else Conv.sum ((List.range dim).map (fun e =>
    (narrow 1 .nearest (fadd (fmul hy.beta1 (widen 1 (field st (4 + 2 * e) 2))).1
      (fmul (fsub F32.one hy.beta1).1 (g.getD e 0)).1).1).2))

/-- Counts of an APPLY_STEP as it goes. -/
structure ApplyCount where
  applied : Nat := 0
  poisoned : Nat := 0
  missed : Nat := 0
deriving DecidableEq, Repr

/-- Send a row to the other engines that hold it or a replica of it; the number skipped because they are lost (R161). -/
def State.sendReplicas (s : State) (num : Nat) (t : Table) (y : Layer) (present r : Nat) (bytes : List PB) : State × Nat :=
  (s.copiesAway t y num r).foldl (fun acc e =>
    if presentIn s.self present e then (acc.1.toPeer e (.replicaWrite num t.mapId r bytes 0), acc.2)
    else (acc.1, acc.2 + 1)) (s, 0)

/-- Apply one row (R155 to R162) under the layers `y` of the command's admission. [DEDUCED, log 63] -/
def State.applyOne (s : State) (c : Cmd) (num : Nat) (t : Table) (y : Layer) (ks : List Contrib) (r : Nat) (n : ApplyCount) : State × ApplyCount :=
  let hy := hyperOf c
  let sh := shapeOf (redOf c.image (schedOf c.image c.variant 5))
  let own := t.owner y num r
  let l := sortBy keyLt (ks.filter (fun k => k.row == r))
  let s0 := s.countCtx (own.stack / 3) c.ctx 7 (if collides l then 1 else 0)
  let g := combine sh t.dim l
  let bytes := s0.dev.read (t.addrOf own false) t.stored
  let w := decodeRow t.fmt t.dim bytes
  let stn := stateBytes hy.opt t.dim
  let st := s0.dev.read (t.stateAddr s.self own) stn
  let s1 := s0.countPress (own.stack / 3) c.ctx g.2
  if g.1.any PF.p || w.any PF.p || rindPoisoned t.fmt bytes || anyPoison st then
    (s1.faults c (poisonEv c.noted false (own.stack / 3) 8 [] (t.addrOf own false) (t.addrOf own false) bytes ++
       poisonEv c.noted false (own.stack / 3) 8 [] (t.stateAddr s.self own) (t.stateAddr s.self own) st),
     { n with poisoned := n.poisoned + 1 })
  else
    let a := applyRow hy sh t.dim (w.map PF.v) (g.1.map PF.v) (dataOf st)
    let e := encodeRow t.fmt t.dim (roundingOf hy.sr num r) a.1
    let cv := Conv.add e.2 (momentConv hy t.dim (g.1.map PF.v) (dataOf st))
    let s2 := (s1.countPress (own.stack / 3) c.ctx a.2.2).countConv (own.stack / 3) c.ctx cv
    let s3 := s2.writeCopies t (s.copiesHere t y num r) (cleanBytes e.1)
    let s4 := if stn = 0 then s3 else s3.devPut (t.stateAddr s.self own) a.2.1
    let p := s4.sendReplicas num t y (s.slc c.slice).loss r (cleanBytes e.1)
    (p.1.countTbl (own.stack / 3) num 2 p.2, { n with applied := n.applied + 1, missed := n.missed + p.2 })

/-- Whether nothing of engine `p` is applied in the step of the table (R154): it was declared lost before its seal had come, or it is lost
now without its seal. -/
def State.unsealed (s : State) (c : Cmd) (t : Table) (p : Nat) : Bool :=
  t.dropped.contains (p, t.step) ||
  ((c.lost.contains p || !presentIn s.self (s.slc c.slice).loss p) && !t.seals.contains (p, t.step))

/-- The peers of an APPLY_STEP's plan that it expects no longer (R154). -/
def State.unsealedLost (s : State) (c : Cmd) (t : Table) : List Nat := (peersOf c.image).filter (s.unsealed c t)

/-- Engine `e` has been declared lost: for each table it is dropped from the steps for which its seal is not held (R154). -/
def State.dropSource (s : State) (e : Nat) : State :=
  { s with tables := s.tables.map (fun p => (p.1, { p.2 with dropped := p.2.dropped ++
      (([p.2.step, p.2.step + 1].map (fun n => (e, n))).filter (fun d => !p.2.seals.contains d && !p.2.dropped.contains d)) })) }

/-- Whether every expected seal is held (R152). -/
def State.sealed (s : State) (c : Cmd) (t : Table) : Bool :=
  t.seals.contains (s.self, t.step) &&
  (peersOf c.image).all (fun p => t.seals.contains (p, t.step) || s.unsealed c t p)

/-- A buffered contribution as the apply reads it (R148, R304): one in a spill area is read back from its record, and an uncorrectable or
poisoned sector of it poisons the elements that lie there, all of them when the header does. -/
def State.spillRead (s : State) (who : Who) (c : Cmd) (t : Table) (k : Contrib) : Acc Contrib :=
  if k.level = 0 then { val := k }
  else
    let a := t.spillAddr k
    let l := s.dev.read a (16 + 4 * t.dim)
    { val := { k with elems := (List.range t.dim).map (fun e =>
        let w := sliceP l (16 + 4 * e) 4
        { v := BitVec.ofNat 32 (leNat (dataOf w)),
          p := (k.elems.getD e { v := 0 }).p || anyPoison w || anyPoison (l.take 16) }) },
      needs := s.devNeeds who false a l.length,
      evs := poisonEv c.noted false k.owner 8 [] a a l }

/-- What the apply of a table's rows awaits: lines of their copies and state rows. -/
def State.applyNeeds (s : State) (h num : Nat) (t : Table) (y : Layer) (rows : List Nat) : List Need :=
  rows.flatMap (fun r =>
    let own := t.owner y num r
    s.copyNeeds (.cmd h) t (own :: s.copiesHere t y num r) ++
    (if t.stateStride = 0 then [] else s.devNeeds (.cmd h) true (t.stateAddr s.self own) t.stateStride))

/-- Rows that have an override in `a` and none in `b`: their bucket slots and replicas are no longer read under `a`. -/
def newlyOverridden (a b : Layer) : List Nat := (a.ovr.map Ovr.row).filter (fun r => (ovrOf b.ovr r).isNone)

/-- Publish new layers of a table (R171): its epoch number rises by one. `maker` is the command that publishes. -/
def State.publish (s : State) (num : Nat) (f : Layer → Layer) (maker : Option Nat) : State :=
  match Tab.get? s.tables num with
  | none => s
  | some t =>
    let y := { f t.layer with num := (t.layer.num + 1) % 2 ^ 32 }
    { ((s.modTable num (fun t => { t with layer := y })).traceRec 4 3 0 0 0 0 0 (natLE 2 num ++ natLE 4 y.num)) with
      adopt := s.adopt ++ [{
        table := num, layer := y, maker := maker,
        oldHots := (List.range 4).map (fun n => (t.layer.hots.getD n []).filter (fun r => !(y.hots.getD n []).contains r)),
        oldOvr := t.layer.ovr.filter (fun o => !y.ovr.contains o),
        oldRows := newlyOverridden y t.layer }] }

/-- Whether a publication of a table is still being adopted. -/
def State.adopting (s : State) (num : Nat) : Bool := s.adopt.any (fun p => p.table == num)

/-- Whether the publication of epoch number `k` of a table is complete, and whether its drain is over too (R171, R172). -/
def State.pubDone (s : State) (num k : Nat) : Bool := !s.adopt.any (fun p => p.table == num && p.layer.num == k)
def State.drainDone (s : State) (num k : Nat) : Bool :=
  s.pubDone num k && !s.drains.any (fun d => d.table == num && d.num == k)

/-- Whether a row that moves back to its bucket's owner finds the slot there, or a replica, still held by the drain of the publication that
moved it off (R172). -/
def State.slotHeld (s : State) (num : Nat) (moves : List Ovr) : Bool :=
  moves.any (fun m => m.slot == noSlot &&
    (s.adopt.any (fun p => p.table == num && p.oldRows.contains m.row) || s.drains.any (fun d => d.table == num && d.oldRows.contains m.row)))

/-- Uncorrectable sectors among `n` bytes at `a`, counted as the reads of a copy count them (R187, R304). -/
def State.countBad (s : State) (a n : Nat) : State :=
  if n = 0 then s
  else (((List.range ((a + n - 1) / 32 + 1 - a / 32)).map (fun i => a / 32 + i)).filter s.dev.bad.contains).foldl (fun acc k =>
    acc.countMc (stackOf (32 * k)) 7) s

/-- Copy the moving rows and their state rows to their targets (R185 to R187): poison goes with them, an uncorrectable sector is counted,
the pad is written as zero (R52). A row that returns to its bucket's owner is also written to the replicas of its bucket, so that
every copy holds the same bits (R29). [DEDUCED, log 63] -/
def State.handover (s : State) (num : Nat) (t : Table) (moves : List Ovr) : State :=
  moves.foldl (fun acc m =>
    let o := t.owner t.layer num m.row
    let d := moveLoc t num m
    let bytes := zeroPad t.fmt t.dim (acc.dev.read (t.addrOf o false) t.stored)
    let acc1 := (acc.countBad (t.addrOf o false) t.stored).devWrite (t.addrOf d false) bytes
    let acc2 := if t.stateStride = 0 then acc1
      else (acc1.countBad (t.stateAddr s.self o) t.stateStride).devWrite (t.stateAddr s.self d)
        (acc1.dev.read (t.stateAddr s.self o) t.stateStride)
    if d.region = 2 then acc2
    else
      let reps := t.replicas t.layer.reps t.layer.sets num m.row
      (nubNat ((reps.filter (fun l => l.engine != s.self)).map Loc.engine)).foldl (fun a e => a.toPeer e (.replicaWrite num t.mapId m.row bytes 0))
        (acc2.writeCopies t (reps.filter (fun l => l.engine == s.self)) bytes)) s

/-- What a list of moves awaits: lines of the rows and state rows, and of the replicas that a row returning to its bucket is written to. -/
def State.moveNeeds (s : State) (who : Who) (num : Nat) (t : Table) (moves : List Ovr) : List Need :=
  moves.flatMap (fun m =>
    let d := moveLoc t num m
    [t.owner t.layer num m.row, d].flatMap (fun l => s.devNeeds who true (t.addrOf l false) t.stored ++
      (if t.stateStride = 0 then [] else s.devNeeds who true (t.stateAddr s.self l) t.stateStride)) ++
    (if d.region = 2 then []
     else s.copyNeeds who t ((t.replicas t.layer.reps t.layer.sets num m.row).filter (fun l => l.engine == s.self))))

/-- The override table after a list of moves (R183): a move to the bucket owner removes the entry. [DEDUCED, log 64] -/
def mergeMoves (ovr moves : List Ovr) : List Ovr :=
  sortBy (fun a b => decide (a.row < b.row))
    (ovr.filter (fun o => !moves.any (fun m => m.row == o.row)) ++ moves.filter (fun m => m.slot != noSlot))

/-- The layers after moves are in force: overrides merged, the rows in no hot set (R185). -/
def Layer.moved (y : Layer) (moves : List Ovr) : Layer :=
  { y with ovr := mergeMoves y.ovr moves, hots := y.hots.map (fun l => l.filter (fun r => !moves.any (fun m => m.row == r))) }

/-- Advance the step that an APPLY_STEP has applied and end the command (R138, R163). [DEDUCED, log 63] -/
def State.applyFinish (s : State) (h : Nat) (c : Cmd) : State :=
  let num := c.table
  let s1 := s.modTable num (fun t => { t with
    step := t.step + 1, openSteps := t.openSteps.filter (fun x => x != t.step),
    closedSteps := t.closedSteps.filter (fun x => x != t.step), lostSteps := t.lostSteps.filter (fun x => x != t.step),
    seals := t.seals.filter (fun x => x.2 != t.step), dropped := t.dropped.filter (fun x => x.2 != t.step) })
  (s1.endCmd h id).release (.cmd h)

/-- The moves that an APPLY_STEP of the current step hands over (R185). -/
def Table.dueMoves (t : Table) : List Ovr := if t.layer.pendStep = t.step + 1 then t.layer.pend else []

/-- Whether what an APPLY_STEP hands over is not settled yet: a MIGRATE admitted before it has not published its moves, a
publication is in progress (R171), or a slot is held by a drain (R172). -/
def State.handoverHeld (s : State) (h num : Nat) (t : Table) : Bool :=
  s.cmds.any (fun p => p.1 < h && p.2.opcode == 7 && p.2.table == num && p.2.phase == .ready) ||
  (!t.dueMoves.isEmpty && (s.adopting num || s.slotHeld num t.dueMoves))

/-- Whether the slice that buffers a contribution, and the one whose stack holds its row, run: contributions owned by the stacks of a slice that
restarts are absent (R337, R363). -/
def State.reachable (s : State) (num : Nat) (t : Table) (y : Layer) (k : Contrib) : Bool :=
  s.sliceUp k.owner && s.sliceUp ((t.owner y num k.row).stack / 3)

/-- Apply a sealed step if nothing holds it back (R152, R155, R164); the waiting command stays as it is otherwise. [DEDUCED, log 63] -/
def State.applyTry (s : State) (h : Nat) : State :=
  match s.running h 5 with
  | none => s
  | some c =>
    match s.viewOf c with
    | none => s
    | some (t, y) =>
      if c.phase ≠ .stage 1 ∨ !s.sealed c t ∨ s.readersBefore h c.table ∨ s.handoverHeld h c.table t ∨
        !s.ringsFree c ∨ s.work.any (fun w => w.act == .spill c.table) then s
      else
        let gone := s.unsealedLost c t
        let mine := t.contribs.filter (fun k => k.step == t.step)
        let kept := Acc.list ((mine.filter (fun k => !gone.contains k.engine && s.reachable c.table t y k)).map (s.spillRead (.cmd h) c t))
        let ks := kept.val
        let rows := sortBy (fun a b => decide (a < b)) (nubNat (ks.map Contrib.row))
        let needs := kept.needs ++ s.applyNeeds h c.table t y rows ++ s.moveNeeds (.cmd h) c.table t t.dueMoves
        if !needs.isEmpty then s.await h needs
        else
          let r := rows.foldl (fun (acc : State × ApplyCount) r => acc.1.applyOne c c.table t y ks r acc.2) (s.faults c kept.evs, {})
          let late := t.stalled.filter (fun k => k.1.step == t.step)
          let lost := mine.length - ks.length + (late.filter (fun k => gone.contains k.1.engine)).length
          let s1 := ((r.1.modTable c.table (fun t => { t with contribs := t.contribs.filter (fun k => k.step != t.step) })).dropLate
            c.table gone late).unstall c.table
          let s2 := s1.modCmd h (fun d => { d with
            c0 := r.2.applied, c1 := r.2.poisoned, c2 := lost,
            status := firstStatus [(lost != 0 || r.2.missed != 0 || t.lostSteps.contains t.step, 3), (r.2.poisoned != 0, 2)] })
          if t.dueMoves.isEmpty then s2.applyFinish h c
          else
            ((s2.handover c.table t t.dueMoves).publish c.table (fun y => { y.moved t.dueMoves with pend := [] }) (some h)).modCmd h
              (fun d => { d with phase := .stage 2, begun := true, pubNum := t.nextStamp })

/-- APPLY_STEP (R150 to R164): apply the step when it is sealed; end when a handover's publication is complete (R185). -/
def execApplyStep (h : Nat) (s : State) : Host.Outcome State Fault Refusal :=
  match s.running h 5 with
  | none => .next s
  | some c =>
    if c.phase = .stage 2 then (if s.pubDone c.table c.pubNum then .next (s.applyFinish h c) else .next s)
    else .next (s.applyTry h)

/-! Seals. -/

/-- SEAL_SEND (R152): once every SCATTER_GRAD of the step admitted here has ended, seal the step to every present engine of the
peer list and take the own seal as sent. [DEDUCED, log 80] -/
def execSealSend (h : Nat) (s : State) : Host.Outcome State Fault Refusal :=
  match s.running h 5 with
  | none => .next s
  | some c =>
    let step := BitVec.ofNat 64 (c.fld 0x10 8)
    let busy := s.cmds.any (fun p => p.2.opcode == 4 && !p.2.ended && p.2.table == c.table && p.2.fld 0x10 8 == c.fld 0x10 8)
    if c.phase ≠ .ready ∨ busy then .next s
    else
      let s1 := (peersOf c.image).foldl (fun acc e => acc.toPeer e (.seal c.table step)) s
      let s2 := (s1.modTable c.table (fun t => { t with seals := t.seals ++ [(s.self, step)] })).modCmd h (fun d => { d with phase := .stage 1 })
      .next (s2.applyTry h)

/-- SEAL_ARRIVAL (R152): the seal is held, and a waiting APPLY_STEP applies the step when it was the last expected one. [DEDUCED, log 61] -/
def execSealArrival (src : Nat) (table : Nat) (step : Word) (s : State) : Host.Outcome State Fault Refusal :=
  if !presentIn s.self s.declared src then .next s
  else
    let s1 := s.modTable table (fun t => { t with seals := t.seals ++ [(src, step)] })
    match s1.cmds.find? (fun p => p.2.opcode == 5 && p.2.table == table && !p.2.ended) with
    | some (h, _) => .next (s1.applyTry h)
    | none => .next s1

/-- SEAL_TIMEOUT (R153, R260): the wait ends with TIMEOUT unless every expected seal is held; the step stays open. [DEDUCED, log 8] -/
def execSealTimeout (h : Nat) (s : State) : Host.Outcome State Fault Refusal :=
  match Tab.get? s.cmds h with
  | some c =>
    match Tab.get? s.tables c.table with
    | some t =>
      let waits := c.opcode == 5 && (c.phase == .ready || c.phase == .stage 1) && !s.sealed c t
      if waits && c.fld 0xC 4 != 0 && decide (c.tick + c.fld 0xC 4 ≤ (s.slc c.slice).tick) then
        .next ((s.endWith h 0x14 0).release (.cmd h))
      else .next s
    | none => .next s
  | none => .next s

/-! Writes of peers. -/

/-- Hold a request of a peer until what it awaits has come, under the layers at its arrival (R173). -/
def State.holdPeer (s : State) (ins : Instr) (y : Layer) : State :=
  { s with heldPeer := s.heldPeer ++ [{ id := s.nextCmd, ins := ins, view := y }], nextCmd := s.nextCmd + 1 }

/-- Whether an earlier write of the row by a peer still waits: writes of a row land in the order of their arrival. -/
def State.writeHeld (s : State) (id table row : Nat) : Bool :=
  s.heldPeer.any (fun p => p.id < id && (match p.ins with
    | .replicaWrite _ t _ r _ _ _ => t == table && r == row
    | _ => false))

/-- Serve a peer's write of a row (R161, R173, R194, R195) under the layers at its arrival: every copy on this engine, the owner's
and an override slot among them, is written once earlier reads of the table are done and, on a replacing table, an earlier write
of the row is current; the flag says that it is done with. `id` is its place among admissions. -/
def State.serveReplica (s : State) (id table mapId row : Nat) (bytes : List Byte) (poison : List Nat) (y : Layer) : State × Bool :=
  match Tab.get? s.tables table with
  | none => (s, true)
  | some t =>
    if y.closing ∨ t.mapId ≠ mapId ∨ t.rows ≤ row then (s, true)
    else if (if y.replacing then s.journalBusy table [row] else s.readersBefore id table) || s.writeHeld id table row then (s, false)
    else
      let needs := s.rowNeeds .engine table t y row
      if needs.isEmpty then (s.writeRow table t y row (replyBytes t.stored bytes poison), true)
      else (s.askAll 0 needs, false)

/-- REPLICA_WRITE (R161, R195): a peer's write of a row of which this engine holds a copy, into the copies here. [DEDUCED, log 61] -/
def execReplicaWrite (src : Nat) (table mapId row : Nat) (bytes : List Byte) (poison : List Nat) (tag : Nat) (s : State) :
    Host.Outcome State Fault Refusal :=
  match Tab.get? (s.slc 3).layers table with
  | none => .next s
  | some y =>
    if !presentIn s.self s.declared src then .next s
    else
      let r := s.serveReplica s.nextCmd table mapId row bytes poison y
      .next (if r.2 then r.1 else r.1.holdPeer (.replicaWrite src table mapId row bytes poison tag) y)

end Sys2Proof.Machine
end

