-- ==== Sys2Proof/Machine/Life.lean ====
section
/-! DEFINITION. Table life (08_table_life_hot_rows.md): TABLE_OPEN, TABLE_CLOSE, epochs and drains, HOT_LOAD, MIGRATE,
REPLICATE, REPLACE_BEGIN, ROW_WRITE, version publication, REPLACE_COMMIT. -/

namespace Sys2Proof.Machine

open Sys2Proof

/-! Opening. -/

/-- Buckets of a map on engine `e` and stack `k`. -/
def bucketsOn (bs : List Nat) (e k : Nat) : List Nat := bs.filter (fun b => ownEngine b == e && ownStack b == k)

/-- Whether the ordinals of every engine and stack are exactly 0 to nb - 1 (R26). -/
def ordinalsOk (bs : List Nat) : Bool :=
  bs.all (fun b =>
    let g := bucketsOn bs (ownEngine b) (ownStack b)
    decide (bits b 47 32 < g.length) && (g.filter (fun c => bits c 47 32 == bits b 47 32)).length == 1)

/-- Whether a replica set is legal: first position used, positions legal or all-ones, [31:16] zero (R26). -/
def setOk (g : Nat) (x : List Nat) : Bool :=
  x.headD 0xFFFFFFFF != 0xFFFFFFFF && x.all (fun d => d == 0xFFFFFFFF || (ownerLegal g d && decide (d < 65536)))

/-- Whether two positions lie on the same engine and stack. -/
def samePlace (a b : Nat) : Bool := a != 0xFFFFFFFF && b != 0xFFFFFFFF && ownEngine a == ownEngine b && ownStack a == ownStack b

/-- Whether no two buckets share a `rep_ordinal` on one stack, and a bucket without a set has ordinal 0 (R27). -/
def repOrdinalsOk (reps : List Nat) (sets : List (List Nat)) : Bool :=
  reps.all (fun v => v % 65536 != 0 || v / 65536 == 0) && reps.all (fun v => decide (v % 65536 ≤ sets.length)) &&
  (List.range reps.length).all (fun i => (List.range i).all (fun j =>
    let a := reps.getD i 0
    let b := reps.getD j 0
    a % 65536 == 0 || b % 65536 == 0 || a / 65536 != b / 65536 ||
    !(sets.getD (a % 65536 - 1) []).any (fun p => (sets.getD (b % 65536 - 1) []).any (samePlace p))))

/-- Whether a list of rows is strictly ascending. -/
def ascending : List Nat → Bool
  | a :: b :: r => decide (a < b) && ascending (b :: r)
  | _ => true

/-- Whether a table descriptor header obeys Table 8-1 (check 3). -/
def headerOk (d : List Byte) (num : Nat) : Bool :=
  let fl := field d 0xD 1
  let dim := field d 0xE 2
  let ss := field d 0x20 4
  let train := bitAt fl 0
  field d 0 4 == 0x44545A45 && field d 4 2 == 1 && field d 6 2 == num && decide (field d 0xC 1 ≤ 0xD) &&
  fl / 8 == 0 && decide (8 ≤ dim ∧ dim ≤ 4096) && field d 0x10 8 % 64 == 0 &&
  (ss == 0 || ss == 32 || decide (stateBytes 2 dim ≤ ss)) &&
  field d 0x24 4 % 4096 == 0 && decide (field d 0x24 4 ≤ 50331648) && field d 0x28 4 % 4096 == 0 &&
  (train || (field d 0x24 4 == 0 && field d 0x28 4 == 0)) && decide (field d 0x2C 4 ≤ 262144) && field d 0x30 16 == 0

/-- Whether a shard map obeys Table 2-1 and R26 to R28 for a descriptor (check 4). -/
def mapOk (m d : List Byte) (group num : Nat) : Bool :=
  let n := field m 0x10 8
  let k := field m 0xC 1
  let bs := mapBuckets m
  let sets := mapSets m
  let ovr := mapOvrs m
  field m 0 4 == 0x4D535A45 && field m 4 2 == 1 && field m 6 2 == num && field m 8 4 == field d 8 4 && field m 8 4 != 0 &&
  decide (1 ≤ n ∧ n ≤ 2 ^ 40) && decide (2 ≤ k) && k % 2 == 0 && decide (n ≤ 2 ^ k) && (k == 2 || decide (2 ^ (k - 2) < n)) &&
  field m 0xD 3 == 0 && decide (1 ≤ bs.length ∧ bs.length ≤ 65536) && field m 0x1C 4 % 32 == 0 &&
  decide (32 ≤ field m 0x1C 4 ∧ field m 0x1C 4 ≤ 16416) && decide (sets.length ≤ 4095) && decide (ovr.length ≤ 262144) &&
  field m 0x38 4 == 0 && crc32 (m.take 0x3C ++ natLE 4 0 ++ m.drop 0x40) == field m 0x3C 4 &&
  bs.all (ownerLegal group) && ordinalsOk bs && sets.all (setOk group) && repOrdinalsOk (repsOf bs) sets &&
  ascending (ovr.map Ovr.row) && ovr.all (fun o => decide (o.row < n) && decide (o.slot < field d 0x2C 4) &&
    ownerLegal group o.owner) &&
  (List.range ovr.length).all (fun i => field m (0x40 + 8 * bs.length + 16 * sets.length + 16 * i + 5) 3 == 0) &&
  (ovr.map (fun o => (o.owner % 65536, o.slot))).Nodup

/-- Round up to 4 KiB. -/
def up4k (n : Nat) : Nat := roundUp n 4096

/-- The regions a table needs on stack `k`: base, size and whether it is required (Table 8-2). -/
def Table.regionsOn (t : Table) (self k : Nat) : List (Nat × Nat × Bool) :=
  let w := t.stride
  let row := t.onStack self k * t.slots * w
  let qs := t.regionSlots self t.layer.reps t.layer.sets { engine := self, stack := k, region := 1, slot := 0 }
  let named := t.layer.sets.any (fun x => x.any (fun d => d != 0xFFFFFFFF && ownEngine d == self && ownStack d == k))
  let rep := qs * w
  let ovr := t.ovrSlots * w
  let alt := fun (n : Nat) => up4k (n + 4 * (n / w))
  let st := (t.onStack self k * t.slots + t.ovrSlots) * t.stateStride
  [ (t.region k 0x00, row, decide (0 < row)), (t.region k 0x08, rep, named), (t.region k 0x10, ovr, decide (0 < ovr)),
    (t.region k 0x18, st, decide (0 < st)), (t.region k 0x20, alt row, t.replace && decide (0 < row)),
    (t.region k 0x28, alt rep, t.replace && t.region k 0x08 != 0), (t.region k 0x30, alt ovr, t.replace && decide (0 < ovr)),
    (t.region k 0x38, t.spillSize, t.train) ]

/-- The regions a table holds: base and size of those that are present. -/
def Table.regions (t : Table) (self : Nat) : List (Nat × Nat) :=
  (List.range 12).flatMap (fun k => (t.regionsOn self k).filterMap (fun r => if r.1 = 0 then none else some (r.1, r.2.1)))

/-- Whether two ranges share a byte. -/
def overlap (a b : Nat × Nat) : Bool := decide (0 < a.2 ∧ 0 < b.2 ∧ a.1 < b.1 + b.2 ∧ b.1 < a.1 + a.2)

/-- Whether no two ranges of a list overlap. -/
def disjoint : List (Nat × Nat) → Bool
  | [] => true
  | a :: r => r.all (fun b => !overlap a b) && disjoint r

/-- The ranges that traffic generators run over, which no region of a table opened meanwhile may meet (Table 13-9). -/
def State.tgRanges (s : State) : List (Nat × Nat) :=
  s.chans.filterMap (fun c => c.2.tg.map (fun g => (c.1 * Config.stackBytes + g.lo, g.hi - g.lo)))

/-- Check 6 of Table 8-3. -/
def State.regionsOk (s : State) (t : Table) : Bool :=
  (List.range 12).all (fun k => (t.regionsOn s.self k).all (fun r =>
    (!r.2.2 || r.1 != 0) && (r.1 == 0 || (r.1 % 4096 == 0 && r.1 / Config.stackBytes == k &&
      decide (r.1 + r.2.1 ≤ (k + 1) * Config.stackBytes))))) &&
  disjoint (t.regions s.self) &&
  (t.regions s.self).all (fun r => !overlap r (Config.planBase, 4294967296) && !s.tgRanges.any (overlap r) &&
    s.tables.all (fun u => (u.2.regions s.self).all (fun q => !overlap r q)))

/-- Hot rows of a table that its unfinished drains at slice `n` still hold. -/
def State.hotLeaving (s : State) (num n : Nat) : Nat :=
  ((s.adopt.filter (fun a => a.table == num)).map (fun a => (a.oldHots.getD n []).length)).sum +
  ((s.drains.filter (fun a => a.table == num)).map (fun a => (a.oldHots.getD n []).length)).sum

/-- Hot-store bytes of slice `n` in use: update partitions, hot rows, and rows whose drain has not ended (R175, R176). -/
def State.hotUsed (s : State) (n : Nat) : Nat :=
  (s.tables.map (fun p => p.2.updPart + ((p.2.layer.hots.getD n []).length + s.hotLeaving p.1 n) * p.2.stored)).sum

/-- Hot rows of slice `n`, those of an unfinished drain included. -/
def State.hotCount (s : State) (n : Nat) : Nat :=
  (s.tables.map (fun p => (p.2.layer.hots.getD n []).length + s.hotLeaving p.1 n)).sum

/-- The table that a descriptor and a map describe (R169). -/
def tableOf (d m : List Byte) : Table :=
  { desc := d, mapId := field m 8 4, fmt := field d 0xC 1, dim := field d 0xE 2, rows := field m 0x10 8, mbits := field m 0xC 1,
    stride := field m 0x1C 4, key := slice m 0x20 16, buckets := mapBuckets m, train := bitAt (field d 0xD 1) 0,
    replace := bitAt (field d 0xD 1) 1, ripen := bitAt (field d 0xD 1) 2, step := BitVec.ofNat 64 (field d 0x18 8),
    layer := { ovr := mapOvrs m, reps := repsOf (mapBuckets m), sets := mapSets m }, ovr0 := (mapOvrs m).map Ovr.row }

/-- The descriptor and map of an OPEN, read: the map by the counts of its header. -/
def State.openRead (s : State) (a : Actor) (slice : Nat) (c : Cmd) : Acc (List PB × List PB) :=
  (s.devRead a slice 4 [] (c.fld 0x10 8) 832).bind (fun d =>
    if anyPoison d || !headerOk (dataOf d) c.table then { val := (d, []) }
    else
      let addr := field (dataOf d) 0x10 8
      (s.devRead a slice 4 [] addr 64).bind (fun h =>
        let hd := dataOf h
        if anyPoison h || decide (65536 < field hd 0x18 4) || decide (4095 < field hd 0x30 4) || decide (262144 < field hd 0x34 4)
        then { val := (d, h) }
        else (s.devRead a slice 4 [] addr (mapSize hd)).map (fun m => (d, m))))

/-- Whether a HOT_LOAD, MIGRATE or REPLICATE of a table is in progress (R168, R176, R183, R189). -/
def State.layersBusy (s : State) (num : Nat) : Bool :=
  s.cmds.any (fun p => p.2.table == num && !p.2.ended && (p.2.opcode == 7 || p.2.opcode == 8 || p.2.opcode == 0x23))

/-- Whether a REPLACE_BEGIN (`fn` 1) or REPLACE_COMMIT (2) of a table is in progress. -/
def State.replaceBusy (s : State) (num fn : Nat) : Bool :=
  s.cmds.any (fun p => p.2.table == num && !p.2.ended && p.2.opcode == 0x21 && p.2.fld 0xA 1 == fn)

/-- Whether a table is replacing for the keeper's commands: under the layers of the command's admission, by the keeper's newest layer, or
because a REPLACE_BEGIN has been admitted. [DEDUCED, log 64] -/
def State.replacing (s : State) (num : Nat) (t : Table) (y : Layer) : Bool := y.replacing || t.layer.replacing || s.replaceBusy num 1

/-- The failing check of a TABLE_OPEN (Table 8-3), with what the check reads. Whether the table of a REPLACE_BEGIN or REPLACE_COMMIT is open
is judged by the layers in force at its slice (R17, Table 8-9). -/
def State.checkOpen (s : State) (a : Actor) (slice : Nat) (c : Cmd) : Acc (Option Nat) :=
  let fn := c.fld 0xA 1
  let v := s.viewOf c
  let first := firstFail
    [ (decide (2 < fn) || (fn == 0 && c.fld 0x10 8 % 64 != 0), 0x71),
      (if fn = 0 then (Tab.get? s.tables c.table).isSome else v.isNone, 0x72) ]
  match first with
  | some d => { val := some d }
  | none =>
    if fn = 0 then
      (s.openRead a slice c).map (fun r =>
        let d := dataOf r.1
        let m := dataOf r.2
        let u := tableOf d m
        firstFail
          [ (anyPoison r.1 || !headerOk d c.table, 0x73),
            (anyPoison r.2 || !mapOk m d s.groupSize c.table, 0x74),
            (decide (u.stride < u.stored), 0x75),
            (!s.regionsOk u, 0x76),
            ((List.range 4).any (fun n => decide (Config.hotBytes < s.hotUsed n + u.updPart)), 0x77) ])
    else { val := match v with
      | some (t, y) =>
        if fn = 1 then firstFail [(!t.replace || s.replacing c.table t y || !t.openSteps.isEmpty || s.layersBusy c.table, 0x78)]
        else firstFail [(!t.layer.replacing || s.replaceBusy c.table 2, 0x79)]
      | none => none }

/-- Clear the counters of a table (Table 19-1). -/
def State.clearTableCounts (s : State) (num : Nat) : State :=
  let keep := fun (l : Tab Nat) => l.filter (fun p => p.1 / 4 != num)
  { s with cntTbl := keep s.cntTbl, slices := s.slices.map (fun l => { l with incTbl := keep l.incTbl }) }

/-- A TABLE_OPEN packet of function `fn`, past its checks and ready to act. -/
def State.openRunning (s : State) (h fn : Nat) : Option Cmd :=
  match s.running h 0x21 with
  | some c => if c.fld 0xA 1 = fn then some c else none
  | none => none

/-- End a command when the publication it waits for is complete; with `drain`, when its drain is over too. -/
def State.endPublished (s : State) (h : Nat) (c : Cmd) (drain : Bool) : State :=
  if (if drain then s.drainDone c.table c.pubNum else s.pubDone c.table c.pubNum) then (s.endCmd h id).release (.cmd h) else s

/-- TABLE_OPEN, OPEN (R168, R169): open the table and publish its epoch 0; end when all slices have adopted it. [DEDUCED, log 64] -/
def execTableOpen (h : Nat) (s : State) : Host.Outcome State Fault Refusal :=
  match s.openRunning h 0 with
  | none => .next s
  | some c =>
    if c.phase ≠ .ready then .next (s.endPublished h c false)
    else
      let a := s.actor h c
      let k := s.checkOpen a c.slice c
      if !k.needs.isEmpty then .next (s.await h k.needs)
      else match k.val with
        | some d => .next (((s.faults c k.evs).endWith h 0x10 d).release (.cmd h))
        | none =>
          let r := s.openRead a c.slice c
          let t := tableOf (dataOf r.val.1) (dataOf r.val.2)
          let s1 := (s.clearTableCounts c.table).modCmd h (fun d => { d with phase := .stage 1 })
          .next { s1.traceRec 4 3 0 0 0 0 0 (natLE 2 c.table) with
                          tables := Tab.set s1.tables c.table t,
                          adopt := s1.adopt ++ [{ table := c.table, layer := t.layer, maker := some h }] }

/-! Epochs and drains. -/

/-- The table that a request of a peer names. -/
def peerTable (i : Instr) : Option Nat :=
  match i with
  | .peerRowRequest _ t _ _ _ => some t
  | .scanRequest _ t _ _ _ _ _ _ _ _ => some t
  | .replicaWrite _ t _ _ _ _ _ => some t
  | _ => none

/-- What a publication's drain waits for (R172): commands admitted under another epoch number of the table and not ended, but for the one that
published and a TABLE_CLOSE, which waits for drains itself; requests of peers that arrived before it, held or stalled. [DEDUCED, log 64] -/
def State.drainWaits (s : State) (num epoch : Nat) (maker : Option Nat) : List Nat :=
  (s.cmds.filter (fun p => namesTable p.2.opcode && p.2.table == num && !p.2.ended && some p.1 != maker && p.2.opcode != 0x22 &&
    (match p.2.view with
      | some y => y.num != epoch
      | none => false))).map Prod.fst ++
  (s.heldPeer.filter (fun p => peerTable p.ins == some num && p.view.num != epoch)).map HeldPeer.id ++
  ((Tab.get? s.tables num).map (fun t => t.stalled.map (fun k => k.1.id))).getD []

/-- EPOCH_ADOPT (R171): the slice whose turn it is installs the layers of the table's oldest publication; with the fourth
the publication is complete and its drain begins (R172). -/
def execEpochAdopt (slice : Fin 4) (table : Nat) (s : State) : Host.Outcome State Fault Refusal :=
  match s.adopt.find? (fun p => p.table == table) with
  | none => .next s
  | some p =>
    if p.next ≠ slice.val then .next s
    else
      let s1 := s.modSlice slice.val (fun l => { l with layers := Tab.set l.layers table p.layer })
      if slice.val < 3 then
        .next { s1 with adopt := s1.adopt.map (fun q => if q == p then { q with next := q.next + 1 } else q) }
      else
        .next { s1 with adopt := s1.adopt.erase p,
                        drains := s1.drains ++ [{ table := table, num := p.layer.num, waits := s.drainWaits table p.layer.num p.maker,
                                                  oldHots := p.oldHots, oldOvr := p.oldOvr, oldRows := p.oldRows }] }

/-- Whether a command or a peer's request no longer holds a drain back: it has ended, or contributions of it wait for space of a closing
table, which only the close can give (R174). -/
def State.drained (s : State) (num h : Nat) : Bool :=
  let closing := ((Tab.get? s.tables num).map (fun t => t.layer.closing)).getD false
  (match Tab.get? s.cmds h with
    | none => true
    | some c => c.ended || (closing && c.opcode == 4 && !c.waiting.isEmpty)) &&
  !s.heldPeer.any (fun p => p.id == h) &&
  (closing || !(((Tab.get? s.tables num).map (fun t => t.stalled.any (fun k => k.1.id == h))).getD false))

/-- DRAIN_COMPLETE (R172): the oldest drain of the table whose every wait is over ends; what the publication removed is released, and
journal entries of its epoch leave the journal (R195). -/
def execDrainComplete (table : Nat) (s : State) : Host.Outcome State Fault Refusal :=
  match s.drains.find? (fun d => d.table == table && d.waits.all (s.drained table)) with
  | none => .next s
  | some d =>
    .next { s with drains := s.drains.erase d, journal := s.journal.filter (fun j => !(j.table == table && j.stamp == d.num)) }

/-- Whether a table has neither a publication nor a drain in progress. -/
def State.settled (s : State) (num : Nat) : Bool := !s.adopting num && !s.drains.any (fun d => d.table == num)

/-! Closing. -/

/-- Discard the contributions of SCATTER_GRADs that wait for space: they count as absent (R174). -/
def State.discardWaiting (s : State) (num : Nat) : State × Nat :=
  s.cmds.foldl (fun acc p =>
    if p.2.opcode == 4 && p.2.table == num && !p.2.ended then
      let n := p.2.waiting.length
      ((acc.1.modCmd p.1 (fun d => { d with waiting := [], c1 := d.c1 + n })).scatterEnd p.1, acc.2 + n)
    else acc) (s, 0)

/-- Free everything a closed table holds (R174, step 5). -/
def State.dropTable (s : State) (num : Nat) (replacing : Bool) : State :=
  { s with work := s.work.filter (fun w => w.act != .spill num),
           tables := Tab.erase s.tables num, slices := s.slices.map (fun l => { l with layers := Tab.erase l.layers num }),
           journal := s.journal.filter (fun j => j.table != num), staging := if replacing then 0 else s.staging }

/-- TABLE_CLOSE (R174). [DEDUCED, log 64] -/
def execTableClose (h : Nat) (s : State) : Host.Outcome State Fault Refusal :=
  match s.running h 0x22 with
  | none => .next s
  | some c =>
    match Tab.get? s.tables c.table with
    | none => .next s
    | some t =>
      if c.phase = .ready then
        let s1 := (s.modTable c.table (fun t => { t with closing := true })).publish c.table (fun y => { y with closing := true }) (some h)
        let s2 := s1.cmds.foldl (fun acc p =>
          if p.2.opcode == 5 && p.2.table == c.table && !p.2.ended && p.2.phase != .stage 2 then (acc.endWith p.1 0x14 0).release (.cmd p.1)
          else acc) s1
        .next (s2.modCmd h (fun d => { d with phase := .stage 1, pubNum := t.nextStamp }))
      else if !s.settled c.table then .next s
      else
        let w := s.discardWaiting c.table
        let s1 := t.stalled.foldl (fun acc k => acc.toPeer k.1.engine (.reply k.2 .refused)) w.1
        let n := t.contribs.length + t.stalled.length + w.2
        .next (((s1.dropTable c.table t.layer.replacing).endCmd h (fun d => { d with c0 := n })).release (.cmd h))

/-! Hot rows. -/

/-- R176's checks. -/
def State.checkHot (s : State) (c : Cmd) : Option Nat :=
  let mode := c.fld 0xA 1
  let n := c.fld 0xC 4
  firstFail
    [ (decide (2 < mode) || decide (2097152 < n) || (n == 0 && mode != 0) || c.fld 0x10 8 % 8 != 0, 0x81),
      (match s.viewOf c with
        | some (t, y) => s.replacing c.table t y || s.layersBusy c.table
        | none => true, 0x82) ]

/-- The rows of a HOT_LOAD list that this engine owns, each once at its first position, with their owning slices. -/
def State.hotListed (s : State) (c : Cmd) (t : Table) (y : Layer) (idx : List Idx) : List (Nat × Nat) :=
  (nubNat (validRows idx)).filterMap (fun r =>
    let o := t.owner y c.table r
    if o.engine = s.self then some (r, o.stack / 3) else none)

/-- Load rows in list order while the slice's space and row limit allow (R176), but none whose stack copy has an uncorrectable sector
(R177): the rows copied, by slice. -/
def State.hotCopies (s : State) (c : Cmd) (t : Table) (y : Layer) (l : List (Nat × Nat)) : List (List Nat) :=
  (l.foldl (fun (acc : List (List Nat)) p =>
    let here := acc.getD p.2 []
    let present := (t.layer.hots.getD p.2 []).contains p.1
    let bytes := s.dev.read (t.addrOf (t.owner y c.table p.1) false) t.stored
    let fits := decide (s.hotUsed p.2 + (here.length + 1) * t.stored ≤ Config.hotBytes) &&
      decide (s.hotCount p.2 + here.length + 1 ≤ Config.hotRows)
    if !present && fits && !bytes.any (fun b => b.p == 2) then acc.set p.2 (here ++ [p.1]) else acc) [[], [], [], []])

/-- HOT_LOAD (R176, R177): drops counted, rows copied, the new sets published; it ends after the drain. [DEDUCED, log 64] -/
def execHotLoad (h : Nat) (s : State) : Host.Outcome State Fault Refusal :=
  match s.running h 0x23 with
  | none => .next s
  | some c =>
    if c.phase ≠ .ready then .next (s.endPublished h c true)
    else
      let a := s.actor h c
      let rows := (s.viewOf c).map (fun v => v.1.rows)
      let r : Acc (List Idx) := Acc.list ((List.range (c.fld 0xC 4)).map (fun i =>
        (s.devRead a c.slice 0 [i] (c.fld 0x10 8 + 8 * i) 8).map (fun l =>
          { word := leNat (dataOf l), poisoned := anyPoison l, drop := dropReason c.table rows (anyPoison l) (leNat (dataOf l)) })))
      let w := s.wheyAll a c.slice (s.wheyBase c) r.val
      match s.viewOf c with
      | none => .next ((s.endCmd h id).release (.cmd h))
      | some (t, y) =>
        let listed := s.hotListed c t y r.val
        let needs := if r.needs.isEmpty then
            w.needs ++ listed.flatMap (fun p => s.devNeeds (.cmd h) false (t.addrOf (t.owner y c.table p.1) false) t.stored)
          else r.needs
        if !needs.isEmpty then .next (s.await h needs)
        else
          let mode := c.fld 0xA 1
          let new := s.hotCopies c t y listed
          let hots := (List.range 4).map (fun n =>
            let old := t.layer.hots.getD n []
            -- a row that has moved since the admission is hot at neither place (R185)
            let add := (new.getD n []).filter (fun r => (t.owner t.layer c.table r).stack / 3 == n)
            match mode with
            | 0 => old.filter (fun r => listed.contains (r, n)) ++ add
            | 1 => old ++ add
            | _ => old.filter (fun r => !listed.contains (r, n)))
          let dropped := droppedCount r.val
          let total := (nubNat (validRows r.val)).length
          let inSet := (listed.filter (fun p => (hots.getD p.2 []).contains p.1)).length
          let s1 := ((s.faults c (r.evs ++ w.evs)).wheyAdd w.val).publish c.table (fun y => { y with hots := hots }) (some h)
          .next (s1.modCmd h (fun d => { d with
            phase := .stage 1, pubNum := t.nextStamp, c0 := (hots.map List.length).sum, c1 := if mode = 2 then 0 else total - inSet, c2 := dropped,
            status := firstStatus [(dropped != 0, 1)] }))

/-! Ripening. -/

/-- The moves of a MIGRATE list: row, target owner descriptor, whose bits [31:16] say nothing (Table 2-2), whether a reserved field is
non-zero (Table 8-6). -/
def moveList (l : List Byte) (n : Nat) : List (Nat × Nat × Bool) :=
  (List.range n).map (fun i =>
    (field l (16 * i) 5, field l (16 * i + 8) 2, field l (16 * i + 5) 3 != 0 || field l (16 * i + 12) 4 != 0))

/-- Override slots of stack `k` in use: in force, pending, assigned, or not yet drained. -/
def State.slotsUsed (s : State) (num : Nat) (t : Table) (k : Nat) : List Nat :=
  let here := fun (l : List Ovr) => (l.filter (fun o => ownEngine o.owner == s.self && ownStack o.owner == k && o.slot != noSlot)).map Ovr.slot
  here t.layer.ovr ++ here t.layer.pend ++ ((s.adopt.filter (fun a => a.table == num)).flatMap (fun a => here a.oldOvr)) ++
  ((s.drains.filter (fun a => a.table == num)).flatMap (fun a => here a.oldOvr))

/-- Give each move its slot (R183): none when a target stack lacks one. A move to the bucket owner removes the row's override entry; a
move of a row without one to its bucket owner, or to the stack on which its override slot lies, is left out. [DEDUCED, log 64] -/
def State.assignMoves (s : State) (num : Nat) (t : Table) (l : List (Nat × Nat × Bool)) : Option (List Ovr) :=
  l.foldl (fun (acc : Option (List Ovr)) m => match acc with
    | none => none
    | some out =>
      let cur := t.owner t.layer num m.1
      let b := t.bucketOwner num m.1
      let k := ownStack m.2.1
      if b.engine = s.self ∧ b.stack = k then
        some (if cur.region = 2 then out ++ [{ row := m.1, owner := m.2.1, slot := noSlot }] else out)
      else if cur.engine = s.self ∧ cur.stack = k then some out
      else
        let used := s.slotsUsed num t k ++ ((out.filter (fun o => ownStack o.owner == k)).map Ovr.slot)
        match (List.range t.ovrSlots).find? (fun v => !used.contains v) with
        | some v => some (out ++ [{ row := m.1, owner := m.2.1, slot := v }])
        | none => none) (some [])

/-- The moves of a packet, read from device memory. -/
def State.readMoves (s : State) (a : Actor) (c : Cmd) : Acc (List PB) := s.devRead a c.slice 4 [] (c.fld 0x18 8) (16 * c.fld 0xC 2)

/-- R183's checks. -/
def State.checkMigrate (s : State) (a : Actor) (c : Cmd) : Acc (Option Nat) :=
  let n := c.fld 0xC 2
  let mode := c.fld 0xA 1 % 2
  let v := s.viewOf c
  let t := v.map Prod.fst
  let first := firstFail
    [ (n == 0 || decide (4096 < n) || c.fld 0x18 8 % 16 != 0, 0x91),
      (match v with
        | some (t, y) => !t.ripen || s.replacing c.table t y || s.layersBusy c.table
        | none => true, 0x92),
      (match t with
        | some t =>
          if mode = 0 then
            let sw := BitVec.ofNat 64 (c.fld 0x10 8)
            !t.train || sw != t.step + 1 || t.openSteps.contains sw || t.closedSteps.contains t.step
          else !t.openSteps.isEmpty
        | none => true, 0x93) ]
  match first, t with
  | some d, _ => { val := some d }
  | none, none => { val := some 0x92 }
  | none, some t =>
    (s.readMoves a c).map (fun l =>
      let ms := moveList (dataOf l) n
      firstFail
        [ (anyPoison l || ms.any (fun m => decide (t.rows ≤ m.1) || ownEngine m.2.1 != s.self || !ownerLegal s.groupSize m.2.1 || m.2.2) ||
            !decide ((ms.map Prod.fst).Nodup), 0x94),
          (match s.assignMoves c.table t ms with
            | some out => decide (Config.overridesMax < (mergeMoves t.layer.ovr out).length)
            | none => true, 0x95) ])

/-- Whether a row write of a table admitted before `h` has not completed (R186): a ROW_WRITE, or a peer's write that is held. -/
def State.writesBefore (s : State) (h num : Nat) : Bool :=
  s.cmds.any (fun p => p.1 < h && p.2.opcode == 6 && p.2.table == num && !p.2.ended) ||
  s.heldPeer.any (fun p => p.id < h && peerTable p.ins == some num && !readsRows num p.ins)

/-- MIGRATE (R183 to R187): mode 0 publishes the moves as pending; mode 1 copies the rows and publishes the overrides. [DEDUCED, log 64] -/
def execMigrate (h : Nat) (s : State) : Host.Outcome State Fault Refusal :=
  match s.running h 7 with
  | none => .next s
  | some c =>
    match Tab.get? s.tables c.table with
    | none => .next s
    | some t =>
      if c.phase ≠ .ready then .next (s.endPublished h c false)
      else
        let begun := fun (s : State) => s.modCmd h (fun d =>
          { d with phase := .stage 1, pubNum := t.nextStamp, c0 := c.moves.length, c1 := c.fld 0xC 2 - c.moves.length })
        if c.fld 0xA 1 % 2 = 0 then
          .next (begun (s.publish c.table (fun y => { y with
            pend := y.pend.filter (fun o => !c.moves.any (fun m => m.row == o.row)) ++ c.moves,
            pendStep := BitVec.ofNat 64 (c.fld 0x10 8) }) (some h)))
        else if s.writesBefore h c.table || s.adopting c.table || s.slotHeld c.table c.moves then .next s
        else
          let needs := s.moveNeeds (.cmd h) c.table t c.moves
          if !needs.isEmpty then .next (s.await h needs)
          else .next (begun ((s.handover c.table t c.moves).publish c.table (fun y => y.moved c.moves) (some h)))

/-! Replication. -/

/-- Sets in a layer image of `size` bytes for `b` buckets; none if the size does not match (R189). -/
def layerSets (b size : Nat) : Option Nat :=
  if size < 4 * b + 4 ∨ (size - 4 * b - 4) % 16 ≠ 0 then none else some ((size - 4 * b - 4) / 16)

/-- R189's checks. -/
def State.checkReplicate (s : State) (a : Actor) (c : Cmd) : Acc (Option Nat) :=
  let v := s.viewOf c
  let t := Tab.get? s.tables c.table
  let size := c.fld 0xC 4
  let bad := c.fld 0x10 8 % 64 != 0 || (match t with
    | some t => (layerSets t.buckets.length size).isNone
    | none => false)
  let first := firstFail
    [ (bad, 0xA1),
      (match v with
        | some (t, y) => s.replacing c.table t y || s.layersBusy c.table
        | none => true, 0xA2) ]
  match first, t with
  | some d, _ => { val := some d }
  | none, none => { val := some 0xA2 }
  | none, some t =>
    (s.devRead a c.slice 4 [] (c.fld 0x10 8) size).map (fun l =>
      let m := dataOf l
      let b := t.buckets.length
      let n := (layerSets b size).getD 0
      let reps := (List.range b).map (fun i => field m (4 * i) 4)
      let sets := setsAt m (4 * b) n
      firstFail [(anyPoison l || crc32 (m.take (size - 4)) != field m (size - 4) 4 || decide (4095 < n) ||
        !sets.all (setOk s.groupSize) || !repOrdinalsOk reps sets ||
        sets.any (fun x => x.any (fun d => d != 0xFFFFFFFF && ownEngine d == s.self && t.region (ownStack d) 0x08 == 0)), 0xA3)])

/-- The rows of bucket `j` (R26). -/
def Table.bucketRows (t : Table) (num j : Nat) : List Nat :=
  (List.range t.slots).filterMap (fun k =>
    let p := j + t.buckets.length * k
    if p < t.rows then some (unwalk t.key num t.mbits t.rows p) else none)

/-- One position that a REPLICATE fills: bucket, descriptor, its place in the set. -/
structure Fill where
  bucket : Nat
  desc : Nat
  place : Nat
deriving DecidableEq, Repr

/-- The positions of the new layer on this engine that the old layer `y` does not have. -/
def Table.fills (t : Table) (y : Layer) (self : Nat) : List Fill :=
  (List.range t.buckets.length).flatMap (fun j =>
    let v := t.newReps.getD j 0
    let o := y.reps.getD j 0
    let old := if o % 65536 = 0 ∨ o / 65536 ≠ v / 65536 then [] else y.sets.getD (o % 65536 - 1) []
    if v % 65536 = 0 then []
    else (List.range 4).filterMap (fun k =>
      let d := (t.newSets.getD (v % 65536 - 1) []).getD k 0xFFFFFFFF
      if d = 0xFFFFFFFF ∨ ownEngine d ≠ self ∨ old.any (samePlace d) then none else some { bucket := j, desc := d, place := k }))

/-- Read the rows of one position's bucket from the copies the old layer selects. -/
def State.fillRows (s : State) (h : Nat) (c : Cmd) (t : Table) (y : Layer) (f : Fill) : Acc (List (Nat × Option (List PB))) :=
  Acc.list ((t.bucketRows c.table f.bucket).map (fun r => (s.rowRead (s.actor h c) c t y [] r).map (fun x => (r, x))))

/-- Where row `r` lies in a position that fills (R27). -/
def Table.fillLoc (t : Table) (self num : Nat) (f : Fill) (r : Nat) : Loc :=
  { engine := self, stack := ownStack f.desc, region := 1,
    slot := t.newReps.getD f.bucket 0 / 65536 * t.slots + t.place num r / t.buckets.length }

/-- Write a filled position, each row with zero pad (R52). -/
def State.fillWrite (s : State) (num : Nat) (t : Table) (f : Fill) (rows : List (Nat × Option (List PB))) : State :=
  rows.foldl (fun acc r => match r.2 with
    | some bytes => acc.devWrite (t.addrOf (t.fillLoc s.self num f r.1) false) (zeroPad t.fmt t.dim bytes)
    | none => acc) s

/-- The layer without the positions that were not filled: a bucket that loses one takes a set of its own. -/
def dropPositions (reps : List Nat) (sets : List (List Nat)) (bad : List Fill) : List Nat × List (List Nat) :=
  bad.foldl (fun acc f =>
    let v := acc.1.getD f.bucket 0
    let set := (acc.2.getD (v % 65536 - 1) []).filter (fun d => d != f.desc)
    if set.all (fun d => d == 0xFFFFFFFF) then (acc.1.set f.bucket 0, acc.2)
    else (acc.1.set f.bucket (v / 65536 * 65536 + (acc.2.length + 1)), acc.2 ++ [padTo 4 0xFFFFFFFF set])) (reps, sets)

/-- REPLICATE (R189): fill the new positions here, publish the layer without those that met an absent owner, end after the drain. A position
that the layer drops is written no more from the publication's completion on (R172). [DEDUCED, log 64] -/
def execReplicate (h : Nat) (s : State) : Host.Outcome State Fault Refusal :=
  match s.running h 8 with
  | none => .next s
  | some c =>
    match s.viewOf c with
    | none => .next s
    | some (t, y) =>
      if c.phase ≠ .ready then .next (s.endPublished h c true)
      else
        let fs := t.fills y s.self
        let r := Acc.list (fs.map (fun f => (s.fillRows h c t y f).map (fun l => (f, l))))
        let needs := r.needs ++ fs.flatMap (fun f => (t.bucketRows c.table f.bucket).flatMap (fun w =>
          s.copyNeeds (.cmd h) t [t.fillLoc s.self c.table f w]))
        if !needs.isEmpty then .next (s.await h needs)
        else
          let bad := (r.val.filter (fun p => p.2.any (fun q => q.2.isNone))).map Prod.fst
          let good := r.val.filter (fun p => !p.2.any (fun q => q.2.isNone))
          let s1 := good.foldl (fun acc p => acc.fillWrite c.table t p.1 p.2) (s.faults c r.evs)
          let ly := dropPositions t.newReps t.newSets bad
          let s2 := s1.publish c.table (fun y => { y with reps := ly.1, sets := ly.2 }) (some h)
          .next ((s2.modTable c.table (fun u => { u with newReps := [], newSets := [] })).modCmd h (fun d => { d with
            phase := .stage 1, pubNum := t.nextStamp, c0 := (good.map (fun p => p.2.length)).sum, c1 := bad.length,
            status := firstStatus [(!bad.isEmpty, 3)] }))

/-! Replacement. -/

/-- Every copy of every slot on this engine that has a version entry: its location (R191, R196). -/
def Table.versioned (t : Table) (self : Nat) : List Loc :=
  (List.range 12).flatMap (fun k => [0, 1, 2].flatMap (fun g =>
    let l : Loc := { engine := self, stack := k, region := g, slot := 0 }
    if t.base l true = 0 then [] else (List.range (t.regionSlots self t.layer.reps t.layer.sets l)).map (fun i => { l with slot := i })))

/-- The row whose slot a location of the table is, if a row lies there (R26 to R28): the inverse of the placement. -/
def Table.rowAt (t : Table) (y : Layer) (self num : Nat) (l : Loc) : Option Nat :=
  let at' := fun (j : Nat) =>
    let p := j + t.buckets.length * (l.slot % t.slots)
    if p < t.rows then some (unwalk t.key num t.mbits t.rows p) else none
  match l.region with
  | 0 => ((List.range t.buckets.length).find? (fun j =>
      let b := t.buckets.getD j 0
      ownEngine b == self && ownStack b == l.stack && bits b 47 32 == l.slot / t.slots)).bind at'
  | 1 => ((List.range t.buckets.length).find? (fun j =>
      let v := y.reps.getD j 0
      v % 65536 != 0 && v / 65536 == l.slot / t.slots &&
      (y.sets.getD (v % 65536 - 1) []).any (fun d => d != 0xFFFFFFFF && ownEngine d == self && ownStack d == l.stack))).bind at'
  | _ => (y.ovr.find? (fun o => ownEngine o.owner == self && ownStack o.owner == l.stack && o.slot == l.slot)).map Ovr.row

/-- `deep` written 0 while `run` is 0 releases the claim; the staging part of the buffer is discarded (R410). -/
def State.traceUndeep (s : State) : State :=
  if s.staging = 1 then { s with staging := 0, trace := { s.trace with recs := s.trace.recs.take 262144 } } else s

/-- Whether a register write that waits in the queue, and so reaches the keeper in this cycle, ends deep trace (R386). [DESIGN CHOICE, log 94] -/
def State.deepEnds (s : State) : Bool :=
  s.staging == 1 && !bitAt (s.kreg 0x8000) 63 && s.pending.any (fun c => match c with
    | .traceDeepRelease p _ => s.portUp p.val
    | .registerWrite p off size d poisoned =>
      s.portUp p.val && off % 0x20000000 == 0x10008000 && size == 8 && !poisoned && !bitAt d.toNat 63 && !bitAt d.toNat 62
    | _ => false)

/-- The state in which a claim on the staging SRAM is decided: a release in the same cycle comes first (R386). -/
def State.staged (s : State) : State := if s.deepEnds then s.traceUndeep else s

/-- What a REPLACE_BEGIN awaits: lines of the version entries. -/
def State.stampNeeds (s : State) (h : Nat) (t : Table) : List Need :=
  ((t.versioned s.self).map (t.versionAddr s.self t.layer.reps t.layer.sets)).flatMap (fun a => s.devNeeds (.cmd h) true a 4)

/-- Whether a REPLACE_BEGIN that waits in the queue claims the staging SRAM in this cycle (R386). [DESIGN CHOICE, log 94] -/
def State.claimComes (s : State) : Bool :=
  s.pending.any (fun c => match c with
    | .replaceBegin h => match s.openRunning h 1 with
      | some c => c.phase == .ready && ((Tab.get? s.tables c.table).map (fun t => (s.stampNeeds h t).isEmpty)).getD false
      | none => false
    | _ => false)

/-- REPLACE_BEGIN (R168, R191): claim the staging SRAM, stamp every version entry, publish the replacing layer with an empty hot set.
[DEDUCED, log 64] -/
def execReplaceBegin (h : Nat) (s : State) : Host.Outcome State Fault Refusal :=
  match s.openRunning h 1 with
  | none => .next s
  | some c =>
    match Tab.get? s.tables c.table with
    | none => .next ((s.endWith h 0x10 0x72).release (.cmd h))
    | some t =>
      if c.phase ≠ .ready then .next (s.endPublished h c false)
      else if s.staged.staging ≠ 0 then .next ((s.endWith h 0x19 1).release (.cmd h))
      else
        let at' := (t.versioned s.self).map (t.versionAddr s.self t.layer.reps t.layer.sets)
        let needs := s.stampNeeds h t
        if !needs.isEmpty then .next (s.await h needs)
        else
          let s1 := at'.foldl (fun acc a => acc.devPut a (natLE 4 (t.nextStamp % 2 ^ 31 * 2))) s.staged
          let s2 := s1.publish c.table (fun y => { y with replacing := true, hots := [[], [], [], []] }) (some h)
          .next { (s2.modCmd h (fun d => { d with phase := .stage 1, pubNum := t.nextStamp })) with staging := 2 + c.table }

/-- Publish the version writes of a table (R195). -/
def State.versionPublish (s : State) (num : Nat) (maker : Option Nat) : State :=
  (s.publish num id maker).modTable num (fun t => { t with unpublished := false, lastVersion := s.kTick })

/-- VERSION_PUBLICATION (R195): at most once every 10,000 keeper ticks while unpublished writes exist. -/
def execVersionPublication (table : Nat) (s : State) : Host.Outcome State Fault Refusal :=
  match Tab.get? s.tables table with
  | none => .next s
  | some t =>
    if t.layer.replacing && t.unpublished && decide (t.lastVersion + 10000 ≤ s.kTick) && !s.adopting table then
      .next (s.versionPublish table none)
    else .next s

/-- The copies whose entry reads slot 1 (R196). -/
def State.copiesBack (s : State) (t : Table) : List Loc :=
  (t.versioned s.self).filter (fun l => bitAt (s.dev.num (t.versionAddr s.self t.layer.reps t.layer.sets l) 4) 0)

/-- REPLACE_COMMIT (R196): after the ROW_WRITEs in flight a version publication and its drain, then slot 1 of every copy that reads it goes
into slot 0, at the slice that owns it (R15), and the table no longer replaces; the record counts rows, whatever the number of
their copies. [DEDUCED, log 64] -/
def execReplaceCommit (h : Nat) (s : State) : Host.Outcome State Fault Refusal :=
  match s.openRunning h 2 with
  | none => .next s
  | some c =>
    match Tab.get? s.tables c.table with
    | none => .next ((s.endWith h 0x10 0x72).release (.cmd h))
    | some t =>
      match c.phase with
      | .ready =>
        if s.cmds.any (fun p => p.2.opcode == 6 && p.2.table == c.table && p.2.phase == .ready) || s.adopting c.table then .next s
        else .next ((s.versionPublish c.table (some h)).modCmd h (fun d => { d with phase := .stage 1, pubNum := t.nextStamp }))
      | .stage 1 =>
        if !s.drainDone c.table c.pubNum || s.cmds.any (fun p => p.2.opcode == 6 && p.2.table == c.table && !p.2.ended) then .next s
        else
          let back := s.copiesBack t
          let needs := back.flatMap (fun l =>
            s.devNeeds (.cmd h) false (t.addrOf l true) t.stored ++ s.devNeeds (.cmd h) true (t.addrOf l false) t.stored)
          if !needs.isEmpty then .next (s.await h needs)
          else
            let s1 := back.foldl (fun acc l =>
              (acc.countBad (t.addrOf l true) t.stored).devWrite (t.addrOf l false) (zeroPad t.fmt t.dim (acc.dev.read (t.addrOf l true) t.stored))) s
            let rows := nubNat (back.filterMap (t.rowAt t.layer s.self c.table))
            .next ((s1.publish c.table (fun y => { y with replacing := false }) (some h)).modCmd h (fun d =>
              { d with phase := .stage 2, pubNum := t.nextStamp, c0 := rows.length }))
      | .stage _ =>
        if !s.drainDone c.table c.pubNum then .next s
        else .next { ((s.endCmd h id).release (.cmd h)) with staging := 0 }
      | .done => .next s

/-! ROW_WRITE. -/

/-- R193's checks. -/
def checkRowWrite (c : Cmd) (t : Option Table) : Option Nat :=
  let raw := bitAt (c.fld 0xA 1) 0
  let fmt := c.fld 0xB 1 % 16
  let n := c.fld 0xC 2
  let st := c.fld 0x18 4
  let row := match t with
    | some t => if raw then t.stored else t.dim * (elemBits fmt / 8)
    | none => 0
  firstFail
    [ (c.src == 0 || c.src == 3 || n == 0 || c.fld 0x20 8 % 8 != 0 || c.fld 0x10 8 % 32 != 0 ||
        (c.src == 1 && !inStaging (c.fld 0x20 8) (8 * n)), 0xB1),
      ((!raw && !outFmtOk fmt) || st % 32 != 0 || decide (1048576 < st) || decide (st < row), 0xB2) ]

/-- One row of a ROW_WRITE: its row index, the stored bytes to write, whether its input was poisoned, conversions. -/
structure RowIn where
  row : Nat
  bytes : List Byte
  poisoned : Bool
  conv : Conv
deriving DecidableEq, Repr

/-- The stored bytes an input row gives (R159, R193, R52). -/
def rowInput (t : Table) (raw : Bool) (fmt r : Nat) (l : List PB) : RowIn :=
  if raw then
    let n := contentBytes t.fmt t.dim
    -- pad bits of a partly filled last byte are zero too (R52)
    let codes := (List.range t.dim).map (fun e => elemCode t.fmt e (dataOf l))
    { row := r, bytes := packRow t.fmt t.dim ((dataOf l).take (rindBytes t.fmt)) codes, poisoned := anyPoison (l.take n), conv := {} }
  else
    let vs := widenList fmt t.dim l
    let e := encodeRow t.fmt t.dim (fun _ => .nearest) (vs.map PF.v)
    { row := r, bytes := e.1, poisoned := vs.any PF.p, conv := e.2 }

/-- A ROW_WRITE's words and input rows, read: last occurrences of valid rows, in list order (R193). -/
def State.rowWriteRun (s : State) (h : Nat) (c : Cmd) (t : Option Table) : Acc (List Idx × List RowIn) :=
  let a := s.actor h c
  let raw := bitAt (c.fld 0xA 1) 0
  let fmt := c.fld 0xB 1 % 16
  (s.indexList a c (fun i => [i]) (c.fld 0x20 8) (c.fld 0xC 2)).bind (fun idx =>
    match t with
    | none => { val := (idx, []) }
    | some t =>
      let last := (List.range idx.length).filter (fun i => match idx[i]? with
        | some x => x.drop.isNone && !(idx.drop (i + 1)).any (fun z => z.drop.isNone && (indexWord z.word).row == (indexWord x.word).row)
        | none => false)
      (Acc.list (last.map (fun i =>
        let r := (indexWord (idx.getD i { word := 0, poisoned := false, drop := none }).word).row
        (s.ctxRead a c.slice 8 [i] (c.fld 0x10 8 + i * c.fld 0x18 4) (if raw then t.stored else t.dim * (elemBits fmt / 8))).map
          (rowInput t raw fmt r)))).map (fun l => (idx, l)))

/-- Write the rows of a ROW_WRITE (R194, R195) under the layers of its admission; the number of rows written and of replica writes
skipped. -/
def State.rowWrites (s : State) (c : Cmd) (t : Table) (y : Layer) (rows : List RowIn) : State × Nat × Nat :=
  rows.foldl (fun acc r =>
    let locs := s.copiesHere t y c.table r.row
    let p := (acc.1.writeRow c.table t y r.row (cleanBytes r.bytes)).sendReplicas c.table t y (s.slc c.slice).loss r.row (cleanBytes r.bytes)
    (p.1.countTbl c.slice c.table 2 p.2, acc.2.1 + 1, acc.2.2 + p.2 + (locs.length - (s.upLocs locs).length))) (s, 0, 0)

/-- ROW_WRITE (R193 to R195). -/
def execRowWrite (h : Nat) (s : State) : Host.Outcome State Fault Refusal :=
  match s.running h 6 with
  | none => .next s
  | some c =>
    let view := s.viewOf c
    if c.phase ≠ .ready then
      match view with
      | some (t, _) =>
        if (t.layer.num + 2 ^ 32 - c.pubNum) % 2 ^ 32 < 2 ^ 31 ∧ s.pubDone c.table c.pubNum then .next ((s.endCmd h id).release (.cmd h)) else .next s
      | none => .next ((s.endCmd h id).release (.cmd h))
    else
      let r := s.rowWriteRun h c (view.map Prod.fst)
      let w := s.wheyAll (s.actor h c) c.slice (s.wheyBase c) r.val.1
      let good := r.val.2.filter (fun x => !x.poisoned)
      let needs := if r.needs.isEmpty then w.needs ++ (match view with
          | some (t, y) => good.flatMap (fun x => s.rowNeeds (.cmd h) c.table t y x.row)
          | none => [])
        else r.needs
      let dropped := droppedCount r.val.1
      if !needs.isEmpty then .next (s.await h needs)
      else
        let s1 := ((s.faults c (r.evs ++ w.evs)).wheyAdd w.val)
        match view with
        | none => .next ((s1.endCmd h (fun d => { d with c1 := dropped, status := firstStatus [(dropped != 0, 1)] })).release (.cmd h))
        | some (t, y) =>
          if y.replacing && s.journalBusy c.table (good.map RowIn.row) then .next (s.await h [])
          else if !y.replacing && s.readersBefore h c.table then .next (s.await h [])
          else
            let s2 := s1.countConv c.slice c.ctx (Conv.sum (good.map RowIn.conv))
            let p := s2.rowWrites c t y good
            let bad := r.val.2.length - good.length
            let f := fun (d : Cmd) => { d with
              c0 := p.2.1, c1 := dropped, c2 := bad, c3 := (validRows r.val.1).length - r.val.2.length,
              status := firstStatus [(p.2.2 != 0, 3), (bad != 0, 2), (dropped != 0, 1)] }
            if y.replacing ∧ p.2.1 ≠ 0 then .next (p.1.modCmd h (fun d => { f d with phase := .stage 1, pubNum := t.nextStamp }))
            else .next ((p.1.endCmd h f).release (.cmd h))

end Sys2Proof.Machine
end

