-- ==== Sys2Proof/Machine/Score.lean ====
section
/-! DEFINITION. SCORE_TOPK (06_scoring_topk_normalisation.md): scores, the top-k order, the statistics over the buckets'
tree, the parts that peers scan, and the loss of a peer in the middle (R134). -/

namespace Sys2Proof.Machine

open Sys2Proof

/-! Checks. -/

/-- Table 6-2. `dim` is D of the open table. -/
def checkScore (c : Cmd) (dim : Option Nat) : Option Nat :=
  let q := c.fld 0xA 1 % 128
  let k := c.fld 0xC 1 % 128
  let fmt := c.fld 0xB 1 % 16
  let st := c.fld 0x18 4
  let os := c.fld 0x2C 4
  let first := bits (c.fld 0x20 8) 39 0
  firstFail
    [ (q == 0 || decide (64 < q) || k == 0 || decide (64 < k), 0x41),
      (!outFmtOk fmt, 0x42),
      (c.fld 0x1C 4 == 0 || decide (2 ^ 40 < first + c.fld 0x1C 4), 0x43),
      (c.fld 0x10 8 % 64 != 0 || c.fld 0x30 8 % 8 != 0 || c.fld 0x38 8 % 32 != 0, 0x44),
      ((match dim with
          | some d => decide (65536 < q * d) || decide (st < d * (elemBits fmt / 8))
          | none => false) || decide (1048576 < st) || st % 32 != 0, 0x45),
      (decide (os < 8 * k + (if bitAt (c.fld 0xB 1) 4 then 8 else 0)) || decide (1048576 < os) || os % 32 != 0, 0x46),
      (!F32.finite (BitVec.ofNat 32 (c.fld 0x28 4)), 0x47) ]

/-! Scores. -/

/-- A canonical, unsplit shape with the group and mode of a descriptor (R121). -/
def wholeShape (sh : Shape) : Shape := { sh with free := false, parts := 1 }

/-- A score with its poison and events. -/
structure Score where
  v : F32
  p : Bool
  ev : Ev
deriving DecidableEq, Repr

/-- The finished canonical reduction of terms with their events. -/
def reducedValue (sh : Shape) (l : List (PF × Ev)) : F32 × Ev :=
  let r := reduction false (wholeShape sh) (termsOf (l.map Prod.fst))
  let f := finish (wholeShape sh) r
  (f.1, Ev.add (Ev.sum (l.map Prod.snd)) f.2)

/-- Qsum of a query, and its events: computed, and counted, once per query (R127, R109). -/
def querySum (sh : Shape) (q : List PF) : F32 × Ev := reducedValue sh (q.map (fun x => (x, {})))

/-- The score of a query against a row's stored bytes (R127, R128); the events of Qsum are not among its own. -/
def scoreRow (sh : Shape) (fmt dim : Nat) (q : List PF) (row : List PB) : Score :=
  let data := dataOf row
  let terms := (List.range dim).map (fun e =>
    let x := q.getD e { v := 0 }
    let v := elemTerm fmt data e
    let m := fmul x.v v.1
    let p := x.p || elemPoisoned fmt row e
    (({ v := m.1, p := p } : PF), if p then {} else Ev.add v.2 m.2))
  let a := reducedValue sh terms
  let poisoned := terms.any (fun t => t.1.p)
  if isAffine fmt then
    let o := fmul (offsetTerm (rindOf data).2) (querySum sh q).1
    let r := fadd a.1 o.1
    { v := r.1, p := poisoned || rindPoisoned fmt row, ev := Ev.add a.2 (Ev.add o.2 r.2) }
  else { v := a.1, p := poisoned, ev := a.2 }

/-! Top-k. -/

/-- The order key of a value that is not a NaN: +0 and −0 are equal. -/
def F32.key (x : F32) : Int := if F32.neg x then -((F32.code x : Nat) : Int) else ((F32.code x : Nat) : Int)

/-- R129: larger score first, equal scores by position. -/
def entryBefore (a b : ScanEntry) : Bool :=
  decide (F32.key b.value < F32.key a.value) || (F32.key a.value == F32.key b.value && decide (a.row < b.row))

/-- The best `k` of a list of candidates. -/
def topK (k : Nat) (l : List ScanEntry) : List ScanEntry := (sortBy entryBefore l).take k

/-! Statistics. -/

/-- `stat(a, b)` of R130. -/
def stat (a b : Option (F32 × F32)) : Option (F32 × F32) :=
  match a, b with
  | none, b => b
  | a, none => a
  | some a, some b =>
    if F32.isNaN a.1 then some a
    else if F32.isNaN b.1 then some b
    else
      let up := decide (F32.key a.1 < F32.key b.1)
      let hi := if up then b else a
      let lo := if up then a else b
      let d : F32 := if F32.key lo.1 = F32.key hi.1 then 0 else (fsub lo.1 hi.1).1
      some (hi.1, roundFp32 (F32.val hi.2 + F32.val lo.2 * F32.val (exp32 d)))

/-- The leaf of an unpoisoned score (R130). -/
def statLeaf (beta s : F32) : F32 × F32 :=
  let u := (fmul beta s).1
  if F32.isNaN u then (u, u) else (u, F32.one)

/-- The events of a score: its own, and with statistics those of u of its leaf (R418, R109). -/
def scoreEvents (stats : Bool) (beta : F32) (x : Score) : Ev := if stats && !x.p then Ev.add x.ev (fmul beta x.v).2 else x.ev

/-- The pair of a scan part; −∞ with +0 is void, since every leaf's z is 1.0 or a NaN. -/
def scanPair (q : ScanQuery) : Option (F32 × F32) := if q.m = F32.negInf ∧ q.z = 0 then none else some (q.m, q.z)

/-- How a pair is written: void as −∞ and +0 (R131). -/
def pairOut (p : Option (F32 × F32)) : F32 × F32 := p.getD (F32.negInf, 0)

/-- One level of the pairwise tree. -/
def statLevel : List (Option (F32 × F32)) → List (Option (F32 × F32))
  | a :: b :: r => stat a b :: statLevel r
  | l => l

/-- The tree over 2^k leaves. -/
def statTree (l : List (Option (F32 × F32))) : Nat → Option (F32 × F32)
  | 0 => l.headD none
  | k + 1 => statTree (statLevel l) k

/-! Scanning. -/

/-- What a scan needs to know of its command. -/
structure ScanJob where
  first : Nat
  len : Nat
  k : Nat
  beta : F32
  stats : Bool
  shape : Shape
  mask : List Byte
  queries : List (List PF)
deriving DecidableEq, Repr

/-- The job of a packet under a plan image and variant. -/
def scanJob (c : Cmd) (queries : List (List PF)) (mask : List Byte) : ScanJob :=
  { first := bits (c.fld 0x20 8) 39 0, len := c.fld 0x1C 4, k := c.fld 0xC 1 % 128, beta := BitVec.ofNat 32 (c.fld 0x28 4), stats := bitAt (c.fld 0xB 1) 4,
    shape := shapeOf (redOf c.image (schedOf c.image c.variant 3)), mask := mask, queries := queries }

/-- Whether a row is in the range of the job (R123, condition 1, for a row of the table). -/
def ScanJob.inRange (j : ScanJob) (r : Nat) : Bool := decide (j.first ≤ r ∧ r < j.first + j.len)

/-- Whether a row of the range is masked. -/
def ScanJob.isMasked (j : ScanJob) (r : Nat) : Bool :=
  let i := r - j.first
  bitAt (j.mask.getD (i / 8) 0).toNat (i % 8)

/-- The rows of a scan part in its order (R124): a bucket's rows without override rows, or one override row. -/
def Table.partRows (t : Table) (y : Layer) (num part : Nat) : List Nat :=
  if part < t.buckets.length then (t.bucketRows num part).filter (fun r => (ovrOf y.ovr r).isNone)
  else [part - t.buckets.length]

/-- Every part of a table: its buckets and its override rows, in the order in which the merge consumes them. -/
def Table.parts (t : Table) (y : Layer) : List Nat :=
  List.range t.buckets.length ++ y.ovr.map (fun o => t.buckets.length + o.row)

/-- The engine that scans a part for engine `self` under presence map `m` (R125): the owner while it is present, else
the copy that R420 selects; none if there is none. [DEDUCED, log 81] -/
def Table.partEngine (t : Table) (y : Layer) (self m part : Nat) : Option Nat :=
  if part < t.buckets.length then
    let e := ownEngine (t.buckets.getD part 0)
    if presentIn self m e then some e
    else
      let v := y.reps.getD part 0
      if v % 65536 = 0 then none
      else (((y.sets.getD (v % 65536 - 1) []).filter (fun d => d != 0xFFFFFFFF)).map ownEngine).find? (fun e => presentIn self m e)
  else match ovrOf y.ovr (part - t.buckets.length) with
    | some o => if presentIn self m (ownEngine o.owner) then some (ownEngine o.owner) else none
    | none => none

/-- The engine that scans a part for a command: chosen under the loss state of its admission, and again under each loss state with which its
slice has since lost the engine then asked (R125, R134, R420). [DEDUCED, log 65] -/
def Table.partServed (t : Table) (y : Layer) (c : Cmd) (self part : Nat) : Option Nat :=
  c.reissue.foldl (fun e m => if e = some m.1 ∧ m.1 ≠ self then t.partEngine y self m.2 part else e) (t.partEngine y self c.present part)

/-- Where row `r` of a part lies on this engine: its override slot, its bucket slot, or its first replica here. -/
def Table.partLoc (t : Table) (y : Layer) (num self r : Nat) : Option Loc :=
  let o := t.owner y num r
  if o.engine = self then some o
  else if o.region = 2 then none
  else (t.replicas y.reps y.sets num r).find? (fun l => l.engine == self)

/-- Add one row's score to a query's partial. -/
def addScore (q : ScanQuery) (k : Nat) (beta : F32) (r : Nat) (x : Score) : ScanQuery :=
  if x.p then { q with poisoned := true }
  else
    let p := pairOut (stat (scanPair q) (some (statLeaf beta x.v)))
    { q with m := p.1, z := p.2, top := if F32.isNaN x.v then q.top else topK k ({ value := x.v, row := r } :: q.top) }

/-- A void partial. -/
def voidQuery : ScanQuery := { top := [], m := F32.negInf, z := 0, poisoned := false }

/-- Scan one part here: its counts and partials, and the events of its scores. -/
def State.scanPart (s : State) (a : Actor) (slice num : Nat) (t : Table) (y : Layer) (j : ScanJob) (part : Nat) : Acc (ScanPart × Ev × List Nat) :=
  let rows := (t.partRows y num part).filter j.inRange
  let live := rows.filter (fun r => !j.isMasked r)
  let void := j.queries.map (fun _ => voidQuery)
  (Acc.list (live.map (fun r => match (t.partLoc y num s.self r).filter (fun l => s.sliceUp (l.stack / 3)) with
    | some l => (s.copyBytes a slice [] t y r l).map (fun b => (r, some b))
    | none => ({ val := (r, none) } : Acc (Nat × Option (List PB)))))).map (fun got =>
      let fed := got.filterMap (fun g => g.2.map (fun b => (g.1, b)))
      let sc := fed.map (fun g => (g.1, j.queries.map (fun q => scoreRow j.shape t.fmt t.dim q g.2)))
      let qs := sc.foldl (fun acc g => (List.zip acc g.2).map (fun p => addScore p.1 j.k j.beta g.1 p.2)) void
      ({ num := part, src := s.self, fed := fed.length, masked := rows.length - live.length, absent := live.length - fed.length,
         queries := qs }, Ev.sum (sc.flatMap (fun g => g.2.map (scoreEvents j.stats j.beta))), fed.map Prod.fst))

/-- A part that no engine can scan: its unmasked positions of the range are absent (R125). [DEDUCED, log 65] -/
def Table.absentPart (t : Table) (y : Layer) (num self : Nat) (j : ScanJob) (part : Nat) : ScanPart :=
  let rows := (t.partRows y num part).filter j.inRange
  let live := rows.filter (fun r => !j.isMasked r)
  { num := part, src := self, masked := rows.length - live.length, absent := live.length, queries := j.queries.map (fun _ => voidQuery) }

/-- Ask a peer for parts: one message, one awaited answer per part. [DEDUCED, log 65] -/
def State.askScan (s : State) (h : Nat) (c : Cmd) (t : Table) (j : ScanJob) (peer : Nat) (parts : List Nat) : State :=
  if parts.isEmpty then s
  else
    let s1 : State := { s with
      peerReqs := s.peerReqs ++ parts.map (fun p => { tag := s.nextTag, h := h, peer := peer, want := .scan p }),
      nextTag := s.nextTag + 1 }
    s1.toPeer peer (.scanRequest c.table t.mapId s.nextTag c.pkt c.image c.variant j.queries j.mask parts)

/-- Count the fed rows of a scan in the skew monitor. -/
def State.skewScan (s : State) (num : Nat) (t : Table) (y : Layer) (rows : List Nat) (peer : Bool) : State :=
  rows.foldl (fun acc r => match t.partLoc y num acc.self r with
    | some l => acc.skewAccess num l.stack (t.bucket num r) r (isHot y r l) peer
    | none => acc) s

/-! The result. -/

/-- Put a part into a command's parts: a part whose statistics the merge has consumed keeps them (R134). -/
def putPart (l : List ScanPart) (p : ScanPart) : List ScanPart :=
  match l with
  | [] => [p]
  | q :: r =>
    if q.num = p.num then
      (if q.locked then { p with locked := true,
                                 queries := (List.zip q.queries p.queries).map (fun z => { z.2 with m := z.1.m, z := z.1.z }) }
       else p) :: r
    else q :: putPart r p

/-- The statistics of query `i` (R131). -/
def statsOf (buckets i : Nat) (l : List ScanPart) : F32 × F32 :=
  let at' := fun (n : Nat) => ((l.find? (fun p => p.num == n)).bind (fun p => p.queries[i]?)).bind scanPair
  let k := log2Up buckets
  let root := statTree (padTo (2 ^ k) none ((List.range buckets).map at')) k
  let ovr := sortBy (fun a b => decide (a < b)) ((l.map ScanPart.num).filter (fun n => decide (buckets ≤ n)))
  pairOut (stat root (ovr.foldl (fun acc n => stat acc (at' n)) none))

/-- Result record `i` (Table 6-3). -/
def scoreRecord (c : Cmd) (buckets : Nat) (l : List ScanPart) (i : Nat) : List Byte :=
  let k := c.fld 0xC 1 % 128
  let first := bits (c.fld 0x20 8) 39 0
  let top := topK k (l.flatMap (fun p => ((p.queries[i]?).map ScanQuery.top).getD []))
  let st := statsOf buckets i l
  ((List.range k).flatMap (fun n => match top[n]? with
    | some e => natLE 4 e.value.toNat ++ natLE 4 (e.row - first)
    | none => natLE 4 F32.negInf.toNat ++ natLE 4 0xFFFFFFFF)) ++
  (if bitAt (c.fld 0xB 1) 4 then natLE 4 st.1.toNat ++ natLE 4 st.2.toNat else [])

/-- The output writes of a SCORE_TOPK; a query with a poisoned element is marked as a whole (R135). -/
def scoreWrites (c : Cmd) (buckets : Nat) : List OutWr :=
  let red := redOf c.image (schedOf c.image c.variant 3)
  (List.range (c.fld 0xA 1 % 128)).map (fun i =>
    let p := if (c.queries.getD i []).any PF.p then 4 else 0
    { slice := vatByte (field red 1 1) / 16, addr := c.fld 0x38 8 + i * c.fld 0x2C 4,
      bytes := (scoreRecord c buckets c.scans i).map (fun b => { b := b, p := p }), which := 3, coords := [i, 0], unit := 1 })

/-- Write the results once every part has come, and end (R136). -/
def State.scoreFinish (s : State) (h : Nat) : State :=
  match s.running h 3 with
  | none => s
  | some c =>
    if c.phase ≠ .stage 1 ∨ c.scans.any ScanPart.pending then s
    else
      let n := ((Tab.get? s.tables c.table).map (fun t => t.buckets.length)).getD 0
      let w := s.outAcc (s.actor h c) (scoreWrites c n)
      if !w.needs.isEmpty then s.askAll h w.needs
      else
        let absent := (c.scans.map ScanPart.absent).sum
        let poisoned := c.inPoison || c.scans.any (fun p => p.queries.any ScanQuery.poisoned)
        ((((s.faults c w.evs).landAll c.ctx h w.val).endCmd h (fun d => { d with
          c0 := (c.scans.map ScanPart.fed).sum, c1 := (c.scans.map ScanPart.masked).sum, c2 := absent,
          status := firstStatus [(anySuppressed w.val, 0x16), (absent != 0, 3), (poisoned, 2)] })).release (.cmd h))

/-- The queries of a packet for dimension `dim`, read. -/
def State.readQueries (s : State) (a : Actor) (c : Cmd) (dim : Nat) : Acc (List (List PF)) :=
  let fmt := c.fld 0xB 1 % 16
  Acc.list ((List.range (c.fld 0xA 1 % 128)).map (fun i =>
    let base := c.fld 0x10 8 + i * c.fld 0x18 4
    ((s.ctxRead a c.feedSlice 6 [i, 0] base (dim * (elemBits fmt / 8))).recoord (fun x => [i, x - base])).map (widenList fmt dim)))

/-- The mask bytes of the range, read; none without a mask. -/
def State.readMask (s : State) (a : Actor) (c : Cmd) : Acc (List PB) :=
  let base := c.fld 0x30 8
  if base = 0 then { val := [] }
  else (s.ctxRead a c.slice 7 [0, 0] base (cdiv (c.fld 0x1C 4) 8)).recoord (fun x => [0, x - base])

/-- The vat to which a bucket scanned here is dealt, and the Rows entry through which it comes there: the buckets on the near stacks of a slice, in
ascending number, go to its 16 vats in rotation from `vat_order`, and to the entries of a vat in the order of its deal (R124, R211). -/
def Table.bucketDeal (t : Table) (c : Cmd) (self part : Nat) : Option (Nat × Option Nat) :=
  match t.buckets[part]? with
  | none => none
  | some o =>
    let n := ownStack o / 3
    let k := ((List.range part).filter (fun i => match t.buckets[i]? with
      | some b => ownEngine b == self && ownStack b / 3 == n
      | none => false)).length
    let vat := dealtVat n (field c.schedule 10 1) k
    some (vat, c.rowsStream vat (k / 16))

/-- Scan here the parts that the command still awaits of this engine, and record what the scan meets (R134, R136). -/
def State.scanHere (s : State) (h : Nat) : State :=
  match s.running h 3 with
  | none => s
  | some c =>
    match s.viewOf c with
    | none => s
    | some (t, y) =>
      let todo := (c.scans.filter (fun p => p.pending && p.src == s.self)).map ScanPart.num
      let r := Acc.list (todo.map (s.scanPart (s.actor h c) c.slice c.table t y (scanJob c c.queries c.mask)))
      if !r.needs.isEmpty then s.await h r.needs
      else
        ((((s.faults c r.evs).countPress c.slice c.ctx (Ev.sum (r.val.map (fun v => v.2.1)))).skewScan c.table t y
          (r.val.flatMap (fun v => v.2.2)) false).modCmd h (fun d => { d with scans := (r.val.map (fun v => { v.1 with via := t.bucketDeal c s.self v.1.num })).foldl putPart d.scans })).scoreFinish h

/-- Ask each peer for the parts among `parts` that it scans. -/
def State.askScans (s : State) (h : Nat) (c : Cmd) (t : Table) (j : ScanJob) (parts : List (Nat × Nat)) : State :=
  (nubNat (parts.map Prod.snd)).foldl (fun acc e => acc.askScan h c t j e ((parts.filter (fun p => p.2 == e)).map Prod.fst)) s

/-- Parts by who scans them: here or at a peer they are awaited, without an engine they are absent (R125). -/
def State.newParts (s : State) (c : Cmd) (t : Table) (y : Layer) (j : ScanJob) (parts : List Nat) : List ScanPart :=
  parts.map (fun p => match t.partServed y c s.self p with
    | none => t.absentPart y c.table s.self j p
    | some e => { num := p, src := e, pending := true, queries := j.queries.map (fun _ => voidQuery) })

/-- The awaited parts of peers among a list: part and engine. -/
def awayParts (self : Nat) (l : List ScanPart) : List (Nat × Nat) :=
  (l.filter (fun p => p.pending && p.src != self)).map (fun p => (p.num, p.src))

/-- SCORE_TOPK (R121 to R136): read queries and mask, ask peers for the parts they hold, scan those held here; write the results
when every part has come. [DESIGN CHOICE, log 7] -/
def execScoreTopk (h : Nat) (s : State) : Host.Outcome State Fault Refusal :=
  match s.running h 3 with
  | none => .next s
  | some c =>
    if c.phase ≠ .ready then .next (if c.scans.any (fun p => p.pending && p.src == s.self) then s.scanHere h else s.scoreFinish h)
    else if !s.ringsFree c then .next s
    else match s.viewOf c with
      | none =>
        let qs := s.readQueries (s.actor h c) c 0
        .next ((s.modCmd h (fun d => { d with phase := .stage 1, begun := true, queries := qs.val })).scoreFinish h)
      | some (t, y) =>
        let a := s.actor h c
        let qs := s.readQueries a c t.dim
        let mk := s.readMask a c
        let needs := qs.needs ++ mk.needs
        if !needs.isEmpty then .next (s.await h needs)
        else
          let mask := mk.val.map (fun b => if b.p = 0 then b.b else 0xFF)
          let j := scanJob c qs.val mask
          let scans := s.newParts c t y j (t.parts y)
          let sums := if isAffine t.fmt then Ev.sum (qs.val.map (fun q => (querySum j.shape q).2)) else {}
          let s1 := ((s.faults c (qs.evs ++ mk.evs)).countPress c.slice c.ctx sums).modCmd h (fun d => { d with
            phase := .stage 1, begun := true, queries := qs.val, mask := mask, scans := scans,
            inPoison := qs.val.any (fun q => q.any PF.p) || anyPoison mk.val })
          .next ((s1.askScans h c t j (awayParts s.self scans)).scanHere h)

/-! Peers. -/

/-- The Press events as a message carries them. -/
def evCounts (e : Ev) : List Nat := [e.nanIn, e.infIn, e.invalid, e.overflow]
def evOf (l : List Nat) : Ev :=
  { nanIn := l.getD 0 0, infIn := l.getD 1 0, invalid := l.getD 2 0, overflow := l.getD 3 0 }

/-- Serve a peer's scan request under the layers at its arrival (R125, R173): the override rows that this engine owns in the range, each on its
own (R124, R131), then the parts asked for, those it cannot serve as absent; the flag says that it is done with. [DEDUCED, log 61] -/
def State.serveScan (s : State) (src table mapId tag : Nat) (packet image : List Byte) (variant : Nat)
    (queries : List (List (F32 × Bool))) (mask : List Byte) (parts : List Nat) (y : Option Layer) : State × Bool :=
  let none' := fun (_ : Unit) => parts.foldl (fun acc p => acc.toPeer src (.scanPartial tag 0 0 0 p (evCounts {}) [])) s
  match Tab.get? s.tables table, y with
  | some t, some y =>
    if t.mapId ≠ mapId ∨ y.closing then (none' (), true)
    else
      let qs := queries.map (fun q => q.map (fun e => ({ v := e.1, p := e.2 } : PF)))
      let c : Cmd := { slice := 0, ctx := 0, q := 0, cq := 0, seq := 0, opcode := 3, pkt := packet, ext := [], image := image, variant := variant }
      let j := scanJob c qs mask
      let a : Actor := { who := .engine, ctx := 0, pasid := 0, fw := none }
      let own := ((y.ovr.filter (fun o => ownEngine o.owner == s.self && j.inRange o.row)).map (fun o => t.buckets.length + o.row)).filter
        (fun p => !parts.contains p)
      let r := Acc.list ((own ++ parts).map (s.scanPart a 0 table t y j))
      if !r.needs.isEmpty then (s.askAll 0 r.needs, false)
      else
        (r.val.foldl (fun acc v => acc.toPeer src (.scanPartial tag v.1.fed v.1.masked v.1.absent v.1.num (evCounts v.2.1) v.1.queries))
          (s.skewScan table t y (r.val.flatMap (fun v => v.2.2)) true), true)
  | _, _ => (none' (), true)

/-- SCAN_REQUEST (R125): scan the parts this engine holds for a peer that names the map under which the table is open here. [DEDUCED, log 61] -/
def execScanRequest (src : Nat) (table mapId tag : Nat) (packet image : List Byte) (variant : Nat)
    (queries : List (List (F32 × Bool))) (mask : List Byte) (parts : List Nat) (s : State) : Host.Outcome State Fault Refusal :=
  if !presentIn s.self s.declared src then .next s
  else
    let y := Tab.get? (s.slc 3).layers table
    let r := s.serveScan src table mapId tag packet image variant queries mask parts y
    .next (if r.2 then r.1
      else r.1.holdPeer (.scanRequest src table mapId tag packet image variant queries mask parts) (y.getD {}))

/-- SCAN_PARTIAL (R133, R134): a part's answer is taken if it is still awaited from that peer, or is an override row of a peer whose request
is outstanding; with the last the results are written. An answer without partials says that the part is absent. -/
def execScanPartial (src tag fed masked absent part : Nat) (answer : ScanAnswer) (s : State) :
    Host.Outcome State Fault Refusal :=
  let asked := s.peerReqs.find? (fun q => q.tag == tag && q.peer == src && q.want == .scan part)
  match asked.or (s.peerReqs.find? (fun q => q.tag == tag && q.peer == src)) with
  | none => .next s
  | some q =>
    let s1 : State := { s with peerReqs := if asked.isSome then s.peerReqs.erase q else s.peerReqs }
    match Tab.get? s.cmds q.h with
    | none => .next s1
    | some c =>
      let beyond := (s.viewOf c).any (fun v => decide (v.1.buckets.length ≤ part))
      if c.ended || c.opcode ≠ 3 || (asked.isNone && !beyond) then .next s1
      else
        let p : ScanPart := match answer.queries, s.viewOf c with
          | [], some (t, y) => { t.absentPart y c.table s.self (scanJob c c.queries c.mask) part with src := src }
          | _, _ => { num := part, src := src, fed := fed, masked := masked, absent := absent, queries := answer.queries, extra := asked.isNone }
        .next (((s1.countPress c.slice c.ctx (evOf answer.events)).modCmd q.h (fun d => { d with scans := putPart d.scans p })).scoreFinish q.h)

/-- The parts the merge has consumed: those before the first that is still awaited (R133). [DEDUCED, log 65] -/
def consumedParts (l : List ScanPart) : List Nat :=
  ((sortBy (fun a b : ScanPart => decide (a.num < b.num)) l).takeWhile (fun p => !p.pending)).map ScanPart.num

/-- A SCORE_TOPK after its slice has adopted a loss state (R134): what a lost peer had consumed stays in the statistics; unless its final
result has come, its parts are scanned at the copies now selected, or are absent. [DEDUCED, log 65] -/
def State.scanLost (s : State) (h : Nat) : State :=
  match s.running h 3 with
  | none => s
  | some c =>
    match s.viewOf c with
    | none => s
    | some (t, y) =>
      let loss := (s.slc c.slice).loss
      let lost := fun (e : Nat) => e != s.self && !presentIn s.self loss e && c.scans.any (fun p => p.src == e && p.pending)
      let bad := (c.scans.filter (fun p => lost p.src && !p.extra)).map ScanPart.num
      if c.phase ≠ .stage 1 ∨ bad.isEmpty then s
      else
        let j := scanJob c c.queries c.mask
        let used := consumedParts c.scans
        let new := s.newParts c t y j bad
        let s1 : State := { s with peerReqs := s.peerReqs.filter (fun q => !(q.h == h && !presentIn s.self loss q.peer)) }
        let s2 := s1.modCmd h (fun d => { d with scans := (d.scans.filter (fun p => !(lost p.src && p.extra))).map (fun p =>
          match new.find? (fun n => n.num == p.num) with
          | none => p
          | some n =>
            let locked := p.locked || used.contains p.num
            { n with locked := locked,
                     queries := if locked then (List.zip p.queries n.queries).map (fun z => { z.2 with m := z.1.m, z := z.1.z }) else n.queries }) })
        (s2.askScans h c t j (awayParts s.self new)).scanHere h

end Sys2Proof.Machine
end

