-- ==== Sys2Proof/Machine/Tile.lean ====
section
/-! DEFINITION. TILE_READ and TILE_WRITE (R115 to R120). -/

namespace Sys2Proof.Machine

open Sys2Proof

/-- Table 5-6. `write` says TILE_WRITE. -/
def checkTile (c : Cmd) (write : Bool) : Option Nat :=
  let n := c.fld 0xC 1
  firstFail
    [ (decide (3 < c.fld 8 1) || decide (15 < c.fld 9 1) ||
        !hasRoleOn c.image (schedOf c.image c.variant c.opcode) (if write then 2 else 3) c.tileVat, 0x31),
      (write && bitAt (c.fld 0xA 1) 0, 0x32),
      (decide (63 < c.fld 0xB 1) || n == 0 || decide (64 < c.fld 0xB 1 + n), 0x33),
      (c.fld 0x10 8 % 64 != 0, 0x34) ]

/-- Whether an earlier command still has tiles to come on the vat of `h` (R117): an earlier LOOKUP_POOL that has not
pooled, or whose tile there is not drained, or an earlier TILE_READ or TILE_WRITE there. -/
def State.tileHeld (s : State) (h v : Nat) : Bool :=
  s.tilesBefore h [v] ||
  s.cmds.any (fun p => p.1 < h && p.2.opcode == 2 && !p.2.ended && (p.2.phase == .ready || p.2.held.any (fun w => w.1 == v)))

/-- Whether the last writer of a row is a context other than `x` (R118). -/
def writtenAway (r : AccRow) (x : Nat) : Bool :=
  match r.writer with
  | some w => w != x
  | none => false

/-- A row record (Table 5-7); poisoned entries carry the mark. -/
def rowRecord (r : AccRow) : List PB :=
  ((List.range 256).flatMap (fun e => (natLE 4 (r.at e).toNat).map (fun b => { b := b, p := if r.poison.contains e then 4 else 0 }))) ++
  cleanBytes (natLE 32 (r.poison.foldl (fun acc e => acc + 2 ^ e) 0) ++ natLE 4 r.offSum.toNat ++ natLE 4 r.offErr.toNat ++
    natLE 1 ((if r.offPoison then 1 else 0) + (if r.armed then 2 else 0)) ++ List.replicate 23 0)

/-- TILE_READ (R115 to R118). [DEDUCED, log 67] -/
def execTileRead (h : Nat) (s : State) : Host.Outcome State Fault Refusal :=
  match s.running h 0xB with
  | none => .next s
  | some c =>
    if s.tileHeld h c.tileVat || !s.ringsFree c then .next s
    else
      let v := s.vat c.tileVat
      let set := if bitAt (c.fld 0xA 1) 0 then v.shadow else v.work
      let rows := (List.range (c.fld 0xC 1)).map (fun i => Tab.getD set (c.fld 0xB 1 + i) AccRow.zero)
      let away := rows.filter (fun r => writtenAway r c.ctx)
      let shown := rows.map (fun r => if writtenAway r c.ctx then AccRow.zero else r)
      let w := s.outAcc (s.actor h c) ((List.range shown.length).map (fun i =>
        { slice := c.tileVat / 16, addr := c.fld 0x10 8 + 1088 * i, bytes := rowRecord (shown.getD i AccRow.zero), which := 9,
          coords := [c.fld 0xB 1 + i, 0], unit := 1 }))
      if !w.needs.isEmpty then .next (s.await h w.needs)
      else
        .next ((((s.faults c w.evs).landAll c.ctx h w.val).endCmd h (fun d => { d with
          c0 := shown.length - away.length, detail := if !away.isEmpty && !anySuppressed w.val then 3 else 0,
          status := firstStatus [(anySuppressed w.val, 0x16), (!away.isEmpty, 0x19)] })).release (.cmd h))

/-- Whether a record as read holds a non-zero reserved field (R116); a poisoned byte shows nothing. -/
def reservedSet (l : List PB) : Bool :=
  let nz := fun (x : PB) (mask : Nat) => x.p == 0 && x.b.toNat &&& mask != 0
  nz (l.getD 0x428 { b := 0 }) 0xFC || (l.drop 0x429).any (fun x => nz x 0xFF)

/-- The row a record gives (R116): poisoned where a byte of the entry or its poison bit arrived poisoned, or the bit is
set. -/
def recordRow (l : List PB) (x : Nat) (arm : Bool) : AccRow :=
  let d := dataOf l
  { entries := (List.range 256).map (fun e => BitVec.ofNat 32 (field d (4 * e) 4)),
    poison := (List.range 256).filter (fun e => anyPoison (sliceP l (4 * e) 4) || (l.getD (0x400 + e / 8) { b := 0 }).p != 0 ||
      bitAt (field d (0x400 + e / 8) 1) (e % 8)),
    offSum := BitVec.ofNat 32 (field d 0x420 4), offErr := BitVec.ofNat 32 (field d 0x424 4),
    offPoison := bitAt (field d 0x428 1) 0 || anyPoison (sliceP l 0x420 9), armed := arm, writer := some x }

/-- TILE_WRITE (R115 to R120). -/
def execTileWrite (h : Nat) (s : State) : Host.Outcome State Fault Refusal :=
  match s.running h 0xC with
  | none => .next s
  | some c =>
    if s.tileHeld h c.tileVat || !s.ringsFree c then .next s
    else
      let n := c.fld 0xC 1
      let r0 := c.fld 0xB 1
      let a := s.actor h c
      let r := Acc.list ((List.range n).map (fun i =>
        let base := c.fld 0x10 8 + 1088 * i
        (s.ctxRead a (c.tileVat / 16) 9 [r0 + i, 0] base 1088).recoord (fun x => [r0 + i, x - base])))
      if !r.needs.isEmpty then .next (s.await h r.needs)
      else
        let s1 := s.faults c r.evs
        if r.val.any reservedSet then .next ((s1.endWith h 0x10 0x36).release (.cmd h))
        else if armedAway (s.vat c.tileVat) c.ctx r0 n then .next ((s1.endWith h 0x19 2).release (.cmd h))
        else
          let v := s.vat c.tileVat
          let work := (List.range n).foldl (fun acc i => Tab.set acc (r0 + i) (recordRow (r.val.getD i []) c.ctx (bitAt (c.fld 0xA 1) 1))) v.work
          let s2 : State := { s1 with vats := Tab.set s1.vats c.tileVat { v with work := work } }
          .next ((s2.endCmd h (fun d => { d with c0 := n, status := firstStatus [(r.val.any anyPoison, 2)] })).release (.cmd h))

end Sys2Proof.Machine
end

