-- ==== Sys2Proof/Machine/Stream.lean ====
section
/-! DEFINITION. STREAM, MULTICAST and BARRIER (09_streams_multicast.md): descriptors read at admission, copies in stream
order with poison and suppression, detachment of slow subtrees, barriers with their arrivals and timeouts. -/

namespace Sys2Proof.Machine

open Sys2Proof

/-! Descriptors and checks. -/

/-- A descriptor read by its source; window offsets lie inside the staging area. -/
def State.readDesc (s : State) (a : Actor) (c : Cmd) (which addr : Nat) : Acc (List PB) := s.listRead a c.slice c.src which [] addr 64

/-- Table 9-5, first part: what needs no descriptor. -/
def streamAddrBad (c : Cmd) (addr : Nat) : Bool := addr % 64 != 0 || (c.src == 1 && !inStaging addr 64)

/-- Dimensions of a descriptor. -/
def descDims (l : List Byte) : Nat := field l 0xC 1

/-- Length in bytes of a descriptor. -/
def descLen (l : List Byte) : Nat := (descOf l).length (descDims l)

/-- Transfer entries of a stream set. -/
def transferCount (img : List Byte) (k : Nat) : Nat := ((setEntries img k).filter (fun e => entryRole e == 4)).length

/-- Table 9-5, with the descriptors it reads (R204). [DEDUCED, log 66] -/
def State.checkStream (s : State) (a : Actor) (c : Cmd) : Acc (Option Nat × List Byte) :=
  if c.src = 0 ∨ c.src = 3 ∨ streamAddrBad c (c.fld 0x10 8) ∨ streamAddrBad c (c.fld 0x18 8) then { val := (some 0xC1, []) }
  else
    (s.readDesc a c 4 (c.fld 0x10 8)).bind (fun sb => (s.readDesc a c 5 (c.fld 0x18 8)).map (fun db =>
      let sd := dataOf sb
      let dd := dataOf db
      let n := descLen sd
      let first := c.fld 0x20 8
      let bytes := c.fld 0x28 8
      (firstFail
        [ (anyPoison sb || anyPoison db || !descLegal sd || !descLegal dd, 0xC2),
          (n != descLen dd, 0xC3),
          (decide (transferCount c.image (field (schedOf c.image c.variant 9) 4 2) ≤ c.fld 0xB 1), 0xC4),
          (decide (n ≤ first) || decide (n - first < bytes), 0xC5) ], sd ++ dd)))

/-- The buffer-slot nodes of a command's tree. -/
def slotNodes (c : Cmd) : List (Nat × Nat) :=
  match multicastTree c with
  | some t => (treeNodes c.image t).filter nodeIsSlot
  | none => []

/-- MULTICAST's checks (R215), with the source descriptor and the destination list. [DEDUCED, log 66] -/
def State.checkMulticast (s : State) (a : Actor) (c : Cmd) : Acc (Option Nat × List Byte) :=
  if c.src = 0 ∨ c.src = 3 ∨ streamAddrBad c (c.fld 0x10 8) ∨ c.fld 0x18 8 % 8 ≠ 0 then { val := (some 0xC9, []) }
  else
    (s.readDesc a c 4 (c.fld 0x10 8)).bind (fun sb => (s.ctxRead a c.slice 5 [] (c.fld 0x18 8) 512).map (fun lb =>
      let sd := dataOf sb
      let ld := dataOf lb
      let noRing := match multicastTree c with
        | none => true
        | some t => (treeNodes c.image t).any (fun n => !nodeIsSlot n &&
            !hasRoleOn c.image (schedOf c.image c.variant 0xA) 5 (vatByte (n.1 % 256)))
      let used := (slotNodes c).map (fun n => field ld (8 * nodeSlot n) 8)
      (firstFail
        [ (anyPoison sb || !descLegal sd, 0xCA),
          (noRing, 0xCB),
          (used.any (fun d => d % 32 != 0) || !decide used.Nodup || anyPoison lb, 0xCC) ], sd ++ ld)))

/-! Stream elements. -/

/-- The elements of a descriptor that lie in the stream window [lo, hi): linear index, stream offset and context address
of the first byte in the window, and length. -/
structure Piece where
  elem : Nat
  off : Nat
  addr : Nat
  len : Nat
deriving DecidableEq, Repr

/-- The pieces of a window, in stream order (R203). -/
def windowPieces (l : List Byte) (lo hi : Nat) : List Piece :=
  let x := descOf l
  let d := descDims l
  if hi ≤ lo then []
  else (List.range ((hi - 1) / x.run + 1 - lo / x.run)).map (fun k =>
    let i := lo / x.run + k
    let a := max lo (i * x.run)
    let b := min hi ((i + 1) * x.run)
    { elem := i, off := a, addr := (x.addr d i + (a - i * x.run)) % 2 ^ 64, len := b - a })

/-- Fault coordinates of the byte of a piece at a context address (R219). -/
def pieceCoords (l : List Byte) (p : Piece) (addr : Nat) : List Nat :=
  (p.off + (addr - p.addr)) :: padTo 5 0 ((descOf l).coords (descDims l) p.elem)

/-- The bytes of each piece, read in stream order. -/
def State.readPieces (s : State) (a : Actor) (slice : Nat) (l : List Byte) (ps : List Piece) : Acc (List (List PB)) :=
  Acc.list (ps.map (fun p => (s.ctxRead a slice 4 [] p.addr p.len).recoord (pieceCoords l p)))

/-- Elements of which some byte satisfies a test, pieces of one element taken once. -/
def countElems (l : List (Piece × Bool)) : Nat := (nubNat ((l.filter Prod.snd).map (fun p => p.1.elem))).length

/-- Whether an address lies in a piece. -/
def Piece.has (p : Piece) (x : Nat) : Bool := decide (p.addr ≤ x ∧ x < p.addr + p.len)

/-- How many pieces have an address. [DESIGN CHOICE, log 24] -/
def coverCount (ps : List Piece) (x : Nat) : Nat := (ps.filter (fun p => p.has x)).length

/-- A destination piece's bytes; a byte addressed twice (R203) or also read as a source (R205) is free. [DESIGN CHOICE, log 24] -/
def openBytes (ctr : Nat) (src dst : List Piece) (p : Piece) (bs : List PB) : List PB :=
  (List.range bs.length).map (fun i =>
    let x := bs.getD i { b := 0 }
    if 1 < coverCount dst (p.addr + i) ∨ 0 < coverCount src (p.addr + i) then { x with b := Config.freeByte (ctr + p.off + i) } else x)

/-- The write of a destination piece, with what it met. -/
def State.writePiece (s : State) (a : Actor) (slice : Nat) (l : List Byte) (p : Piece) (bs : List PB) : Acc (OutWr × List Landing) :=
  let w : OutWr := { slice := slice, addr := p.addr, bytes := bs, which := 5, coords := [] }
  ((s.writeAcc a w).recoord (pieceCoords l p)).map (fun x => (w, x))

/-- Whether a page of a write was suppressed. -/
def suppressedPiece (x : OutWr × List Landing) : Bool := x.2.any Landing.suppressed

/-! STREAM. -/

/-- Put an event behind those of lower stream offsets: events come in stream order, a source before a destination at one offset. -/
def putEvent (e : FaultEv) : List FaultEv → List FaultEv
  | [] => [e]
  | x :: r => if e.coords.headD 0 < x.coords.headD 0 then e :: x :: r else x :: putEvent e r

/-- The events of a transfer in stream order (R219, R220). [DEDUCED, log 92] -/
def inStreamOrder (l : List FaultEv) : List FaultEv := l.foldl (fun acc e => putEvent e acc) []

/-- STREAM (R204 to R208, R219 to R221). [DESIGN CHOICE, log 7] -/
def execStream (h : Nat) (s : State) : Host.Outcome State Fault Refusal :=
  match s.running h 9 with
  | none => .next s
  | some c =>
    if !s.ringsFree c then .next s
    else
      let a := s.actor h c
      let sd := c.descs.take 64
      let dd := c.descs.drop 64
      let lo := c.fld 0x20 8
      let hi := if c.fld 0x28 8 = 0 then descLen sd else lo + c.fld 0x28 8
      let sp := windowPieces sd lo hi
      let dp := windowPieces dd lo hi
      let r := s.readPieces a c.slice sd sp
      let data := r.val.flatten
      let w := Acc.list (dp.map (fun p => s.writePiece a c.slice dd p (openBytes s.freeCtr sp dp p ((data.drop (p.off - lo)).take p.len))))
      let needs := r.needs ++ w.needs
      if !needs.isEmpty then .next (s.await h needs)
      else
        let bad := countElems (List.zip sp (r.val.map anyPoison))
        let lost := countElems (List.zip dp (w.val.map suppressedPiece))
        let s0 : State := { (s.faults c (inStreamOrder (r.evs ++ w.evs))) with freeCtr := s.freeCtr + hi }
        .next (((s0.landAll c.ctx h w.val).endCmd h (fun d => { d with
          c0 := bad, c1 := lost, status := firstStatus [(lost != 0, 0x16), (bad != 0, 2)] })).release (.cmd h))

/-! MULTICAST. -/

/-- Whether any host write of a command is outstanding. -/
def State.writesOut (s : State) (h : Nat) : Bool := s.hostWr.any (fun w => w.h == h)

/-- The source length of a MULTICAST. -/
def Cmd.mcLen (c : Cmd) : Nat := descLen (c.descs.take 64)

/-- Change one node of a command. -/
def State.modNode (s : State) (h i : Nat) (f : McNode → McNode) : State :=
  s.modCmd h (fun c => { c with nodes := c.nodes.modify i f })

/-- The end of the slot of `size` bytes that holds stream offset `x`. -/
def slotEnd (x size : Nat) : Nat := (x / size + 1) * size

/-- The stream offset up to which a node's slots are complete; the last slot is, at the end of the stream. -/
def McNode.filledTo (n : McNode) (len : Nat) : Nat := if n.got = len then len else n.got / n.ring.size * n.ring.size

/-- The stream offset up to which a node's slots are freed. -/
def McNode.freedTo (n : McNode) (len : Nat) : Nat :=
  min len (((if n.got = len then cdiv len n.ring.size else n.got / n.ring.size) - n.ring.filled) * n.ring.size)

/-- A ring receives up to offset `hi`: a slot that this completes is filled (R202). -/
def McNode.receive (n : McNode) (hi len : Nat) : McNode :=
  { n with got := hi, ring := if hi = len ∨ hi % n.ring.size = 0 then n.ring.fill else n.ring }

/-- Read stream bytes `lo` to `hi` through the slice of node `i`: the root keeps them and records what it meets (R216, R219); the private
read of a detached node delivers the same bytes (R217). Whether the read is made, or awaited. [DEDUCED, log 92] -/
def State.mcRead (s : State) (h t i lo hi : Nat) : State × Bool :=
  match Tab.get? s.cmds h with
  | none => (s, false)
  | some c =>
    let r := s.readPieces (s.actor h c) (nodeSlice (treeNode c.image t i)) (c.descs.take 64) (windowPieces (c.descs.take 64) lo hi)
    if !r.needs.isEmpty then (s.askAll h r.needs, false)
    else if i ≠ 0 then (s, true)
    else
      let data := (freeData s.freeCtr r.val.flatten).map (fun b => if b.p = 0 then b else { b with p := markedData })
      ({ ((s.faults c r.evs).modCmd h (fun d => { d with data := d.data ++ data, noted := d.noted ++ sitesOf r.evs })) with
         freeCtr := s.freeCtr + data.length }, true)

/-- Write stream bytes `lo` to `hi` to the slot of node `i`, through the slice that writes it, once its writes before have been observed (R215,
R220). Whether the slot is taken. [DEDUCED, log 92] -/
def State.mcWrite (s : State) (h t i lo hi : Nat) : State × Bool :=
  match Tab.get? s.cmds h with
  | none => (s, false)
  | some c =>
    let x := treeNode c.image t i
    let base := field (c.descs.drop 64) (8 * nodeSlot x) 8
    let ps := (windowPieces (c.descs.take 64) lo hi).map (fun p => { p with addr := (base + p.off) % 2 ^ 64 })
    let w := Acc.list (ps.map (fun p => s.writePiece (s.actor h c) (nodeSlice x) (c.descs.take 64) p ((c.data.drop p.off).take p.len)))
    if s.hostWr.any (fun v => v.h == h && v.node == i) then (s, false)
    else if !w.needs.isEmpty then (s.askAll h w.needs, false)
    else
      let s1 := (s.faults c w.evs).landAll c.ctx h w.val
      let lost := ((List.zip ps (w.val.map suppressedPiece)).filter Prod.snd).map (fun p => p.1.elem)
      let s2 : State := { s1 with
        hostWr := s1.hostWr.take s.hostWr.length ++ (s1.hostWr.drop s.hostWr.length).map (fun v => { v with node := i }) }
      ((s2.modCmd h (fun d => { d with noted := d.noted ++ sitesOf w.evs })).modNode h i (fun n => { n with lost := nubNat (n.lost ++ lost) }), true)

/-- Whether node `i` reads the source itself: the root, and the top of a detached subtree (R217). -/
def Cmd.reads (c : Cmd) (i : Nat) : Bool := i == 0 || c.detached.contains i

/-- Whether every attached child of node `i` has taken the stream up to offset `e` (R216). -/
def Cmd.takenTo (c : Cmd) (ns : List McNode) (t i e : Nat) : Bool :=
  (List.range ns.length).all (fun j =>
    c.reads j || (treeNode c.image t j).2 != i || decide (e ≤ (ns.getD j {}).got))

/-- One cycle of node `i`, by what the nodes held before it (R202): it receives at most one slot, from the source or from its parent, and gives
its oldest slot up when every attached child has taken it, or when it is written. [DEDUCED, log 92] -/
def State.mcNode (ns : List McNode) (h t : Nat) (s : State) (i : Nat) : State :=
  match Tab.get? s.cmds h with
  | none => s
  | some c =>
    let n := ns.getD i {}
    let x := treeNode c.image t i
    let p := ns.getD x.2 {}
    let len := c.mcLen
    if nodeIsSlot x && !c.reads i then
      let hi := min (p.filledTo len) (slotEnd n.got p.ring.size)
      if n.got < hi then
        let r := s.mcWrite h t i n.got hi
        if r.2 then r.1.modNode h i (fun m => { m with got := hi, put := hi }) else r.1
      else s
    else if n.ring.slots = 0 then
      let r := c.mcRing (nodeVat c.image t i)
      if s.ringsFit [(nodeVat c.image t i, r)] then s.modNode h i (fun m => { m with ring := r }) else s
    else
      let hi := if c.reads i then min len (slotEnd n.got n.ring.size)
        else min (p.filledTo len) (min (slotEnd n.got p.ring.size) (slotEnd n.got n.ring.size))
      let s1 :=
        if n.got < hi ∧ (n.got % n.ring.size ≠ 0 ∨ n.ring.mayFill) then
          let r := if c.reads i then s.mcRead h t i n.got hi else (s, true)
          if r.2 then r.1.modNode h i (fun m => m.receive hi len) else r.1
        else s
      let e := min len (n.freedTo len + n.ring.size)
      if n.ring.isEmpty then s1
      else if nodeIsSlot x then
        let r := s1.mcWrite h t i n.put e
        if r.2 then r.1.modNode h i (fun m => { m with ring := m.ring.take, put := e }) else r.1
      else if c.takenTo ns t i e then s1.modNode h i (fun m => { m with ring := m.ring.take })
      else s1

/-- The root of the tree that a node is in: the nearest node from it upwards that reads the source itself; a path has at most 4 nodes (R35). -/
def Cmd.rootOf (c : Cmd) (t i : Nat) : Nat :=
  let up := fun (j : Nat) => if c.reads j then j else (treeNode c.image t j).2
  up (up (up i))

/-- Whether the subtree of node `i` is holding: the ring of its tree's root is full, and node `i` has not taken the oldest slot there (R217). -/
def Cmd.holds (c : Cmd) (t i : Nat) : Bool :=
  let r := c.nodes.getD (c.rootOf t i) {}
  !c.reads i && r.ring.slots != 0 && r.ring.isFull &&
    decide ((c.nodes.getD i {}).got < min c.mcLen (r.freedTo c.mcLen + r.ring.size))

/-- The tick counter by which the holds of a node's tree are counted: that of its root's slice (R217). -/
def State.rootTick (s : State) (c : Cmd) (t i : Nat) : Nat := (s.slc (nodeSlice (treeNode c.image t (c.rootOf t i)))).tick

/-- Note since when each subtree has been holding without a break (R217). -/
def State.mcHold (s : State) (h t : Nat) : State :=
  s.modCmd h (fun c => { c with nodes := (List.range c.nodes.length).map (fun i =>
    let n := c.nodes.getD i {}
    { n with since := if c.holds t i then (match n.since with
        | some x => some x
        | none => some (s.rootTick c t i)) else none }) })

/-- Source elements with a poisoned byte (R220). -/
def Cmd.poisonedElems (c : Cmd) : Nat :=
  let ps := windowPieces (c.descs.take 64) 0 c.mcLen
  countElems (List.zip ps (ps.map (fun p => anyPoison ((c.data.drop p.off).take p.len))))

/-- Destination elements with a suppressed byte, slot by slot (R220). -/
def Cmd.lostElems (c : Cmd) : Nat := (c.nodes.map (fun n => n.lost.length)).sum

/-- Whether every node has received the whole stream, and every slot holds it. -/
def Cmd.mcDone (c : Cmd) (t : Nat) : Bool :=
  (List.range c.nodes.length).all (fun i =>
    let n := c.nodes.getD i {}
    n.got == c.mcLen && (!nodeIsSlot (treeNode c.image t i) || n.put == c.mcLen))

/-- End a MULTICAST whose slots hold the stream and whose writes are all observed (R220). -/
def State.multicastEnd (s : State) (h : Nat) : State :=
  match s.running h 0xA with
  | none => s
  | some c =>
    match multicastTree c with
    | none => s
    | some t =>
      if c.phase ≠ .stage 1 ∨ !c.mcDone t ∨ s.writesOut h then s
      else (s.endCmd h (fun d => { d with
        c0 := c.poisonedElems, c1 := c.lostElems,
        status := firstStatus [(c.lostElems != 0, 0x16), (c.poisonedElems != 0, 2)] })).release (.cmd h)

/-- One cycle of a MULTICAST: every node passes slots on, holds are noted, and a stream delivered everywhere ends the command. -/
def State.mcCycle (s : State) (h : Nat) : State :=
  match s.running h 0xA with
  | none => s
  | some c =>
    match multicastTree c with
    | none => s
    | some t =>
      if c.phase ≠ .stage 1 then s
      else (((List.range c.nodes.length).foldl (State.mcNode c.nodes h t) s).mcHold h t).multicastEnd h

/-- The nodes of a tree with empty rings. -/
def Cmd.mcNodes (c : Cmd) (t : Nat) : List McNode :=
  (List.range (treeSpan c.image t).2).map (fun i =>
    { ring := if nodeIsSlot (treeNode c.image t i) then {} else c.mcRing (nodeVat c.image t i) })

/-- MULTICAST (R214 to R220): with its rings allocated its root begins to read; the slots pass along the tree cycle by cycle. [DEDUCED, log 92] -/
def execMulticast (h : Nat) (s : State) : Host.Outcome State Fault Refusal :=
  match s.running h 0xA with
  | none => .next s
  | some c =>
    if c.phase ≠ .ready then .next (s.multicastEnd h)
    else if !s.ringsFree c then .next s
    else .next (s.modCmd h (fun d => { d with
      phase := .stage 1, begun := true, nodes := ((multicastTree c).map c.mcNodes).getD [] }))

/-- Whether node `i` of a tree is in the subtree of node `top`; a path has at most 4 nodes (R35). -/
def underNode (img : List Byte) (t top i : Nat) : Bool :=
  let up := fun (j : Nat) => (treeNode img t j).2
  i == top || (i != 0 && (up i == top || (up i != 0 && (up (up i) == top || (up (up i) != 0 && up (up (up i)) == top)))))

/-- The nodes whose holds began, and the tree of each. -/
def Cmd.holders (c : Cmd) : List Nat := (List.range c.nodes.length).filter (fun i => (c.nodes.getD i {}).since.isSome)

/-- The subtrees to detach: in each tree in which a subtree has been holding for `detach` ticks, every subtree that is holding and lies in no
other that is (R217). -/
def State.detaches (s : State) (c : Cmd) (t : Nat) : List Nat :=
  let due := c.holders.filter (fun i => match (c.nodes.getD i {}).since with
    | some x => decide (x + c.fld 0xC 4 ≤ s.rootTick c t i)
    | none => false)
  c.holders.filter (fun i =>
    due.any (fun j => c.rootOf t j == c.rootOf t i) &&
    !c.holders.any (fun j => j != i && c.rootOf t j == c.rootOf t i && underNode c.image t j i))

/-- DETACH_TIMEOUT (R217): the subtrees that are holding when `detach` ticks have passed are detached and counted. A subtree that took the oldest
slot at the start of this tick is holding no more (R225). -/
def execDetachTimeout (h : Nat) (s : State) : Host.Outcome State Fault Refusal :=
  match s.running h 0xA with
  | none => .next s
  | some c =>
    match multicastTree c with
    | none => .next s
    | some t =>
      if c.phase ≠ .stage 1 ∨ c.fld 0xC 4 = 0 then .next s
      else
        let tops := s.detaches c t
        .next (s.modCmd h (fun d => { d with
          detached := d.detached ++ tops, c2 := d.c2 + tops.length,
          nodes := (List.range d.nodes.length).map (fun i =>
            let n := d.nodes.getD i {}
            if tops.contains i then { n with since := none } else n) }))

/-! BARRIER. -/

/-- R222's checks. -/
def checkBarrier (c : Cmd) : Option Nat := firstFail [(c.fld 0xA 1 % 2 == 0 && c.fld 0xC 4 != 0, 0xD2)]

/-- The tag of a BARRIER. -/
def Cmd.tag (c : Cmd) : Word := BitVec.ofNat 64 (c.fld 0x10 8)

/-- Peers a group BARRIER no longer expects because lost (R224): lost at admission, or since, before their arrival was held. -/
def State.barrierLost (s : State) (c : Cmd) : List Nat :=
  (peersOf c.image).filter (fun p => !presentIn s.self c.present p || c.lost.contains p)

/-- Whether the arrival of a peer is held, or comes in the same tick: it waits in the queue (R224, R225). [DESIGN CHOICE, log 94] -/
def State.arrivalIn (s : State) (p : Nat) (tag : Word) : Bool :=
  s.arrivals.contains (p, tag) || (presentIn s.self s.declared p && s.pending.contains (.barrierArrival p tag))

/-- Expected peers whose arrival is held. -/
def State.barrierHeld (s : State) (c : Cmd) : List Nat :=
  (peersOf c.image).filter (fun p => s.arrivals.contains (p, c.tag) && !(s.barrierLost c).contains p)

/-- Expected peers whose arrival is held by the end of the tick. -/
def State.barrierIn (s : State) (c : Cmd) : List Nat :=
  (peersOf c.image).filter (fun p => s.arrivalIn p c.tag && !(s.barrierLost c).contains p)

/-- Tags held that no BARRIER here has issued. -/
def State.earlyTags (s : State) : List Nat :=
  nubNat ((s.arrivals.map (fun p => p.2.toNat)).filter (fun t =>
    !s.cmds.any (fun c => c.2.opcode == 0x12 && !c.2.ended && bitAt (c.2.fld 0xA 1) 0 && c.2.tag.toNat == t)))

/-- Hold an arrival, or keep it back on its link when 256 tags not yet issued are held (R224). -/
def State.holdArrival (s : State) (a : Nat × Word) : State :=
  let known := s.arrivals.any (fun p => p.2 == a.2) ||
    s.cmds.any (fun c => c.2.opcode == 0x12 && !c.2.ended && bitAt (c.2.fld 0xA 1) 0 && c.2.tag == a.2)
  if s.arrivals.contains a then s
  else if known || decide (s.earlyTags.length < 256) then { s with arrivals := s.arrivals ++ [a] }
  else { s with stalledArr := s.stalledArr ++ [a] }

/-- Hold the arrivals of an engine that come in the tick in which it is declared lost: they count (R224, R225).
[DESIGN CHOICE, log 94] -/
def State.holdPending (s : State) (e : Nat) : State :=
  s.pending.foldl (fun acc c => match c with
    | .barrierArrival src tag => if src = e then acc.holdArrival (src, tag) else acc
    | _ => acc) { s with stalledArr := s.stalledArr.filter (fun a => a.1 != e) }

/-- Hold what waited for space. -/
def State.freeArrivals (s : State) : State := s.stalledArr.foldl State.holdArrival { s with stalledArr := [] }

/-- Complete a locally reached group BARRIER that holds every expected arrival (R223, R224). -/
def State.barrierTry (s : State) (h : Nat) : State :=
  match s.running h 0x12 with
  | none => s
  | some c =>
    let lost := s.barrierLost c
    let held := s.barrierHeld c
    if c.phase ≠ .stage 1 ∨ lost.length + held.length < (peersOf c.image).length then s
    else
      let s1 : State := { s with arrivals := s.arrivals.filter (fun p => p.2 != c.tag) }
      ((s1.endCmd h (fun d => { d with
        c0 := held.length, c1 := lost.length, status := firstStatus [(!lost.isEmpty, 3)] })).release (.cmd h)).freeArrivals

/-- A BARRIER becomes locally reached (R223): queue scope completes; group scope sends its arrivals. -/
def State.barrierReach (s : State) (h : Nat) : State :=
  match s.running h 0x12 with
  | none => s
  | some c =>
    if c.phase ≠ .ready ∨ s.earlierBusy h c then s
    else if !bitAt (c.fld 0xA 1) 0 then (s.endCmd h id).release (.cmd h)
    else
      let s1 := (peersOf c.image).foldl (fun acc e => acc.toPeer e (.arrival c.tag)) s
      (s1.modCmd h (fun d => { d with phase := .stage 1, since := (s.slc c.slice).tick })).barrierTry h

/-- BARRIER (R222 to R224): completes when locally reached and, in group scope, when every expected arrival is held. -/
def execBarrier (h : Nat) (s : State) : Host.Outcome State Fault Refusal := .next ((s.barrierReach h).barrierTry h)

/-- BARRIER_REACHED (R223). -/
def execBarrierReached (h : Nat) (s : State) : Host.Outcome State Fault Refusal := .next (s.barrierReach h)

/-- BARRIER_ARRIVAL (R224): the arrival is held, and a BARRIER that waits for it may complete. [DEDUCED, log 61] -/
def execBarrierArrival (src : Nat) (tag : Word) (s : State) : Host.Outcome State Fault Refusal :=
  if !presentIn s.self s.declared src then .next s
  else
    let s1 := s.holdArrival (src, tag)
    .next ((s1.cmds.filter (fun p => p.2.opcode == 0x12 && !p.2.ended && p.2.tag == tag)).foldl (fun acc p => acc.barrierTry p.1) s1)

/-- BARRIER_TIMEOUT (R224, R225, R260): `timeout` ticks after it was locally reached, a group BARRIER without every expected
arrival completes with TIMEOUT; an arrival of the same tick counts; the arrivals it holds are kept. [DEDUCED, log 8] -/
def execBarrierTimeout (h : Nat) (s : State) : Host.Outcome State Fault Refusal :=
  match s.running h 0x12 with
  | none => .next s
  | some c =>
    let lost := s.barrierLost c
    let held := s.barrierIn c
    if c.phase = .stage 1 ∧ c.fld 0xC 4 ≠ 0 ∧ c.since + c.fld 0xC 4 ≤ (s.slc c.slice).tick ∧
        lost.length + held.length < (peersOf c.image).length then
      .next ((s.endCmd h (fun d => { d with c0 := held.length, c1 := lost.length, status := 0x14 })).release (.cmd h))
    else .next s

end Sys2Proof.Machine
end

