-- ==== Sys2Proof/Machine/Plan.lean ====
section
/-! DEFINITION. The course plan image and its checks (R30 to R38, R199, R200, Table 2-8) and the four functions of PLAN_BIND
(R40 to R44). -/

namespace Sys2Proof.Machine

open Sys2Proof

/-! Checks of an image. -/

/-- The directory entries that the checks look at: at most seven, all that a legal image has. -/
def dirEntries (img : List Byte) : List Sec := (secsOf img).take 7

/-- Check 5: reserved fields of the header and of the directory (R8). -/
def headReserved (img : List Byte) : Bool :=
  field img 7 1 / 16 == 0 && field img 0xF 1 / 4 == 0 && field img 0x1B 1 == 0 && field img 0x20 32 == 0 &&
  (List.range (min 7 (field img 0xC 2))).all (fun i => field img (0x42 + 16 * i) 2 == 0)

/-- Entry size and count limits of a section type (Table 2-5); size 0 where the entry size varies. -/
def secRule (t : Nat) : Option (Nat × Nat × Nat) :=
  match t with
  | 1 => some (8, 1, 4096)
  | 2 => some (32, 1, 64)
  | 3 => some (64, 1, 256)
  | 4 => some (0, 1, 256)
  | 5 => some (0, 1, 256)
  | 6 => some (1, 0, 255)
  | 7 => some (96, 1, 16)
  | _ => none

/-- Whether one directory entry is legal (R30, R31). -/
def secOk (img : List Byte) (x : Sec) : Bool :=
  match secRule x.type with
  | none => false
  | some (e, lo, hi) =>
    decide (lo ≤ x.count ∧ x.count ≤ hi) && (e == 0 || x.size == e * x.count) && x.off % 64 == 0 &&
    decide (0x40 + 16 * field img 0xC 2 ≤ x.off) && decide (x.off + x.size ≤ field img 8 4)

/-- Check 6: the directory (R30, R31). [DEDUCED, log 68] -/
def dirOk (img : List Byte) : Bool :=
  let l := dirEntries img
  decide (5 ≤ field img 0xC 2 ∧ field img 0xC 2 ≤ 7) && l.all (secOk img) && (l.map Sec.type).Nodup &&
  [1, 2, 3, 4, 7].all (fun t => l.any (fun x => x.type == t)) && disjoint (l.map (fun x => (x.off, x.size)))

/-- The binding words, schedules and reduction descriptors of an image. -/
def bindWords (img : List Byte) : List Nat := (List.range (secOf img 1).count).map (fun i => leNat (secEntry img 1 8 i))
def schedules (img : List Byte) : List (List Byte) := (List.range (secOf img 2).count).map (secEntry img 2 32)
def reductions (img : List Byte) : List (List Byte) := (List.range (secOf img 3).count).map (secEntry img 3 64)

/-- Byte offsets of the stream sets within their section, the last one the end of all. -/
def setOffsets (img : List Byte) : List Nat := (List.range ((secOf img 4).count + 1)).map (setOffset img)

/-- Header and entries of every stream set. -/
def streamSets (img : List Byte) : List (List Byte × List (List Byte)) :=
  ((setOffsets img).take (secOf img 4).count).map (fun o => (slice img ((secOf img 4).off + o) 8, setEntriesAt img o))

/-- All nodes of the multicast section as stored. -/
def nodeBytes (img : List Byte) : List (List Byte) :=
  let x := secOf img 5
  let o := roundUp (4 * x.count) 8
  (List.range ((x.size - o) / 8)).map (fun i => slice img (x.off + o + 8 * i) 8)

/-- Reserved fields inside the sections (R41, R67, R419). -/
def innerReserved (img : List Byte) : Bool :=
  (bindWords img).all (fun w => bits w 15 12 == 0 && bits w 31 20 == 0 && decide (bits w 19 16 ≤ 0xD)) &&
  (schedules img).all (fun e => field e 10 1 / 32 == 0 && decide (field e 11 1 ≤ 1) && field e 12 20 == 0) &&
  (reductions img).all (fun e => field e 2 2 == 0 && bits (field e 1 1) 5 4 == 0 &&
    (List.range 16).all (fun i => bits (field e (4 + i) 1) 5 4 == 0)) &&
  (streamSets img).all (fun x => field x.1 2 6 == 0 && x.2.all (fun e =>
    bits (field e 0 1) 5 4 == 0 && field e 4 1 / 16 == 0 && field e 6 10 == 0)) &&
  (nodeBytes img).all (fun n => field n 4 4 == 0)

/-- Check 8: cross-references (R31). -/
def refsOk (img : List Byte) (slot : Nat) : Bool :=
  (schedules img).all (fun e =>
    decide (field e 2 2 < (secOf img 3).count) && decide (field e 4 2 < (secOf img 4).count) &&
    (field e 6 2 == 0xFFFF || decide (field e 6 2 < (secOf img 5).count)) &&
    decide (field e 8 2 ≤ Config.planSlots) && field e 8 2 != slot) &&
  (List.range (variantCount img)).all (fun v => (List.range 32).all (fun o =>
    variantSched img v o == 0xFFFF || decide (variantSched img v o < (secOf img 2).count))) &&
  ((bindWords img).map (fun w => w % 4096)).Nodup

/-- Whether a vat byte names a slice of the mask. -/
def vatIn (mask b : Nat) : Bool := bitAt mask (bits b 7 6)

/-- Check 9: one reduction descriptor (R32). -/
def redOk (mask : Nat) (e : List Byte) : Bool :=
  let b := field e 0 1
  let n := partsOf e
  let used := if bitAt b 3 then n - 1 else 0
  let bd := fun (i : Nat) => field e (20 + 4 * i) 4
  b % 4 != 3 && (if bitAt b 3 then decide (b / 16 ≤ 11) else decide (b / 16 ≤ 3)) &&
  vatIn mask (field e 1 1) && (List.range n).all (fun i => vatIn mask (field e (4 + i) 1)) &&
  (List.range 16).all (fun i => decide (i < n) || field e (4 + i) 1 == 0) &&
  (List.range 11).all (fun i => if i < used then decide ((if i = 0 then 0 else bd (i - 1)) < bd i) else bd i == 0)

/-- Roles an opcode's stream set supplies (R200). -/
def rolesOf (op : Nat) : List Nat :=
  match op with
  | 1 => [0, 1, 3]
  | 2 => [0, 1, 3]
  | 3 => [0, 2, 3]
  | 4 => [1, 2]
  | 5 => [0]
  | 9 => [4]
  | 0xA => [5]
  | 0xB => [3]
  | 0xC => [2]
  | _ => []

/-- One stream entry (R199). `row` is the largest stored row of the bound tables. A role code 0x6 to 0xF, which Table 9-2 calls reserved and
illegal, breaks R199: detail 0x09 (R200), not 0x05. [DESIGN CHOICE, log 95] -/
def entryOk (mask row : Nat) (e : List Byte) : Bool :=
  let n := field e 1 1
  vatIn mask (field e 0 1) && decide (3 ≤ n ∧ n ≤ 16) && decide (1 ≤ field e 2 2 ∧ field e 2 2 ≤ 1024) &&
  decide (entryRole e ≤ 5) && decide (field e 5 1 ≤ n) && (entryRole e != 0 || decide (row ≤ 32 * field e 2 2))

/-- One stream set: its limits and its stream SRAM on each vat (R200). -/
def setLegal (mask row : Nat) (x : List Byte × List (List Byte)) : Bool :=
  decide (1 ≤ field x.1 0 2 ∧ field x.1 0 2 ≤ 1024) && x.2.all (entryOk mask row) &&
  (List.range 64).all (fun v =>
    let l := x.2.filter (fun e => entryVat e == v)
    decide (l.length ≤ 16) && decide ((l.map (fun e => field e 1 1 * field e 2 2 * 32)).sum ≤ Config.streamSram))

/-- Whether a schedule's set supplies the roles of its opcode: for 0x01 to 0x05 on every vat of every slice of the mask. -/
def rolesOk (img : List Byte) (mask : Nat) (e : List Byte) : Bool :=
  let op := field e 0 1
  let l := setEntries img (field e 4 2)
  (rolesOf op).all (fun r =>
    if op ≤ 5 then (List.range 64).all (fun v => !bitAt mask (v / 16) || l.any (fun x => entryRole x == r && entryVat x == v))
    else l.any (fun x => entryRole x == r))

/-- Check 10. -/
def streamsOk (img : List Byte) (row : Nat) : Bool :=
  (setOffsets img).getLastD 0 == (secOf img 4).size && (streamSets img).all (setLegal (sliceMask img) row) &&
  (schedules img).all (rolesOk img (sliceMask img))

/-- Depth of a node of tree `t`, 1 for the root; 0 if its parents do not reach the root within four nodes. -/
def nodeDepth (img : List Byte) (t i : Nat) : Nat :=
  let up := fun (j : Nat) => (treeNode img t j).2
  if i = 0 then 1 else if up i = 0 then 2 else if up (up i) = 0 then 3 else if up (up (up i)) = 0 then 4 else 0

/-- One multicast tree (R35, R214). A non-zero other bit of a node's consumer field breaks the tree, detail 0x0A: it is no reserved
field of R8, and no rule assigns it detail 0x05. [DESIGN CHOICE, log 95] -/
def treeOk (img : List Byte) (t : Nat) : Bool :=
  let n := (treeSpan img t).2
  let ns := treeNodes img t
  let kids := fun (i : Nat) => ((List.range n).filter (fun j => j != 0 && (treeNode img t j).2 == i)).length
  decide (1 ≤ n ∧ n ≤ 128) && (treeNode img t 0).2 == 0xFFFF && !nodeIsSlot (treeNode img t 0) &&
  ns.all (fun x => bits x.1 14 8 == 0 && (nodeIsSlot x || bits x.1 5 4 == 0)) &&
  (List.range n).all (fun i => i == 0 || (decide ((treeNode img t i).2 < n) && nodeDepth img t i != 0 &&
    !nodeIsSlot (treeNode img t (treeNode img t i).2))) &&
  (List.range n).all (fun i => decide (kids i ≤ 4)) && (ns.map Prod.fst).Nodup &&
  decide ((ns.filter nodeIsSlot).length ≤ 64)

/-- Check 11: the multicast section (R36). -/
def treesOk (img : List Byte) : Bool :=
  let x := secOf img 5
  let spans := (List.range x.count).map (treeSpan img)
  let o := roundUp (4 * x.count) 8
  x.count == 0 ||
  (x.size == o + 8 * (spans.map Prod.snd).sum && disjoint spans &&
    spans.all (fun p => decide (p.1 + p.2 ≤ (spans.map Prod.snd).sum)) &&
    (List.range x.count).all (treeOk img))

/-- Check 12: the bandwidth split (R33). -/
def splitOk (v : Nat) : Bool := decide (10 ≤ v % 256) && v % 256 + v / 256 % 256 + v / 65536 % 256 == 100 && decide (v < 2 ^ 24)

/-- Check 13: the peer list (R38). -/
def peersOk (img : List Byte) (self : Nat) : Bool := !(peersOf img).contains self && decide (peersOf img).Nodup

/-- The class opcodes (R37). -/
def classOp (o : Nat) : Bool := decide (1 ≤ o ∧ o ≤ 5) || decide (9 ≤ o ∧ o ≤ 0xC)

/-- Check 14: the variant table (R37, R38). Two free splits are the same when their `parts` and `bounds` are: the vats and merge points may
differ. [DESIGN CHOICE, log 95] -/
def variantsOk (img : List Byte) : Bool :=
  let n := variantCount img
  let masks := (List.range n).map (variantMask img)
  let all := 2 ^ (peersOf img).length - 1
  let reds := fun (o : Nat) => ((List.range n).filter (fun v => variantSched img v o != 0xFFFF)).map (fun v => redOf img (schedOf img v o))
  n == field img 0xE 1 && masks.headD 1 == 0 && masks.all (fun m => decide (m ≤ all)) && masks.getLastD 1 == all && decide masks.Nodup &&
  (schedules img).all (fun e => classOp (field e 0 1)) &&
  (List.range n).all (fun v => (List.range 32).all (fun o => variantSched img v o == 0xFFFF ||
    (classOp o && field (schedOf img v o) 0 1 == o))) &&
  (List.range n).all (fun v => ((List.range 32).filterMap (fun o =>
    if variantSched img v o = 0xFFFF then none else some (variantSched img v o))).Nodup) &&
  (List.range 32).all (fun o =>
    let l := reds o
    l.all (fun a => l.all (fun b => field a 0 1 % 8 == field b 0 1 % 8 &&
      (if bitAt (field a 0 1) 3 || bitAt (field b 0 1) 3 then
        (field a 0 1 == field b 0 1 && a.drop 20 == b.drop 20) else true))))

/-- The largest stored row of the tables that are open under a binding of the image (R200). [DEDUCED, log 68] -/
def State.largestRow (s : State) (img : List Byte) : Nat :=
  s.tables.foldl (fun m p => match bindingOf img p.1 with
    | some (id, _) => if id = p.2.mapId then max m p.2.stored else m
    | none => m) 0

/-- Checks 2 to 14 of Table 2-8 on an image of `len` bytes for a slot: the failing detail. `poisoned` says that a byte
arrived poisoned (R40). [DEDUCED, log 68] -/
def State.checkImage (s : State) (img : List Byte) (poisoned : Bool) (len slot : Nat) : Option Nat :=
  let size := field img 8 4
  firstFail
    [ (poisoned, 0x03),
      (field img 0 4 != 0x4C505A45 || field img 4 2 != 1, 0x01),
      (decide (size < 4096) || decide (4194304 < size) || size % 4096 != 0 || size != len, 0x02),
      (crc32 (img.take 0x1C ++ natLE 4 0 ++ img.drop 0x20) != field img 0x1C 4, 0x03),
      (!headReserved img, 0x05),
      (!dirOk img, 0x04),
      (!innerReserved img, 0x05),
      (field img 6 1 != 2 || sliceMask img == 0, 0x06),
      (!refsOk img slot, 0x0C),
      (!(reductions img).all (redOk (sliceMask img)), 0x07),
      (!streamsOk img (s.largestRow img), 0x09),
      (!treesOk img, 0x0A),
      (!splitOk (field img 0x18 4), 0x0B),
      (!peersOk img s.self, 0x0D),
      (!variantsOk img, 0x08) ]

/-! Plan slots. -/

/-- A PLAN_BIND packet of function `fn`, past its checks and ready to act. -/
def State.bindRunning (s : State) (h fn : Nat) : Option Cmd :=
  match s.running h 0x20 with
  | some c => if c.fld 0xA 1 % 4 = fn then some c else none
  | none => none

/-- The slot a PLAN_BIND names. -/
def Cmd.planSlot (c : Cmd) : Nat := (headerOf c.pkt).plan

/-- A retiring slot becomes free when every command admitted under it has completed (R43). -/
def State.planRelease (s : State) (p : Nat) : State :=
  match Tab.get? s.plans p with
  | some v => if v.retiring && !s.cmds.any (fun c => c.2.plan == p && !c.2.ended) then { s with plans := Tab.erase s.plans p } else s
  | none => s

/-- Device address of a slot's image in the plan area (R40). [DESIGN CHOICE, log 69] -/
def planAddr (p : Nat) : Nat := Config.planBase + (p - 1) * 4194304

/-- PLAN_LOAD (R40, R41): read the image whole, check it, keep it in the slot. It waits while PS0
restarts (R365). [DESIGN CHOICE, log 69, 78] -/
def execPlanLoad (h : Nat) (s : State) : Host.Outcome State Fault Refusal :=
  match s.bindRunning h 0 with
  | none => .next s
  | some c =>
    if !s.sliceUp 0 then .next s
    else if (Tab.get? (s.planRelease c.planSlot).plans c.planSlot).isSome then .next ((s.endWith h 0x11 0x10).release (.cmd h))
    else
      let len := c.fld 0xC 4
      let r := s.devRead (s.actor h c) c.slice 4 [] (c.fld 0x10 8) len
      if !r.needs.isEmpty then .next (s.await h r.needs)
      else
        let img := dataOf r.val
        match s.checkImage img (anyPoison r.val) len c.planSlot with
        | some d => .next (((s.faults c r.evs).endWith h 0x11 d).release (.cmd h))
        | none =>
          let s1 := (s.devPut (planAddr c.planSlot) img).endWith h 0 0
          .next ({ s1 with plans := Tab.set s1.plans c.planSlot { image := img } }.release (.cmd h))

/-- PLAN_BIND (R40, Table 2-8 checks 15 and 16). -/
def execPlanBind (h : Nat) (s : State) : Host.Outcome State Fault Refusal :=
  match s.bindRunning h 1 with
  | none => .next s
  | some c =>
    let x := c.fld 8 2 % 4096
    let held := (s.ctx x).bindings
    if !s.isOpen x then .next (s.endWith h 0x11 0x17)
    else match Tab.get? s.plans c.planSlot with
      | none => .next (s.endWith h 0x11 0x11)
      | some v =>
        if v.retiring then .next (s.endWith h 0x11 0x11)
        else if held.contains c.planSlot then .next (s.endWith h 0 0)
        else if 64 ≤ held.length then .next (s.endWith h 0x11 0x12)
        else .next ((s.modCtx x (fun k => { k with bindings := k.bindings ++ [c.planSlot] })).endWith h 0 0)

/-- PLAN_UNBIND (R40, R44). -/
def execPlanUnbind (h : Nat) (s : State) : Host.Outcome State Fault Refusal :=
  match s.bindRunning h 2 with
  | none => .next s
  | some c =>
    .next ((s.modCtx (c.fld 8 2 % 4096) (fun k => { k with bindings := delNat k.bindings c.planSlot })).endWith h 0 0)

/-- PLAN_UNLOAD (R43, R44): every binding of the slot goes at once, and the slot retires. -/
def execPlanUnload (h : Nat) (s : State) : Host.Outcome State Fault Refusal :=
  match s.bindRunning h 3 with
  | none => .next s
  | some c =>
    match Tab.get? (s.planRelease c.planSlot).plans c.planSlot with
    | none => .next ((s.planRelease c.planSlot).endWith h 0x11 0x11)
    | some _ =>
      let s1 : State := { s with ctxs := s.ctxs.map (fun p => (p.1, { p.2 with bindings := delNat p.2.bindings c.planSlot })),
                                 plans := Tab.modify s.plans c.planSlot (fun v => { v with retiring := true }) }
      .next ((s1.endWith h 0 0).planRelease c.planSlot)

end Sys2Proof.Machine
end

