-- ==== Sys2Proof/Machine/Fence.lean ====
section
/-! DEFINITION. Fences: the front-end (R254, R255, R365), FENCE_SIGNAL and FENCE_WAIT (R256 to R260), delivery of values
to the slices, and what window writes must pass (R249, R268, R273). -/

namespace Sys2Proof.Machine

open Sys2Proof

/-! The front-end. -/

/-- Apply a signal of `v` to fence `f` (R255): a live fence takes a value that is ahead; every other signal is ignored and
counted. -/
def State.applySignal (s : State) (f : Nat) (v : Word) : State :=
  if s.fenceState f = 1 ∧ ahead v (s.fenceValue f) then
    (s.devPut (fenceAddr f) (natLE 8 v.toNat)).traceRec 4 2 0 0 0 0 0 (natLE 4 f ++ natLE 8 v.toNat)
  else s.devPut (fenceAddr f + 0xC) (natLE 4 (satTo 0xFFFFFFFF (s.fenceIgnored f + 1)))

/-- Whether a signal would be ignored. -/
def State.signalIgnored (s : State) (f : Nat) (v : Word) : Bool := !(s.fenceState f == 1 && ahead v (s.fenceValue f))

/-- Fence and value of a FENCE_SIGNAL or FENCE_WAIT. -/
def Cmd.fence (c : Cmd) : Nat := c.fld 0xC 4
def Cmd.fenceVal (c : Cmd) : Word := BitVec.ofNat 64 (c.fld 0x10 8)

/-- The detail of a failing check of FENCE_SIGNAL or FENCE_WAIT (R236, R258). -/
def State.checkFence (s : State) (c : Cmd) : Option Nat :=
  let f := c.fence
  if Config.fences ≤ f then some 0xE1
  else firstFail
    [ (s.fenceState f == 0, 0xE2),
      (c.opcode == 0x11 && !s.fenceRight f c.ctx 12, 0xE3),
      (c.opcode == 0x10 && !s.fenceRight f c.ctx 13, 0xE4),
      (c.opcode == 0x10 && s.fenceState f == 2, 0xE5) ]

/-- FENCE_SIGNAL (R256): its signal goes to the front-end, which applies signals in arrival order. -/
def execFenceSignal (h : Nat) (s : State) : Host.Outcome State Fault Refusal :=
  match s.running h 0x10 with
  | none => .next s
  | some c =>
    if c.phase ≠ .ready then .next s
    else
      let s1 := s.modCmd h (fun d => { d with phase := .stage 1 })
      .next { s1 with fenceQ := s1.fenceQ ++ [{ fence := c.fence, value := c.fenceVal, h := some h }] }

/-- FENCE_APPLY (R255, R256, R365): the oldest signal at the front-end is applied, unless PS0 is out; a FENCE_SIGNAL
completes with it. [DEDUCED, log 71] -/
def execFenceApply (s : State) : Host.Outcome State Fault Refusal :=
  match s.fenceQ with
  | [] => .next s
  | g :: r =>
    if !s.sliceUp 0 then .next s
    else
      let ign := s.signalIgnored g.fence g.value
      let s1 := ({ s with fenceQ := r } : State).applySignal g.fence g.value
      match g.h with
      | none => .next s1
      | some h =>
        if ((Tab.get? s1.cmds h).map Cmd.ended).getD true then .next s1
        else .next (s1.endCmd h (fun d => { d with c0 := if ign then 1 else 0, aux := some (s1.fenceValue g.fence) }))

/-! Waiters. -/

/-- What a slice has last sampled of a fence: value and orphan mark. -/
def State.seenOf (s : State) (n f : Nat) : Word × Bool := Tab.getD (s.slc n).seen f (0, false)

/-- Sample a fence at a slice. [DEDUCED, log 71] -/
def State.sampleFence (s : State) (n f : Nat) : State :=
  s.modSlice n (fun l => { l with seen := Tab.set l.seen f (s.fenceValue f, s.fenceState f == 2) })

/-- What a sampled fence says of a wait for `v`: 0 satisfied, 1 orphaned, 2 neither. A satisfied wait is released though the
fence is orphaned too. [DEDUCED, log 14] -/
def waitState (x : Word × Bool) (v : Word) : Nat := if notBehind x.1 v then 0 else if x.2 then 1 else 2

/-- End a FENCE_WAIT whose fence, as sampled, releases it (R257). [DEDUCED, log 14] -/
def State.fenceWaitTry (s : State) (h : Nat) : State :=
  match s.running h 0x11 with
  | none => s
  | some c =>
    let x := s.seenOf c.slice c.fence
    match waitState x c.fenceVal with
    | 0 => s.endCmd h (fun d => { d with aux := some x.1 })
    | 1 => s.endCmd h (fun d => { d with status := 0x13, aux := some x.1 })
    | _ => s.modCmd h (fun d => { d with phase := .stage 1 })

/-- FENCE_WAIT (R257): completes at once if the value sampled at its admission releases it, else it waits. -/
def execFenceWait (h : Nat) (s : State) : Host.Outcome State Fault Refusal := .next (s.fenceWaitTry h)

/-- Deliver a fence's value to a slice: sampled, and every FENCE_WAIT there that it releases ends (R259). -/
def State.deliverFence (s : State) (n f : Nat) : State :=
  let s1 := s.sampleFence n f
  (s1.cmds.filter (fun p => p.2.opcode == 0x11 && p.2.slice == n && p.2.fence == f && !p.2.ended)).foldl
    (fun acc p => acc.fenceWaitTry p.1) s1

/-- FENCE_VALUE_DELIVERY (R259). [DEDUCED, log 71] -/
def execFenceValueDelivery (slice : Fin 4) (fence : Nat) (s : State) : Host.Outcome State Fault Refusal :=
  if fence < Config.fences ∧ s.sliceUp slice.val then .next (s.deliverFence slice.val fence) else .next s

/-- FENCE_WAIT_TIMEOUT (R257, R260): `timeout` ticks after admission, a wait that nothing sampled releases ends with TIMEOUT. -/
def execFenceWaitTimeout (h : Nat) (s : State) : Host.Outcome State Fault Refusal :=
  match s.running h 0x11 with
  | none => .next s
  | some c =>
    let x := s.seenOf c.slice c.fence
    if c.fld 0x18 4 ≠ 0 ∧ c.tick + c.fld 0x18 4 ≤ (s.slc c.slice).tick ∧ waitState x c.fenceVal = 2 then
      .next (s.endCmd h (fun d => { d with status := 0x14, aux := some x.1 }))
    else .next s

/-! Window writes. -/

/-- Count an ignored write to slice `n`'s page (PSn_REG_EVT). [DEDUCED, log 39] -/
def State.regEvt (s : State) (n : Nat) : State := s.setSreg n 0x10 (satTo 0xFFFFFFFF (s.sreg n 0x10 + 1))

/-- Count an ignored write to the keeper page (KPR_REG_EVT). [DEDUCED, log 39] -/
def State.kregEvt (s : State) : State := s.setKreg 0x28 (satTo 0xFFFFFFFF (s.kreg 0x28 + 1))

/-- The state that a control-page write of context `x` through slice `n`'s host port meets: none if it acts; otherwise the
state after it is discarded (R290), dropped (R268) or ignored (R273). -/
def State.windowBlocked (s : State) (n x : Nat) : Option State :=
  if !s.portUp n then some s
  else if (s.ctx x).fw && (s.ctx x).state != 0 then some (s.countHp n 4)
  else if !s.isOpen x then some (s.countHp n 1)
  else none

/-- The queue of local index `i` of a context, with its number. -/
def State.queueOf (s : State) (x i : Nat) : Option (Nat × SQ) := s.sqs.find? (fun p => p.2.ctx == x && p.2.idx == i)

/-- The ring of local index `i` of a context, with its number. -/
def State.ringOf (s : State) (x i : Nat) : Option (Nat × CQ) := s.cqs.find? (fun p => p.2.ctx == x && p.2.idx == i)

/-- The entry that slice `n`'s page selects: queue number and entry; none where a write is ignored (R402). -/
def State.selectedEntry (s : State) (n x : Nat) : Option (Nat × Nat) :=
  let sel := Tab.getD (s.slc n).fsel x 0
  match s.queueOf x (sel % 64) with
  | some (q, v) => if v.slice = n ∧ bits sel 11 8 ≠ 0 then some (q, bits sel 11 8) else none
  | none => none

/-- CTX_FSLOT_CFG written through slice `n` (R252, R402). -/
def State.fslotCommit (s : State) (n x data : Nat) : State :=
  match s.selectedEntry n x with
  | none => s.regEvt n
  | some (q, e) =>
    let f := bits data 49 32
    let good := s.fenceState f == 1 && (s.fenceRight f x 12 || s.fenceRight f x 13)
    let v := bitAt data 63
    let set := fun (old : FSlot) =>
      { old with fence := f, step := bits data 61 52, timeout := data % 2 ^ 32, valid := v && good, err := v && !good }
    s.modSq q (fun k => { k with slots := Tab.set k.slots e (set (Tab.getD k.slots e {})) })

/-- FENCE_SLOT_COMMIT (R252, R402). -/
def execFenceSlotCommit (port : Fin 4) (ctx : Fin 4096) (data : Word) (s : State) : Host.Outcome State Fault Refusal :=
  match s.windowBlocked port.val ctx.val with
  | some t => .next t
  | none => .next (s.fslotCommit port.val ctx.val data.toNat)

/-- Empty a context's fault record (R261). -/
def State.clearFault (s : State) (x : Nat) : State :=
  s.modCtx x (fun c => { c with fault := { c.fault with valid := false, more := false, count := 0 } })

/-- FAULT_CLEAR (R261, R273): also while the context is not OPEN. -/
def execFaultClear (port : Fin 4) (ctx : Fin 4096) (s : State) : Host.Outcome State Fault Refusal :=
  if !s.portUp port.val then .next s
  else if (s.ctx ctx.val).fw && (s.ctx ctx.val).state != 0 then .next (s.countHp port.val 4)
  else .next (s.clearFault ctx.val)

end Sys2Proof.Machine
end

