-- ==== Sys2Proof/Machine/Sequencer.lean ====
section
/-! DEFINITION. The sequencer (10_command_packets.md, 11_contexts_queues_fences.md): doorbells, slot reads and their
re-reads (R232), validation (Table 10-12), admission and its holds, completion records (R240 to R242). -/

namespace Sys2Proof.Machine

open Sys2Proof

/-! Doorbells and releases. -/

/-- A doorbell that reached slice `n` for queue `i` of context `x` (R249, R250): a tail through the owning slice that lies
within the queue size is taken and restarts a stopped queue; every other one is ignored and counted. -/
def State.ringDoorbell (s : State) (n x i tail : Nat) : State :=
  match s.queueOf x i with
  | none => s
  | some (q, k) =>
    if k.slice ≠ n ∨ 2 ^ k.logSize < (tail + 2 ^ 32 - k.fetch % 2 ^ 32) % 2 ^ 32 then
      s.modSq q (fun k => { k with ignored := satTo 255 (k.ignored + 1) })
    else s.modSq q (fun k => { k with tail := tail, stopped := false, reread := if k.stopped then none else k.reread })

/-- DOORBELL (R249, R250). -/
def execDoorbell (port : Fin 4) (ctx : Fin 4096) (n : Fin 64) (tail : BitVec 32) (s : State) : Host.Outcome State Fault Refusal :=
  match s.windowBlocked port.val ctx.val with
  | some t => .next t
  | none => .next (s.ringDoorbell port.val ctx.val n.val tail.toNat)

/-- A release count for ring `i` of context `x` (R251): one that leaves at most the ring's size free is taken; every other
one is ignored and counted. -/
def State.ringRelease (s : State) (x i released : Nat) : State :=
  match s.ringOf x i with
  | none => s
  | some (r, k) =>
    if 2 ^ k.logSize < (k.written + 2 ^ 32 - released) % 2 ^ 32 then
      { s with cqs := Tab.set s.cqs r { k with ignored := satTo 255 (k.ignored + 1) } }
    else { s with cqs := Tab.set s.cqs r { k with released := released } }

/-- COMPLETION_RELEASE (R249, R251). -/
def execCompletionRelease (port : Fin 4) (ctx : Fin 4096) (n : Fin 64) (released : BitVec 32) (s : State) :
    Host.Outcome State Fault Refusal :=
  match s.windowBlocked port.val ctx.val with
  | some t => .next t
  | none => .next (s.ringRelease ctx.val n.val released.toNat)

/-! Slot reads. -/

/-- Slots a queue may still fetch up to a tail; none if the fetch count is not below it (R250). -/
def SQ.ahead (k : SQ) (tail : Nat) : Nat :=
  let a := (tail + 2 ^ 32 - k.fetch % 2 ^ 32) % 2 ^ 32
  if a ≤ 2 ^ k.logSize then a else 0

/-- The slot at a fetch count. -/
def SQ.slotAt (k : SQ) (fetch : Nat) : Nat := fetch % 2 ^ k.logSize

/-- Context address of slot `i`. -/
def SQ.slotAddr (k : SQ) (i : Nat) : Nat := k.base + 64 * i

/-- The expected generation tag (R229). -/
def SQ.genTag (k : SQ) : Nat := k.fetch / 2 ^ k.logSize % 255 + 1

/-- The ranges that confine the accesses of context `x` now (R269). [DEDUCED, log 13] -/
def State.fwOf (s : State) (x : Nat) : Option FwList :=
  if (s.ctx x).fw then some (Tab.getD s.fw (s.ctx x).fwPort {}).list else none

/-- The actor of a queue's reads before admission. -/
def State.fetchActor (s : State) (q : Nat) (k : SQ) : Actor :=
  { who := .fetch q, ctx := k.ctx, pasid := (s.ctx k.ctx).pasid, fw := s.fwOf k.ctx, faulted := k.denied.map (fun p => (p, false)) }

/-- A read of the slot at the fetch count and of its extension slot if the header calls for one (R230, R232). -/
def State.slotRead (s : State) (q : Nat) (k : SQ) : Acc (List PB × List PB) :=
  let a := s.fetchActor q k
  let i := k.slotAt k.fetch
  let j := k.slotAt (k.fetch + 1)
  (s.ctxRead a k.slice 10 [i] (k.slotAddr i) 64).bind (fun p =>
    if hasExt (dataOf p) then (s.ctxRead a k.slice 10 [j] (k.slotAddr j) 64).map (fun e => (p, e))
    else { val := (p, []) })

/-- What is wrong with a slot as read: 0 nothing, else the DOORBELL_AHEAD detail (R232). -/
def SQ.readFault (k : SQ) (r : List PB × List PB) : Nat :=
  let p := dataOf r.1
  if anyPoison r.1 || anyPoison r.2 then 3
  else if (headerOf p).gen ≠ k.genTag then 1
  else if hasExt p ∧ extCheck p (dataOf r.2) ≠ field p 0x1C 4 then 2
  else 0

/-- The fault event of a read that was faulted or poisoned: cause, address, slot (R232). [DEDUCED, log 11] -/
def SQ.readEvent (k : SQ) (r : List PB × List PB) : Option (Nat × Nat × Nat) :=
  let i := k.slotAt k.fetch
  let j := k.slotAt (k.fetch + 1)
  let l := (List.range r.1.length).map (fun n => (r.1.getD n { b := 0 }, k.slotAddr i + n, i)) ++
    (List.range r.2.length).map (fun n => (r.2.getD n { b := 0 }, k.slotAddr j + n, j))
  (l.find? (fun x => x.1.p != 0)).map (fun x => (x.1.p, x.2.1, x.2.2))

/-- Forget what the last read of a queue's slots was granted or denied, so that the next one asks afresh (R232). [DEDUCED, log 11] -/
def State.readAfresh (s : State) (q : Nat) (k : SQ) : State :=
  let pages := [k.slotAddr (k.slotAt k.fetch) / 4096, k.slotAddr (k.slotAt (k.fetch + 1)) / 4096]
  let pasid := (s.ctx k.ctx).pasid
  ((s.release (.fetch q)).modSq q (fun k => { k with denied := [], issued := none })).modSlice k.slice (fun l =>
    { l with atc := l.atc.filter (fun x => !(x.pasid == pasid && pages.contains x.page)) })

/-! Validation of a fetched packet: stages 2 to 8 of Table 10-12. -/

/-- Whether a management opcode is permitted to the queue's context (stage 6). -/
def State.mgmtPermitted (s : State) (x : Nat) (p : List Byte) : Bool :=
  let o := field p 0 1
  !opcodeMgmt o || (s.ctx x).mgmt || o == 0x30 || (o == 0x24 && field p 8 2 % 4096 == x)

/-- Entry `e` of a queue as a capture, if it is configured and the context holds the right of every bit named (R253). -/
def State.capture (s : State) (k : SQ) (e : Nat) (rights : List Nat) : Option Cap :=
  let f := Tab.getD k.slots e {}
  if f.valid && rights.all (s.fenceRight f.fence k.ctx) then some { fence := f.fence, value := f.value, timeout := f.timeout } else none

/-- The captures a header calls for; none if one of them fails (R233, R253). [DEDUCED, log 12] -/
def State.captures (s : State) (k : SQ) (wait sig : Nat) : Option (Option Cap × Option Cap) :=
  let w := if wait = 0 then some none else (s.capture k wait (if wait = sig then [12, 13] else [12])).map some
  let g := if sig = 0 then some none else (s.capture k sig (if wait = sig then [12, 13] else [13])).map some
  match w, g with
  | some w, some g => some (w, g)
  | _, _ => none

/-- Advance an entry's value by its step (R253). -/
def stepSlot (k : SQ) (e : Nat) : SQ :=
  if e = 0 then k
  else
    let f := Tab.getD k.slots e {}
    { k with slots := Tab.set k.slots e { f with value := f.value + BitVec.ofNat 64 f.step } }

/-- The queue after a packet's captures: each entry named advances once. [DEDUCED, log 12] -/
def SQ.captured (k : SQ) (wait sig : Nat) : SQ := if wait = sig then stepSlot k wait else stepSlot (stepSlot k wait) sig

/-- Stage 8: the detail with which a firewall-bound context's packet is refused (R268). -/
def fwCheck (l : Option FwList) (x opcode : Nat) : Option Nat :=
  match l with
  | none => none
  | some f => if !f.ctxs.contains x then some 1 else if !bitAt f.ops opcode then some 2 else none

/-- Stages 3 to 6: status and detail of the first that rejects. -/
def State.validate (s : State) (k : SQ) (p : List Byte) : Option (Nat × Nat) :=
  let h := headerOf p
  (firstFail
    [ (!opcodeKnown h.opcode, 1), (h.context != k.ctx, 2), (h.seq != k.seq, 3), (!s.mgmtPermitted k.ctx p, 5) ]).map (fun d => (0x10, d))

/-- The packet and the queue after stages 2 to 8. [DEDUCED, log 10, 12, 13] -/
def State.validated (s : State) (k : SQ) (p e : List Byte) : Pkt × SQ :=
  let h := headerOf p
  let fw := s.fwOf k.ctx
  let base : Pkt := { bytes := p, ext := e, fw := fw }
  match s.validate k p with
  | some v => ({ base with verdict := some v }, k)
  | none =>
    match s.captures k h.wait h.sig with
    | none => ({ base with verdict := some (0x10, 6) }, k)
    | some (w, g) =>
      ({ base with verdict := (fwCheck fw k.ctx h.opcode).map (fun d => (0x17, d)), waitCap := w, sigCap := g }, k.captured h.wait h.sig)

/-- Consume the slot of a queue, and its extension slot, and go on with the next packet (R228, R230). -/
def SQ.consume (k : SQ) (ext : Bool) : SQ :=
  { k with fetch := k.fetch + (if ext then 2 else 1), seq := (k.seq + 1) % 65536, reread := none }

/-- Take a slot that was read whole: validate it and let it wait for its admission. -/
def State.takeSlot (s : State) (q : Nat) (k : SQ) (r : List PB × List PB) : State :=
  let v := s.validated k (dataOf r.1) (dataOf r.2)
  let s1 := s.readAfresh q k
  { s1 with sqs := Tab.set s1.sqs q { (v.2.consume (!r.2.isEmpty)) with pkts := k.pkts ++ [v.1], denied := [], issued := none } }

/-- Put a command that never was admitted among those whose record waits. -/
def State.addDone (s : State) (c : Cmd) : State :=
  let d := { c with phase := .done, doneAt := s.nextCmd }
  { s with cmds := Tab.set s.cmds s.nextCmd d, nextCmd := s.nextCmd + 1 }

/-- Record the fault event of a slot read that was faulted or poisoned (R232, R261). -/
def State.slotEvent (s : State) (q : Nat) (k : SQ) (r : List PB × List PB) : State :=
  match k.readEvent r with
  | some (cause, addr, slot) => s.faultEvent k.slice k.ctx q k.seq 0 cause 10 addr [slot]
  | none => s

/-- The DOORBELL_AHEAD that ends a fetch (R232). -/
def State.doorbellAhead (s : State) (q : Nat) (k : SQ) (r : List PB × List PB) (detail : Nat) : State :=
  let s2 := ((s.slotEvent q k r).readAfresh q k).modSq q (fun k => { k with stopped := true, reread := none })
  let c : Cmd :=
    { slice := k.slice, ctx := k.ctx, q := q, cq := k.cq, seq := k.seq, opcode := 0, pkt := [], ext := [],
      fw := s.fwOf k.ctx, status := 0x15, detail := detail }
  (s2.countSeq k.slice 2).addDone c

/-- Whether a queue may read slots now. -/
def State.mayFetch (s : State) (k : SQ) : Bool := s.isOpen k.ctx && s.sliceUp k.slice && !k.stopped && k.ahead k.tail != 0

/-- A slot read that waits was issued at the tick at which it first asked (R232). -/
def State.fetchAwait (s : State) (q : Nat) (k : SQ) (l : List Need) : State :=
  (s.modSq q (fun d => { d with issued := some (k.issued.getD (s.slc k.slice).tick) })).askAll 0 l

/-- The tick at which the present read of a queue's slot was issued. -/
def State.issuedAt (s : State) (k : SQ) : Nat := k.issued.getD (s.slc k.slice).tick

/-- PACKET_FETCH (R232, R238): the first read of the slot at the fetch count. [DESIGN CHOICE, log 6] -/
def execPacketFetch (q : Nat) (s : State) : Host.Outcome State Fault Refusal :=
  match Tab.get? s.sqs q with
  | none => .next s
  | some k =>
    if !s.mayFetch k || k.reread.isSome then .next s
    else
      let r := s.slotRead q k
      if !r.needs.isEmpty then .next (s.fetchAwait q k r.needs)
      else if k.readFault r.val = 0 then .next (s.takeSlot q k r.val)
      else .next ((s.readAfresh q k).modSq q (fun d => { d with reread := some (0, s.issuedAt k) }))

/-- PACKET_REREAD (R232): a read issued 64 ticks after the one before was issued; the eighth that fails ends in DOORBELL_AHEAD. [DEDUCED, log 11] -/
def execPacketReread (q : Nat) (s : State) : Host.Outcome State Fault Refusal :=
  match Tab.get? s.sqs q with
  | none => .next s
  | some k =>
    match k.reread with
    | none => .next s
    | some (n, t) =>
      if !s.mayFetch k || decide ((s.slc k.slice).tick < t + 64) then .next s
      else
        let r := s.slotRead q k
        if !r.needs.isEmpty then .next (s.fetchAwait q k r.needs)
        else
          let bad := k.readFault r.val
          if bad = 0 then .next (s.takeSlot q k r.val)
          else if n + 1 < 8 then
            .next ((s.readAfresh q k).modSq q (fun d => { d with reread := some (n + 1, s.issuedAt k) }))
          else .next (s.doorbellAhead q k r.val bad)

/-! Admission: stages 9 to 15. -/

/-- A fetched packet as a command. -/
def SQ.command (k : SQ) (q : Nat) (p : Pkt) : Cmd :=
  { slice := k.slice, ctx := k.ctx, q := q, cq := k.cq, seq := (headerOf p.bytes).seq, opcode := (headerOf p.bytes).opcode,
    pkt := p.bytes, ext := p.ext, waitCap := p.waitCap, sigCap := p.sigCap, fw := p.fw }

/-- Whether the plan field of a packet is checked (Table 10-2). -/
def planChecked (p : List Byte) : Bool :=
  let o := field p 0 1
  decide (1 ≤ o ∧ o ≤ 5) || decide (9 ≤ o ∧ o ≤ 0xC) || (o == 0x12 && bitAt (field p 0xA 1) 0)

/-- The layers a command admitted at a slice now would see of table `t`. -/
def State.viewAt (s : State) (slice t : Nat) : Option Layer :=
  match Tab.get? (s.slc slice).layers t with
  | some y => if y.closing then none else some y
  | none => none

/-- The command with what admission fixes (R17, R39, R401): tick, plan image and variant, layers, loss state, whey base. A data command
that has a schedule takes as many trackers as its schedule's `issue_rows`, whatever rows it asks for, and holds them until it ends (R14).
[DEDUCED, log 8; DESIGN CHOICE, log 83] -/
def State.fixed (s : State) (c : Cmd) : Cmd :=
  let l := s.slc c.slice
  let plan := (headerOf c.pkt).plan
  let img := if planChecked c.pkt then ((Tab.get? s.plans plan).map PlanSlot.image).getD [] else []
  let var := activeVariant img (fun e => !presentIn s.self l.loss e)
  let c1 := { c with tick := l.tick, plan := if planChecked c.pkt then plan else 0, image := img, variant := var, present := l.loss,
                     view := if namesTable c.opcode then s.viewAt c.slice c.table else none, whey := (s.ctx c.ctx).whey,
                     lost := (peersOf img).filter (fun e => !presentIn s.self l.loss e) }
  { c1 with trackers := if classOp c.opcode then issueRows (schedOf img var c.opcode) else 0 }

/-- Checks 17 to 20 of Table 2-8 and the plan number of a PLAN_BIND (R40): the failing detail. -/
def State.planCheck (s : State) (c : Cmd) : Option Nat :=
  let plan := (headerOf c.pkt).plan
  if c.opcode = 0x20 then (if plan = 0 then some 0x16 else none)
  else if !planChecked c.pkt then none
  else
    let bound := (s.ctx c.ctx).bindings.contains plan && (match Tab.get? s.plans plan with
      | some v => !v.retiring
      | none => false)
    firstFail
      [ (plan == 0, 0x16), (!bound, 0x13),
        (c.opcode != 0x12 && variantSched c.image c.variant c.opcode == 0xFFFF, 0x14),
        (namesTable c.opcode && (match s.viewOf c with
          | some (t, _) => bindingOf c.image c.table != some (t.mapId, t.fmt)
          | none => false), 0x15) ]

/-- The checks of QUERY (Table 10-11). -/
def checkQuery (c : Cmd) : Option Nat :=
  let kind := c.fld 8 2
  let index := c.fld 0xC 4
  let out := c.fld 0x10 8
  firstFail
    [ (decide (2 < kind), 0xF1), ((kind == 0 && decide (24 ≤ index)) || (kind == 1 && decide (4096 ≤ index)), 0xF2),
      (kind == 2 && (out == 0 || out % 64 != 0), 0xF3) ]

/-- Stage 12: the command's own checks, by the layers in force at its admission (R17); the failing detail, with descriptors read for a STREAM
or MULTICAST. -/
def State.paramCheck (s : State) (a : Actor) (c : Cmd) : Acc (Option Nat × List Byte) :=
  let v := s.viewOf c
  let t := v.map Prod.fst
  let only := fun (d : Option Nat) => ({ val := (d, []) } : Acc (Option Nat × List Byte))
  let read := fun (d : Acc (Option Nat)) => d.map (fun x => (x, ([] : List Byte)))
  match c.opcode with
  | 0x01 => only (checkLookup c (t.map (fun t => (t.fmt, t.dim))))
  | 0x02 => (s.windowLens a c).map (fun _ => (s.checkPool a c (field (schedOf c.image c.variant 2) 11 1 == 1) (t.map Table.dim), []))
  | 0x03 => only (checkScore c (t.map Table.dim))
  | 0x04 => only (checkScatter c v)
  | 0x05 => only (checkApply c t (s.cmds.any (fun p => p.2.opcode == 5 && p.2.table == c.table && !p.2.ended)))
  | 0x06 => only (checkRowWrite c t)
  | 0x07 => read (s.checkMigrate a c)
  | 0x08 => read (s.checkReplicate a c)
  | 0x09 => s.checkStream a c
  | 0x0A => s.checkMulticast a c
  | 0x0B => only (checkTile c false)
  | 0x0C => only (checkTile c true)
  | 0x10 => only (s.checkFence c)
  | 0x11 => only (s.checkFence c)
  | 0x12 => only (checkBarrier c)
  | 0x21 => read (s.checkOpen a c.slice c)
  | 0x22 => only (match v with
    | some (t, _) => if t.closing then some 0x72 else none
    | none => some 0x72)
  | 0x23 => only (s.checkHot c)
  | 0x24 => only (if s.isOpen (c.fld 8 2 % 4096) then none else some 0xF4)
  | 0x30 => only (checkQuery c)
  | _ => only none

/-- Whether another command of the same table satisfies a test and has not ended. -/
def State.tableHas (s : State) (t : Nat) (f : Cmd → Bool) : Bool :=
  s.cmds.any (fun p => namesTable p.2.opcode && p.2.table == t && !p.2.ended && f p.2)

/-- Rows of a table that a mode-1 MIGRATE moves, or that the keeper moves off retired DRAM rows (R186, R311). -/
def State.movingRows (s : State) (num : Nat) : List Nat :=
  (s.cmds.filter (fun p => p.2.opcode == 7 && p.2.table == num && !p.2.ended && bitAt (p.2.fld 0xA 1) 0)).flatMap (fun p => p.2.moves.map Ovr.row) ++
  ((Tab.get? s.tables num).map Table.shift).getD [] ++
  (s.adopt.filter (fun p => p.table == num && p.maker.isNone)).flatMap (fun p => p.oldRows ++ p.oldOvr.map Ovr.row)

/-- Whether a ROW_WRITE names a moving row (R186): its index list is read for that, and read again when it runs. [DEDUCED, log 10] -/
def State.namesMoving (s : State) (a : Actor) (c : Cmd) : Acc Bool :=
  let rows := s.movingRows c.table
  if c.opcode ≠ 6 ∨ rows.isEmpty ∨ (s.viewOf c).isNone then { val := false }
  else
    let r := s.indexList a c (fun i => [i]) (c.fld 0x20 8) (c.fld 0xC 2)
    { val := (validRows r.val).any rows.contains, needs := r.needs }

/-- Stage 14: whether admission holds the command: trackers (R14), an APPLY_STEP (R164), a MIGRATE (R184, R186), a ROW_WRITE
(R194), a REPLACE_COMMIT (R196), a plan image that must be fetched from the plan area while PS0 is out (R365). [DESIGN CHOICE, log 93] -/
def State.heldBack (s : State) (c : Cmd) : Bool :=
  let used := ((s.cmds.filter (fun p => p.2.slice == c.slice && !p.2.ended)).map (fun p => p.2.trackers)).sum
  let apply := fun (d : Cmd) => d.opcode == 5 && c.opcode != 0x22 && !(c.opcode == 4 && BitVec.ofNat 64 (c.fld 0x10 8) == BitVec.ofNat 64 (d.fld 0x10 8) + 1)
  let moves := fun (d : Cmd) => d.opcode == 7 && c.opcode == 4 && (bitAt (d.fld 0xA 1) 0 || c.fld 0x10 8 == d.fld 0x10 8)
  let writes := fun (d : Cmd) => d.opcode == 6 && (match d.view with
    | some y => !y.replacing
    | none => false)
  let commits := fun (d : Cmd) => c.opcode == 6 && d.opcode == 0x21 && d.fld 0xA 1 == 2
  decide (Config.trackers < used + c.trackers) ||
  (planChecked c.pkt && !s.sliceUp 0 && !Config.planCached c.plan s.freeCtr) ||
  (namesTable c.opcode && s.tableHas c.table (fun d => apply d || moves d || writes d || commits d))

/-- What admission does to the table a command names: steps open and close (R138, R139), moves take their slots, a layer begins to fill
(R189), a close is on its way (R174). -/
def State.onAdmit (s : State) (h : Nat) (a : Actor) (c : Cmd) : State :=
  let step := BitVec.ofNat 64 (c.fld 0x10 8)
  match c.opcode with
  | 0x04 =>
    if (s.viewOf c).isSome then
      s.modTable c.table (fun t => if t.openSteps.contains step then t else { t with openSteps := t.openSteps ++ [step] })
    else s
  | 0x05 => s.modTable c.table (fun t => if t.closedSteps.contains step then t else { t with closedSteps := t.closedSteps ++ [step] })
  | 0x07 =>
    match Tab.get? s.tables c.table with
    | some t =>
      let ms := moveList (dataOf (s.readMoves a c).val) (c.fld 0xC 2)
      s.modCmd h (fun d => { d with moves := (s.assignMoves c.table t ms).getD [] })
    | none => s
  | 0x08 =>
    match Tab.get? s.tables c.table with
    | some t =>
      let m := dataOf (s.devRead a c.slice 4 [] (c.fld 0x10 8) (c.fld 0xC 4)).val
      let b := t.buckets.length
      s.modTable c.table (fun t => { t with
        newReps := (List.range b).map (fun i => field m (4 * i) 4), newSets := setsAt m (4 * b) ((layerSets b (c.fld 0xC 4)).getD 0) })
    | none => s
  | 0x22 => s.modTable c.table (fun t => { t with closing := true })
  | 0x11 => s.sampleFence c.slice c.fence
  | _ => s

/-- The packet at the front of a queue leaves it. -/
def State.dropPkt (s : State) (q : Nat) : State := (s.modSq q (fun k => { k with pkts := k.pkts.drop 1, denied := [] })).release (.fetch q)

/-- Reject the packet at the front with a status and detail (R238, R239): it is not admitted under its plan. -/
def State.rejectPkt (s : State) (q : Nat) (c : Cmd) (status detail : Nat) : State :=
  ((s.dropPkt q).countSeq c.slice 1).addDone { c with status := status, detail := detail, plan := 0 }

/-- Admit the packet at the front (stage 15). -/
def State.admitPkt (s : State) (q : Nat) (a : Actor) (c : Cmd) : State :=
  let h := s.nextCmd
  let s1 := (s.dropPkt q).countSeq c.slice 0
  let s2 : State := ({ s1 with cmds := Tab.set s1.cmds h c, nextCmd := h + 1 } : State).freeArrivals
  (s2.onAdmit h a c).traceRec c.slice 0 c.ctx q c.seq c.opcode 0
    (natLE 2 c.plan ++ natLE 4 ((c.view.map Layer.num).getD 0) ++ natLE 1 c.variant)

/-- Whether the ring of a queue has a free entry (R242). -/
def State.ringOpen (s : State) (r : Nat) : Bool :=
  match Tab.get? s.cqs r with
  | some k => ringFree k != 0
  | none => false

/-- Stages 11 to 15 of the packet at the front of queue `q`. -/
def State.tryAdmit (s : State) (q : Nat) (k : SQ) (p : Pkt) : State :=
  let c := s.fixed (k.command q p)
  let a := { s.fetchActor q k with fw := p.fw }
  match s.planCheck c with
  | some d => s.rejectPkt q c 0x11 d
  | none =>
    let r := s.paramCheck a c
    if !r.needs.isEmpty then s.askAll 0 r.needs
    else match r.val.1 with
      | some d => (s.faults c r.evs).rejectPkt q c 0x10 d
      | none =>
        if !reservedZero c.pkt then (s.faults c r.evs).rejectPkt q c 0x10 4
        else if s.heldBack c || !s.ringOpen k.cq then s
        else
          let m := s.namesMoving a c
          if !m.needs.isEmpty then s.askAll 0 m.needs
          else if m.val then s
          else (s.faults c r.evs).admitPkt q a { c with descs := r.val.2, lens := (s.windowLens a c).val }

/-- Stage 10 (R233, R260): the first evaluation samples the fence; 0 the wait is over, 1 the fence is orphaned, 2 it waits. -/
def State.waitStage (s : State) (k : SQ) (p : Pkt) : Nat :=
  match p.waitCap with
  | none => 0
  | some w => waitState (s.seenOf k.slice w.fence) w.value

/-- Begin the wait of the packet at the front: sample its fence and note the tick. -/
def State.beginWait (s : State) (q : Nat) (k : SQ) (p : Pkt) : State :=
  match p.waitCap with
  | none => s
  | some w =>
    (s.sampleFence k.slice w.fence).modSq q (fun d =>
      { d with pkts := { p with waitFrom := some (s.slc k.slice).tick } :: d.pkts.drop 1 })

/-- ADMISSION (R238, R239): the packet at the front of a queue is rejected, waits, or is admitted. [DEDUCED, log 10; DESIGN CHOICE, log 6, 75] -/
def execAdmission (q : Nat) (s : State) : Host.Outcome State Fault Refusal :=
  match Tab.get? s.sqs q with
  | none => .next s
  | some k =>
    match k.pkts with
    | [] => .next s
    | p :: _ =>
      if !s.isOpen k.ctx || !s.sliceUp k.slice then .next s
      else match p.verdict with
        | some v => .next (s.rejectPkt q (k.command q p) v.1 v.2)
        | none =>
          if s.cmds.any (fun d => d.2.q == q && !d.2.ended && (d.2.opcode == 0x11 || d.2.opcode == 0x12)) then .next s
          else
            let s1 := if p.waitFrom.isNone then s.beginWait q k p else s
            match s1.waitStage k p with
            | 0 => .next (s1.tryAdmit q k p)
            | 1 => .next (s1.rejectPkt q (k.command q p) 0x13 0)
            | _ => .next s1

/-- WAIT_SLOT_TIMEOUT (R233, R260): the timeout of the entry has passed and nothing sampled releases the wait. [DEDUCED, log 8] -/
def execWaitSlotTimeout (q : Nat) (s : State) : Host.Outcome State Fault Refusal :=
  match Tab.get? s.sqs q with
  | none => .next s
  | some k =>
    match k.pkts with
    | [] => .next s
    | p :: _ =>
      match p.waitCap, p.waitFrom with
      | some w, some t =>
        if s.isOpen k.ctx && s.sliceUp k.slice && w.timeout != 0 && decide (t + w.timeout ≤ (s.slc k.slice).tick) && s.waitStage k p == 2 then
          .next (s.rejectPkt q (k.command q p) 0x14 0)
        else .next s
      | _, _ => .next s

/-- BUOY (R207, R234): does nothing but end, behind earlier commands when its `dep` is set. -/
def execBuoy (h : Nat) (s : State) : Host.Outcome State Fault Refusal :=
  match s.running h 0x13 with
  | none => .next s
  | some _ => .next ((s.endWith h 0 0).release (.cmd h))

/-! Completion records. -/

/-- Whether every host write of a command has been issued: each is first in its slice's order for the context (R277, R278). -/
def State.writesIssued (s : State) (h : Nat) : Bool :=
  s.hostWr.all (fun w => w.h != h || (s.hostWr.find? (fun v => v.slice == w.slice && v.ctx == w.ctx)) == some w)

/-- Whether a command that has ended may send its signal and record (R233, R278): a signal waits for every write of the
command to be visible. -/
def State.recordReady (s : State) (h : Nat) (c : Cmd) : Bool :=
  c.ended && s.sliceUp c.slice && s.writesIssued h && (c.sigCap.isNone || !completeClass c.status || !s.writesOut h)

/-- Whether `h` is the first, in the order of their ends, of the commands of its ring whose records may be written. -/
def State.recordTurn (s : State) (h : Nat) (c : Cmd) : Bool :=
  s.cmds.all (fun p => p.1 == h || p.2.cq != c.cq || !s.recordReady p.1 p.2 || decide (c.doneAt ≤ p.2.doneAt))

/-- Signal the captured `sig_slot` of a command of the complete class, once (R233, R256). [DEDUCED, log 71] -/
def State.signalSlot (s : State) (h : Nat) (c : Cmd) : State :=
  match c.sigCap with
  | some g =>
    if completeClass c.status ∧ !c.signalled then
      let s1 := s.modCmd h (fun d => { d with signalled := true })
      { s1 with fenceQ := s1.fenceQ ++ [{ fence := g.fence, value := g.value }] }
    else s
  | none => s

/-- A command leaves the engine: what it held is released, a retiring plan slot may become free (R43). -/
def State.retire (s : State) (h : Nat) (c : Cmd) : State :=
  (({ s with cmds := Tab.erase s.cmds h } : State).release (.cmd h)).planRelease c.plan

/-- The kill of a context counts a discarded record (R265). -/
def State.countDiscard (s : State) (x : Nat) : State :=
  s.modCtx x (fun k => { k with kill := k.kill.map (fun d => { d with discarded := d.discarded + 1 }) })

/-- Write the record of a command into entry `written` of its ring (R240 to R242). [DEDUCED, log 13] -/
def State.writeRecord (s : State) (h : Nat) (c : Cmd) (k : CQ) : State :=
  let bytes := recordBytes c (k.written / 2 ^ k.logSize % 2 == 0) (s.slc c.slice).tick
  let a := { s.actor h c with fw := c.fw }
  let w : OutWr := { slice := c.slice, addr := k.base + 32 * (k.written % 2 ^ k.logSize), bytes := cleanBytes bytes, which := 11,
                     coords := [k.written % 2 ^ 32] }
  let r := s.outAcc a [w]
  if !r.needs.isEmpty then s.askAll h r.needs
  else
    let s1 := ((s.signalSlot h c).faults c r.evs).landAll c.ctx h r.val
    let s2 : State := { s1 with cqs := Tab.modify s1.cqs c.cq (fun d => { d with written := d.written + 1 }) }
    (s2.traceRec c.slice 1 c.ctx c.q c.seq c.opcode c.status (natLE 4 (count32 c.c0) ++ natLE 4 (count32 c.c1) ++ natLE 4 (count32 c.c2))).retire h c

/-- COMPLETION_RECORD (R241, R242, R265): the record whose turn it is is written into a free entry; a ring that is full
holds it, or in a kill loses it. [DESIGN CHOICE, log 6] -/
def execCompletionRecord (h : Nat) (s : State) : Host.Outcome State Fault Refusal :=
  match Tab.get? s.cmds h with
  | none => .next s
  | some c =>
    if !s.recordReady h c || !s.recordTurn h c then .next s
    else match Tab.get? s.cqs c.cq with
      | none => .next s
      | some k =>
        if ringFree k = 0 then
          if (s.ctx c.ctx).state = 2 then .next (((s.signalSlot h c).countDiscard c.ctx).retire h c) else .next s
        else .next (s.writeRecord h c k)

end Sys2Proof.Machine
end

