-- ==== Sys2Proof/Machine/Context.lean ====
section
/-! DEFINITION. Contexts and their objects: the management actions (R248, R394 to R397), the capability table and QUERY (R237,
R246), and the teardown of a context (R262 to R266). -/

namespace Sys2Proof.Machine

open Sys2Proof

/-! The capability table. -/

/-- Presence word `j`: bit i for engine 64 j + i, set if it is this engine or is not lost (R246, R288). -/
def State.presenceWord (s : State) (j : Nat) : Nat :=
  (List.range 64).foldl (fun acc i => if presentIn s.self s.visible (64 * j + i) then acc + 2 ^ i else acc) 0

/-- Capability word `i` (Table 11-1). [DEDUCED, log 74] -/
def State.capWord (s : State) (i : Nat) : Nat :=
  match i with
  | 0 => 0x43415A45 + 0x0001 * 2 ^ 32 + 0x02 * 2 ^ 48 + 24 * 2 ^ 56
  | 1 => s.boot.slices % 16 + 1 * 2 ^ 8 + 16 * 2 ^ 16 + 256 * 2 ^ 32 + 2 * 2 ^ 48
  | 2 => 1200 + 1000 * 2 ^ 16 + 1000 * 2 ^ 32 + 40 * 2 ^ 48
  | 3 => 12 + 48 * 2 ^ 16 + 2000 * 2 ^ 32 + 3 * 2 ^ 48
  | 4 => 65536 + 512 * 2 ^ 32 + 24 * 2 ^ 48
  | 5 => 4096 + 16384 * 2 ^ 32
  | 6 => 16384 + 64 * 2 ^ 32 + 64 * 2 ^ 48
  | 7 => 65536 + 262144 * 2 ^ 32
  | 8 => 4096 + 40 * 2 ^ 32 + 4096 * 2 ^ 48
  | 9 => 8 + 64 * 2 ^ 16 + 64 * 2 ^ 32 + 4096 * 2 ^ 48
  | 10 => 65535 + 1023 * 2 ^ 32 + 64 * 2 ^ 48
  | 11 => 0x3FFF + 16 * 2 ^ 16 + 15 * 2 ^ 32 + 32 * 2 ^ 48
  | 12 => 0x0001001F000F1FFE
  | 13 => 6 + 16 * 2 ^ 8 + 200 * 2 ^ 16 + 256 * 2 ^ 32 + 1000 * 2 ^ 48
  | 14 => 1000 + 500 * 2 ^ 16 + 128 * 2 ^ 32 + 4000 * 2 ^ 48
  | 15 => s.boot.strapEngine % 256 + s.boot.strapGsize % 256 * 2 ^ 8 + 8 * 2 ^ 16 + 260 * 2 ^ 32
  | 16 => s.presenceWord 0
  | 17 => s.presenceWord 1
  | 18 => s.presenceWord 2
  | 19 => s.presenceWord 3
  | _ => 0

/-- The 192 bytes of the table. -/
def State.capBytes (s : State) : List Byte := (List.range 24).flatMap (fun i => natLE 8 (s.capWord i))

/-- Write the copy that `KPR_CAP_PTR` names. [DEDUCED, log 74] -/
def State.writeCaps (s : State) : State := s.devPut Config.capPtr s.capBytes

/-- Bytes of a landing that were not suppressed. -/
def Landing.count (l : Landing) : Nat := ((l.device ++ l.host).map (fun p => p.2.length)).sum

/-- QUERY (R237). -/
def execQuery (h : Nat) (s : State) : Host.Outcome State Fault Refusal :=
  match s.running h 0x30 with
  | none => .next s
  | some c =>
    let index := c.fld 0xC 4
    match c.fld 8 2 with
    | 0 => .next (s.endCmd h (fun d => { d with aux := some (BitVec.ofNat 64 (s.capWord index)) }))
    | 1 => .next (s.endCmd h (fun d => { d with aux := some (BitVec.ofNat 64 (s.ctxWord index)) }))
    | _ =>
      let w : OutWr := { slice := c.slice, addr := c.fld 0x10 8, bytes := cleanBytes s.capBytes, which := 3, coords := [0], unit := 1 }
      let r := s.outAcc (s.actor h c) [w]
      if !r.needs.isEmpty then .next (s.await h r.needs)
      else
        .next ((((s.faults c r.evs).landAll c.ctx h r.val).endCmd h (fun d => { d with
          c0 := (r.val.flatMap (fun p => p.2.map Landing.count)).sum, status := firstStatus [(anySuppressed r.val, 0x16)] })).release (.cmd h))

/-! The teardown. -/

/-- Whether a command of a killed context ends with CONTEXT_KILLED (Table 11-10); `keep` is the CONTEXT_KILL itself. -/
def Cmd.killable (c : Cmd) (h : Nat) (keep : Option Nat) : Bool := !c.ended && !c.runsOn && keep != some h

/-- Disarm the rows a context armed (R120). -/
def disarm (x : Nat) (t : Tab AccRow) : Tab AccRow :=
  t.map (fun p => (p.1, if p.2.armed && p.2.writer == some x then { p.2 with armed := false } else p.2))

/-- The packets of a context that were fetched and wait for admission complete with CONTEXT_KILLED. [DEDUCED, log 37] -/
def State.killPkts (s : State) (x : Nat) : State :=
  (s.sqs.filter (fun p => p.2.ctx == x)).foldl (fun acc p =>
    (p.2.pkts.foldl (fun a k => (a.countSeq p.2.slice 1).addDone { (p.2.command p.1 k) with status := 0x12 }) acc).modSq p.1 (fun k =>
      { k with pkts := [], heldTail := some k.tail, reread := none, drained := false })) s

/-- Revocation of context `x` (R262): writes not yet issued are suppressed, bindings go, armed rows are disarmed. `h` is the
CONTEXT_KILL, none for the action. [DEDUCED, log 37] -/
def State.killStart (s : State) (x : Nat) (h : Option Nat) : State :=
  let waiting := ((s.sqs.filter (fun p => p.2.ctx == x)).map (fun p => p.2.pkts.length)).sum
  let mine := (s.cmds.filter (fun p => p.2.ctx == x && h != some p.1)).map Prod.fst
  let s1 := s.killPkts x
  let issued := fun (w : HostWr) => (s1.hostWr.find? (fun v => v.slice == w.slice && v.ctx == w.ctx)) == some w
  let s2 : State := { (s1.dropWrites (fun w => w.ctx != x || issued w || (Tab.get? s1.cmds w.h).isNone)) with
    vats := s1.vats.map (fun p => (p.1, { p.2 with work := disarm x p.2.work, shadow := disarm x p.2.shadow })) }
  s2.modCtx x (fun c => { c with state := 2, bindings := [], kill := some { h := h, ended := waiting, handles := mine } })

/-- Change the teardown of a context. -/
def State.modKill (s : State) (x : Nat) (f : Kill → Kill) : State := s.modCtx x (fun c => { c with kill := c.kill.map f })

/-- Go on with step `n` of Table 11-11. -/
def State.killGo (s : State) (x n : Nat) : State := s.modKill x (fun k => { k with step := n })

/-- One read of a killed context's queue (R264): the packet found completes with CONTEXT_KILLED; a mismatch, or the held
tail, ends the draining; a read that was faulted or poisoned is an event of the fault record (R261). [DEDUCED, log 37] -/
def State.drainRead (s : State) (x q : Nat) (k : SQ) : State :=
  let stop := fun (s : State) => s.modSq q (fun k => { k with drained := true })
  if k.ahead (k.heldTail.getD k.tail) = 0 ∨ !s.sliceUp k.slice then stop s
  else
    let r := s.slotRead q k
    if !r.needs.isEmpty then s.askAll 0 r.needs
    else if k.readFault r.val ≠ 0 then stop ((s.slotEvent q k r.val).readAfresh q k)
    else
      let p : Pkt := { bytes := dataOf r.val.1, ext := dataOf r.val.2, fw := s.fwOf x }
      let s1 := (s.readAfresh q k).modSq q (fun d => d.consume (!r.val.2.isEmpty))
      ((s1.countSeq k.slice 1).addDone { (k.command q p) with status := 0x12 }).modKill x (fun d => { d with ended := d.ended + 1 })

/-- The events of the refused pages of a command that ends before it has recorded them (R261). -/
def Cmd.refusedEvs (c : Cmd) : List FaultEv := c.faulted.flatMap (fun r => pageEv c.noted r.slice r.which r.coords r.addr r.write)

/-- Step 3: end what does not run on. [DEDUCED, log 37] -/
def State.killCmds (s : State) (x : Nat) (keep : Option Nat) : State :=
  let l := s.cmds.filter (fun p => p.2.ctx == x && p.2.killable p.1 keep)
  (l.foldl (fun acc p => ((acc.faults p.2 p.2.refusedEvs).endCmd p.1 (fun c => { c with
      status := 0x12, detail := 0, c0 := 0, c1 := 0, c2 := 0, c3 := 0, aux := none, waiting := [] })).release (.cmd p.1)) s).modKill x
    (fun d => { d with ended := d.ended + l.length })

/-- The fences a context owns that are live. -/
def State.ownedFences (s : State) (x : Nat) : List Nat :=
  (s.dev.cells.filterMap (fun c =>
    if Config.fenceBase ≤ c.1 ∧ c.1 < Config.fenceBase + 64 * Config.fences ∧ (c.1 - Config.fenceBase) % 64 = 0xA ∧ c.2 = 1
    then some ((c.1 - Config.fenceBase) / 64) else none)).filter (fun f => s.fenceOwner f == x)

/-- Orphan one fence and let every slice know (Table 11-11, step 5). -/
def State.orphan (s : State) (f : Nat) : State :=
  let s1 := (s.devPut (fenceAddr f + 0xA) [2]).devPut (fenceAddr f + 0x2C) (natLE 8 s.kTick)
  (List.range 4).foldl (fun acc n => acc.deliverFence n f) s1

/-- The pages in device bias that a context owns. -/
def State.ownedPages (s : State) (x : Nat) : List Nat :=
  (nubNat (s.dev.cells.filterMap (fun c =>
    if Config.biasBase ≤ c.1 ∧ c.1 < Config.biasBase + 1179648 then some ((c.1 - Config.biasBase) / 4) else none))).filter (fun p =>
      bitAt (s.biasEntry p) 31 && bitAt (s.biasEntry p) 0 && bits (s.biasEntry p) 27 16 == x)

/-- A page returns to host bias: `bias`, `owned` and `flipping` are cleared (Table 12-5). -/
def State.pageToHost (s : State) (p : Nat) : State :=
  s.devPut (Config.biasBase + 4 * p) (natLE 4 (putBit (putBit (putBit (s.biasEntry p) 0 false) 2 false) 31 false))

/-- Destroy the queues, rings and entries of a context (R264). -/
def State.freeCtx (s : State) (x : Nat) : State :=
  ({ s with sqs := s.sqs.filter (fun p => p.2.ctx != x), cqs := s.cqs.filter (fun p => p.2.ctx != x) } : State).modCtx x
    (fun c => { c with state := 0, kill := none })

/-! Management actions. -/

/-- The bits of ARG0 that Table 18-6 names for an action. -/
def argMask (action : Nat) : Nat :=
  match action with
  | 1 => 0xFFF
  | 2 => 0xFFF
  | 3 => 0xFFF + 0x3F0000 + 0x1F000000 + 3 * 2 ^ 32 + 0x3F * 2 ^ 40
  | 4 => 0xFFF + 0x3F0000
  | 5 => 0xFFF + 0x3F0000 + 0x1F000000
  | 6 => 0xFFF + 0x3F0000
  | 7 => 0xFFF
  | 8 => 0x3FFFF
  | 9 => 0x3FFFF + 0xFFF * 2 ^ 32 + 3 * 2 ^ 48
  | 0xA => 0x3FFFF + 0xFFF * 2 ^ 32
  | 0xB => 7
  | _ => 0

/-- What an action comes to: the state, its result code, its result words. -/
structure MgmtOut where
  s : State
  result : Nat := 0
  res : List Nat := []

/-- CTX_OPEN (R248, Table 11-4). -/
def State.actCtxOpen (s : State) (a0 : Nat) (d : List Byte) : MgmtOut :=
  let x := a0 % 4096
  let rights := field d 4 1
  let port := field d 5 1
  let bad := decide (2 ^ 20 ≤ field d 0 4) || decide (3 ≤ rights) || (if rights = 2 then decide (7 < port) else port != 0) ||
    decide (3 < field d 6 1) || (d.drop 7).any (fun b => b != 0)
  if bad then { s := s, result := 1 }
  else if (s.ctx x).state ≠ 0 then { s := s, result := 2 }
  else
    let drop := fun (l : Tab Nat) => l.filter (fun p => p.1 / 8 != x)
    let s1 : State := { s with
      ctxs := Tab.set s.ctxs x { state := 1, pasid := field d 0 4, mgmt := rights == 1, fw := rights == 2, fwPort := port, home := field d 6 1 },
      cntCtx := drop s.cntCtx,
      slices := s.slices.map (fun l => { l with incCtx := drop l.incCtx, fsel := Tab.erase l.fsel x }) }
    { s := s1 }

/-- SQ_CREATE. A firewall-bound context's queue belongs to its `home_slice`. [DEDUCED, log 35] -/
def State.actSqCreate (s : State) (a0 base : Nat) : MgmtOut :=
  let x := a0 % 4096
  let i := bits a0 21 16
  let size := bits a0 28 24
  let n := bits a0 33 32
  if size < 4 ∨ 16 < size ∨ base % 4096 ≠ 0 ∨ ((s.ctx x).fw && (s.ctx x).home != n) then { s := s, result := 1 }
  else if !s.isOpen x || (s.queueOf x i).isSome || (s.ringOf x (bits a0 45 40)).isNone || !s.sliceUp n then { s := s, result := 2 }
  else match Tab.lowestFree s.sqs Config.queues with
    | none => { s := s, result := 3 }
    | some q =>
      let cq := ((s.ringOf x (bits a0 45 40)).map Prod.fst).getD 0
      { s := { s with sqs := Tab.set s.sqs q { ctx := x, idx := i, slice := n, base := base, logSize := size, cq := cq } }, res := [q] }

/-- SQ_DESTROY. -/
def State.actSqDestroy (s : State) (a0 : Nat) : MgmtOut :=
  match s.queueOf (a0 % 4096) (bits a0 21 16) with
  | none => { s := s, result := 1 }
  | some (q, k) =>
    if k.fetch % 2 ^ 32 ≠ k.tail ∨ !k.pkts.isEmpty ∨ s.cmds.any (fun p => p.2.q == q) then { s := s, result := 2 }
    else { s := { s with sqs := Tab.erase s.sqs q } }

/-- CQ_CREATE. -/
def State.actCqCreate (s : State) (a0 base : Nat) : MgmtOut :=
  let x := a0 % 4096
  let i := bits a0 21 16
  let size := bits a0 28 24
  if size < 4 ∨ 16 < size ∨ base % 4096 ≠ 0 then { s := s, result := 1 }
  else if !s.isOpen x || (s.ringOf x i).isSome then { s := s, result := 2 }
  else match Tab.lowestFree s.cqs Config.queues with
    | none => { s := s, result := 3 }
    | some r => { s := { s with cqs := Tab.set s.cqs r { ctx := x, idx := i, base := base, logSize := size } }, res := [r] }

/-- CQ_DESTROY. -/
def State.actCqDestroy (s : State) (a0 : Nat) : MgmtOut :=
  match s.ringOf (a0 % 4096) (bits a0 21 16) with
  | none => { s := s, result := 1 }
  | some (r, _) =>
    if s.sqs.any (fun p => p.2.cq == r) then { s := s, result := 2 } else { s := { s with cqs := Tab.erase s.cqs r } }

/-- FENCE_ALLOC: the lowest free fence takes a fresh record (Table 11-7). -/
def State.actFenceAlloc (s : State) (a0 value : Nat) : MgmtOut :=
  let x := a0 % 4096
  if !s.isOpen x then { s := s, result := 2 }
  else match firstFrom (fun f => s.fenceState f == 0) 0 Config.fences with
    | none => { s := s, result := 3 }
    | some f => { s := s.devPut (fenceAddr f) (natLE 8 value ++ natLE 2 x ++ [1, 0] ++ List.replicate 52 0), res := [f] }

/-- Whether a fence slot entry, a capture or a FENCE_WAIT in flight names a fence (R248, R257). [DEDUCED, log 35] -/
def State.fenceNamed (s : State) (f : Nat) : Bool :=
  let cap := fun (c : Option Cap) => match c with
    | some c => c.fence == f
    | none => false
  s.sqs.any (fun p => p.2.slots.any (fun e => e.2.valid && e.2.fence == f) || p.2.pkts.any (fun k => cap k.waitCap || cap k.sigCap)) ||
  s.cmds.any (fun p => cap p.2.waitCap || cap p.2.sigCap || (p.2.opcode == 0x11 && !p.2.ended && p.2.fence == f))

/-- FENCE_FREE. [DEDUCED, log 35] -/
def State.actFenceFree (s : State) (a0 : Nat) : MgmtOut :=
  let f := a0 % 2 ^ 18
  if s.fenceState f == 0 || s.fenceNamed f then { s := s, result := 2 }
  else { s := (s.devPut (fenceAddr f + 0xA) [0]).devPut (fenceAddr f + 0x2C) (natLE 8 0) }

/-- FENCE_GRANT. [DEDUCED, log 35] -/
def State.actFenceGrant (s : State) (a0 : Nat) : MgmtOut :=
  let f := a0 % 2 ^ 18
  let x := bits a0 43 32
  if s.fenceState f ≠ 1 ∨ !s.isOpen x then { s := s, result := 2 }
  else if s.fenceOwner f = x then { s := s }
  else
    let slot := match s.grantOf f x with
      | some i => some i
      | none => (List.range 7).find? (fun i => !bitAt (s.fenceGrant f i) 14)
    match slot with
    | none => { s := s, result := 2 }
    | some i => { s := s.devPut (fenceAddr f + 0x10 + 4 * i) (natLE 4 (x + bits a0 49 48 * 2 ^ 12 + 2 ^ 14)) }

/-- FENCE_REVOKE: the grant goes, and every entry of the context that names the fence is unconfigured (R253). -/
def State.actFenceRevoke (s : State) (a0 : Nat) : MgmtOut :=
  let f := a0 % 2 ^ 18
  let x := bits a0 43 32
  match s.grantOf f x with
  | none => { s := s, result := 1 }
  | some i =>
    if s.fenceState f = 0 then { s := s, result := 1 }
    else
      let s1 := s.devPut (fenceAddr f + 0x10 + 4 * i) (natLE 4 0)
      { s := { s1 with sqs := s1.sqs.map (fun p => (p.1, if p.2.ctx = x then
          { p.2 with slots := p.2.slots.map (fun e => (e.1, if e.2.fence = f then { e.2 with valid := false } else e.2)) } else p.2)) } }

/-- The allow list of an image; none if it is malformed (R397). -/
def fwImage (m : List Byte) : Option FwList :=
  let n := field m 0 2
  let r := field m 2 2
  if 64 < n ∨ 16 < r then none
  else
    let cs := (List.range n).map (fun i => field m (0x10 + 2 * i) 2)
    let rs := (List.range r).map (fun i => (field m (0x90 + 16 * i) 8, field m (0x98 + 16 * i) 8))
    if cs.any (fun c => decide (4096 ≤ c)) || rs.any (fun p => p.1 % 4096 != 0 || p.2 % 4096 != 0 || decide (p.2 ≤ p.1)) ||
        field m 4 4 != 0 || (m.drop 0x190).any (fun b => b != 0) then none
    else some { ctxs := cs, ranges := rs, ops := field m 8 8 }

/-- FW_SET (R267, R397). [DEDUCED, log 35] -/
def State.actFwSet (s : State) (a0 addr : Nat) : MgmtOut :=
  if addr % 64 ≠ 0 ∨ !inDevice addr 512 then { s := s, result := 1 }
  else
    let m := s.dev.read addr 512
    match (if anyPoison m then none else fwImage (dataOf m)) with
    | none => { s := s, result := 1 }
    | some l => { s := { s with fw := Tab.set s.fw (a0 % 8) { (Tab.getD s.fw (a0 % 8) {}) with list := l } } }

/-- Run an action other than CTX_KILL. [DEDUCED, log 34] -/
def State.mgmtRun (s : State) (a : MgmtAct) : MgmtOut :=
  let a0 := a.args.getD 0 0
  let a1 := a.args.getD 1 0
  if a0 &&& argMask a.action ≠ a0 then { s := s, result := 1 }
  else match a.action with
    | 1 => s.actCtxOpen a0 ((List.range 8).flatMap (fun i => natLE 8 (a.args.getD (1 + i) 0)))
    | 3 => s.actSqCreate a0 a1
    | 4 => s.actSqDestroy a0
    | 5 => s.actCqCreate a0 a1
    | 6 => s.actCqDestroy a0
    | 7 => s.actFenceAlloc a0 a1
    | 8 => s.actFenceFree a0
    | 9 => s.actFenceGrant a0
    | 0xA => s.actFenceRevoke a0
    | 0xB => s.actFwSet a0 a1
    | _ => { s := s, result := 1 }

/-- Write an action's result words and then the status (R395). -/
def State.mgmtDone (s : State) (a : MgmtAct) (result : Nat) (res : List Nat) : State :=
  let s1 := (List.range 4).foldl (fun acc i => acc.setKreg (0x50 + 8 * i) (res.getD i 0)) s
  let old := s1.kreg 0x48
  s1.setKreg 0x48 ((old % 65536 + 1) % 65536 + result * 2 ^ 16 + a.action * 2 ^ 24 + a.tag * 2 ^ 32 + (if bitAt old 62 then 2 ^ 62 else 0))

/-- Whether an action waits for PS0, which holds the fence store (R365). [DEDUCED, log 34] -/
def State.mgmtHeld (s : State) (a : MgmtAct) : Bool := decide (7 ≤ a.action ∧ a.action ≤ 0xA) && !s.sliceUp 0

/-- The keeper executes queued actions in capture order until one waits (R395). [DEDUCED, log 34] -/
def State.mgmtDrain (s : State) (fuel : Nat) : State :=
  match fuel with
  | 0 => s
  | n + 1 =>
    match s.mgmtBusy, s.mgmtQ with
    | none, a :: r =>
      if s.mgmtHeld a then s
      else
        let s1 : State := { s with mgmtQ := r }
        if a.action = 2 ∧ a.args.getD 0 0 &&& argMask 2 = a.args.getD 0 0 then
          let x := a.args.getD 0 0
          if s1.isOpen x then ({ s1 with mgmtBusy := some a } : State).killStart x none
          else (s1.mgmtDone a 2 []).mgmtDrain n
        else
          let o := s1.mgmtRun a
          (o.s.mgmtDone a o.result o.res).mgmtDrain n
    | _, _ => s

/-- A write of `KPR_MGMT_CMD` (R395): capture the arguments and queue the action; a full queue sets `overrun`. [DEDUCED, log 34] -/
def State.mgmtWrite (s : State) (port action tag : Nat) : State :=
  if !s.portUp port || !s.boot.ready then s
  else if 16 ≤ s.mgmtQ.length + (if s.mgmtBusy.isSome then 1 else 0) then (s.setKreg 0x48 (putBit (s.kreg 0x48) 62 true)).kregEvt
  else
    let a : MgmtAct := { action := action, tag := tag, args := (List.range 16).map (fun i => s.kreg (0x80 + 8 * i)) }
    ({ s with mgmtQ := s.mgmtQ ++ [a] } : State).mgmtDrain 16

/-- CTX_OPEN (R248). -/
def execCtxOpen (port : Fin 4) (tag : BitVec 16) (s : State) : Host.Outcome State Fault Refusal := .next (s.mgmtWrite port.val 1 tag.toNat)
/-- CTX_KILL (R248): runs the teardown of CONTEXT_KILL. -/
def execCtxKill (port : Fin 4) (tag : BitVec 16) (s : State) : Host.Outcome State Fault Refusal := .next (s.mgmtWrite port.val 2 tag.toNat)
/-- SQ_CREATE (R248, R250). -/
def execSqCreate (port : Fin 4) (tag : BitVec 16) (s : State) : Host.Outcome State Fault Refusal := .next (s.mgmtWrite port.val 3 tag.toNat)
/-- SQ_DESTROY (R248). -/
def execSqDestroy (port : Fin 4) (tag : BitVec 16) (s : State) : Host.Outcome State Fault Refusal := .next (s.mgmtWrite port.val 4 tag.toNat)
/-- CQ_CREATE (R248, R251). -/
def execCqCreate (port : Fin 4) (tag : BitVec 16) (s : State) : Host.Outcome State Fault Refusal := .next (s.mgmtWrite port.val 5 tag.toNat)
/-- CQ_DESTROY (R248). -/
def execCqDestroy (port : Fin 4) (tag : BitVec 16) (s : State) : Host.Outcome State Fault Refusal := .next (s.mgmtWrite port.val 6 tag.toNat)
/-- FENCE_ALLOC (R248, R254). -/
def execFenceAlloc (port : Fin 4) (tag : BitVec 16) (s : State) : Host.Outcome State Fault Refusal := .next (s.mgmtWrite port.val 7 tag.toNat)
/-- FENCE_FREE (R248). -/
def execFenceFree (port : Fin 4) (tag : BitVec 16) (s : State) : Host.Outcome State Fault Refusal := .next (s.mgmtWrite port.val 8 tag.toNat)
/-- FENCE_GRANT (R248). -/
def execFenceGrant (port : Fin 4) (tag : BitVec 16) (s : State) : Host.Outcome State Fault Refusal := .next (s.mgmtWrite port.val 9 tag.toNat)
/-- FENCE_REVOKE (R248, R253). -/
def execFenceRevoke (port : Fin 4) (tag : BitVec 16) (s : State) : Host.Outcome State Fault Refusal := .next (s.mgmtWrite port.val 0xA tag.toNat)
/-- FW_SET (R248, R267). -/
def execFwSet (port : Fin 4) (tag : BitVec 16) (s : State) : Host.Outcome State Fault Refusal := .next (s.mgmtWrite port.val 0xB tag.toNat)

/-- CONTEXT_KILL (R262 to R266): begins the teardown of its target, whose steps end it. -/
def execContextKill (h : Nat) (s : State) : Host.Outcome State Fault Refusal :=
  match s.running h 0x24 with
  | none => .next s
  | some c =>
    if c.phase ≠ .ready then .next s
    else
      let x := c.fld 8 2 % 4096
      if !s.isOpen x then .next (s.endWith h 0x10 0xF4)
      else .next ((s.modCmd h (fun d => { d with phase := .stage 1 })).killStart x (some h))

/-- Step 6 done: the counts go to the kill's record, or to the action's result words, with which the context is KILLED
(R248, R265). [DEDUCED, log 36] -/
def State.killCounts (s : State) (x : Nat) (k : Kill) : State :=
  let s1 := s.killGo x 7
  match k.h with
  | some h => s1.endCmd h (fun c => { c with c0 := k.ended, c1 := k.discarded, c2 := k.orphaned, c3 := k.pages })
  | none =>
    match s1.mgmtBusy with
    | some a =>
      let s2 := ({ s1 with mgmtBusy := none } : State).mgmtDone a 0 [k.ended, k.discarded, k.orphaned, k.pages]
      ((s2.modCtx x (fun c => { c with state := 3 })).killGo x 8).mgmtDrain 16
    | none => s1

/-- The step of a teardown that is finished gives way to the next (Table 11-11). [DEDUCED, log 36] -/
def State.killStep (s : State) (x : Nat) (k : Kill) : State :=
  match k.step with
  | 1 => s.killGo x 2
  | 2 =>
    match s.sqs.find? (fun p => p.2.ctx == x && !p.2.drained) with
    | some (q, d) => s.drainRead x q d
    | none => s.killGo x 3
  | 3 =>
    let s1 := s.killCmds x k.h
    if s1.cmds.any (fun p => p.2.ctx == x && !p.2.ended && k.h != some p.1) then s1 else s1.killGo x 4
  | 4 => if s.hostWr.any (fun w => w.ctx == x) then s else s.killGo x 5
  | 5 =>
    if !s.sliceUp 0 then s
    else
      let l := s.ownedFences x
      ((l.foldl State.orphan s).modKill x (fun d => { d with orphaned := l.length })).killGo x 6
  | 6 =>
    if !s.sliceUp 0 || s.cmds.any (fun p => p.2.ctx == x && k.h != some p.1) then s
    else
      let l := s.ownedPages x
      (l.foldl State.pageToHost s).killCounts x { k with pages := l.length }
  | 7 =>
    if k.h.any (fun h => (Tab.get? s.cmds h).isSome) then s
    else (s.modCtx x (fun c => { c with state := 3 })).killGo x 8
  | _ =>
    if s.peerReqs.any (fun q => k.handles.contains q.h && presentIn s.self s.declared q.peer) then s
    else ({ s with peerReqs := s.peerReqs.filter (fun q => !k.handles.contains q.h) } : State).freeCtx x

/-- KILL_STEP_DONE (R264). -/
def execKillStepDone (ctx : Fin 4096) (s : State) : Host.Outcome State Fault Refusal :=
  match (s.ctx ctx.val).kill with
  | none => .next s
  | some k => .next (s.killStep ctx.val k)

end Sys2Proof.Machine
end

