-- ==== Sys2Proof/Machine/Host.lean ====
section
/-! DEFINITION. The host port (12_host_port.md) and the firewall's command ports (R326): windows, CXL.mem, CXL.cache and ATS
transactions, FLUSH, read-back, and bias requests. -/

namespace Sys2Proof.Machine

open Sys2Proof

/-! Writes to a window. -/

/-- The runs of consecutive enabled bytes of a write: offset and bytes of each. -/
def enabledRuns : List Byte → List Bool → Nat → List (Nat × List Byte)
  | b :: bs, e :: es, i =>
    if !e then enabledRuns bs es (i + 1)
    else match enabledRuns bs es (i + 1) with
      | (j, l) :: r => if j = i + 1 then (i, b :: l) :: r else (i, [b]) :: (j, l) :: r
      | [] => [(i, [b])]
  | _, _, _ => []

/-- A write to a register of the control page of context `x` through slice `n` (Table 11-5). -/
def State.ctlWrite (s : State) (n x off data : Nat) : State :=
  if off = 0x008 then s.modCtx x (fun c => { c with whey := data / 4096 * 4096 })
  else if off = 0x018 then
    s.modSlice n (fun l => { l with fsel := Tab.set l.fsel x (data % 64 + bits data 11 8 * 256) })
  else if off = 0x020 then
    match s.selectedEntry n x with
    | none => s.regEvt n
    | some (q, e) =>
      let put := fun (f : FSlot) => { f with value := BitVec.ofNat 64 data }
      s.modSq q (fun k => { k with slots := Tab.set k.slots e (put (Tab.getD k.slots e {})) })
  else if off = 0x028 then s.fslotCommit n x data
  else if off = 0x080 then (if bitAt data 0 then s.clearFault x else s)
  else if 0x200 ≤ off ∧ off < 0x400 then s.ringDoorbell n x ((off - 0x200) / 8) (data % 2 ^ 32)
  else if 0x400 ≤ off ∧ off < 0x600 then s.ringRelease x ((off - 0x400) / 8) (data % 2 ^ 32)
  else s

/-- A write into the window of context `x` that slice `n` serves (R273, R287). [DESIGN CHOICE, log 40] -/
def State.windowStore (s : State) (n x off : Nat) (bs : List Byte) (enables : List Bool) (poisoned : Bool) : State :=
  let len := bs.length
  let fault := off == 0x080 && len == 8
  if !s.isOpen x && !fault then s.countHp n 1
  else if off < 0x1000 then
    if off % 8 ≠ 0 ∨ len ≠ 8 ∨ enables.any (fun e => !e) then s.countHp n 0
    else if poisoned then s.countHp n 2
    else s.ctlWrite n x off (leNat bs)
  else if len = 0 ∨ 64 < len ∨ 0x10000 < off + len then s.countHp n 0
  else
    (enabledRuns bs enables 0).foldl (fun acc r =>
      acc.devWrite (Config.stageBase n + x * 0x10000 + off + r.1) (r.2.map (fun b => { b := b, p := if poisoned then 4 else 0 }))) s

/-- WINDOW_WRITE (R268, R273, R290): a firewall-bound context's window takes no write at a host port. -/
def execWindowWrite (port : Fin 4) (ctx : Fin 4096) (offset : Nat) (bytes : List Byte) (enables : List Bool) (poisoned : Bool)
    (s : State) : Host.Outcome State Fault Refusal :=
  if !s.portUp port.val then .next s
  else if (s.ctx ctx.val).fw && (s.ctx ctx.val).state != 0 then .next (s.countHp port.val 4)
  else .next (s.windowStore port.val ctx.val offset bytes enables poisoned)

/-! Reads of a window. -/

/-- CTX_FSLOT_CFG of an entry (Table 18-16). -/
def fslotCfg (f : FSlot) : Nat :=
  f.timeout + f.fence * 2 ^ 32 + f.step * 2 ^ 52 + (if f.err then 2 ^ 62 else 0) + (if f.valid then 2 ^ 63 else 0)

/-- A register of the control page of context `x` as slice `n` reads it (Table 11-5, R249, R273, R402). -/
def State.ctlRead (s : State) (n x off : Nat) : Nat :=
  if off = 0 then s.ctxWord x
  else if 0x080 ≤ off ∧ off < 0x100 then field (faultBytes (s.ctx x).fault) (off - 0x080) 8
  else if off = 0x010 then s.flushWord n x
  else if !s.isOpen x then 0
  else if off = 0x008 then (s.ctx x).whey
  else if off = 0x018 then Tab.getD (s.slc n).fsel x 0
  else if off = 0x020 ∨ off = 0x028 then
    match s.selectedEntry n x with
    | none => 0
    | some (q, e) =>
      let f := Tab.getD ((Tab.get? s.sqs q).map SQ.slots |>.getD []) e {}
      if off = 0x020 then f.value.toNat else fslotCfg f
  else if 0x400 ≤ off ∧ off < 0x600 then ((s.ringOf x ((off - 0x400) / 8)).map (fun r => r.2.released)).getD 0
  else if 0x600 ≤ off ∧ off < 0x800 then
    match s.queueOf x ((off - 0x600) / 8) with
    | some (_, k) => if k.slice = n then sqStat k else 0
    | none => 0
  else if 0x800 ≤ off ∧ off < 0xA00 then ((s.ringOf x ((off - 0x800) / 8)).map (fun r => cqStat r.2)).getD 0
  else 0

/-- A read of `len` bytes from the window of context `x` at slice `n`: the state after it, the data and its poison (R273). -/
def State.windowLoad (s : State) (n x off len : Nat) : State × List Byte × Bool :=
  let zero := List.replicate len (0 : Byte)
  if off < 0x1000 then
    if off % 8 = 0 ∧ len = 8 then (s, natLE 8 (s.ctlRead n x off), false) else (s.countHp n 0, zero, false)
  else if !s.isOpen x then (s, zero, false)
  else if [4, 8, 16, 32, 64].contains len ∧ off % len = 0 ∧ off + len ≤ 0x10000 then
    let l := s.dev.read (Config.stageBase n + x * 0x10000 + off) len
    (s, dataOf l, anyPoison l)
  else (s.countHp n 0, zero, false)

/-- A read that meets a slice in reset: all ones with poison (R290). -/
def onesRead (len : Nat) : List Byte := List.replicate len 0xFF

/-- READ_BACK (R274): a read of a control-page register; every write received before it has landed, for each lands in its own
step. A read of `CTX_FLUSH` is a FLUSH. -/
def State.readBack (s : State) (port x off : Nat) : State :=
  if !s.hostReady then s
  else if !s.sliceUp port then s.send (.readData port (onesRead 8) true)
  else
    let r := s.windowLoad port x off 8
    r.1.send (.readData port r.2.1 r.2.2)

/-! FLUSH. -/

/-- What a FLUSH of context `x` waits for: per slice, the host writes issued or waiting there (R279). -/
def State.flushWaits (s : State) (x : Nat) : List (Nat × Nat) :=
  (List.range 4).filterMap (fun n =>
    let k := (s.hostWr.filter (fun w => w.slice == n && w.ctx == x)).length
    if k = 0 then none else some (n, k))

/-- Begin a FLUSH: it is answered at once when nothing is outstanding. -/
def State.flushBegin (s : State) (port : Nat) (tag : Option Nat) (x : Nat) : State :=
  let f : FlushWait := { port := port, tag := tag, ctx := x, waits := s.flushWaits x }
  if f.waits.isEmpty then s.flushDone f else { s with flushes := s.flushes ++ [f] }

/-- FLUSH (R279). -/
def execFlush (port : Fin 4) (ctx : Fin 4096) (s : State) : Host.Outcome State Fault Refusal :=
  if !s.hostReady then .next s
  else if !s.sliceUp port.val then .next (s.send (.readData port.val (onesRead 8) true))
  else .next (s.flushBegin port.val none ctx.val)

/-- READ_BACK (R274). [DESIGN CHOICE, log 40] -/
def execReadBack (port : Fin 4) (ctx : Fin 4096) (offset : Fin 4096) (s : State) : Host.Outcome State Fault Refusal :=
  if offset.val = 0x010 ∧ s.portUp port.val then .next (s.flushBegin port.val none ctx.val)
  else .next (s.readBack port.val ctx.val offset.val)

/-- One write at slice `n` for context `x` is visible: waits count it off; those that wait for nothing more are answered. -/
def State.countDown (s : State) (n x : Nat) : State :=
  let dec := fun (l : List (Nat × Nat)) (k : Nat) => (l.map (fun p => if p.1 = k then (p.1, p.2 - 1) else p)).filter (fun p => p.2 != 0)
  (({ s with flushes := s.flushes.map (fun f => if f.ctx = x then { f with waits := dec f.waits n } else f),
             invals := s.invals.map (fun v => if v.port = n then { v with waits := dec v.waits x } else v) } : State).flushSettle).invalSettle

/-- GO_RESPONSE (R277): the oldest host write of the slice and context is globally observed. -/
def execGoResponse (port : Fin 4) (ctx : Fin 4096) (s : State) : Host.Outcome State Fault Refusal :=
  match s.hostWr.find? (fun w => w.slice == port.val && w.ctx == ctx.val) with
  | none => .next s
  | some w => .next (({ s with hostWr := s.hostWr.erase w } : State).countDown port.val ctx.val)

/-! CXL.mem. -/

/-- Whether a device address lies in a region of an open table of this engine (R169). [DESIGN CHOICE, log 25] -/
def State.inTable (s : State) (a : Nat) : Bool :=
  s.tables.any (fun t => (t.2.regions s.self).any (fun r => decide (r.1 ≤ a ∧ a < r.1 + r.2)))

/-- Where entry `i` of the row-retire list lies, and the entries in use (R312). -/
def retireAddr (i : Nat) : Nat := Config.retireBase + 16 * i
def State.retireCount (s : State) : Nat := s.kreg 0x130

/-- Whether entry `i` of the list takes a hard repair of stack `k` (R313): its level is 1 or 2 and it is not hard yet. -/
def State.repairs (s : State) (i k : Nat) : Bool :=
  let e := s.dev.num (retireAddr i) 4
  e % 16 == k && (bits e 25 24 == 1 || bits e 25 24 == 2) && !bitAt e 26

/-- Whether one of the stacks of an access is under repair: boot step 10, with an entry of that stack to repair (R359). -/
def State.repairing (s : State) (a n : Nat) : Bool :=
  s.boot.step == 10 && (List.range (stackOf (a + n - 1) + 1 - stackOf a)).any (fun i =>
    (List.range (min s.retireCount 4096)).any (fun j => s.repairs j (stackOf a + i)))

/-- Mark both sectors of each 64-byte line that `n` bytes at `a` touch as poisoned (R287). -/
def State.poisonLines (s : State) (a n : Nat) : State :=
  if n = 0 then s
  else { s with dev := ((List.range (2 * ((a + n - 1) / 64 + 1 - a / 64))).map (fun i => 2 * (a / 64) + i)).foldl (fun m k => m.mark k true) s.dev }

/-- A CXL.mem write lands (R274, R287, R290, R294): bytes in a region of an open table read as free values (R169); a poisoned write poisons
whole lines; a region that only the engine writes stays as it is. [DESIGN CHOICE, log 25, 78, 89] -/
def State.memStore (s : State) (addr : Nat) (bytes : List Byte) (poisoned : Bool) : State :=
  if !s.sliceUp (sliceOf addr) then s
  else
    let bs := (List.range bytes.length).map (fun i =>
      { b := if s.inTable (addr + i) then Config.freeByte (s.freeCtr + i) else bytes.getD i 0, p := if poisoned then 4 else 0 : PB })
    let s1 := s.outWrite addr bs
    let s2 := if poisoned && !(List.range bytes.length).any (fun i => guarded (addr + i)) then s1.poisonLines addr bytes.length else s1
    { s2 with freeCtr := s.freeCtr + bytes.length }

/-- MEM_WRITE (R274, R287, R290, R294): an access to a stack under repair waits (R359). -/
def execMemWrite (port : Fin 4) (addr : Nat) (bytes : List Byte) (poisoned : Bool) (s : State) : Host.Outcome State Fault Refusal :=
  if !s.portUp port.val then .next s
  else if !inDevice addr bytes.length then .fault (.noSuchAddress addr)
  else if s.repairing addr bytes.length then .next { s with memHeld := s.memHeld ++ [.memWrite port addr bytes poisoned] }
  else .next (s.memStore addr bytes poisoned)

/-- One 64-byte line as a host read returns it (R287, R290): a line with a poisoned sector, or on a slice in reset, is
poisoned, its data free. [DESIGN CHOICE, log 23] -/
def State.memLine (s : State) (line : Nat) : List Byte × Bool :=
  let l := s.dev.read (64 * line) 64
  if !s.sliceUp (sliceOf (64 * line)) || anyPoison l then (s.freeBytes 64, true) else (dataOf l, false)

/-- A CXL.mem read returns the lines that hold `count` bytes at an address; through the port of a slice in reset every line is poisoned
(R287, R290). -/
def State.memLoad (s : State) (port addr count : Nat) : State :=
  let n := if count = 0 then 0 else (addr + count - 1) / 64 + 1 - addr / 64
  (List.range n).foldl (fun acc i =>
    let l := if s.sliceUp port then acc.memLine (addr / 64 + i) else (acc.freeBytes 64, true)
    { acc.send (.readData port l.1 l.2) with freeCtr := acc.freeCtr + 64 }) s

/-- MEM_READ (R287, R290, R294): an access to a stack under repair waits (R359). [DESIGN CHOICE, log 9, 78] -/
def execMemRead (port : Fin 4) (addr : Nat) (count : Nat) (s : State) : Host.Outcome State Fault Refusal :=
  if !s.hostReady then .next s
  else if !inDevice addr count then .fault (.noSuchAddress addr)
  else if s.repairing addr count then .next { s with memHeld := s.memHeld ++ [.memRead port addr count] }
  else .next (s.memLoad port.val addr count)

/-- The CXL.mem accesses that waited are made, in their order (R359). -/
def State.memRelease (s : State) : State :=
  s.memHeld.foldl (fun acc i => match i with
    | .memWrite _ addr bytes poisoned => acc.memStore addr bytes poisoned
    | .memRead port addr count => acc.memLoad port.val addr count
    | _ => acc) { s with memHeld := [] }

/-! CXL.cache and ATS. -/

/-- SNOOP: the engine caches no host line and answers RspIHitI (Table 12-1). -/
def execSnoop (port : Fin 4) (_addr : Nat) (s : State) : Host.Outcome State Fault Refusal :=
  if s.portUp port.val then .next (s.send (.snoopMiss port.val)) else .next s

/-- The contexts with a process address space ID. -/
def State.pasidCtxs (s : State) (pasid : Nat) : List Nat :=
  (s.ctxs.filter (fun p => p.2.state != 0 && p.2.pasid == pasid)).map Prod.fst

/-- The context an asker acts for. -/
def State.whoCtx (s : State) (w : Who) : Option Nat :=
  match w with
  | .cmd h => (Tab.get? s.cmds h).map Cmd.ctx
  | .fetch q => (Tab.get? s.sqs q).map SQ.ctx
  | .bias => none
  | .engine => none

/-- ATS_INVALIDATION (R286): the translations go; the completion waits for accesses that used them. -/
def execAtsInvalidation (port : Fin 4) (pasid : BitVec 20) (firstPage pages : Nat) (s : State) : Host.Outcome State Fault Refusal :=
  if !s.portUp port.val then .next s
  else
    let hit := fun (x : Xlat) => x.pasid == pasid.toNat && decide (firstPage ≤ x.page ∧ x.page < firstPage + pages)
    let xs := s.pasidCtxs pasid.toNat
    let waits := xs.filterMap (fun x =>
      let k := (s.hostWr.filter (fun w => w.slice == port.val && w.ctx == x)).length
      if k = 0 then none else some (x, k))
    let reads := s.lineReqs.filter (fun r => r.slice == port.val && !r.device && ((s.whoCtx r.who).map xs.contains).getD false)
    let s1 := s.modSlice port.val (fun l => { l with atc := l.atc.filter (fun x => !hit x) })
    if waits.isEmpty && reads.isEmpty then .next (s1.send (.invalDone port.val))
    else .next { s1 with invals := s1.invals ++ [{ port := port.val, waits := waits, reads := reads }] }

/-- A refused translation (R285): a command takes its page as faulted, a queue's read as denied. The fault event is that of the access, which
its command or queue records in the order of its accesses (R219, R220, R261). [DEDUCED, log 21] -/
def State.refuse (s : State) (r : AtsReq) : State :=
  let s0 := s.countHp r.slice 5
  match r.who with
  | .cmd h => s0.modCmd h (fun d => { d with faulted := d.faulted ++ [r] })
  | .fetch q => s0.modSq q (fun k => { k with denied := k.denied ++ [r.page] })
  | .bias => s0
  | .engine => s0

/-- Keep a translation; beyond 8,192 the oldest goes. [DESIGN CHOICE, log 77] -/
def State.keepXlat (s : State) (n : Nat) (x : Xlat) : State :=
  s.modSlice n (fun l =>
    let a := (l.atc.filter (fun y => !(y.pasid == x.pasid && y.page == x.page))) ++ [x]
    { l with atc := a.drop (a.length - Config.atcEntries) })

/-- ATS_RESPONSE (R284, R285): a grant is kept in the slice's cache; a response without the permission that a request needs is
a translation fault of that request. [DESIGN CHOICE, log 76] -/
def execAtsResponse (port : Fin 4) (who : Who) (page : Nat) (read write toDevice : Bool) (target : Nat) (s : State) :
    Host.Outcome State Fault Refusal :=
  let mine := s.atsReqs.filter (fun r => r.slice == port.val && r.who == who && r.page == page)
  match mine with
  | [] => .next s
  | r :: _ =>
    if !s.portUp port.val || (toDevice && !inDevice (target * 4096) 4096) then .next s
    else
      let s1 : State := { s with atsReqs := s.atsReqs.filter (fun q => !mine.contains q) }
      let s2 := if read || write then
          s1.keepXlat port.val { pasid := (s.ctx r.ctx).pasid, page := page, read := read, write := write, toDevice := toDevice, target := target }
        else s1
      .next ((mine.filter (fun q => !(if q.write then write else read))).foldl State.refuse s2)

/-! Bias requests. -/

/-- Set KPR_BIAS_STATUS's result and flipped count, keeping `overrun`. -/
def State.biasStatus (s : State) (result flipped : Nat) : State :=
  s.setKreg 0x108 (flipped % 8192 + result * 2 ^ 32 + (if bitAt (s.kreg 0x108) 62 then 2 ^ 62 else 0))

/-- Lines of a page. -/
abbrev pageLines : Nat := 32768

/-- Ask for ownership of line `i` of the page that flips (Table 12-5). [DEDUCED, log 38] -/
def State.biasAsk (s : State) (b : BiasReq) (i : Nat) : State :=
  let line := b.page * pageLines + i
  { s with lineReqs := s.lineReqs ++ [{ slice := sliceOf (64 * line), who := .bias, device := true, own := true, line := line }] }

/-- The bias entry of a page once it is in device bias for a request. [DEDUCED, log 38] -/
def biasOwned (e : Nat) (b : BiasReq) : Nat :=
  let e1 := putBit (putBit e 0 true) 2 false
  if b.own then putBit (putBits e1 27 16 b.owner) 31 true else putBit e1 31 false

/-- Set the bias entry of a page. -/
def State.setBias (s : State) (p e : Nat) : State := s.devPut (Config.biasBase + 4 * p) (natLE 4 e)

/-- Flip the pages of the request until one waits for the host (Table 12-5); the request ends with its last page. [DEDUCED, log 38] -/
def State.biasGo (s : State) (fuel : Nat) : State :=
  match fuel with
  | 0 => s
  | n + 1 =>
    match s.biasReq with
    | none => s
    | some b =>
      let done := b.page - b.first
      if done = b.count then ({ s with biasReq := none } : State).biasStatus 0 done
      else if !s.sliceUp 0 then s
      else
        let e := s.biasEntry b.page
        let next : BiasReq := { b with page := b.page + 1, asked := 0, granted := 0 }
        if b.toDevice && !bitAt e 0 then
          if b.asked ≠ 0 then s
          else
            let s1 := (s.setBias b.page (putBit e 2 true)).biasStatus 0 done
            (List.range 512).foldl (fun acc i => acc.biasAsk b i) { s1 with biasReq := some { b with asked := 512 } }
        else
          let s1 := if b.toDevice then s.setBias b.page (biasOwned e b) else s.pageToHost b.page
          State.biasGo (({ s1 with biasReq := some next } : State).biasStatus 0 (done + 1)) n

/-- Whether a request names a page that it may not change: pinned, flipping, or in device bias and another context's (R282). [DEDUCED, log 38] -/
def State.biasDenied (s : State) (b : BiasReq) : Bool :=
  (List.range b.count).any (fun i =>
    let e := s.biasEntry (b.first + i)
    bitAt e 1 || bitAt e 2 || (bitAt e 0 && bitAt e 31 && bits e 27 16 != b.owner))

/-- Begin a bias request (R282, R398). [DEDUCED, log 38] -/
def State.biasBegin (s : State) (b : BiasReq) : State :=
  if b.count = 0 ∨ 4096 < b.count ∨ 294912 < b.first + b.count then s.biasStatus 1 0
  else if !s.sliceUp 0 then { s with biasWait := s.biasWait ++ [b] }
  else if s.biasDenied b then s.biasStatus 2 0
  else ({ s with biasReq := some b } : State).biasGo (b.count + 1)

/-- A write of `KPR_BIAS_CMD` (R398): while a request executes it is ignored, sets `overrun` and is counted. -/
def State.biasWrite (s : State) (port first count owner : Nat) (toDevice own : Bool) : State :=
  if !s.portUp port then s
  else if s.biasReq.isSome || !s.biasWait.isEmpty then (s.setKreg 0x108 (putBit (s.kreg 0x108) 62 true)).kregEvt
  else
    let f := first % 2 ^ 19
    s.biasBegin { first := f, count := count % 2 ^ 13, toDevice := toDevice, owner := owner % 4096, own := own, page := f }

/-- BIAS_TO_DEVICE (R282, R398). -/
def execBiasToDevice (port : Fin 4) (first count : Nat) (owner : Fin 4096) (own : Bool) (s : State) : Host.Outcome State Fault Refusal :=
  .next (s.biasWrite port.val first count owner.val true own)

/-- BIAS_TO_HOST (R282, R398). -/
def execBiasToHost (port : Fin 4) (first count : Nat) (owner : Fin 4096) (own : Bool) (s : State) : Host.Outcome State Fault Refusal :=
  .next (s.biasWrite port.val first count owner.val false own)

/-- One line's ownership is granted to the bias request: the next is asked for, or the page has flipped. -/
def State.biasGrant (s : State) : State :=
  match s.biasReq with
  | none => s
  | some b =>
    let g := b.granted + 1
    if g < pageLines then
      if b.asked < pageLines then ({ s with biasReq := some { b with granted := g, asked := b.asked + 1 } } : State).biasAsk b b.asked
      else { s with biasReq := some { b with granted := g } }
    else
      let s1 := s.setBias b.page (biasOwned (s.biasEntry b.page) b)
      let next : BiasReq := { b with page := b.page + 1, asked := 0, granted := 0 }
      State.biasGo (({ s1 with biasReq := some next } : State).biasStatus 0 (b.page + 1 - b.first)) (b.count + 1)

/-- A read that an invalidation waits for has returned. -/
def State.readReturned (s : State) (r : LineReq) : State :=
  ({ s with invals := s.invals.map (fun v => { v with reads := v.reads.filter (fun q => q != r) }) } : State).invalSettle

/-- Whether an asker still takes what it has asked for: a command until it ends, a queue while it exists. -/
def State.asks (s : State) (w : Who) : Bool :=
  match w with
  | .cmd h => ((Tab.get? s.cmds h).map (fun c => !c.ended)).getD false
  | .fetch q => (Tab.get? s.sqs q).isSome
  | .bias => false
  | .engine => true

/-- H2D_RESPONSE (R277, R282, R287): a host line is delivered, or coherence or ownership of a line of device memory granted. [DEDUCED, log 22] -/
def execH2dResponse (port : Fin 4) (who : Who) (line : Nat) (data : List Byte) (poisoned : Bool) (s : State) :
    Host.Outcome State Fault Refusal :=
  match s.lineReqs.find? (fun r => r.slice == port.val && r.who == who && r.line == line) with
  | none => .next s
  | some r =>
    if !s.portUp port.val then .next s
    else
      let s1 := ({ s with lineReqs := s.lineReqs.erase r } : State).readReturned r
      if who = .bias then .next s1.biasGrant
      else if !s.asks who then .next s1
      else .next { s1 with lines := s1.lines ++ [{ who := who, device := r.device, own := r.own, line := line, data := data, poisoned := poisoned }] }

/-! Command ports. -/

/-- Whether the firewall forwards accesses of command port `p` to context `x` (R268). -/
def State.fwForwards (s : State) (p x : Nat) : Bool :=
  let c := s.ctx x
  c.state != 0 && c.fw && c.fwPort == p && (s.fwp p).list.ctxs.contains x

/-- What becomes of a request at command port `p` (R268, R290, R326): forwarded to the context's `home_slice`, else dropped and counted, or
refused. A FLUSH answers when nothing is outstanding; every other request is complete at once. -/
def State.fwServe (s : State) (p : Nat) (write : Bool) (x off : Nat) (bs : List Byte) (poisoned : Bool) (tag : Option Nat) : State :=
  let n := (s.ctx x).home
  if !s.fwForwards p x then
    (if write then
      { s.modFw p (fun f => { f with dropped := f.dropped + 1 }) with cntKs := Tab.set s.cntKs p (Tab.getD s.cntKs p 0 + 1) }
    else s.refuseRead (4 + p) tag x off).fwReturn (4 + p) (!write)
  else if !s.sliceUp n then (if write then s else s.answer (4 + p) tag x off (onesRead bs.length) true).fwReturn (4 + p) (!write)
  else if write then (s.windowStore n x off bs (bs.map (fun _ => true)) poisoned).fwReturn (4 + p) false
  else if off = 0x010 ∧ bs.length = 8 then s.flushBegin (4 + p) tag x
  else
    let r := s.windowLoad n x off bs.length
    (r.1.answer (4 + p) tag x off r.2.1 r.2.2).fwReturn (4 + p) true

/-- A window write or read that arrives at command port `p` (R268, R326). A chiplet without a credit, or with 16 reads outstanding, must
not send: what it sends then has no effect. [DEDUCED, log 70] -/
def State.commandPort (s : State) (p : Nat) (write : Bool) (x off : Nat) (bs : List Byte) (poisoned : Bool) (tag : Option Nat) : State :=
  if !s.hostReady || (s.link (22 + p)).down then s
  else if (s.fwp p).credits = 0 ∨ (!write && decide (16 ≤ (s.fwp p).reads)) then s
  else ((s.fwTake (4 + p) (!write)).fwServe p write x off bs poisoned tag).creditBack (4 + p)

/-- COMMAND_PORT_TRANSACTION (R268, R326): of a read, the bytes give the length. -/
def execCommandPortTransaction (port : Fin 8) (write : Bool) (ctx : Nat) (offset : Nat) (bytes : List Byte) (poisoned : Bool)
    (s : State) : Host.Outcome State Fault Refusal :=
  .next (s.commandPort port.val write (ctx % 4096) (offset % 65536) bytes poisoned none)

end Sys2Proof.Machine
end

