-- ==== Sys2Proof/Machine/Boot.lean ====
section
/-! DEFINITION. Reset inputs, boot and the restart of one slice (16_reset_power_time.md). -/

namespace Sys2Proof.Machine

open Sys2Proof

/-! Resets. -/

/-- Whether the engine drives its `op_tx_en` outputs high (R332, R380): `enable` is set, the keeper is past boot step 8 and
the straps are right. -/
def State.lit (s : State) : Bool :=
  s.live && decide (9 ≤ s.boot.step) && bitAt (s.kreg 0x800) 0 && decide (s.boot.strapEngine ≤ s.boot.strapGsize)

/-- The six lasers go dark if they were lit (R332). -/
def State.darken (s : State) : State := if s.lit then (List.range 6).foldl (fun acc p => acc.send (.laser p false)) s else s

/-- Every state of the engine is discarded (R354) but for the queue of commands, what already left at the ports, the count
of free values, and the field lock, which stays set until power-off (R416). [DESIGN CHOICE, log 2] -/
def State.resetAll (s : State) : State :=
  let d := s.darken
  { State.reset with pending := d.pending, out := d.out, freeCtr := d.freeCtr, powered := d.powered, boot := { lock := d.boot.lock } }

/-- POR (R358): power is up and the power-on reset input is low. -/
def execPor (s : State) : Host.Outcome State Fault Refusal := .next { s.resetAll with powered := true }

/-- ENGINE_RESET (R358): the engine reset input is low. -/
def execEngineReset (s : State) : Host.Outcome State Fault Refusal := if s.powered then .next s.resetAll else .next s

/-- POWER_OFF (R354): nothing survives, the field lock included. -/
def execPowerOff (s : State) : Host.Outcome State Fault Refusal :=
  .next { s.resetAll with powered := false, boot := {} }

/-- RESET_RELEASE (R358, Table 16-1 step 1): both reset inputs are high; the keeper leaves reset with its counter at 0, the
straps are sampled, the field lock is set (R416). While a reset has not been asserted, nothing happens. [DESIGN CHOICE, log 3, 75] -/
def execResetRelease (engine gsize : BitVec 8) (s : State) : Host.Outcome State Fault Refusal :=
  if !s.powered || s.trip || s.boot.step != 0 then .next s
  else
    .next { s with kTick := 0, half := false,
                   boot := { step := 1, strapEngine := engine.toNat, strapGsize := gsize.toNat, lock := true } }

/-! Links at a reset. -/

/-- The state a module takes after training (R322). -/
def LinkMod.trained (m : LinkMod) : Nat :=
  let n := m.bad.length
  if n ≤ 2 ∧ m.half.isNone then 1 else if n ≤ 18 then 2 else 3

/-- The source of records about a receiving end: its slice, or the keeper. -/
def linkSource (l : Nat) : Nat := if l < 12 then l / 3 else 4

/-- Index of a module in the status registers of its receiving end (Table 14-3). -/
def statIndex (l m : Nat) : Nat :=
  if l < 12 then 8 * (l % 3) + m else if l < 16 then 4 * (l - 12) + m else if l < 22 then 16 + 4 * (l - 16) + m else 40 + (l - 22)

/-- Index of a direction in the link registers of its receiving end (Table 14-4). -/
def linkIndex (l : Nat) : Nat := if l < 12 then l % 3 else l - 12

/-- The pool slices at the ends of a link direction: the receiver's and the sender's, where they are pool slices. -/
def linkEnds (l : Nat) : Option Nat × Option Nat :=
  if l < 12 then (some (l / 3), if l % 3 = 0 then some ((l / 3 + 3) % 4) else if l % 3 = 1 then some ((l / 3 + 1) % 4) else none)
  else if l < 16 then (none, some (l - 12)) else (none, none)

/-- Whether an end that is a pool slice is not held in reset. -/
def State.endRuns (s : State) (e : Option Nat) : Bool :=
  match e with
  | some n => (s.slc n).run != 0
  | none => true

/-- A module takes a new state: an error record entry and a trace record (R324). [DESIGN CHOICE, log 44] -/
def State.modState (s : State) (l m st : Nat) : State :=
  ((s.modMod l m (fun k => { k with state := st })).errEntry (linkSource l) 0x10 1 (natLE 2 (statIndex l m) ++ natLE 1 st)).traceRec
    (linkSource l) 5 0 0 0 0 0 (natLE 2 (statIndex l m) ++ natLE 1 st)

/-- A module leaves the rotation and retrains (R321). -/
def State.retrain (s : State) (l m : Nat) : State :=
  (s.modMod l m (fun k => { k with retrains := satTo 255 (k.retrains + 1), fails := [], flits := 0 })).modState l m 0

/-- A direction goes down: an error record entry and a trace record of its receiver (R323, R324). -/
def State.linkDrop (s : State) (l : Nat) : State :=
  let s1 := s.modLink l (fun d => { d with down := true })
  if s.endRuns (linkEnds l).1 then
    (s1.errEntry (linkSource l) 0x11 1 (natLE 1 (linkIndex l))).traceRec (linkSource l) 5 0 0 0 0 0 (natLE 2 (linkIndex l) ++ [0, 1])
  else s1

/-- The training of a link direction ends: nothing on it is numbered yet; between two ends that run, each module whose lane checks have not
been reported takes the state its lanes allow, or is DISABLED where the training failed. With no module FULL or HALF the direction is
down (R321 to R324). -/
def State.linkTrain (s : State) (l : Nat) (fail : Bool) : State :=
  let ends := s.endRuns (linkEnds l).1 && s.endRuns (linkEnds l).2
  let s1 : State := { s with links := Tab.set s.links l {} }
  let s2 := if !ends then s1
    else (List.range (modulesOf l)).foldl (fun acc m =>
      if (acc.linkMod l m).state = 0 then acc.modState l m (if fail then 3 else (acc.linkMod l m).trained) else acc) s1
  if ends && (List.range (modulesOf l)).any (s2.carries l) then s2 else s2.linkDrop l

/-- The ends that have been reset, after one more has: none when both have (R322). -/
def bothReset (mask e : Nat) : Option Nat := if mask ||| e = 3 then none else some (mask ||| e)

/-- One end of a module has been reset, 1 the sender's, 2 the receiver's: what lasts until both have been goes (R322). -/
def LinkMod.endReset (k : LinkMod) (e : Nat) : LinkMod :=
  { k with bad := k.bad.filterMap (fun b => (bothReset b.2 e).map (fun m => (b.1, m))), half := k.half.bind (fun m => bothReset m e) }

/-- PSn enters reset (R322, R363): the modules it receives on return to their reset values, but for what both ends must be reset for; those that
it sends to lose lock and retrain. -/
def State.linkReset (s : State) (n : Nat) : State :=
  (List.range 16).foldl (fun acc l =>
    (List.range (modulesOf l)).foldl (fun a m =>
      if (linkEnds l).1 = some n then
        a.modMod l m (fun k => { (k.endReset 2) with state := 0, flits := 0, fails := [], crcErr := 0, retrains := 0, marginal := 0 })
      else if (linkEnds l).2 = some n then
        let b := a.modMod l m (fun k => k.endReset 1)
        if b.carries l m then b.retrain l m else b
      else a) acc) s

/-- The two directions of PSn's spoke: at the slice and at the keeper. -/
def spokeLinks (n : Nat) : List Nat := [3 * n + 2, 12 + n]

/-- The ring directions into and out of PSn. -/
def ringLinks (n : Nat) : List Nat := [3 * n, 3 * n + 1, 3 * ((n + 1) % 4), 3 * ((n + 3) % 4) + 1]

/-- A slice that is held in reset leaves no module of its ring links FULL, HALF or retraining: they are down, and traffic takes the detour
(R323, R361). -/
def State.ringDrop (s : State) (n : Nat) : State :=
  (ringLinks n).foldl (fun acc l =>
    if (acc.link l).down then acc
    else ((List.range (modulesOf l)).foldl (fun a m => if a.carries l m then a.modState l m 0 else a) acc).linkDrop l) s

/-! Boot. -/

/-- A slice that failed stays in reset, and boot continues without it (R361). [DEDUCED, log 42; DESIGN CHOICE, log 44] -/
def State.bootFail (s : State) (n : Nat) : State :=
  let s1 := s.modSlice n (fun l => { l with run := 0 })
  let b := { s1.boot with failed := true, failStep := if s1.boot.failStep = 0 then s1.boot.step else s1.boot.failStep }
  let s2 := ({ s1 with boot := b } : State).errEntry 4 0x27 4 (natLE 1 s1.boot.step ++ natLE 1 n)
  if 5 < s1.boot.step then s2.ringDrop n else s2

/-- The slices that fail at the present step: those that the low four bits of `result` name, and at step 3 those whose spoke is down. -/
def State.bootFails (s : State) (result : Nat) : State :=
  (List.range 4).foldl (fun acc n =>
    let spoke := s.boot.step == 3 && (spokeLinks n).any (fun l => (s.link l).down)
    if (bitAt result n || spoke) && acc.sliceUp n then acc.bootFail n else acc) s

/-- Go to a boot step. -/
def State.bootGo (s : State) (k : Nat) : State := { s with boot := { s.boot with step := k } }

/-- The end of step 3: the links of the keeper have trained. [DEDUCED, log 42] -/
def State.bootLinks (s : State) (result : Nat) : State :=
  let s1 := (List.range 4).foldl (fun acc n => (spokeLinks n).foldl (fun a l => a.linkTrain l (bitAt result n)) acc) s
  let s2 := (List.range 6).foldl (fun acc p => acc.linkTrain (16 + p) (bitAt result (16 + p))) s1
  (List.range 8).foldl (fun acc p => acc.linkTrain (22 + p) (bitAt result (8 + p))) s2

/-- The end of step 5: the ring links have trained, but for those of a slice held in reset. -/
def State.bootRing (s : State) (result : Nat) : State :=
  (List.range 12).foldl (fun acc l => if l % 3 = 2 then acc else acc.linkTrain l (bitAt result (24 + l))) s

/-- The pinned pages (Table 18-2): first page and count of each run. -/
def pinnedRuns : List (Nat × Nat) :=
  [(0x5F80, 128), (0xBFF7, 9), (0x11800, 2048), (0x17F80, 128), (0x29F80, 128), (0x3BF80, 128)]

/-- Whether a page is pinned. -/
def pinnedPage (p : Nat) : Bool := pinnedRuns.any (fun r => decide (r.1 ≤ p ∧ p < r.1 + r.2))

/-- The bias table of step 8: pinned pages pinned and in device bias, all others in host bias (R281). [DEDUCED, log 43] -/
def pinnedCells : List Host.Cell :=
  (pinnedRuns.flatMap (fun r => (List.range r.2).map (fun i => r.1 + i))).foldr (fun p l => putCell l (Config.biasBase + 4 * p) 3) []

/-- Hard repair of entry `i` (R313): a level 1 or 2 entry that is not hard becomes hard, or level 3 if the repair fails; either way the entry
is updated with the tick of the change, and vector 1 is raised (R312). [DEDUCED, log 43] -/
def State.hardRepair (s : State) (i : Nat) (fails : Bool) : State :=
  let a := retireAddr i
  let st := s.dev.num (a + 3) 1
  let k := s.dev.num a 1 % 16
  if !s.repairs i k || decide (12 ≤ k) || !s.sliceUp (k / 3) then s
  else
    let s0 := s.devPut (a + 8) (natLE 8 (s.slc (k / 3)).tick)
    if fails then
      let s1 := s0.devPut (a + 3) (natLE 1 (putBits st 1 0 3))
      let s2 : State := { s1 with boot := { s1.boot with repairsFailed := s1.boot.repairsFailed + 1 } }
      s2.errEntry 4 0x08 1 (s2.dev.bytes a 8)
    else
      let s1 := s0.devPut (a + 3) (natLE 1 (putBit st 2 true))
      ({ s1 with boot := { s1.boot with repairsDone := s1.boot.repairsDone + 1 } } : State).msix 1

/-- The DRAM row of an entry. -/
def State.retireRow (s : State) (i : Nat) : DRow :=
  let a := retireAddr i
  { pc := s.dev.num (a + 1) 1 % 64, bank := s.dev.num (a + 2) 1 % 64, drow := s.dev.num (a + 4) 2 % 16384 }

/-- The retired rows of stack `k` that the list names (R313: their moves are made afresh). [DEDUCED, log 43] -/
def State.restored (s : State) (k : Nat) : List DRow :=
  ((List.range (min s.retireCount 4096)).filter (fun i =>
    s.dev.num (retireAddr i) 1 % 16 == k && s.dev.num (retireAddr i + 3) 1 % 4 == 3)).map s.retireRow

/-- Step 11: `vat` leaves reset, the scrub begins. -/
def State.bootVats (s : State) : State :=
  let up := (List.range 4).foldl (fun acc n => if s.sliceUp n then acc + 2 ^ n else acc) 0
  { s with vats := [], boot := { s.boot with slices := up },
           chans := (List.range 12).map (fun k => (k, { (Tab.getD s.chans k {}) with passStart := (s.slc (k / 3)).tick, retired := s.restored k })) }

/-- Step 12: `ready` is set, the capability table is fixed (R246); wrong straps are an engine error (R380). [DEDUCED, log 43] -/
def State.bootReady (s : State) : State :=
  let s1 := { (s.bootGo 12) with boot := { (s.bootGo 12).boot with ready := true } }
  let s2 := s1.writeCaps.setKreg 0 Config.capPtr
  if s2.boot.strapGsize < s2.boot.strapEngine then s2.errEntry 4 0x28 2 [] else s2

/-- PS0 has failed: the boot stops, after step 7 at the earliest, and the host ports of the other slices assert ready (R361). -/
def State.bootStop (s : State) : State :=
  ({ s with boot := { s.boot with halted := true, rstFail := true } } : State).msixFlush

/-- The end of a boot step and the start of the next (Table 16-1). [DEDUCED, log 42; DESIGN CHOICE, log 5, 75] -/
def State.bootStep (s : State) (result : Nat) : State :=
  match s.boot.step with
  | 1 => s.bootGo 2
  | 2 =>
    if bitAt result 4 then ({ s with boot := { s.boot with halted := true, rstFail := true } } : State).errEntry 4 0x27 4 [2]
    else (({ s with slices := s.slices.map (fun l => { l with run := 2 }) } : State).bootGo 3)
  | 3 => ((s.bootLinks result).bootFails result).bootGo 4
  | 4 =>
    ((({ s with slices := s.slices.map (fun l => if l.run = 2 then { l with tick := s.kTick, lastLoad := s.kTick } else l) } : State).bootFails
      result).bootGo 5)
  | 5 => ((s.bootFails result).bootRing result).bootGo 6
  | 6 => (s.bootFails result).bootGo 7
  | 7 =>
    let s1 := ({ s with dev := {} } : State).bootFails result
    if s1.sliceUp 0 then s1.bootGo 8 else s1.bootStop
  | 8 =>
    let s1 := ({ s with dev := { cells := pinnedCells } } : State).bootFails result
    if s1.sliceUp 0 then (s1.bootGo 9).msixFlush else s1.bootStop
  | 10 =>
    (((List.range (min s.retireCount 4096)).foldl (fun acc i => acc.hardRepair i (bitAt result i)) s).bootGo 11).memRelease
  | 11 =>
    let s1 := s.bootFails result
    if s1.sliceUp 0 then s1.bootVats.bootReady else s1.bootStop
  | _ => s

/-- BOOT_STEP_DONE (R359, R361). -/
def execBootStepDone (result : Nat) (s : State) : Host.Outcome State Fault Refusal :=
  if !s.live || s.boot.halted then .next s else .next (s.bootStep result)

/-- A write of `KPR_BOOT_CTL` at step 9 (R360); at any other step it is ignored. [DEDUCED, log 43] -/
def State.bootCtl (s : State) (port : Nat) (repair skip : Bool) : State :=
  if !s.portUp port || s.boot.step != 9 then s
  else if repair then s.bootGo 10
  else if skip then (s.setKreg 0x130 0).bootGo 11
  else s

/-- BOOT_REPAIR (R360). -/
def execBootRepair (port : Fin 4) (s : State) : Host.Outcome State Fault Refusal := .next (s.bootCtl port.val true false)
/-- BOOT_SKIP (R360). -/
def execBootSkip (port : Fin 4) (s : State) : Host.Outcome State Fault Refusal := .next (s.bootCtl port.val false true)

/-! Slice restart. -/

/-- A step of a restart begins: trace kind 10. -/
def State.restartGo (s : State) (n k : Nat) : State :=
  (s.modSlice n (fun l => { l with rstep := k })).traceRec 4 10 0 0 0 0 0 (natLE 1 n ++ natLE 1 k)

/-- Begin the next restart that waits, if none runs (R362). -/
def State.restartNext (s : State) : State :=
  if s.slices.any (fun l => l.run == 1) then s
  else match s.restartQ with
    | [] => s
    | (n, trig) :: r =>
      let s1 := ({ s with restartQ := r } : State).modSlice n (fun l => { l with run := 1 })
      (s1.errEntry 4 0x20 1 (natLE 1 n ++ natLE 1 trig)).restartGo n 1

/-- A trigger for slice `n`, 0 a register write, 1 its spoke going down, 2 an internal fault, which the error record names first (code 0x22):
ignored while it restarts, waits for its restart, or is held in reset (R362). [DEDUCED, log 46] -/
def State.restartTrigger (s : State) (n trig : Nat) : State :=
  if !s.sliceUp n || s.restartQ.any (fun p => p.1 == n) then s
  else
    let s1 := if trig = 2 then s.errEntry n 0x22 3 (natLE 1 n) else s
    ({ s1 with restartQ := s1.restartQ ++ [(n, trig)] } : State).restartNext

/-- SLICE_RESTART (R362): trigger 0 is a register write, which a host port carries. -/
def execSliceRestart (slice : Fin 4) (trigger : Fin 3) (s : State) : Host.Outcome State Fault Refusal :=
  if !s.live || (trigger.val == 0 && !s.hostReady) then .next s else .next (s.restartTrigger slice.val trigger.val)

/-- The commands admitted on PSn are lost: no record, no signal (Table 16-5). [DEDUCED, log 45] -/
def State.loseCmds (s : State) (n : Nat) : State :=
  let gone := s.cmds.filter (fun p => p.2.slice == n)
  let hs := gone.map Prod.fst
  let keep : Option Nat → Bool := fun o => match o with
    | some h => hs.contains h
    | none => false
  let of' := fun (op : Nat) => (gone.filter (fun p => p.2.opcode == op && !p.2.ended)).map (fun p => p.2.table)
  let closed := (s.tables.filter (fun t => t.2.closing && (of' 0x22).contains t.1)).map Prod.fst
  let s1 : State := { s with
    cmds := s.cmds.filter (fun p => p.2.slice != n),
    fenceQ := s.fenceQ.filter (fun g => !keep g.h),
    peerReqs := s.peerReqs.filter (fun r => !hs.contains r.h),
    tables := s.tables.map (fun t => (t.1, if (of' 8).contains t.1 then { t.2 with newReps := [], newSets := [] } else t.2)) }
  let s2 := closed.foldl (fun acc0 t =>
    let acc := (((Tab.get? acc0.tables t).map Table.stalled).getD []).foldl (fun a k => a.toPeer k.1.engine (.reply k.2 .refused))
      (acc0.discardWaiting t).1
    { (acc.dropTable t (((Tab.get? acc.tables t).map (fun x => x.layer.replacing)).getD false)) with
      adopt := acc.adopt.filter (fun a => a.table != t), drains := acc.drains.filter (fun d => d.table != t) }) s1
  let held := s2.tables.any (fun t => s2.staging == 2 + t.1 && !t.2.layer.replacing)
  let s3 : State := if held then { s2 with staging := 0 } else s2
  gone.foldl (fun acc p => (acc.release (.cmd p.1)).planRelease p.2.plan) s3

/-- The contributions buffered at PSn are lost: each open step that had some is named in the error record (R364); those
that wait for room there count as absent, and peers' are refused. [DEDUCED, log 45] -/
def State.loseContribs (s : State) (n : Nat) : State :=
  let s1 := s.tables.foldl (fun acc t =>
    let steps := nubNat ((t.2.contribs.filter (fun k => k.owner == n)).map (fun k => k.step.toNat))
    let a1 := acc.modTable t.1 (fun x => { x with
      contribs := x.contribs.filter (fun k => k.owner != n), stalled := x.stalled.filter (fun k => k.1.owner != n),
      lostSteps := x.lostSteps ++ steps.map (BitVec.ofNat 64) })
    let a2 := (t.2.stalled.filter (fun k => k.1.owner == n)).foldl (fun a k => a.toPeer k.1.engine (.reply k.2 .refused)) a1
    steps.foldl (fun a w => a.errEntry 4 0x21 2 (natLE 2 t.1 ++ natLE 8 w)) a2)
    { s with work := s.work.filter (fun w => match w.act with
        | .spill _ => sliceOf w.addr != n
        | _ => true) }
  s1.cmds.foldl (fun acc p =>
    let k := (p.2.waiting.filter (fun w => w.owner == n)).length
    if k = 0 then acc
    else (acc.modCmd p.1 (fun d => { d with waiting := d.waiting.filter (fun w => w.owner != n), c1 := d.c1 + k })).scatterEnd p.1) s1

/-- Results that waited in PSn's vats are absent; their commands end without them. [DEDUCED, log 45] -/
def State.loseVats (s : State) (n : Nat) : State :=
  let s1 : State := { s with vats := s.vats.filter (fun p => p.1 / 16 != n) }
  s1.cmds.foldl (fun acc p =>
    if p.2.ended || !p.2.held.any (fun w => w.1 / 16 == n) then acc
    else
      let rest := p.2.held.filter (fun w => w.1 / 16 != n)
      let a1 := acc.modCmd p.1 (fun d => { d with held := rest, status := if completeClass d.status then 3 else d.status })
      if rest.isEmpty then (a1.endCmd p.1 id).release (.cmd p.1) else a1) s1

/-- Requests of PSn's host port are lost, and what waited for them goes on. [DEDUCED, log 45] -/
def State.losePort (s : State) (n : Nat) : State :=
  let f := s.flushes.map (fun f => { f with waits := f.waits.filter (fun w => w.1 != n) })
  let bias := match s.biasReq with
    | some b => some (if sliceOf (2097152 * b.page) = n then { b with asked := 0, granted := 0 } else b)
    | none => none
  let s1 : State := { s with
    hostWr := s.hostWr.filter (fun w => w.slice != n), lineReqs := s.lineReqs.filter (fun r => r.slice != n),
    atsReqs := s.atsReqs.filter (fun r => r.slice != n), invals := s.invals.filter (fun v => v.port != n), biasReq := bias,
    flushes := f.filter (fun x => x.port != n && !x.waits.isEmpty) }
  (f.filter (fun x => x.port != n && x.waits.isEmpty)).foldl State.flushDone s1

/-- The slice itself: all that it keeps but its tick, its layers with empty hot sets, and its loss state, which the keeper
restores (Table 16-4 step 8). [DEDUCED, log 45] -/
def State.loseSlice (s : State) (n : Nat) : State :=
  let s1 := s.modSlice n (fun l =>
    { tick := l.tick, lastLoad := l.lastLoad, run := l.run, rstep := l.rstep, loss := l.loss, window := l.window,
      layers := l.layers })
  let empty := fun (y : Layer) => { y with hots := y.hots.set n [] }
  { s1 with
    chans := s1.chans.map (fun c => (c.1, if c.1 / 3 = n then { c.2 with tg := none } else c.2)),
    slices := s1.slices.map (fun l => { l with layers := l.layers.map (fun y => (y.1, empty y.2)) }),
    sqs := s1.sqs.filter (fun p => p.2.slice != n), cdc := s1.cdc.filter (fun p => p.1 / 16 != n),
    adopt := s1.adopt.map (fun a => { a with layer := empty a.layer, oldHots := a.oldHots.set n [] }),
    tables := s1.tables.map (fun t => (t.1, { t.2 with layer := empty t.2.layer })) }

/-- The end of step 3: what Table 16-5 says of PSn. [DEDUCED, log 45] -/
def State.sliceLost (s : State) (n : Nat) : State :=
  (((((s.loseCmds n).loseContribs n).loseVats n).losePort n).loseSlice n).linkReset n

/-- Append the held entries to the row-retire list (R365). [DEDUCED, log 48] -/
def State.retireHeld (s : State) : State :=
  let s1 := s.retirePend.foldl (fun acc e =>
    (acc.devPut (retireAddr e.1) e.2).setKreg 0x130 (max (acc.kreg 0x130) (e.1 + 1))) s
  { s1 with retirePend := [] }

/-- Step 8 is done: the slice is in. With PS0 the services it holds go on (R365), and the copy of the capability table takes the presence
words that changed meanwhile (R246, R288). -/
def State.sliceIn (s : State) (n : Nat) : State :=
  let s1 := s.modSlice n (fun l => { l with run := 2, rstep := 0 })
  let s2 :=
    if n = 0 then
      let s0 := s1.retireHeld
      let s3 := (if s0.boot.ready then s0.writeCaps else s0).mgmtDrain 16
      match s3.biasWait with
      | b :: r => ({ s3 with biasWait := r } : State).biasBegin b
      | [] => s3
    else s1
  let s4 := match s2.biasReq with
    | some b => s2.biasGo (b.count + 1)
    | none => s2
  s4.restartNext

/-- The end of a restart step (Table 16-4). [DEDUCED, log 46] -/
def State.restartStep (s : State) (n result : Nat) : State :=
  match (s.slc n).rstep with
  | 3 => (s.sliceLost n).restartGo n 4
  | 4 =>
    let s1 := (spokeLinks n).foldl (fun acc l => acc.linkTrain l (bitAt result 0)) s
    if (spokeLinks n).any (fun l => (s1.link l).down) then
      ((s1.modSlice n (fun l => { l with run := 0, rstep := 0 })).ringDrop n).restartNext
    else
      let k := s1.kTick
      (s1.modSlice n (fun l => { l with tick := k + cdiv (k - l.lastLoad) 999, lastLoad := k })).restartGo n 5
  | 5 => ((ringLinks n).zipIdx.foldl (fun acc l => acc.linkTrain l.1 (bitAt result l.2)) s).restartGo n 6
  | 7 => ({ s with vats := s.vats.filter (fun p => p.1 / 16 != n) } : State).restartGo n 8
  | 8 => s.sliceIn n
  | k => s.restartGo n (k + 1)

/-- RESTART_STEP_DONE (R363). -/
def execRestartStepDone (slice : Fin 4) (result : Nat) (s : State) : Host.Outcome State Fault Refusal :=
  if !s.live || (s.slc slice.val).run != 1 then .next s else .next (s.restartStep slice.val result)

end Sys2Proof.Machine
end

