-- ==== Sys2Proof/Machine/Cdc.lean ====
section
/-! DEFINITION. Dual-clock queues (15_clock_crossings_queues.md). Queue 16 n + i is the i-th of the fourteen queues of Table 15-2 at
PSn, each of `mc0` to `mc2` having its own three. A write is a producer edge, a read or a drop a consumer edge, and a cycle in
which nothing is commanded is one edge on each side. -/

namespace Sys2Proof.Machine

open Sys2Proof

/-- Write width, read width and the exponent of the number of entries (Table 15-2). -/
def cdcShape (kind : Nat) : Nat × Nat × Nat :=
  if kind = 0 then (64, 64, 8)
  else if kind < 4 then (16, 16, 9)
  else if kind < 7 then (32, 128, 8)
  else if kind < 10 then (128, 128, 7)
  else if kind = 10 then (250, 250, 9)
  else if kind = 11 then (128, 128, 8)
  else if kind = 12 then (500, 1000, 6)
  else (32, 64, 6)

/-- The producer's and the consumer's domain (Table 15-2). -/
def cdcEnds (kind : Nat) : Domain × Domain :=
  if kind = 0 then (.host, .seq)
  else if kind < 4 then (.seq, .mc)
  else if kind < 7 then (.mc, .vat)
  else if kind < 10 then (.vat, .mc)
  else if kind = 10 then (.ring, .vat)
  else if kind = 11 then (.vat, .host)
  else if kind = 12 then (.spoke, .mgmt)
  else (.seq, .trace)

/-- Queue `q`, and its replacement. -/
def State.queue (s : State) (q : Nat) : Cdc := Tab.getD s.cdc q {}
def State.setQueue (s : State) (q : Nat) (c : Cdc) : State := { s with cdc := Tab.set s.cdc q c }

/-- Whether a queue exists. -/
def cdcOk (q : Nat) : Bool := decide (q < 64 ∧ q % 16 < 14)

/-- Whether an end of a queue is out of reset: the keeper's end is held in reset while the slice is (R352). -/
def State.cdcEnd (s : State) (q : Nat) (d : Domain) : Bool :=
  s.domUp (q / 16) d && (if d = .mgmt ∨ d = .trace then s.domUp (q / 16) (if d = .mgmt then .spoke else .seq) else true)

/-- Whether the producer's end is out of reset. -/
def State.writerUp (s : State) (q : Nat) : Bool := cdcOk q && s.cdcEnd q (cdcEnds (q % 16)).1

/-- Whether the consumer's end is out of reset. -/
def State.readerUp (s : State) (q : Nat) : Bool := cdcOk q && s.cdcEnd q (cdcEnds (q % 16)).2

/-- The pointers count modulo twice the number of entries. -/
def ptrMod (q : Nat) : Nat := 2 ^ ((cdcShape (q % 16)).2.2 + 1)

/-- The Gray code of a pointer (R344). -/
def gray (b : Nat) : Nat := b ^^^ (b / 2)

/-- Full, on the producer side (R345): the two Gray codes differ in their two most significant bits and in no other. -/
def Cdc.full (c : Cdc) (q : Nat) : Bool := (c.wGray ^^^ c.rSync.2) == 3 * (ptrMod q / 4)

/-- Empty, on the consumer side (R345). -/
def Cdc.empty (c : Cdc) : Bool := c.rGray == c.wSync.2

/-- A producer edge: the read pointer's Gray code `r` moves into the two flip-flops. [DESIGN CHOICE, log 60] -/
def Cdc.writeEdge (c : Cdc) (r : Nat) : Cdc := { c with rSync := (r, c.rSync.1) }

/-- A consumer edge. [DESIGN CHOICE, log 60] -/
def Cdc.readEdge (c : Cdc) (w : Nat) : Cdc := { c with wSync := (w, c.wSync.1) }

/-- No word. -/
def noWord : QWord := { data := [], vbytes := 0, eop := false, psec := 0 }

/-- A wide word of the narrow words that fill it (R347, R348). [DESIGN CHOICE, log 60] -/
def wideWord (q : Nat) (l : List QWord) : QWord :=
  let sh := cdcShape (q % 16)
  let n := sh.1
  let ps := (List.range (sh.2.1 / 32 + 1)).foldl (fun acc i =>
    if (List.range l.length).any (fun j => ((l.getD j noWord).psec != 0) &&
        decide (j * n < 32 * i + 32 ∧ 32 * i < j * n + n)) then acc + 2 ^ i else acc) 0
  { data := padTo sh.2.1 0 (l.flatMap (fun w => padTo n 0 (w.data.take w.vbytes))), vbytes := (l.map QWord.vbytes).sum,
    eop := (l.getLast?.map QWord.eop).getD false,
    psec := if sh.1 = sh.2.1 then (l.headD noWord).psec % 2 ^ ((n + 31) / 32) else ps }

/-- A narrow word enters a queue that is not full: it joins the wide word being packed, which is complete when it is filled or a packet
ends (R347). -/
def Cdc.push (c : Cdc) (q : Nat) (w : QWord) : Cdc :=
  let sh := cdcShape (q % 16)
  let pack := c.pack ++ [w]
  if w.eop || pack.length * sh.1 == sh.2.1 then
    let p := (c.wptr + 1) % ptrMod q
    { c with pack := [], entries := Tab.set c.entries (c.wptr % (ptrMod q / 2)) (wideWord q pack), wptr := p, wGray := gray p }
  else { c with pack := pack }

/-- What the producer presents in a cycle: the oldest word that it holds; a word that finds the queue full, or its other end in
reset, is held and presented again (R350, R352). -/
def Cdc.present (c : Cdc) (q : Nat) (up : Bool) : Cdc :=
  match c.held with
  | [] => c
  | w :: r => if !up || c.full q then c else { c.push q w with held := r }

/-- QUEUE_WRITE (R344, R347, R348, R350): a write to a full queue, or to one whose other end is in reset, does not complete in this cycle: the
word and its tag are held. To a producer that is in reset nothing is written. [DESIGN CHOICE, log 60] -/
def execQueueWrite (queue : Nat) (word : List Byte) (vbytes : Nat) (psec : Nat) (last : Bool) (s : State) :
    Host.Outcome State Fault Refusal :=
  if !s.writerUp queue then .next s
  else
    let c := s.queue queue
    let n := (cdcShape (queue % 16)).1
    let w : QWord := { data := padTo n 0 word, vbytes := if last then min vbytes n else n, eop := last, psec := psec }
    .next (s.setQueue queue ((({ c with held := c.held ++ [w] } : Cdc).present queue (s.readerUp queue)).writeEdge c.rGray))

/-- The tag of a word (Table 15-3), and that of a not-valid one (R349). -/
def queueTag (w : QWord) : Nat := w.vbytes + (if w.eop then 2 ^ 14 else 0) + w.psec * 2 ^ 16

/-- A not-valid word. -/
def State.notValid (s : State) (q : Nat) : State := s.send (.queueWord q (List.replicate (cdcShape (q % 16)).2.1 0) (2 ^ 15))

/-- The entry at the read pointer leaves the queue. -/
def Cdc.pop (c : Cdc) (q : Nat) : Cdc :=
  let p := (c.rptr + 1) % ptrMod q
  { c with rptr := p, rGray := gray p, entries := Tab.erase c.entries (c.rptr % (ptrMod q / 2)) }

/-- The entry at the read pointer. -/
def Cdc.head (c : Cdc) (q : Nat) : QWord := Tab.getD c.entries (c.rptr % (ptrMod q / 2)) noWord

/-- A queue that drops discards the entry at the read pointer as it becomes readable; the packet's last one ends the drop (R351). -/
def Cdc.discard (c : Cdc) (q : Nat) : Cdc :=
  if !c.dropping || c.empty then c
  else if (c.head q).eop then { (c.pop q) with dropping := false, inPkt := false } else c.pop q

/-- QUEUE_READ (R349, R351): the word at the read pointer, or a not-valid one of an empty or dropping queue, or of one whose producer is in
reset (R352). [DESIGN CHOICE, log 60] -/
def execQueueRead (queue : Nat) (s : State) : Host.Outcome State Fault Refusal :=
  if !cdcOk queue then .next s
  else if !s.readerUp queue || !s.writerUp queue then .next (s.notValid queue)
  else
    let c := s.queue queue
    if c.dropping then .next ((s.setQueue queue ((c.discard queue).readEdge c.wGray)).notValid queue)
    else if c.empty then .next ((s.setQueue queue (c.readEdge c.wGray)).notValid queue)
    else
      let w := c.head queue
      .next ((s.setQueue queue { ((c.pop queue).readEdge c.wGray) with inPkt := !w.eop }).send (.queueWord queue w.data (queueTag w)))

/-- QUEUE_DROP (R351): the rest of the current packet goes; without one the request is ignored and counted. [DESIGN CHOICE, log 60] -/
def execQueueDrop (queue : Nat) (s : State) : Host.Outcome State Fault Refusal :=
  if !s.readerUp queue then .next s
  else
    let c := s.queue queue
    if !s.writerUp queue then .next (if c.inPkt then s.setQueue queue { c with dropping := true } else s.addSreg (queue / 16) 0x4100 1)
    else if c.dropping || c.inPkt then .next (s.setQueue queue ((({ c with dropping := true } : Cdc).discard queue).readEdge c.wGray))
    else .next ((s.setQueue queue (c.readEdge c.wGray)).addSreg (queue / 16) 0x4100 1)

/-- One cycle of a queue in which neither side is commanded: each side that runs samples the other's pointer, a word that the producer
holds is presented, and a drop goes on (R346, R350, R351). [DESIGN CHOICE, log 60] -/
def State.cdcCycle (s : State) (q : Nat) : State :=
  match Tab.get? s.cdc q with
  | none => s
  | some c =>
    let wr := s.writerUp q
    let rd := s.readerUp q
    let c1 := if wr then (c.present q rd).writeEdge c.rGray else c
    let c2 := if rd then (if wr then c1.discard q else c1).readEdge c.wGray else c1
    s.setQueue q c2

end Sys2Proof.Machine
end

