-- ==== Sys2Proof/Machine/Channel.lean ====
section
/-! DEFINITION. Memory channels (13_memory_channels.md): the stack interleave, sector reads, patrol, repair and retirement of
DRAM rows, temperature, the split, the traffic generator. -/

namespace Sys2Proof.Machine

open Sys2Proof

/-! The stack interleave. -/

/-- The DRAM row and column block of a stack offset (R295). -/
def placeOf (o : Nat) : DRow × Nat :=
  let g := o / 256
  ({ pc := bits g 5 0 ^^^ bits g 13 8, bank := bits g 13 8 ^^^ bits g 19 14 ^^^ bits g 25 20, drow := bits g 27 14 }, bits g 7 6)

/-- The granule of a DRAM row and column block: the inverse of R295's map. -/
def granuleOf (d : DRow) (col : Nat) : Nat :=
  let h := d.bank ^^^ bits d.drow 5 0 ^^^ bits d.drow 11 6
  (d.pc ^^^ h) + col * 64 + h * 256 + d.drow * 16384

/-- The four granules of a DRAM row as device addresses. -/
def granulesOf (k : Nat) (d : DRow) : List Nat := (List.range 4).map (fun c => k * Config.stackBytes + 256 * granuleOf d c)

/-- The 32 sectors of a DRAM row by number. -/
def sectorsOf (k : Nat) (d : DRow) : List Nat := (granulesOf k d).flatMap (fun a => (List.range 8).map (fun i => a / 32 + i))

/-- Change the channel of stack `k`. -/
def State.modChan (s : State) (k : Nat) (f : Chan → Chan) : State := { s with chans := Tab.set s.chans k (f (s.chan k)) }

/-! Marks and sector reads. -/

/-- Mark a DRAM row for repair (R308); one that is marked already keeps its place, one that is retired stays as it is. -/
def State.markRow (s : State) (k : Nat) (d : DRow) (unc : Bool) : State :=
  let c := s.chan k
  if c.retired.contains d || c.marks.any (fun m => m.1 == d) then s else s.modChan k (fun c => { c with marks := c.marks ++ [(d, unc)] })

/-- An uncorrectable sector at stack offset `o`: it reads poisoned from now on, its row is marked, an entry is made (R304,
R308, Table 19-9). -/
def State.uncorrectable (s : State) (k o : Nat) : State :=
  let a := k * Config.stackBytes + o
  let s1 : State := { s with dev := { s.dev with bad := insNat s.dev.bad (a / 32) } }
  (((s1.markRow k (placeOf o).1 true).countMc k 7).errEntry (k / 3) 0x01 2 (natLE 1 k ++ natLE 8 a))

/-- Whether a sector that the patrol wrote back is met before the patrol reads it again (R308). [DEDUCED, log 49] -/
def Chan.again (c : Chan) (sec : Nat) : Bool := c.fixed.contains sec || c.fixedBefore.contains sec

/-- A parity error that its retry met too (Table 13-1): the retry is counted, the error is recorded, the access sees an uncorrectable sector,
and the row is marked (Table 19-9). [DEDUCED, log 99] -/
def State.parityError (s : State) (k o : Nat) : State :=
  let a := k * Config.stackBytes + o
  let s1 := s.countMc k 9
  let s2 : State := { s1 with dev := { s1.dev with bad := insNat s1.dev.bad (a / 32) } }
  (s2.markRow k (placeOf o).1 true).errEntry (k / 3) 0x02 2 (natLE 1 k ++ natLE 8 a)

/-- The outcome of a read of the sector at a stack offset, but for what a correction leads to: an error beside the poison marking reads
uncorrectable (R304, R305). [DESIGN CHOICE, log 27] -/
def State.sectorSeen (s : State) (k o : Nat) (r : SectorResult) : State :=
  let a := k * Config.stackBytes + o
  match r with
  | .clean => if s.dev.sector (a / 32) = 4 then s.countMc k 8 else s
  | .corrected => if s.dev.sector (a / 32) = 4 then s.uncorrectable k o else s.countMc k 6
  | .uncorrectable => s.uncorrectable k o
  | .escaped =>
    if s.dev.sector (a / 32) ≠ 0 then s
    else { (s.devPut (a / 32 * 32) (s.freeBytes 32)) with freeCtr := s.freeCtr + 32 }
  | .parity => s.parityError k o

/-- Whether a read corrected a sector: a poisoned one reads uncorrectable instead (R305). -/
def State.corrects (s : State) (k o : Nat) (r : SectorResult) : Bool :=
  r == .corrected && s.dev.sector ((k * Config.stackBytes + o) / 32) != 4

/-- SECTOR_READ (R304, R305, R308): the outcome of a read of the sector at a stack offset; a retry after a parity error is counted (R292). -/
def execSectorRead (stack : Fin 12) (offset : Nat) (result : SectorResult) (retried : Bool) (s : State) : Host.Outcome State Fault Refusal :=
  let k := stack.val
  if !s.sliceUp (k / 3) || decide (Config.stackBytes ≤ offset) then .next s
  else
    let s0 := if retried && result != .parity then s.countMc k 9 else s
    let s1 := s0.sectorSeen k offset result
    if s.corrects k offset result && (s.chan k).again ((k * Config.stackBytes + offset) / 32) then .next (s1.markRow k (placeOf offset).1 false)
    else .next s1

/-! The patrol. -/

/-- Sectors of a stack. -/
abbrev stackSectors : Nat := 1610612736

/-- The patrol goes on to the next sector; after the last a new pass begins (R307). [DEDUCED, log 51] -/
def State.patrolOn (s : State) (k : Nat) : State :=
  let c := s.chan k
  let sec := k * stackSectors + c.patrol
  if c.patrol + 1 < stackSectors then
    s.modChan k (fun c => { c with patrol := c.patrol + 1, fixedBefore := delNat c.fixedBefore sec })
  else
    s.modChan k (fun c => { c with patrol := 0, passStart := (s.slc (k / 3)).tick, fixedBefore := c.fixed, fixed := [], late := false })

/-- Corrected sectors of one DRAM row in this pass. [DEDUCED, log 49] -/
def fixedIn (k : Nat) (fixed : List Nat) (d : DRow) : Nat := (fixed.filter (fun x => (sectorsOf k d).contains x)).length

/-- The patrol corrected the sector it read and writes it back (R307, R308). [DEDUCED, log 49] -/
def State.patrolFix (s : State) (k : Nat) : State :=
  let c := s.chan k
  let d := (placeOf (32 * c.patrol)).1
  let fixed := insNat c.fixed (k * stackSectors + c.patrol)
  let s1 := s.modChan k (fun c => { c with fixed := fixed })
  if 3 ≤ fixedIn k fixed d then s1.markRow k d false else s1

/-- SCRUB_PATROL (R307): the patrol's next sector; from boot step 11, and not in T3 (R302). -/
def execScrubPatrol (stack : Fin 12) (result : SectorResult) (s : State) : Host.Outcome State Fault Refusal :=
  let k := stack.val
  let c := s.chan k
  if !s.sliceUp (k / 3) || !s.boot.ready || c.state == 3 then .next s
  else
    let s1 := s.sectorSeen k (32 * c.patrol) result
    .next ((if s.corrects k (32 * c.patrol) result then s1.patrolFix k else s1).patrolOn k)

/-- SCRUB_LATE (R307): a pass that has lasted 12 hours is recorded once, and goes on. -/
def execScrubLate (stack : Fin 12) (s : State) : Host.Outcome State Fault Refusal :=
  let k := stack.val
  let c := s.chan k
  if s.sliceUp (k / 3) && s.boot.ready && !c.late && decide (c.passStart + 43200000000000 ≤ (s.slc (k / 3)).tick) then
    .next ((s.modChan k (fun c => { c with late := true })).errEntry (k / 3) 0x07 0 (natLE 1 k))
  else .next s

/-! Repair. -/

/-- The bytes of a row-retire list entry (Table 13-6). -/
def retireBytes (k : Nat) (d : DRow) (level : Nat) (unc : Bool) (tick : Nat) : List Byte :=
  natLE 1 k ++ natLE 1 d.pc ++ natLE 1 d.bank ++ natLE 1 (level + (if unc then 8 else 0)) ++ natLE 2 d.drow ++ [0, 0] ++ natLE 8 tick

/-- Bytes of entry `i`, held ones before those in the list. [DEDUCED, log 48] -/
def State.retireEntry (s : State) (i : Nat) : List Byte :=
  match s.retirePend.reverse.find? (fun e => e.1 == i) with
  | some e => e.2
  | none => s.dev.bytes (retireAddr i) 16

/-- Entries in use with those held. -/
def State.retireUsed (s : State) : Nat := (s.retirePend.map (fun e => e.1 + 1)).foldl max s.retireCount

/-- The entry of a DRAM row, if it has one. -/
def State.retireFind (s : State) (k : Nat) (d : DRow) : Option Nat :=
  (List.range s.retireUsed).find? (fun i =>
    let e := s.retireEntry i
    field e 0 1 % 16 == k && field e 1 1 % 64 == d.pc && field e 2 1 % 64 == d.bank && field e 4 2 % 16384 == d.drow)

/-- Put entry `i`; while PS0 restarts it is held (R365). [DEDUCED, log 48] -/
def State.retirePut (s : State) (i : Nat) (e : List Byte) : State :=
  if s.sliceUp 0 then (s.devPut (retireAddr i) e).setKreg 0x130 (max s.retireCount (i + 1))
  else { s with retirePend := s.retirePend ++ [(i, e)] }

/-- Repair resources of a bank group that are free (R292, R309). [DESIGN CHOICE, log 29] -/
def State.repairFree (s : State) (k : Nat) (d : DRow) : Bool :=
  let g := d.pc * 16 + d.bank / 4
  decide (Tab.getD (s.chan k).used g 0 < 2 + Config.repairSpare k g)

/-- Remap a DRAM row with a resource of its bank group (R309): its sectors are kept, uncorrectable ones poisoned. [DEDUCED, log 48] -/
def State.remap (s : State) (k : Nat) (d : DRow) : State :=
  let hurt := (sectorsOf k d).filter (fun x => s.dev.bad.contains x)
  let g := d.pc * 16 + d.bank / 4
  let s1 : State := { s with dev := hurt.foldl (fun m x => m.mark x true) s.dev }
  s1.modChan k (fun c => { c with used := Tab.set c.used g (Tab.getD c.used g 0 + 1) })

/-- Whether two ranges of addresses meet. -/
def meets (a n b m : Nat) : Bool := decide (a < b + m ∧ b < a + n)

/-- The rows of table `num`, owned on stack `k` of this engine, with a byte in a DRAM row (R311). -/
def State.rowsIn (s : State) (num : Nat) (t : Table) (k : Nat) (d : DRow) : List Nat :=
  (List.range t.rows).filter (fun r =>
    let l := t.owner t.layer num r
    l.engine == s.self && l.stack == k && (granulesOf k d).any (fun a => meets (t.addrOf l false) t.stored a 256))

/-- The owner descriptor of stack `k` of this engine. -/
def State.descOf (s : State) (k : Nat) : Nat := s.self % 256 + k / 3 * 256 + k % 3 * 1024

/-- The moves of rows off a DRAM row, each to the lowest free override slot of its stack, beside the moves `before`; rows without a slot are left
(R311). [DEDUCED, log 50] -/
def State.retireMoves (s : State) (num : Nat) (t : Table) (k : Nat) (d : DRow) (before : List Ovr) : List Ovr :=
  ((s.rowsIn num t k d).filter (fun r => !before.any (fun m => m.row == r))).foldl (fun acc r =>
    let used := s.slotsUsed num t k ++ (before ++ acc).map Ovr.slot
    let m : Ovr := { row := r, owner := s.descOf k, slot := ((List.range t.ovrSlots).find? (fun v => !used.contains v)).getD t.ovrSlots }
    if m.slot < t.ovrSlots ∧ (mergeMoves t.layer.ovr (before ++ acc ++ [m])).length ≤ Config.overridesMax then acc ++ [m] else acc) []

/-- Retire a DRAM row (R311): it stays in service; the entry tells how many rows move, how many stay, and its first granule
(the others lie 16 KiB apart). [DESIGN CHOICE, log 44] -/
def State.retireRowNow (s : State) (k : Nat) (d : DRow) : State :=
  let rows := (s.tables.map (fun p => (s.rowsIn p.1 p.2 k d).length)).sum
  let moved := (s.tables.map (fun p => (s.retireMoves p.1 p.2 k d []).length)).sum
  (s.modChan k (fun c => { c with retired := c.retired ++ [d] })).errEntry (k / 3) 0x05 2
    (natLE 2 moved ++ natLE 2 (rows - moved) ++ natLE 8 ((granulesOf k d).headD 0))

/-- REPAIR (R309, R310, R312): the oldest marked row of a stack. [DEDUCED, log 48] -/
def execRepair (stack : Fin 12) (s : State) : Host.Outcome State Fault Refusal :=
  let k := stack.val
  match (s.chan k).marks with
  | [] => .next s
  | (d, unc) :: rest =>
    if !s.sliceUp (k / 3) || (!s.sliceUp 0 && decide (64 ≤ s.retirePend.length)) then .next s
    else
      let s1 := s.modChan k (fun c => { c with marks := rest })
      let found := s.retireFind k d
      if found = none ∧ 4096 ≤ s.retireUsed then
        .next (s1.errEntry (k / 3) 0x06 2 (retireBytes k d 0 unc 0))
      else
        let i := found.getD s.retireUsed
        let old := if found.isSome then field (s.retireEntry i) 3 1 else 0
        let level := if old % 4 < 2 ∧ s.repairFree k d then old % 4 + 1 else 3
        let first := if found.isSome then bitAt old 3 else unc
        let s2 := s1.retirePut i (retireBytes k d level first (s.slc (k / 3)).tick)
        if level = 3 then .next (s2.retireRowNow k d)
        else .next ((s2.remap k d).errEntry (k / 3) 0x04 2 (retireBytes k d level first 0))

/-- Whether moves off a retired row wait for a table's work (R311): an APPLY_STEP, a MIGRATE, HOT_LOAD or REPLICATE, a replacement, a close.
An APPLY_STEP counts from its admission, whose layers say where it reads and writes state rows. [DEDUCED, log 50] -/
def State.moveHeld (s : State) (num : Nat) (t : Table) : Bool :=
  s.layersBusy num || t.closing || t.layer.replacing || s.replaceBusy num 1 || s.replaceBusy num 2 || s.adopting num ||
  s.cmds.any (fun p => p.2.opcode == 5 && p.2.table == num && !p.2.ended)

/-- Move the rows of one table off the retired rows of stack `k` (R311), as a mode-1 MIGRATE does (R186): admission holds ROW_WRITEs that name
them from the beginning of the move on, those admitted before it are waited for, then the rows are copied and the overrides published. -/
def State.shiftTable (s : State) (num k : Nat) : State :=
  match Tab.get? s.tables num with
  | none => s
  | some t =>
    if s.moveHeld num t then s.modTable num (fun u => { u with shift := [] })
    else
      let ms := (s.chan k).retired.foldl (fun acc d => acc ++ (s.retireMoves num t k d acc)) []
      if ms.isEmpty then s
      else
        let s1 : State := if t.shift.isEmpty then
            { (s.modTable num (fun u => { u with shift := ms.map Ovr.row, shiftFrom := s.nextCmd })) with nextCmd := s.nextCmd + 1 }
          else s.modTable num (fun u => { u with shift := nubNat (u.shift ++ ms.map Ovr.row) })
        let needs := s1.moveNeeds .engine num t ms
        if s1.writesBefore (if t.shift.isEmpty then s.nextCmd else t.shiftFrom) num then s1
        else if !needs.isEmpty then s1.askAll 0 needs
        else ((s1.handover num t ms).publish num (fun y => y.moved ms) none).modTable num (fun u => { u with shift := [] })

/-- RETIRE_MOVE (R311): the rows of every table that allows it move off the retired rows of a stack. [DEDUCED, log 50] -/
def execRetireMove (stack : Fin 12) (s : State) : Host.Outcome State Fault Refusal :=
  let k := stack.val
  if !s.sliceUp (k / 3) then .next s
  else .next (s.tables.foldl (fun acc p => acc.shiftTable p.1 k) s)

/-! Temperature and split. -/

/-- The state that a reading leads to (Table 13-3). -/
def thermalNext (st v : Nat) : Nat :=
  if 100 ≤ v then 3
  else if 95 ≤ v then max st 2
  else match st with
    | 3 => 2
    | 2 => if v < 93 then 1 else 2
    | 1 => if v < 83 then 0 else 1
    | _ => if 85 ≤ v then 1 else 0

/-- Issue slots withheld in a state, in sixteenths (Table 13-3). [DEDUCED, log 51] -/
def thermalWithheld (st : Nat) : Nat := match st with
  | 0 => 0
  | 1 => 4
  | 2 => 8
  | _ => 16

/-- THERMAL_SAMPLE (R301, R303): a sample of a stack's temperature, or a read that failed. [DEDUCED, log 51] -/
def execThermalSample (stack : Fin 12) (value : Option Nat) (s : State) : Host.Outcome State Fault Refusal :=
  let k := stack.val
  let c := s.chan k
  if !s.sliceUp (k / 3) then .next s
  else
    let c1 := match value with
      | some v => { c with thermal := thermalNext c.thermal v, badReads := 0 }
      | none => { c with badReads := c.badReads + 1 }
    let s1 := s.modChan k (fun _ => c1)
    let s2 := if c1.badReads = 3 then s1.errEntry (k / 3) 0x03 1 (natLE 1 k) else s1
    let s3 := if c1.state = c.state then s2 else s2.traceRec (k / 3) 6 0 0 0 0 0 (natLE 1 k ++ natLE 1 c1.state ++ natLE 1 (thermalWithheld c1.state))
    if c1.state = 0 then .next s3 else .next (s3.modSlice (k / 3) (fun l => { l with warm := insNat l.warm (k % 3) }))

/-- SPLIT_RESELECT (R34, R209): the split of the lowest-numbered plan with traffic queued is selected; the first frame that starts after it
applies it. [DEDUCED, log 72] -/
def execSplitReselect (stack : Fin 12) (plans : List Nat) (s : State) : Host.Outcome State Fault Refusal :=
  if !s.sliceUp (stack.val / 3) then .next s
  else match plans.min? with
    | none => .next s
    | some p => match Tab.get? s.plans p with
      | some v => .next (s.modChan stack.val (fun c => { c with nextSplit := some (field v.image 0x18 4) }))
      | none => .next s

/-- A frame of issue slots begins on every channel: what was selected before applies (R209). [DESIGN CHOICE, log 97] -/
def State.frames (s : State) : State :=
  { s with chans := s.chans.map (fun p => (p.1, match p.2.nextSplit with
      | some v => { p.2 with split := v, nextSplit := none }
      | none => p.2)) }

/-! The traffic generator. -/

/-- The fields of `PSn_MCk_TG_CTL` that are quasi-static (Table 13-7, R400). -/
abbrev tgFields : Nat := 0x00FFFCFAFFFFFFFF

/-- The register of channel `i` of a slice page at offset `o` of its group. -/
def tgReg (i o : Nat) : Nat := 0x1000 + 0x100 * i + o

/-- Whether a start of the generator is allowed (R314), by the values in force before the write. [DESIGN CHOICE, log 33] -/
def State.tgAllowed (s : State) (n i : Nat) : Bool :=
  let c := s.sreg n (tgReg i 0)
  let lo := s.sreg n (tgReg i 8)
  let hi := s.sreg n (tgReg i 0x10)
  let a := (3 * n + i) * Config.stackBytes + lo
  decide (bits c 55 48 ≤ 100) && decide (1 ≤ bits c 47 42 ∧ bits c 47 42 ≤ 32) && decide (bits c 39 36 ≤ 3) &&
  decide (lo < hi ∧ hi ≤ Config.stackBytes) &&
  !pinnedRuns.any (fun r => meets a (hi - lo) (2097152 * r.1) (2097152 * r.2)) &&
  !s.tables.any (fun t => (t.2.regions s.self).any (fun r => meets a (hi - lo) r.1 r.2)) &&
  (!bitAt c 35 || (s.tables.isEmpty && !s.cmds.any (fun p => p.2.slice == n && !p.2.ended)))

/-- The sector that the generator writes at stack offset `o`: each word the seed exclusive-ORed with its offset (R315). [DESIGN CHOICE, log 33] -/
def tgSector (seed o : Nat) : List Byte := (List.range 4).flatMap (fun w => natLE 8 (seed ^^^ (o + 8 * w)))

/-- Start a run: the results are cleared (R314, R315). -/
def State.tgStart (s : State) (n i : Nat) : State :=
  let c := s.sreg n (tgReg i 0)
  let lo := s.sreg n (tgReg i 8)
  let hi := s.sreg n (tgReg i 0x10)
  let g : TgRun := { lo := lo, hi := hi, check := bitAt c 33, rdPct := bits c 55 48, size := bits c 47 42, pattern := bits c 39 36,
                     seed := s.sreg n (tgReg i 0x18), left := if c % 2 ^ 32 = 0 then none else some (c % 2 ^ 32),
                     fill := if bitAt c 33 then lo else hi, pos := lo }
  ((((s.setSreg n (tgReg i 0x20) 0).setSreg n (tgReg i 0x28) 0).setSreg n (tgReg i 0) (putBit (putBit c 63 true) 62 true)).modChan (3 * n + i)
    (fun c => { c with tg := some g }))

/-- A run ends: `run` and `busy` are cleared. -/
def State.tgEnd (s : State) (n i : Nat) : State :=
  (s.setSreg n (tgReg i 0) (putBit (putBit (s.sreg n (tgReg i 0)) 63 false) 62 false)).modChan (3 * n + i) (fun c => { c with tg := none })

/-- The generator writes the sector at stack offset `o`. -/
def State.tgPut (s : State) (k seed o : Nat) : State := s.devPut (k * Config.stackBytes + o) (tgSector seed o)

/-- The generator reads the sector at stack offset `o`; the checker compares its words, or counts it where it reads poisoned or uncorrectable
(R315). [DESIGN CHOICE, log 33] -/
def State.tgRead (s : State) (k : Nat) (g : TgRun) (o : Nat) : State :=
  let n := k / 3
  let i := k % 3
  let a := k * Config.stackBytes + o
  let res := s.sreg n (tgReg i 0x20)
  if !g.check then s
  else if s.dev.sector (a / 32) ≠ 0 then s.setSreg n (tgReg i 0x20) (res % 2 ^ 32 + satTo 0xFFFFFFFF (res / 2 ^ 32 + 1) * 2 ^ 32)
  else
    let off := (List.range 4).filter (fun w => s.dev.num (a + 8 * w) 8 != g.seed ^^^ (o + 8 * w))
    let s1 := s.setSreg n (tgReg i 0x20) (satTo 0xFFFFFFFF (res % 2 ^ 32 + off.length) + res / 2 ^ 32 * 2 ^ 32)
    match off with
    | w :: _ => if bitAt (s.sreg n (tgReg i 0x28)) 63 then s1 else s1.setSreg n (tgReg i 0x28) (o + 8 * w + 2 ^ 63)
    | [] => s1

/-- Where the next access of a run lies and whether it is a read. A sequential run goes on from the last access; beyond the end of the range, and
under the other patterns, whose sequences no rule gives, the place is a free value in the range; a share of reads between 0 and 100
percent fixes no access. [DESIGN CHOICE, log 33] -/
def TgRun.access (g : TgRun) (free : Nat) : Nat × Bool :=
  let sectors := (g.hi - g.lo) / 32
  let at' := if g.pattern = 0 ∧ g.pos + 32 * g.size ≤ g.hi then g.pos else g.lo + 32 * (Config.freeNat free % sectors)
  (at', if g.rdPct = 100 then true else if g.rdPct = 0 then false else Config.freeNat (free + 1) % 2 == 1)

/-- One access of the generator of stack `k`: the fill pass first, then the accesses of the run; none while the stack is in T3 (R302).
[DESIGN CHOICE, log 33] -/
def State.tgCycle (s : State) (k : Nat) : State :=
  match (s.chan k).tg with
  | none => s
  | some g =>
    let sectorsAt := fun (o : Nat) => ((List.range g.size).map (fun j => o + 32 * j)).filter (fun x => decide (x < g.hi))
    if !s.sliceUp (k / 3) || (s.chan k).state == 3 then s
    else if g.fill < g.hi then
      ((sectorsAt g.fill).foldl (fun acc o => acc.tgPut k g.seed o) s).modChan k (fun c => { c with tg := some { g with fill := g.fill + 32 * g.size } })
    else
      let x := g.access s.freeCtr
      let s1 : State := { ((sectorsAt x.1).foldl (fun acc o => if x.2 then acc.tgRead k g o else acc.tgPut k g.seed o) s) with freeCtr := s.freeCtr + 2 }
      if g.left = some 1 then s1.tgEnd (k / 3) (k % 3)
      else s1.modChan k (fun c => { c with tg := some { g with left := g.left.map (fun n => n - 1), pos := x.1 + 32 * g.size } })

/-- A write of `PSn_MCk_TG_CTL` (R314, R391, R400). -/
def State.tgWrite (s : State) (n i data : Nat) : State :=
  let c := s.sreg n (tgReg i 0)
  let busy := bitAt c 62
  let put := fun (s : State) (v : Nat) => s.setSreg n (tgReg i 0) v
  let s0 := if bitAt data 61 then put s (putBit c 61 false) else s
  if busy then
    let s1 := if (data &&& tgFields) = (c &&& tgFields) then s0 else s0.regEvt n
    if bitAt data 63 then s1 else s1.tgEnd n i
  else
    let s1 :=
      if !bitAt data 63 then s0
      else if s0.tgAllowed n i then s0.tgStart n i
      else put s0 (putBit (s0.sreg n (tgReg i 0)) 61 true)
    let v := s1.sreg n (tgReg i 0)
    put s1 (v - (v &&& tgFields) + (data &&& tgFields))

/-- TG_RUN (R314, R315), on the port's own slice page. -/
def execTgRun (port : Fin 4) (chan : Fin 3) (data : Word) (s : State) : Host.Outcome State Fault Refusal :=
  if s.portUp port.val then .next (s.tgWrite port.val chan.val (putBit data.toNat 63 true)) else .next s

/-- TG_STOP (R314): `run` written 0. -/
def execTgStop (port : Fin 4) (chan : Fin 3) (data : Word) (s : State) : Host.Outcome State Fault Refusal :=
  if s.portUp port.val then .next (s.tgWrite port.val chan.val (putBit data.toNat 63 false)) else .next s

end Sys2Proof.Machine
end

