-- ==== Sys2Proof/Machine/Optical.lean ====
section
/-! DEFINITION. Optical ports (14_package_links.md): frames and their retry, routes, beacons, presence and its publication
(R325 to R339). -/

namespace Sys2Proof.Machine

open Sys2Proof

/-! Presence. -/

/-- The port whose direct partner is engine `e`. -/
def State.partnerPort (s : State) (e : Nat) : Option Nat := (List.range 6).find? (fun p => (s.optic p).partner == some e)

/-- Whether engine `e` is present (R333, R335). [DEDUCED, log 53] -/
def State.tracked (s : State) (e : Nat) : Bool :=
  match s.partnerPort e with
  | some p => (s.optic p).present
  | none => match s.routePort e with
    | some p => (match (s.optic p).beacon with
      | some b => bitAt b.presence e
      | none => false)
    | none => false

/-- The keeper's own loss state: engines present and reachable by a route (R331), none while `up` is 0 (R332). [DEDUCED, log 53] -/
def State.presenceMap (s : State) : Nat :=
  if !bitAt (s.kreg 0x800) 1 then 0
  else (List.range 256).foldl (fun acc e => if e != s.self && s.tracked e && (s.routePort e).isSome then acc + 2 ^ e else acc) 0

/-! Frames. -/

/-- Drop the frames queued for engine `e` or waiting in replay (R336). -/
def State.dropFrames (s : State) (e : Nat) : State :=
  (List.range 6).foldl (fun acc p => acc.modOptic p (fun o =>
    let kept := o.replay.filter (fun x => x.2.1.dst != e)
    { o with replay := kept, waiting := o.waiting.filter (fun x => x.dst != e) })) s

/-! Beacons. -/

/-- The payload of the beacon this engine sends on a port (Table 14-9). -/
def State.beaconBytes (s : State) (p : Nat) (change : Bool) : List Byte :=
  let ctl := s.kreg 0x800
  natLE 2 (bits ctl 31 16) ++ natLE 1 s.self ++ natLE 1 ((if bitAt ctl 1 then 1 else 0) + (if change then 2 else 0)) ++
  natLE 4 (s.kreg 0x808) ++ natLE 2 (bits ctl 47 32) ++ [0, 0] ++ natLE 4 (s.optic p).bseq ++
  natLE 32 (putBit s.declared s.self true)

/-- Send a beacon on a port whose laser is lit and whose attachment is up (R333). -/
def State.beaconOut (s : State) (p : Nat) (change : Bool) : State :=
  if !s.lit || !s.attached p then s
  else (s.sendFrame p (.bytes (frameOf 0xFF s.self 0 48 0 (s.beaconBytes p change)))).modOptic p (fun o => { o with bseq := (o.bseq + 1) % 2 ^ 32 })

/-- Publish the presence map when it has changed (R336): the lost engines' frames go, nothing more of theirs enters a step that they have
not sealed (R154), change beacons leave on every port.
`cause` numbers the list of R334; a remote engine's is 6. [DEDUCED, log 53] -/
def State.presence (s : State) (cause : Nat) : State :=
  let m := s.presenceMap
  if m = s.declared then s
  else
    let diff := (List.range 256).filter (fun e => bitAt m e != bitAt s.declared e)
    let changes := diff.map (fun e => (e, bitAt m e, if (s.partnerPort e).isNone then 6 else cause))
    let lost := diff.foldl (fun acc e => putBit acc e (!bitAt m e)) s.lostMap
    let s1 : State := { s with declared := m, lostMap := lost, lossAdopt := s.lossAdopt ++ [{ map := m, changes := changes }] }
    let s2 := (diff.filter (fun e => !bitAt m e)).foldl (fun acc e => ((acc.holdPending e).dropFrames e).dropSource e) s1
    (List.range 6).foldl (fun acc p => acc.beaconOut p true) s2

/-- Declare the direct partner of a port lost, if it is present (R334): its pair is recorded. [DEDUCED, log 53] -/
def State.loseDirect (s : State) (p cause : Nat) : State :=
  let o := s.optic p
  if !o.present then s
  else
    let pairs := match o.partner, o.beacon with
      | some e, some b => Tab.set s.lostPairs e (b.inc, b.admitNo)
      | _, _ => s.lostPairs
    (({ s with lostPairs := pairs } : State).modOptic p (fun o =>
      { o with present := false, run := 0, replay := [], waiting := [] })).presence cause

/-- A port goes down: its partner is lost (R334), the error record takes an entry (Table 19-9). -/
def State.opticDown (s : State) (p : Nat) : State := (s.errEntry 4 0x13 1 (natLE 1 p)).loseDirect p 3

/-- A beacon that passed R327 (R333, R334, R338). [DEDUCED, log 53] -/
def State.beaconIn (s : State) (p : Nat) (b : Beacon) : State :=
  let o0 := s.optic p
  let s0 := if o0.partner = some b.engine then s else (s.loseDirect p 1).modOptic p (fun o => { o with partner := some b.engine, beacon := none, run := 0 })
  let o := s0.optic p
  let up := bitAt b.state 0
  let cut := match o.beacon with
    | some a => bitAt a.presence s.self && !bitAt b.presence s.self
    | none => false
  let next := match o.beacon with
    | some a => bitAt a.state 0 && b.bseq == (a.bseq + 1) % 2 ^ 32
    | none => false
  let run := if !up then 0 else if next then o.run + 1 else 1
  let s1 := s0.modOptic p (fun o => { o with beacon := some b, heard := s.kTick, run := run })
  if o.present && !up then s1.loseDirect p 4
  else if o.present && cut then s1.loseDirect p 5
  else if !o.present && up && !cut && decide (3 ≤ run) && Tab.get? s.lostPairs b.engine != some (b.inc, b.admitNo) && s.portFit p then
    (s1.modOptic p (fun o => { o with present := true, dead := false })).presence 0
  else s1.presence 0

/-! The firewall's tests. -/

/-- Whether the class of a frame and its source pass tests 1 and 2 of R327 at port `p`. -/
def State.admits (s : State) (p cls src : Nat) : Bool :=
  bitAt (s.kreg (0x848 + 0x40 * p)) cls && bitAt (s.kreg (0x850 + 0x40 * p + 8 * (src / 64))) (src % 64) && src != s.self

/-- A frame fails a test: dropped and counted. -/
def State.deny (s : State) (p : Nat) : State := s.modOptic p (fun o => { o with deny := satTo 65535 (o.deny + 1) })

/-- Count a frame from a lost engine (R336, KPR_CNT_KS). [DEDUCED, log 55] -/
def State.countLost (s : State) (p src : Nat) : State :=
  if bitAt s.lostMap src then { s with cntKs := Tab.set s.cntKs (8 + p) (Tab.getD s.cntKs (8 + p) 0 + 1) } else s

/-- BEACON_RECEIVE (R327, R334): a beacon at a port. -/
def execBeaconReceive (port : Fin 6) (b : Beacon) (s : State) : Host.Outcome State Fault Refusal :=
  if !s.attached port.val then .next s
  else if s.admits port.val 0 b.engine && b.group == bits (s.kreg 0x800) 31 16 then .next (s.beaconIn port.val b)
  else .next (s.deny port.val)

/-- BEACON_SEND (R333): a port's periodic beacon, due every 1,000 keeper ticks from the tick at which `enable` was set. [DEDUCED, log 55] -/
def execBeaconSend (port : Fin 6) (s : State) : Host.Outcome State Fault Refusal :=
  let o := s.optic port.val
  if !s.lit || !s.attached port.val || decide (s.kTick < o.nextBeacon) then .next s
  else .next ((s.beaconOut port.val false).modOptic port.val (fun o => { o with nextBeacon := o.nextBeacon + 1000 }))

/-! Frames in. -/

/-- The beacon in the payload of a frame (Table 14-9). -/
def beaconOf (f : List Byte) : Beacon :=
  { group := field f 8 2, engine := field f 10 1, state := field f 11 1, inc := field f 12 4, admitNo := field f 16 2,
    bseq := field f 20 4, presence := field f 24 32 }

/-- Frees of the replay buffer what comes before `next`; none if no such frame was sent. -/
def ackedBefore (next tx : Nat) (l : List (Nat × Frame × Nat)) : Option (List (Nat × Frame × Nat)) :=
  if next = tx then some []
  else if l.any (fun x => x.1 == next) then some (l.dropWhile (fun x => x.1 != next))
  else none

/-- An acknowledgement, or a nak that resends from `next` on; a frame that has been sent 16 times puts the port down (R329). [DEDUCED, log 55] -/
def State.frameControl (s : State) (p : Nat) (nak : Bool) (next : Nat) : State :=
  let o := s.optic p
  match ackedBefore next o.txSeq o.replay with
  | none => s
  | some rest =>
    if nak && rest.any (fun x => decide (16 ≤ x.2.2)) then
      (s.modOptic p (fun o => { o with replay := rest, dead := true })).opticDown p
    else
      let again := if nak then rest else []
      let s1 := s.modOptic p (fun o => { o with
        replay := if nak then rest.map (fun x => (x.1, x.2.1, x.2.2 + 1)) else rest, retry := satTo 65535 (o.retry + again.length) })
      (again.foldl (fun acc x => acc.send (x.2.1.msg p x.1)) s1).sendWaiting p (s1.optic p).waiting.length

/-- Whether a frame passes the firewall at port `p` (R327): its class and source; a beacon's group; of any other class that its source is
present or that it is for another engine, which a route reaches. [DEDUCED, log 55] -/
def State.passes (s : State) (p : Nat) (f : List Byte) : Bool :=
  let dst := field f 0 1
  let w := field f 2 2
  s.admits p (w % 16) (field f 1 1) &&
  (if w % 16 = 0 then (beaconOf f).group == bits (s.kreg 0x800) 31 16
   else if dst = s.self then s.tracked (field f 1 1)
   else s.routeEntry dst != (7, 7) && decide (w / 4096 % 8 < 7))

/-- A data frame with the expected `seq` (R327, R331): delivered here, forwarded, or dropped. [DEDUCED, log 55] -/
def State.frameIn (s : State) (p : Nat) (f : List Byte) : State :=
  let dst := field f 0 1
  let src := field f 1 1
  let w := field f 2 2
  let cls := w % 16
  if !s.passes p f then
    let s1 := s.deny p
    if cls ≠ 0 && s.admits p cls src && dst == s.self then s1.countLost p src else s1
  else if cls = 0 then s.beaconIn p (beaconOf f)
  else if dst = s.self then
    if 9 ≤ cls then s else s.send (.payload (16 + p) ((f.drop 8).take (w / 16 % 256)))
  else match s.routePort dst with
    | some q => s.sendFrame q (.bytes (f.take 2 ++ natLE 2 (w + 4096) ++ f.drop 4))
    | none => s

/-- A frame that is not the expected one is discarded, with a nak at most once per 64 frames (R320, R329). -/
def State.frameNak (s : State) (p : Nat) : State :=
  let o := s.optic p
  if 64 ≤ o.nakGap then (s.modOptic p (fun o => { o with nakGap := 0 })).frameCtl p true o.rxSeq
  else s.modOptic p (fun o => { o with nakGap := o.nakGap + 1 })

/-- A frame of 256 bytes from photonic die `p` (R327 to R331): one that fails its check or is not the expected one is discarded; a link-control
frame that the firewall passes acts on the port's replay. -/
def State.frameReceive (s : State) (p : Nat) (frame : List Byte) : State :=
  let o := s.optic p
  if !s.attached p || frame.length != 256 then s
  else if crc32c (frame.take 252) ≠ field frame 252 4 then s.frameNak p
  else if field frame 2 1 % 16 = 0xF then
    (if s.passes p frame then s.frameControl p (bitAt (field frame 10 1) 0) (field frame 8 2) else s.deny p)
  else if field frame 4 2 ≠ o.rxSeq then s.frameNak p
  else
    let due := decide (32 ≤ o.unacked + 1)
    let s1 := s.modOptic p (fun o => { o with
      rxSeq := (o.rxSeq + 1) % 65536, unacked := if due then 0 else o.unacked + 1, nakGap := o.nakGap + 1 })
    let s2 := if due then s1.frameCtl p false ((o.rxSeq + 1) % 65536) else s1
    s2.frameIn p frame

/-- FRAME_RECEIVE (R327 to R331). -/
def execFrameReceive (port : Fin 6) (frame : List Byte) (s : State) : Host.Outcome State Fault Refusal := .next (s.frameReceive port.val frame)

/-- LINK_CONTROL_FRAME (R327, R329): a frame of class 0xF, with its acknowledgement or nak; a control frame that fails its check is discarded and
is covered by the next one (R320). -/
def execLinkControlFrame (port : Fin 6) (head body : List Byte) (s : State) : Host.Outcome State Fault Refusal :=
  let frame := head ++ body
  if field frame 2 1 % 16 = 0xF ∧ crc32c (frame.take 252) = field frame 252 4 then .next (s.frameReceive port.val frame) else .next s

/-! Events of a port. -/

/-- MISS_TIMEOUT (R334): 4,000 ticks without a beacon. -/
def execMissTimeout (port : Fin 6) (s : State) : Host.Outcome State Fault Refusal :=
  if decide ((s.optic port.val).heard + 4000 ≤ s.kTick) then .next (s.loseDirect port.val 1) else .next s

/-- OP_LOS (R378): the die's loss-of-light input changes. -/
def execOpLos (port : Fin 6) (dark : Bool) (s : State) : Host.Outcome State Fault Refusal :=
  if !s.live then .next s
  else .next (s.modOptic port.val (fun o => { o with los := dark, losSince := if dark && !o.los then s.kTick else o.losSince }))

/-- LOSS_OF_LIGHT (R334, R378): 100 ns dark without a break. -/
def execLossOfLight (port : Fin 6) (s : State) : Host.Outcome State Fault Refusal :=
  let o := s.optic port.val
  if s.live && o.los && decide (o.losSince + 100 ≤ s.kTick) then .next (s.loseDirect port.val 2) else .next s

/-- OP_LOCK (R342): the die's lock input changes; without lock the port is down. -/
def execOpLock (port : Fin 6) (locked : Bool) (s : State) : Host.Outcome State Fault Refusal :=
  if !s.live then .next s
  else
    let s1 := s.modOptic port.val (fun o => { o with lock := locked })
    if (s.optic port.val).lock && !locked then .next (s1.opticDown port.val) else .next (s1.presence 0)

/-- WAVELENGTH_CHANGE (R330): a new count of working wavelengths is an error record entry; below 8 the port is down. -/
def execWavelengthChange (port : Fin 6) (count : Fin 17) (s : State) : Host.Outcome State Fault Refusal :=
  let p := port.val
  let old := (s.optic p).lambda
  if !s.live || old == count.val then .next s
  else
    let s1 := (s.modOptic p (fun o => { o with lambda := count.val })).errEntry 4 0x12 1 (natLE 1 p ++ natLE 1 count.val)
    if 8 ≤ old ∧ count.val < 8 then .next (s1.opticDown p) else .next (s1.presence 0)

/-! The control register. -/

/-- Set `enable`: lasers light, each port's beacons begin anew (R332, R333); clearing it darkens them. [DEDUCED, log 55] -/
def State.opEnable (s : State) (on : Bool) : State :=
  let was := bitAt (s.kreg 0x800) 0
  if on && !was then
    let s1 := s.setKreg 0x800 (putBit (s.kreg 0x800) 0 true)
    let s2 := (List.range 6).foldl (fun acc p => acc.modOptic p (fun o => { o with bseq := 0, nextBeacon := s.kTick + 1000 })) s1
    if s2.lit then (List.range 6).foldl (fun acc p => acc.send (.laser p true)) s2 else s2
  else if !on && was then s.darken.setKreg 0x800 (putBit (s.kreg 0x800) 0 false)
  else s

/-- Set `up`: the change of every partner's presence is published (R332). -/
def State.opUp (s : State) (on : Bool) : State := (s.setKreg 0x800 (putBit (s.kreg 0x800) 1 on)).presence 0

/-- Add one to `admit` (R338). -/
def State.opReadmit (s : State) : State :=
  let c := s.kreg 0x800
  s.setKreg 0x800 (putBits c 47 32 (bits c 47 32 + 1))

/-- A write of KPR_OP_CTL (Table 18-12): `group` is quasi-static while `enable` is 1, by the state before the write. -/
def State.opCtlWrite (s : State) (data : Nat) : State :=
  let c := s.kreg 0x800
  let change := bits data 31 16 != bits c 31 16
  let s1 := if !change then s else if bitAt c 0 then s.kregEvt else s.setKreg 0x800 (putBits c 31 16 (bits data 31 16))
  let s2 := if bitAt data 2 then s1.opReadmit else s1
  let s3 := s2.opEnable (bitAt data 0)
  if bitAt data 1 = bitAt c 1 then s3 else s3.opUp (bitAt data 1)

/-- OP_ENABLE (R332). -/
def execOpEnable (port : Fin 4) (on : Bool) (s : State) : Host.Outcome State Fault Refusal :=
  if s.portUp port.val then .next (s.opCtlWrite (putBit (putBit (s.kreg 0x800) 2 false) 0 on)) else .next s

/-- OP_UP (R332). -/
def execOpUp (port : Fin 4) (on : Bool) (s : State) : Host.Outcome State Fault Refusal :=
  if s.portUp port.val then .next (s.opCtlWrite (putBit (putBit (s.kreg 0x800) 2 false) 1 on)) else .next s

/-- READMIT (R338). -/
def execReadmit (port : Fin 4) (s : State) : Host.Outcome State Fault Refusal :=
  if s.portUp port.val then .next (s.opCtlWrite (putBit (s.kreg 0x800) 2 true)) else .next s

/-! Adoption. -/

/-- A command of a slice that has adopted a loss state (R83, R134, R145, R154, R224): what it awaited of engines now lost
is chosen again, absent, or no longer expected. -/
def State.cmdLost (s : State) (h : Nat) (gone : List Nat) : State :=
  match Tab.get? s.cmds h with
  | none => s
  | some c =>
    let mine := s.peerReqs.filter (fun r => r.h == h && gone.contains r.peer && (match r.want with
      | .scan _ => false
      | _ => true))
    let sent := (mine.filter (fun r => match r.want with
      | .contribution _ => true
      | _ => false)).length
    let s1 : State := { s with peerReqs := s.peerReqs.filter (fun r => !mine.contains r) }
    let out := if c.opcode = 0x12 then gone.filter (fun e => !s.arrivals.contains (e, c.tag)) else gone
    let s2 := s1.modCmd h (fun d => { d with lost := nubNat (d.lost ++ out), c1 := d.c1 + sent })
    match c.opcode with
    | 3 => s2.scanLost h
    | 4 => if c.phase = .ready then s2 else s2.scatterEnd h
    | 5 => s2.applyTry h
    | 0x12 => s2.barrierTry h
    | _ => s2

/-- The keeper's last step of a publication (R288, R246): presence words with their copy, KPR_LOSS_SEQ, vector 0. [DEDUCED, log 54] -/
def State.lossShown (s : State) (p : LossPub) : State :=
  let s1 := ({ s with visible := p.map } : State)
  let s2 := if s1.boot.ready && s1.sliceUp 0 then s1.writeCaps else s1
  let s3 := s2.setKreg 0x220 ((s2.kreg 0x220 + p.changes.length) % 2 ^ 32)
  (p.changes.foldl (fun acc c => acc.traceRec 4 4 0 0 0 0 0 (natLE 1 c.1 ++ natLE 1 (if c.2.1 then 1 else 0) ++ natLE 1 c.2.2)) s3).msix 0

/-- LOSS_STATE_ADOPT (R336): the slice whose turn it is adopts the oldest publication; with PS3 the host sees it. [DEDUCED, log 54] -/
def execLossStateAdopt (slice : Fin 4) (s : State) : Host.Outcome State Fault Refusal :=
  match s.lossAdopt.find? (fun p => p.next == slice.val) with
  | none => .next s
  | some p =>
    let old := (s.slc slice.val).loss
    let gone := (List.range 256).filter (fun e => bitAt old e && !bitAt p.map e)
    let s0 := s.modSlice slice.val (fun l => { l with loss := p.map })
    let s1 : State := { s0 with cmds := s0.cmds.map (fun c => (c.1,
      if c.2.slice == slice.val && !c.2.ended then { c.2 with reissue := c.2.reissue ++ gone.map (fun e => (e, p.map)) } else c.2)) }
    let hs := (s1.cmds.filter (fun c => c.2.slice == slice.val && !c.2.ended)).map Prod.fst
    let s2 := hs.foldl (fun acc h => acc.cmdLost h gone) s1
    if slice.val < 3 then
      .next { s2 with lossAdopt := s2.lossAdopt.map (fun q => if q == p then { q with next := q.next + 1 } else q) }
    else .next (({ s2 with lossAdopt := s2.lossAdopt.erase p } : State).lossShown p)

end Sys2Proof.Machine
end

