-- ==== Sys2Proof/Machine/Link.lean ====
section
/-! DEFINITION. Package links (14_package_links.md): flits, go-back-N retry per direction, lane modules and their retraining,
links that go down (R317 to R324), and what command ports carry (R326). -/

namespace Sys2Proof.Machine

open Sys2Proof

/-- Whether the receiving end of a link direction is out of reset, its training begun (R359, R363). -/
def State.endUp (s : State) (l : Nat) : Bool :=
  !s.boot.halted && (if l < 12 then s.domUp (l / 3) (if l % 3 = 2 then .spoke else .ring)
    else s.live && decide (3 ≤ s.boot.step) && (if l < 16 then s.domUp (l - 12) .spoke else true))

/-- Whether a direction is in its training at boot or in the restart of an end: what it comes to is said when that step ends. -/
def State.training (s : State) (l : Nat) : Bool :=
  let ring := l < 12 && l % 3 != 2
  decide (s.boot.step < (if ring then 6 else 4)) ||
  [(linkEnds l).1, (linkEnds l).2].any (fun e => match e with
    | some n => (s.slc n).run == 1 && decide (3 ≤ (s.slc n).rstep ∧ (s.slc n).rstep ≤ (if ring then 5 else 4))
    | none => false)

/-- A flit that a module has carried: whether it failed its check. The eighth failure within 1,024 flits retrains it. -/
def State.carried (s : State) (l m : Nat) (failed : Bool) : State :=
  let k := s.linkMod l m
  let n := k.flits + 1
  let fs := (k.fails.filter (fun f => decide (n < f + 1024))) ++ (if failed then [n] else [])
  let s1 := s.modMod l m (fun k => { k with flits := n, fails := fs, crcErr := if failed then satTo 65535 (k.crcErr + 1) else k.crcErr })
  if 8 ≤ fs.length then s1.retrain l m else s1

/-- Discard a flit: a nak at most once per 64 flits (R320). [DESIGN CHOICE, log 56] -/
def State.linkNak (s : State) (l : Nat) : State := if 64 ≤ (s.link l).nakGap then s.linkControl l true else s

/-- One transaction of a command port's flit, at byte `o` of its payload (Table 14-5). [DEDUCED, log 70] -/
def State.cmdAt (s : State) (p o : Nat) (payload : List Byte) : State :=
  let t := payload.drop o
  let len := field t 1 1 % 64 + 1
  let x := field t 2 2 % 4096
  let poisoned := bitAt (field t 8 1) 0
  match field t 0 1 % 16 with
  | 1 => s.commandPort p true x (field t 4 2) (slice t 16 len) poisoned none
  | 2 => s.commandPort p false x (field t 4 2) (List.replicate len 0) false (some (field t 6 1 % 16))
  | _ => s

/-- Pass a payload on: command ports take its transactions in order (R326). [DEDUCED, log 70; DESIGN CHOICE, log 56] -/
def State.deliver (s : State) (l : Nat) (payload : List Byte) : State :=
  if 22 ≤ l ∧ l < 30 then [0, 80, 160].foldl (fun acc o => acc.cmdAt (l - 22) o payload) s
  else s.send (.payload l payload)

/-- Whether a module can receive: it exists, is FULL or HALF, and its direction is up. -/
def State.receives (s : State) (l m : Nat) : Bool :=
  decide (l < 30 ∧ m < modulesOf l) && s.endUp l && !(s.link l).down && s.carries l m

/-- A data flit that passed its check (R319, R320): the expected one is passed on and acknowledged at least once every 32 flits, every other one
is discarded. -/
def State.dataFlit (s : State) (l : Nat) (flit : List Byte) : State :=
  let d := s.link l
  if field flit 0 2 % 4096 ≠ d.expected then s.linkNak l
  else
    let s1 := s.modLink l (fun d => { d with expected := (d.expected + 1) % 4096, unacked := d.unacked + 1 })
    (if 32 ≤ d.unacked + 1 then s1.linkControl l false else s1).deliver l ((flit.drop 2).take 250)

/-- FLIT_RECEIVE (R318 to R321): one flit time of the link passes. Idle flits carry nothing. [DESIGN CHOICE, log 56] -/
def execFlitReceive (link module : Nat) (flit : List Byte) (s : State) : Host.Outcome State Fault Refusal :=
  if !s.receives link module || flit.length != 256 then .next s
  else
    let s0 := s.modLink link (fun d => { d with nakGap := d.nakGap + 1 })
    if crc32c (flit.take 252) ≠ field flit 252 4 then .next ((s0.carried link module true).linkNak link)
    else
      let s1 := s0.carried link module false
      if field flit 0 2 / 16384 = 0 then .next (s1.dataFlit link flit) else .next s1

/-- The replay buffer after an acknowledgement of every flit before `ack`; none if `ack` was never sent. -/
def freeBefore (ack next : Nat) (l : List (Nat × List Byte)) : Option (List (Nat × List Byte)) :=
  if ack = next then some []
  else if l.any (fun x => x.1 == ack) then some (l.dropWhile (fun x => x.1 != ack))
  else none

/-- LINK_CONTROL_FLIT (R320): an acknowledgement frees the replay buffer of the way back, a nak resends from its `ack` on, dealt as R319 stands
now. One that fails its check is discarded. To the engine no credits are owed: a chiplet must accept completions (R326). -/
def execLinkControlFlit (link module : Nat) (flit : List Byte) (s : State) : Host.Outcome State Fault Refusal :=
  if !s.receives link module || flit.length != 256 || crc32c (flit.take 252) != field flit 252 4 || field flit 0 2 / 16384 != 2 then .next s
  else
    let s1 := (s.modLink link (fun d => { d with nakGap := d.nakGap + 1 })).carried link module false
    let b := linkBack link
    let w := field flit 2 2
    match freeBefore (w % 4096) (s1.link b).next (s1.link b).replay with
    | none => .next s1
    | some rest =>
      let s2 := (s1.modLink b (fun d => { d with replay := rest, unsent := if bitAt w 15 then rest.length else min d.unsent rest.length })).linkPump b
      .next (s2.linkWaiting b (s2.link b).waiting.length)

/-- MODULE_LOCK_LOSS (R321). -/
def execModuleLockLoss (link module : Nat) (s : State) : Host.Outcome State Fault Refusal :=
  if s.receives link module then .next (s.retrain link module) else .next s

/-- What follows when a direction goes down (R323, R324). -/
def State.linkDown (s : State) (l : Nat) : State :=
  let s1 := s.linkDrop l
  if l < 12 then (if l % 3 = 2 then s1.restartTrigger (l / 3) 1 else s1)
  else if l < 16 then s1.restartTrigger (l - 12) 1
  else if l < 22 then s1.loseDirect (l - 16) 3
  else s1

/-- What the lane checks found: a lane that failed both is bad until both ends are reset, one that failed one is counted (R322). -/
def LinkMod.checked (k : LinkMod) (failRx failTx : BitVec 34) : LinkMod :=
  let both := (List.range 34).filter (fun i => (failRx &&& failTx).getLsbD i)
  let one := ((List.range 34).filter (fun i => (failRx ^^^ failTx).getLsbD i)).length
  let bad := sortBy (fun a b => decide (a.1 < b.1))
    (k.bad ++ (both.filter (fun i => !(k.bad.map Prod.fst).contains i)).map (fun i => (i, 0)))
  { k with bad := bad, marginal := satTo 15 (k.marginal + one) }

/-- The lane that a spare replaces: 0 for lane 32, 1 for lane 33; 0x3F if it replaces none (R322, Table 14-3). -/
def LinkMod.spare (k : LinkMod) (i : Nat) : Nat :=
  let bad := k.bad.map Prod.fst
  let lanes := bad.filter (fun b => decide (b < 32))
  let used := (if !bad.contains 32 then 1 else 0)
  if k.state ≠ 1 ∨ bad.contains (32 + i) then 0x3F
  else lanes.getD (if i = 0 then 0 else used) 0x3F

/-- An entry for each spare lane that has taken the place of another lane since (R324): module, state, spare and the lane it replaces.
[DESIGN CHOICE, log 44] -/
def State.spareEntries (s : State) (l m : Nat) (old : LinkMod) : State :=
  let k := s.linkMod l m
  ([0, 1].filter (fun i => k.spare i != 0x3F && k.spare i != old.spare i)).foldl (fun acc i =>
    acc.errEntry (linkSource l) 0x10 1 (natLE 2 (statIndex l m) ++ natLE 1 k.state ++ natLE 1 (32 + i) ++ natLE 1 (k.spare i))) s

/-- RETRAIN_COMPLETE (R322 to R324): the lanes that failed in the two lane checks fix the module's state; data flits that waited for a module
are dealt. -/
def execRetrainComplete (link module : Nat) (failRx failTx : BitVec 34) (s : State) : Host.Outcome State Fault Refusal :=
  let k := s.linkMod link module
  if !decide (link < 30 ∧ module < modulesOf link) || !s.endUp link || (s.link link).down || k.state != 0 then .next s
  else
    let k1 := k.checked failRx failTx
    let st := k1.trained
    let s1 := ((s.modMod link module (fun _ => { k1 with half := if st = 1 then none else some (k1.half.getD 0) })).modState link module st).spareEntries
      link module { k with state := 1 }
    if s1.training link || (List.range (modulesOf link)).any (fun i => decide ((s1.linkMod link i).state ≤ 2)) then .next (s1.linkPump link)
    else .next (s1.linkDown link)

end Sys2Proof.Machine
end

