-- ==== Sys2Proof/Machine/Observe.lean ====
section
/-! DEFINITION. Observation (19_observation_test_faults.md) and the skew ring (R178 to R180, R399): counters, trace, skew
windows and records, the test access chain. -/

namespace Sys2Proof.Machine

open Sys2Proof

/-! Writes of the engine's own. -/

/-- The slot of the next skew record (R399). -/
def State.skewSlot (s : State) : Nat := s.kreg 0x180 + 256 * (s.kreg 0x190 % 2 ^ (s.kreg 0x188 % 32))

/-- A write of KPR_SKEW_TAIL (R399): one that would leave more free slots than the size is ignored and counted. -/
def State.skewTail (s : State) (tail : Nat) : State :=
  if 2 ^ (s.kreg 0x188 % 32) < (s.kreg 0x190 + 2 ^ 32 - tail) % 2 ^ 32 then s.kregEvt else s.setKreg 0x198 tail

/-- The skew ring's tail for a record of this cycle: a release that waits in the queue counts first (R404). [DESIGN CHOICE, log 94] -/
def State.skewTailNow (s : State) : Nat :=
  (s.pending.foldl (fun acc c => match c with
    | .skewRelease p t => if s.portUp p.val then acc.skewTail t.toNat else acc
    | _ => acc) s).kreg 0x198

/-- Whether the skew ring takes a record: it is enabled, not full, and its slot exists (R399). [DESIGN CHOICE, log 57] -/
def State.skewFree (s : State) : Bool :=
  decide ((s.kreg 0x190 + 2 ^ 32 - s.skewTailNow) % 2 ^ 32 ≠ 2 ^ (s.kreg 0x188 % 32)) && inDevice s.skewSlot 256

/-- Whether a write has nowhere to go: a skew record while the ring is disabled or full. -/
def State.workVoid (s : State) (w : EngWr) : Bool := w.act == .skew && !(bitAt (s.kreg 0x188) 8 && s.skewFree)

/-- Where a write of the engine's own goes. -/
def State.workAddr (s : State) (w : EngWr) : Nat := if w.act = .skew then s.skewSlot else w.addr

/-- A write of the engine's own lands (R148, R399, R412); a skew record that finds the ring full is lost, one that finds it disabled is not
made. -/
def State.workLand (s : State) (w : EngWr) : State :=
  match w.act with
  | .spill _ => s.devPut w.addr w.bytes
  | .dump => { (s.devPut w.addr w.bytes) with trace := { s.trace with copied := w.bytes.length / 32 } }
  | .skew =>
    if !bitAt (s.kreg 0x188) 8 then s
    else if !s.skewFree then s.setKreg 0x1A0 (satTo 0xFFFFFFFF (s.kreg 0x1A0 + 1))
    else ((s.devPut s.skewSlot w.bytes).setKreg 0x190 ((s.kreg 0x190 + 1) % 2 ^ 32)).msix 3

/-- What a write of the engine's own awaits: the slice that owns the memory, and lines of host-bias pages (R15, R277, R282). -/
def State.workNeeds (s : State) (w : EngWr) : List Need := if s.workVoid w then [] else s.devNeeds .engine true (s.workAddr w) w.bytes.length

/-- Make a write of the engine's own, or let it wait behind what it awaits and behind earlier ones of its kind. -/
def State.engineWrite (s : State) (w : EngWr) : State :=
  let needs := s.workNeeds w
  if needs.isEmpty && !s.work.any (fun v => v.act == w.act) then s.workLand w else { (s.askAll 0 needs) with work := s.work ++ [w] }

/-- The writes that waited are tried again, in their order. -/
def State.workRetry (s : State) : State := s.work.foldl State.engineWrite { s with work := [] }

/-! Counters. -/

/-- Add forwarded increments, modulo 2^64 (R406). -/
def addCounts (t inc : Tab Nat) : Tab Nat := inc.foldl (fun acc p => Tab.set acc p.1 ((Tab.getD acc p.1 0 + p.2) % 2 ^ 64)) t

/-- COUNTER_FORWARD (R406): the slice's context and table increments reach the keeper. [DESIGN CHOICE, log 58] -/
def execCounterForward (slice : Fin 4) (s : State) : Host.Outcome State Fault Refusal :=
  if !s.sliceUp slice.val then .next s
  else
    let l := s.slc slice.val
    .next (({ s with cntCtx := addCounts s.cntCtx l.incCtx, cntTbl := addCounts s.cntTbl l.incTbl } : State).modSlice slice.val (fun l =>
      { l with incCtx := [], incTbl := [] }))

/-! Trace. -/

/-- The 32 bytes of a trace record (Table 19-3). -/
def traceBytes (r : TraceRec) : List Byte :=
  natLE 8 r.tick ++ natLE 1 r.source ++ natLE 1 r.kind ++ natLE 2 r.tseq ++ natLE 2 r.context ++ natLE 2 r.queue ++ natLE 2 r.seq ++
  natLE 1 r.opcode ++ natLE 1 r.status ++ padTo 12 0 r.payload

/-- The fields of KPR_TRC_CTL that are quasi-static while `run` is 0: deep, wrap, mask. -/
abbrev traceFields : Nat := 0x60000000FFFFFFFF

/-- Start trace: with `deep` the staging SRAM is claimed first (R410, R385); the claim of a REPLACE_BEGIN in the same cycle precedes it
(R386). -/
def State.traceBegin (s : State) : State :=
  let c := s.kreg 0x8000
  if bitAt c 62 && (decide (2 ≤ s.staging) || s.claimComes) then s.setKreg 0x8000 (putBits c 55 48 1)
  else
    ({ s with staging := if bitAt c 62 then 1 else s.staging, trace := { s.trace with recs := [], tseq := [0, 0, 0, 0, 0] } } : State).setKreg
      0x8000 (putBit (putBits c 55 48 0) 63 true)

/-- A write of KPR_TRC_CTL (R410, R391). -/
def State.traceCtl (s : State) (data : Nat) : State :=
  let c := s.kreg 0x8000
  if bitAt c 63 then
    let s1 := if data &&& traceFields = c &&& traceFields then s else s.kregEvt
    if bitAt data 63 then s1 else s1.setKreg 0x8000 (putBit c 63 false)
  else
    let s1 := s.setKreg 0x8000 (c - (c &&& traceFields) + (data &&& traceFields))
    let s2 := if bitAt data 62 then s1 else s1.traceUndeep
    if bitAt data 63 then s2.traceBegin else s2

/-- TRACE_START (R410). -/
def execTraceStart (port : Fin 4) (data : Word) (s : State) : Host.Outcome State Fault Refusal :=
  if s.portUp port.val then .next (s.traceCtl (putBit data.toNat 63 true)) else .next s

/-- TRACE_DEEP_RELEASE (R410). -/
def execTraceDeepRelease (port : Fin 4) (data : Word) (s : State) : Host.Outcome State Fault Refusal :=
  if s.portUp port.val then .next (s.traceCtl (putBit (putBit data.toNat 63 false) 62 false)) else .next s

/-- Whether a dump is in progress. -/
def State.dumping (s : State) : Bool := s.work.any (fun w => w.act == .dump)

/-- A write of KPR_TRC_DUMP (R412): every record, oldest first, goes to device memory. [DESIGN CHOICE, log 57] -/
def State.traceDump (s : State) (addr : Nat) : State :=
  if bitAt (s.kreg 0x8000) 63 || addr % 64 != 0 || !inDevice addr (32 * s.trace.recs.length) || s.dumping then s.kregEvt
  else s.engineWrite { act := .dump, addr := addr, bytes := s.trace.recs.flatMap traceBytes }

/-- TRACE_DUMP (R412). [DESIGN CHOICE, log 57] -/
def execTraceDump (port : Fin 4) (addr : Word) (s : State) : Host.Outcome State Fault Refusal :=
  if s.portUp port.val then .next (s.traceDump addr.toNat) else .next s

/-- A write of KPR_TRC_MARK: one record of kind 9. -/
def State.traceMark (s : State) (v : Nat) : State := s.traceRec 4 9 0 0 0 0 0 (natLE 8 v)

/-- TRACE_MARK (R412). -/
def execTraceMark (port : Fin 4) (value : Word) (s : State) : Host.Outcome State Fault Refusal :=
  if s.portUp port.val then .next (s.traceMark value.toNat) else .next s

/-! The skew monitor. -/

/-- SKEW_WINDOW_END (R178): at the slice's tick that begins another window, the window's counts wait for the merge. [DESIGN CHOICE, log 58] -/
def execSkewWindowEnd (slice : Fin 4) (s : State) : Host.Outcome State Fault Refusal :=
  if s.sliceUp slice.val then .next (s.rollWindow slice.val) else .next s

/-- The windows of one number, by slice. -/
def State.windowsOf (s : State) (num : Nat) : List (Option SkewWin) :=
  (List.range 4).map (fun n => (s.slc n).ended.find? (fun w => w.num == num))

/-- The window to merge: the lowest number that some slice has ended and every slice that runs has left (R179). [DESIGN CHOICE, log 58] -/
def State.mergeDue (s : State) : Option Nat :=
  match ((s.slices.flatMap Slice.ended).map SkewWin.num).min? with
  | none => none
  | some num => if s.slices.all (fun l => l.run != 2 || decide (num < l.window)) then some num else none

/-- Sums of two sampled tables. -/
def sumTabs (l : List (Tab Nat)) : Tab Nat :=
  l.foldl (fun acc t => t.foldl (fun a p => Tab.set a p.1 (Tab.getD a p.1 0 + p.2)) acc) []

/-- The eight entries with the largest counts, ties by the lower number. -/
def topEight (t : Tab Nat) : List (Nat × Nat) := (sortBy (fun a b => decide (b.2 < a.2)) t).take 8

/-- What a window counted of one table. -/
structure SkewSum where
  counts12 : List Nat
  hot : Nat
  peer : Nat
  accesses : Nat
  buckets : Tab Nat
  rows : Tab Nat
deriving DecidableEq, Repr

/-- The merge of the four slices' counts of table `t` (R179). -/
def skewSum (ws : List (Option SkewWin)) (t : Nat) : SkewSum :=
  let cs := ws.map (fun w => ((w.map SkewWin.counts).bind (fun c => Tab.get? c t)).getD {})
  { counts12 := cs.flatMap (fun c => (List.range 3).map (fun i => satTo 0xFFFFFFFF (c.near.getD i 0))),
    hot := (cs.map SkewCount.hot).sum, peer := (cs.map SkewCount.peer).sum, accesses := (cs.map SkewCount.accesses).sum,
    buckets := sumTabs (cs.map SkewCount.buckets), rows := sumTabs (cs.map SkewCount.rows) }

/-- The skew index (R180). -/
def skewIndex (counts12 : List Nat) : Nat :=
  if counts12.sum < 65536 then 0 else satTo 65535 (256 * 12 * counts12.foldl max 0 / counts12.sum)

/-- A skew record (Table 8-5). `warm` says whether a near stack of the table was at or above T1. -/
def skewRecord (num t : Nat) (k : SkewSum) (warm : Bool) : List Byte :=
  let x := skewIndex k.counts12
  let flags := (if 768 ≤ x then 1 else 0) + (if 1536 ≤ x then 2 else 0) + (if warm then 4 else 0)
  natLE 8 num ++ natLE 2 t ++ natLE 2 x ++ natLE 1 flags ++ [0, 0, 0] ++ k.counts12.flatMap (natLE 4) ++
  natLE 4 (satTo 0xFFFFFFFF k.hot) ++ natLE 4 (satTo 0xFFFFFFFF k.peer) ++ List.replicate 8 0 ++
  padTo 64 0 ((topEight k.buckets).flatMap (fun p => natLE 4 (p.1 % 65536) ++ natLE 4 (satTo 0xFFFFFFFF (16 * p.2)))) ++
  padTo 64 0 ((topEight k.rows).flatMap (fun p => natLE 5 p.1 ++ natLE 3 (satTo 0xFFFFFF p.2))) ++ List.replicate 48 0

/-- Whether a near stack of the table, one that holds a region of it or served it, was at or above T1 in the window (Table 8-5).
[DESIGN CHOICE, log 58] -/
def State.skewWarm (s : State) (num : Nat) (ws : List (Option SkewWin)) (k : SkewSum) : Bool :=
  let held := ((Tab.get? s.tables num).map (fun t => (t.regions s.self).map (fun r => stackOf r.1))).getD []
  (List.range 12).any (fun i => (held.contains i || k.counts12.getD i 0 != 0) && (match ws.getD (i / 3) none with
    | some w => w.warm.contains (i % 3)
    | none => false))

/-- SKEW_MERGE (R179): one record for each table with at least 65,536 accesses in the window. -/
def execSkewMerge (s : State) : Host.Outcome State Fault Refusal :=
  match s.mergeDue with
  | none => .next s
  | some num =>
    let ws := s.windowsOf num
    let ts := sortBy (fun a b => decide (a < b)) (nubNat (ws.flatMap (fun w => ((w.map SkewWin.counts).getD []).map Prod.fst)))
    let s1 : State := { s with slices := s.slices.map (fun l => { l with ended := l.ended.filter (fun w => w.num != num) }) }
    .next (ts.foldl (fun acc t =>
      let k := skewSum ws t
      if k.accesses < 65536 then acc else acc.engineWrite { act := .skew, addr := 0, bytes := skewRecord num t k (s.skewWarm t ws k) }) s1)

/-- A write of KPR_SKEW_CTL (R399, Table 18-10). -/
def State.skewCtl (s : State) (data : Nat) : State :=
  let c := s.kreg 0x188
  let on := bitAt c 8
  if on then
    let s1 := if data % 32 = c % 32 then s else s.kregEvt
    if bitAt data 8 then s1 else s1.setKreg 0x188 (c % 32)
  else
    let n := data % 32
    let s1 := s.setKreg 0x188 n
    if !bitAt data 8 then s1
    else if n < 4 ∨ 16 < n ∨ s.kreg 0x180 = 0 then s1.kregEvt
    else ((s1.setKreg 0x188 (n + 256)).setKreg 0x190 0).setKreg 0x198 0

/-- SKEW_ENABLE (R399). -/
def execSkewEnable (port : Fin 4) (data : Word) (s : State) : Host.Outcome State Fault Refusal :=
  if s.portUp port.val then .next (s.skewCtl data.toNat) else .next s

/-- SKEW_RELEASE (R399). -/
def execSkewRelease (port : Fin 4) (tail : BitVec 32) (s : State) : Host.Outcome State Fault Refusal :=
  if s.portUp port.val then .next (s.skewTail tail.toNat) else .next s

/-! The test access chain. -/

/-- TAP_INSTRUCTION (R415, R416): IDCODE, BYPASS, SAMPLE and reads are executed; under the field lock everything else acts as
BYPASS and is counted. While the keeper is in reset the port does nothing (R382). [DESIGN CHOICE, log 31, 59] -/
def execTapInstruction (code : Nat) (data : Nat) (s : State) : Host.Outcome State Fault Refusal :=
  if !s.live then .next s
  else match code with
    | 0 => .next (s.send (.tap 0 Config.idcode))
    | 1 => .next (s.send (.tap 1 data))
    | 2 => .next { (s.send (.tap 2 (Config.freeNat s.freeCtr))) with freeCtr := s.freeCtr + 1 }
    | 3 => .next { (s.send (.tap 3 (Config.freeNat s.freeCtr))) with freeCtr := s.freeCtr + 1 }
    | _ => .next ((s.setKreg 0x8400 (satTo 65535 (s.kreg 0x8400 + 1))).send (.tap 1 data))

end Sys2Proof.Machine
end

