-- ==== Sys2Proof/Machine/Peer.lean ====
section
/-! DEFINITION. Row requests of peers and the answers of peers (R81, R83, R173, R337, R421). -/

namespace Sys2Proof.Machine

open Sys2Proof

/-- The copy of a row that this engine serves to a peer (R81, R173): the one the peer resolved to lies here, as the owner's or as a replica;
none when the table is not open here under the peer's map, no copy lies here, or its slice is in reset (R337). [DEDUCED, log 61] -/
def State.peerCopy (s : State) (table mapId row : Nat) (y : Layer) : Option (Table × Loc) :=
  match Tab.get? s.tables table with
  | none => none
  | some t =>
    if y.closing || t.mapId != mapId then none
    else ((t.partLoc y table s.self row).filter (fun l => s.sliceUp (l.stack / 3))).map (fun l => (t, l))

/-- Serve a peer's request for a row under the layers at its arrival (R81, R173): the answer goes back to its source, and a served row counts
in the skew monitor; the flag says that it is done with. -/
def State.serveRow (s : State) (src table mapId row tag : Nat) (y : Layer) : State × Bool :=
  match s.peerCopy table mapId row y with
  | none => (s.toPeer src (.reply tag .absent), true)
  | some (t, l) =>
    let a : Actor := { who := .engine, ctx := 0, pasid := 0, fw := none }
    let b := s.copyBytes a (l.stack / 3) [] t y row l
    if !b.needs.isEmpty then (s.askAll 0 b.needs, false)
    else
      let bad := (List.range (t.stored / 32)).filter (fun k => anyPoison (sliceP b.val (32 * k) 32))
      ((s.skewAccess table l.stack (t.bucket table row) row (isHot y row l) true).toPeer src (.reply tag (.row (dataOf b.val) bad)), true)

/-- PEER_ROW_REQUEST (R81, R173). -/
def execPeerRowRequest (src : Nat) (table mapId row tag : Nat) (s : State) : Host.Outcome State Fault Refusal :=
  if !presentIn s.self s.declared src then .next s
  else match Tab.get? (s.slc 3).layers table with
    | none => .next (s.toPeer src (.reply tag .absent))
    | some y =>
      let r := s.serveRow src table mapId row tag y
      .next (if r.2 then r.1 else r.1.holdPeer (.peerRowRequest src table mapId row tag) y)

/-! Requests of peers that wait. -/

/-- Serve a held request of a peer again; a source that has been lost meanwhile is served no more. -/
def State.serveHeld (s : State) (p : HeldPeer) : State × Bool :=
  match p.ins with
  | .peerRowRequest src t m r g => if presentIn s.self s.declared src then s.serveRow src t m r g p.view else (s, true)
  | .scanRequest src t m g pk im v q k ps =>
    if presentIn s.self s.declared src then s.serveScan src t m g pk im v q k ps (some p.view) else (s, true)
  | .replicaWrite _ t m r b ps _ => s.serveReplica p.id t m r b ps p.view
  | _ => (s, true)

/-- Serve every held request again, in the order of arrival. -/
def State.serveAll (s : State) : State :=
  s.heldPeer.foldl (fun acc p =>
    let r := acc.serveHeld p
    if r.2 then { r.1 with heldPeer := r.1.heldPeer.filter (fun q => q.id != p.id) } else r.1) s

/-- ROW_REPLY (R83, R421): the answer to a request that is outstanding reaches its command; every other one is dropped. -/
def execRowReply (src : Nat) (tag : Nat) (reply : Reply) (s : State) : Host.Outcome State Fault Refusal :=
  match s.peerReqs.find? (fun q => q.tag == tag && q.peer == src) with
  | none => .next s
  | some q =>
    let s1 := ({ s with peerReqs := s.peerReqs.erase q } : State).modCmd q.h (fun d => { d with got := d.got ++ [(q.want, reply)] })
    match q.want with
    | .contribution _ => .next (s1.scatterEnd q.h)
    | _ => .next s1

end Sys2Proof.Machine
end

