-- ==== Sys2Proof/Machine/Power.lean ====
section
/-! DEFINITION. The power and thermal manager and the slew governor (R366 to R369, Tables 16-8 and 16-9). -/

namespace Sys2Proof.Machine

open Sys2Proof

/-- One threshold of Table 16-8: reached at or above `hi`, left below `lo`. -/
def threshold (was : Bool) (hi lo t : Nat) : Bool := if hi ≤ t then true else if t < lo then false else was

/-- The sixteenths that the junction thresholds withhold (Table 16-8). -/
def junctionWithheld (h95 h100 h105 : Bool) : Nat := if h105 then 15 else if h100 then 8 else if h95 then 4 else 0

/-- The sixteenths withheld: the larger of the two (R368). -/
def Power.fraction (p : Power) : Nat := max p.withheld p.junction

/-- The hottest junction that a sample read. [DEDUCED, log 52] -/
def hottestOf (l : List (Option Nat)) : Option Nat := (l.filterMap id).max?

/-- Microwatts of rails `lo` to `hi` − 1. -/
def railPower (l : List (Nat × Nat)) (lo hi : Nat) : Nat := (((l.take hi).drop lo).map (fun r => r.1 * r.2)).sum

/-- Milliamperes of rails `lo` to `hi` − 1. -/
def railAmps (l : List (Nat × Nat)) (lo hi : Nat) : Nat := (((l.take hi).drop lo).map Prod.snd).sum

/-- KPR_TEMP of each sensor (Table 16-9): a read that failed keeps the last value. [DEDUCED, log 52] -/
def State.keepTemps (s : State) (l : List (Option Nat)) : State :=
  (List.range 10).foldl (fun acc i => match l.getD i none with
    | some t => acc.setKreg (0x280 + 8 * i) (satTo 255 t)
    | none => acc.setKreg (0x280 + 8 * i) (acc.kreg (0x280 + 8 * i) % 256 + 256)) s

/-- A change of the fraction withheld is traced (kind 6), with the sensor that is hottest and whether junctions limit. [DESIGN CHOICE, log 44] -/
def State.traceThrottle (s : State) (old : Power) (sensor : Nat) : State :=
  if s.power.fraction = old.fraction ∧ s.power.junction = old.junction then s
  else s.traceRec 4 6 0 0 0 0 0 (natLE 1 sensor ++ natLE 1 (if s.power.junction = 0 then 0 else 1) ++ natLE 1 s.power.fraction)

/-- Add a sample's rails to the sums of the present millisecond (R367). -/
def Power.add (p : Power) (rails : List (Nat × Nat)) : Power :=
  let each := fun (l : List Nat) (f : Nat → Nat) => (List.range 4).map (fun n => l.getD n 0 + f n)
  { p with samples := p.samples + 1, sum := p.sum + railPower rails 0 18,
           sliceSum := each p.sliceSum (fun n => railPower rails (4 * n) (4 * n + 4)),
           sliceAmp := each p.sliceAmp (fun n => railAmps rails (4 * n) (4 * n + 4)) }

/-- The junction thresholds after a reading: what they withhold takes effect from the next sample (R368, Table 16-8). -/
def Power.heat (p : Power) (t : Nat) : Power :=
  let a := threshold p.hot95 95 93 t
  let b := threshold p.hot100 100 98 t
  let c := threshold p.hot105 105 103 t
  { p with hottest := t, hot95 := a, hot100 := b, hot105 := c, junction := p.nextJunction, nextJunction := junctionWithheld a b c }

/-- The thermal trip: the engine enters reset, and stays there until a reset input is driven (Table 16-8, R354). -/
def State.thermalTrip (s : State) : State := { s.resetAll with trip := true }

/-- POWER_SAMPLE (R367, R368): rails and junction sensors, every 10 µs. [DEDUCED, log 52] -/
def execPowerSample (rails : List (Nat × Nat)) (junctions : List (Option Nat)) (s : State) : Host.Outcome State Fault Refusal :=
  if !s.live then .next s
  else
    match hottestOf junctions with
    | none => .next (({ s with power := s.power.add rails } : State).keepTemps junctions)
    | some t =>
      if 110 ≤ t then .next s.thermalTrip
      else
        let p := (s.power.add rails).heat t
        let s1 := ({ s with power := p } : State).keepTemps junctions
        let sensor := ((List.range 10).find? (fun i => junctions.getD i none == some t)).getD 0
        let s2 := s1.traceThrottle s.power sensor
        if p.hot105 && !s.power.hot105 then .next (s2.errEntry 4 0x26 1 (natLE 1 sensor ++ natLE 1 t)) else .next s2

/-- The sixteenths withheld for power after a millisecond whose mean is `uw` microwatts, under `cap` watts (R367). -/
def capStep (withheld uw cap : Nat) : Nat :=
  if cap * 1000000 < uw then min 15 (withheld + 1)
  else if uw + 10000000 < cap * 1000000 then withheld - 1
  else withheld

/-- The cap that a window is compared with: one written in the same keeper cycle applies from the next window (R372). -/
def State.windowCap (s : State) : Nat :=
  match s.power.capAt with
  | some (k, v) => if k = s.kTick then v else s.kreg 0x240
  | none => s.kreg 0x240

/-- POWER_WINDOW (R367): the mean of the millisecond is compared with the cap and shown (Table 16-9). [DEDUCED, log 52] -/
def execPowerWindow (s : State) : Host.Outcome State Fault Refusal :=
  let p := s.power
  if !s.live || p.samples == 0 then .next s
  else
    let mean := p.sum / p.samples
    let w := mean / 1000000
    let old := s.kreg 0x248
    let stat := satTo 65535 w + max (bits old 31 16) (satTo 65535 w) * 2 ^ 16 + (if p.slewHit then 2 ^ 38 else 0)
    let q := { p with withheld := capStep p.withheld mean s.windowCap, samples := 0, sum := 0, sliceSum := [0, 0, 0, 0],
                      sliceAmp := [0, 0, 0, 0], slewHit := false }
    let s1 := ({ s with power := q } : State).setKreg 0x248 stat
    let s2 := (List.range 4).foldl (fun acc n =>
      acc.setKreg (0x250 + 8 * n)
        (satTo 65535 (p.sliceSum.getD n 0 / p.samples / 100000) + satTo 65535 (p.sliceAmp.getD n 0 / p.samples / 100) * 2 ^ 16)) s1
    .next (s2.traceThrottle p 0)

/-- SLEW_PERIOD (R369): the estimate follows the demand by at most 6 A in 100 ns. [DEDUCED, log 52] -/
def execSlewPeriod (slice : Fin 4) (demand : Nat) (s : State) : Host.Outcome State Fault Refusal :=
  if !s.sliceUp slice.val then .next s
  else
    let old := s.power.slew.getD slice.val 0
    let new := if old + 60 < demand then old + 60 else if demand + 60 < old then old - 60 else demand
    .next { s with power := { s.power with slew := s.power.slew.set slice.val new, slewHit := s.power.slewHit || new != demand } }

/-- A write of KPR_PWR_LIMIT (R367): outside 100 to 260 W the nearer limit. -/
def State.powerLimit (s : State) (cap : Nat) : State :=
  ({ s with power := { s.power with capAt := some (s.kTick, s.windowCap) } } : State).setKreg 0x240 (min 260 (max 100 cap))

/-- POWER_LIMIT_WRITE (R367). -/
def execPowerLimitWrite (port : Fin 4) (cap : BitVec 16) (s : State) : Host.Outcome State Fault Refusal :=
  if s.portUp port.val then .next (s.powerLimit cap.toNat) else .next s

/-- KPR_PWR_STAT as read (Table 16-9). -/
def State.powerStat (s : State) : Nat :=
  s.kreg 0x248 + s.power.fraction * 2 ^ 32 + (if s.power.withheld = 0 then 0 else 2 ^ 36) + (if s.power.junction = 0 then 0 else 2 ^ 37) +
  satTo 255 s.power.hottest * 2 ^ 40

end Sys2Proof.Machine
end

