-- ==== Sys2Proof/Machine/Registers.lean ====
section
/-! DEFINITION. The engine register space (18_register_maps.md): reads and writes of windows, the keeper page and the slice
pages through a host port (R388 to R391), register by register. -/

namespace Sys2Proof.Machine

open Sys2Proof

/-! Which offsets hold a register. -/

/-- Whether `off` is one of `n` registers from `base` on. -/
def regIn (off base n : Nat) : Bool := decide (base ≤ off ∧ off < base + 8 * n)

/-- Whether an offset of the keeper page is a register (Table 18-3, 19-1 to 19-12). -/
def keeperReg (off : Nat) : Bool :=
  regIn off 0 6 || regIn off 0x40 6 || regIn off 0x80 16 || regIn off 0x100 7 || regIn off 0x180 5 || regIn off 0x200 5 || regIn off 0x240 6 ||
  regIn off 0x280 10 || regIn off 0x400 64 || regIn off 0x800 2 ||
  (List.range 6).any (fun k => regIn off (0x840 + 0x40 * k) 6) || regIn off 0xA00 32 || regIn off 0xC00 48 || regIn off 0xE00 18 ||
  regIn off 0x4000 1 || regIn off 0x4020 4 || regIn off 0x4100 2016 || regIn off 0x8000 4 || regIn off 0x8100 9 || regIn off 0x8148 4 ||
  regIn off 0x8200 14 || regIn off 0x8400 1

/-- Whether an offset of a slice page is a register (Table 18-11, 19-1). -/
def sliceReg (off : Nat) : Bool :=
  regIn off 0 3 || regIn off 0x100 3 || regIn off 0x200 20 || (List.range 3).any (fun k => regIn off (0x1000 + 0x100 * k) 6) ||
  regIn off 0x4000 6 || regIn off 0x4100 1 || (List.range 3).any (fun k => regIn off (0x4200 + 0x80 * k) 10) || regIn off 0x4400 64 ||
  regIn off 0x4800 4

/-! Module and link status. -/

/-- A module's status register (Table 14-3). -/
def LinkMod.stat (k : LinkMod) : Nat :=
  k.state + k.marginal * 2 ^ 14 + k.bad.length * 2 ^ 18 + k.spare 0 * 2 ^ 24 + k.spare 1 * 2 ^ 32 + k.retrains * 2 ^ 40 + k.crcErr * 2 ^ 48

/-- The link and module of status register `i` of an end: a slice, or from 4 up the keeper. -/
def statModule (e i : Nat) : Nat × Nat :=
  if e < 4 then (if i < 16 then (3 * e + i / 8, i % 8) else (3 * e + 2, i - 16))
  else if i < 16 then (12 + i / 4, i % 4) else if i < 40 then (16 + (i - 16) / 4, (i - 16) % 4) else (22 + (i - 40), 0)

/-- Read a module's status register: its RC fields are cleared. -/
def State.readStat (s : State) (e i : Nat) : State × Nat :=
  let q := statModule e i
  (s.modMod q.1 q.2 (fun k => { k with crcErr := 0, retrains := 0, marginal := 0 }), (s.linkMod q.1 q.2).stat)

/-- A link register (Table 14-4): payload capacity under R319, `down`, and at a slice whether its outgoing ring traffic
takes a detour. -/
def State.linkStat (s : State) (l : Nat) : Nat :=
  let st := (List.range (modulesOf l)).map (fun m => (s.linkMod l m).state)
  let full := (st.filter (fun x => x == 1)).length
  let half := (st.filter (fun x => x == 2)).length
  let n := l / 3
  let detour := decide (l < 12) && l % 3 != 2 && ((s.link (3 * ((n + 1) % 4))).down || (s.link (3 * ((n + 3) % 4) + 1)).down)
  125 * (2 * full + half) / 2 + (if (s.link l).down then 2 ^ 16 else 0) + (if detour then 2 ^ 17 else 0)

/-! The keeper page. -/

/-- KPR_BOOT_STAT (Table 16-2). -/
def State.bootStat (s : State) : Nat :=
  let b := s.boot
  b.repairsFailed % 65536 + b.repairsDone % 65536 * 2 ^ 16 + b.step * 2 ^ 32 + b.failStep * 2 ^ 48 + b.slices * 2 ^ 56 +
  (if b.failed then 2 ^ 62 else 0) + (if b.ready then 2 ^ 63 else 0)

/-- KPR_SLICE_CTL as read (Table 16-6). -/
def State.sliceCtl (s : State) : Nat :=
  (List.range 4).foldl (fun acc n =>
    acc + (if (s.slc n).run = 0 then 2 ^ (12 + n) else 0) + (if (s.slc n).run = 1 then 2 ^ (8 + n) else 0)) 0

/-- KPR_MGMT_STATUS as read (Table 18-5): result 2 until boot step 12 (R360). -/
def State.mgmtStatus (s : State) : Nat :=
  if !s.boot.ready then 2 * 2 ^ 16
  else s.kreg 0x48 + (if s.mgmtBusy.isSome || !s.mgmtQ.isEmpty then 2 ^ 63 else 0)

/-- KPR_BIAS_STATUS as read (Table 18-9). -/
def State.biasStat (s : State) : Nat := s.kreg 0x108 + (if s.biasReq.isSome || !s.biasWait.isEmpty then 2 ^ 63 else 0)

/-- KPR_OPk_STAT (Table 14-8). -/
def State.opStat (s : State) (p : Nat) : Nat :=
  let o := s.optic p
  o.partner.getD 0 % 256 + (if o.partner.isSome then 2 ^ 8 else 0) + (if s.portDown p then 2 ^ 9 else 0) + (if o.los then 2 ^ 10 else 0) +
  o.lambda * 2 ^ 16 + o.deny * 2 ^ 32 + o.retry * 2 ^ 48

/-- The 32 bytes of an error record entry (Table 19-8). -/
def errBytes (e : ErrEntry) : List Byte :=
  natLE 8 e.tick ++ natLE 1 e.source ++ natLE 1 e.code ++ natLE 1 e.recovery ++ [0] ++ natLE 4 e.number ++ padTo 16 0 e.detail

/-- A word of the error record (R413). -/
def State.errWord (s : State) (off : Nat) : Nat :=
  if off = 0x4000 then s.errs.total % 2 ^ 32 + (if s.errs.first.isSome then 2 ^ 32 else 0)
  else if off < 0x4100 then ((s.errs.first.map (fun e => field (errBytes e) (off - 0x4020) 8)).getD 0)
  else
    let k := (off - 0x4100) / 32
    match s.errs.latest.find? (fun e => e.number % 504 == k) with
    | some e => field (errBytes e) ((off - 0x4100) % 32) 8
    | none => 0

/-- KPR_TEST_STAT (Table 19-12). -/
def State.testStat (s : State) : Nat :=
  s.kreg 0x8400 * 2 ^ 32 + 1 +
  (List.range 4).foldl (fun acc n => if s.sliceUp n && !(s.link (12 + n)).down then acc + 2 ^ (n + 1) else acc) 0 + (if s.boot.lock then 2 ^ 63 else 0)

/-- Counters of the selected context or table (R408). -/
def State.selected (s : State) (off : Nat) : Nat :=
  let sel := s.kreg 0x8100
  if off < 0x8148 then
    (if s.isOpen (sel % 4096) then Tab.getD s.cntCtx (8 * (sel % 4096) + (off - 0x8108) / 8) 0 else 0)
  else
    (if (Tab.get? s.tables (bits sel 27 16)).isSome then Tab.getD s.cntTbl (4 * bits sel 27 16 + (off - 0x8148) / 8) 0 else 0)

/-- Read a register of the keeper page: the state after it, for its RC fields, and its value. -/
def State.keeperRead (s : State) (off : Nat) : State × Nat :=
  if !keeperReg off then (s, 0)
  else if off = 0x08 then (s, s.bootStat)
  else if off = 0x18 then (s, s.sliceCtl)
  else if off = 0x20 then (s, s.kTick)
  else if off = 0x28 then (s.setKreg 0x28 0, s.kreg 0x28)
  else if off = 0x48 then (s, s.mgmtStatus)
  else if off = 0x108 then (s, s.biasStat)
  else if off = 0x1A0 then (s.setKreg 0x1A0 0, s.kreg 0x1A0)
  else if regIn off 0x200 4 then (s, s.presenceWord ((off - 0x200) / 8))
  else if off = 0x248 then (s.setKreg 0x248 (putBits (s.kreg 0x248) 31 16 0), s.powerStat)
  else if regIn off 0x840 48 && (off - 0x840) % 64 == 0 then
    (s.modOptic ((off - 0x840) / 64) (fun o => { o with deny := 0, retry := 0 }), s.opStat ((off - 0x840) / 64))
  else if regIn off 0xC00 48 then s.readStat 4 ((off - 0xC00) / 8)
  else if regIn off 0xE00 18 then (s, s.linkStat (12 + (off - 0xE00) / 8))
  else if regIn off 0x4000 2048 then (s, s.errWord off)
  else if off = 0x8008 then
    ({ s with trace := { s.trace with lost := 0 } },
     satTo 0xFFFFFFFF s.trace.lost + s.trace.copied * 2 ^ 32 + (if s.dumping then 2 ^ 63 else 0))
  else if regIn off 0x8108 8 || regIn off 0x8148 4 then (s, s.selected off)
  else if regIn off 0x8200 14 then (s, Tab.getD s.cntKs ((off - 0x8200) / 8) 0)
  else if off = 0x8400 then (s.setKreg 0x8400 0, s.testStat)
  else (s, s.kreg off)

/-- Write a register of the keeper page through port `port`; registers that take no write ignore it (R9). [DEDUCED, log 39] -/
def State.keeperWrite (s : State) (port off data : Nat) : State :=
  if !keeperReg off then s.kregEvt
  else if off = 0x10 then s.bootCtl port (bitAt data 0) (bitAt data 1)
  else if off = 0x18 then (List.range 4).foldl (fun acc n => if bitAt data n then acc.restartTrigger n 0 else acc) s
  else if off = 0x40 then s.mgmtWrite port (data % 256) (bits data 31 16)
  else if off = 0x48 then (if bitAt data 62 then s.setKreg 0x48 (putBit (s.kreg 0x48) 62 false) else s)
  else if regIn off 0x80 16 then s.setKreg off data
  else if off = 0x100 then s.biasWrite port (bits data 18 0) (bits data 44 32) (bits data 31 20) (bitAt data 48) (bitAt data 49)
  else if off = 0x108 then (if bitAt data 62 then s.setKreg 0x108 (putBit (s.kreg 0x108) 62 false) else s)
  else if off = 0x130 then (if s.boot.step = 9 then s.setKreg 0x130 (data % 8192) else s.kregEvt)
  else if off = 0x180 then (if bitAt (s.kreg 0x188) 8 then s.kregEvt else s.setKreg 0x180 (data / 4096 * 4096))
  else if off = 0x188 then s.skewCtl data
  else if off = 0x198 then s.skewTail (data % 2 ^ 32)
  else if off = 0x240 then s.powerLimit (data % 65536)
  else if regIn off 0x400 64 then s.setKreg off (s.kreg off - (s.kreg off &&& data))
  else if off = 0x800 then s.opCtlWrite data
  else if off = 0x808 then (if bitAt (s.kreg 0x800) 0 then s.kregEvt else s.setKreg 0x808 (data % 2 ^ 32))
  else if regIn off 0x840 48 then
    (if (off - 0x840) % 64 = 0 then s else if (off - 0x840) % 64 = 8 then s.setKreg off (data % 65536) else s.setKreg off data)
  else if regIn off 0xA00 32 then (s.setKreg off (data &&& 0x7777777777777777)).presence 0
  else if off = 0x4000 then (if bitAt data 32 then { s with errs := { s.errs with first := none } } else s)
  else if off = 0x8000 then s.traceCtl data
  else if off = 0x8010 then s.traceDump data
  else if off = 0x8018 then s.traceMark data
  else if off = 0x8100 then s.setKreg 0x8100 (data &&& 0x0FFF0FFF)
  else s

/-! Slice pages. -/

/-- Whether a slice counter counts what no rule fixes: traffic and slots of channels, cycles of vats, cycles waiting for
trackers (R405 to R407 give such counts no value). [DESIGN CHOICE, log 32] -/
def freeCounter (off : Nat) : Bool :=
  (regIn off 0x4200 48 && decide ((off - 0x4200) % 0x80 < 0x30)) || regIn off 0x4400 64 || off == 0x4818

/-- Read a register of the page of PSn. [DESIGN CHOICE, log 32] -/
def State.sliceRead (s : State) (n off : Nat) : State × Nat :=
  if !sliceReg off then (s, 0)
  else if off = 0 then (s, Config.stageBase n)
  else if off = 8 then (s, (s.slc n).tick)
  else if off = 0x10 then (s.setSreg n 0x10 0, s.sreg n 0x10)
  else if regIn off 0x100 3 then (s, s.linkStat (3 * n + (off - 0x100) / 8))
  else if regIn off 0x200 20 then s.readStat n ((off - 0x200) / 8)
  else if freeCounter off then ({ s with freeCtr := s.freeCtr + 1 }, Config.freeNat s.freeCtr % 2 ^ 64)
  else (s, s.sreg n off)

/-- Write a register of the page of PSn. [DEDUCED, log 39] -/
def State.sliceWrite (s : State) (n off data : Nat) : State :=
  if !sliceReg off then s.regEvt n
  else if 0x1000 ≤ off ∧ off < 0x4000 then
    let i := (off - 0x1000) / 0x100
    match off % 0x100 with
    | 0 => s.tgWrite n i data
    | 8 => if bitAt (s.sreg n (tgReg i 0)) 62 then s.regEvt n else s.setSreg n off (data % 2 ^ 48 / 4096 * 4096)
    | 0x10 => if bitAt (s.sreg n (tgReg i 0)) 62 then s.regEvt n else s.setSreg n off (data % 2 ^ 48 / 4096 * 4096)
    | 0x18 => if bitAt (s.sreg n (tgReg i 0)) 62 then s.regEvt n else s.setSreg n off data
    | _ => s
  else s

/-! The register space of a port. -/

/-- A write at an offset of a port's register space (Table 18-1, R389). [DESIGN CHOICE, log 40] -/
def State.spaceWrite (s : State) (port offset size data : Nat) (poisoned : Bool) : State :=
  if !s.portUp port then s
  else if offset < 0x10000000 then
    let x := offset / 0x10000
    if (s.ctx x).fw && (s.ctx x).state != 0 then s.countHp port 4
    else s.windowStore port x (offset % 0x10000) (natLE size data) (List.replicate size true) poisoned
  else
    let good := size == 8 && offset % 8 == 0 && !poisoned
    if offset < 0x10010000 then (if good then s.keeperWrite port (offset % 0x10000) data else s.kregEvt)
    else if offset < 0x10050000 then
      let n := offset / 0x10000 - 0x1001
      if !s.sliceUp n then s else if good then s.sliceWrite n (offset % 0x10000) data else s.regEvt n
    else s

/-- A read at an offset of a port's register space (R273, R279, R290, R389). -/
def State.spaceRead (s : State) (port offset size : Nat) : State :=
  let reply := fun (r : State × Nat) => r.1.send (.readData port (natLE size r.2) false)
  if !s.hostReady then s
  else if !s.sliceUp port then s.send (.readData port (onesRead size) true)
  else if offset < 0x10000000 then
    let x := offset / 0x10000
    let off := offset % 0x10000
    if off = 0x010 ∧ size = 8 then s.flushBegin port none x
    else
      let r := s.windowLoad port x off size
      r.1.send (.readData port r.2.1 r.2.2)
  else if size ≠ 8 ∨ offset % 8 ≠ 0 then reply (s, 0)
  else if offset < 0x10010000 then reply (s.keeperRead (offset % 0x10000))
  else if offset < 0x10050000 then
    let n := offset / 0x10000 - 0x1001
    if s.sliceUp n then reply (s.sliceRead n (offset % 0x10000)) else s.send (.readData port (onesRead 8) true)
  else reply (s, 0)

/-- REGISTER_WRITE (R388 to R391). -/
def execRegisterWrite (port : Fin 4) (offset : Nat) (size : Nat) (data : Word) (poisoned : Bool) (s : State) :
    Host.Outcome State Fault Refusal :=
  .next (s.spaceWrite port.val (offset % 0x20000000) size data.toNat poisoned)

/-- REGISTER_READ (R9, R389, R390): every write received before it has taken effect, for each does in its own step. -/
def execRegisterRead (port : Fin 4) (offset : Nat) (size : Nat) (s : State) : Host.Outcome State Fault Refusal :=
  .next (s.spaceRead port.val (offset % 0x20000000) size)

end Sys2Proof.Machine
end

