-- ==== Sys2Proof/Machine/Dispatch.lean ====
section
/-! DEFINITION. The dispatcher: one arm for each constructor, a direct call of its meaning. -/

namespace Sys2Proof.Machine

/-- The effect of a command on everything but the queue. -/
def exec (i : Instr) (s : State) : Host.Outcome State Fault Refusal :=
  match i with
  | .lookup h => Sys2Proof.Machine.execLookup h s
  | .lookupPool h => Sys2Proof.Machine.execLookupPool h s
  | .scoreTopk h => Sys2Proof.Machine.execScoreTopk h s
  | .scatterGrad h => Sys2Proof.Machine.execScatterGrad h s
  | .applyStep h => Sys2Proof.Machine.execApplyStep h s
  | .rowWrite h => Sys2Proof.Machine.execRowWrite h s
  | .migrate h => Sys2Proof.Machine.execMigrate h s
  | .replicate h => Sys2Proof.Machine.execReplicate h s
  | .stream h => Sys2Proof.Machine.execStream h s
  | .multicast h => Sys2Proof.Machine.execMulticast h s
  | .tileRead h => Sys2Proof.Machine.execTileRead h s
  | .tileWrite h => Sys2Proof.Machine.execTileWrite h s
  | .fenceSignal h => Sys2Proof.Machine.execFenceSignal h s
  | .fenceWait h => Sys2Proof.Machine.execFenceWait h s
  | .barrier h => Sys2Proof.Machine.execBarrier h s
  | .buoy h => Sys2Proof.Machine.execBuoy h s
  | .planLoad h => Sys2Proof.Machine.execPlanLoad h s
  | .planBind h => Sys2Proof.Machine.execPlanBind h s
  | .planUnbind h => Sys2Proof.Machine.execPlanUnbind h s
  | .planUnload h => Sys2Proof.Machine.execPlanUnload h s
  | .tableOpen h => Sys2Proof.Machine.execTableOpen h s
  | .replaceBegin h => Sys2Proof.Machine.execReplaceBegin h s
  | .replaceCommit h => Sys2Proof.Machine.execReplaceCommit h s
  | .tableClose h => Sys2Proof.Machine.execTableClose h s
  | .hotLoad h => Sys2Proof.Machine.execHotLoad h s
  | .contextKill h => Sys2Proof.Machine.execContextKill h s
  | .query h => Sys2Proof.Machine.execQuery h s
  | .ctxOpen port tag => Sys2Proof.Machine.execCtxOpen port tag s
  | .ctxKill port tag => Sys2Proof.Machine.execCtxKill port tag s
  | .sqCreate port tag => Sys2Proof.Machine.execSqCreate port tag s
  | .sqDestroy port tag => Sys2Proof.Machine.execSqDestroy port tag s
  | .cqCreate port tag => Sys2Proof.Machine.execCqCreate port tag s
  | .cqDestroy port tag => Sys2Proof.Machine.execCqDestroy port tag s
  | .fenceAlloc port tag => Sys2Proof.Machine.execFenceAlloc port tag s
  | .fenceFree port tag => Sys2Proof.Machine.execFenceFree port tag s
  | .fenceGrant port tag => Sys2Proof.Machine.execFenceGrant port tag s
  | .fenceRevoke port tag => Sys2Proof.Machine.execFenceRevoke port tag s
  | .fwSet port tag => Sys2Proof.Machine.execFwSet port tag s
  | .biasToDevice port first count owner own => Sys2Proof.Machine.execBiasToDevice port first count owner own s
  | .biasToHost port first count owner own => Sys2Proof.Machine.execBiasToHost port first count owner own s
  | .bootRepair port => Sys2Proof.Machine.execBootRepair port s
  | .bootSkip port => Sys2Proof.Machine.execBootSkip port s
  | .sliceRestart slice trigger => Sys2Proof.Machine.execSliceRestart slice trigger s
  | .opEnable port on => Sys2Proof.Machine.execOpEnable port on s
  | .opUp port on => Sys2Proof.Machine.execOpUp port on s
  | .readmit port => Sys2Proof.Machine.execReadmit port s
  | .traceStart port data => Sys2Proof.Machine.execTraceStart port data s
  | .traceDeepRelease port data => Sys2Proof.Machine.execTraceDeepRelease port data s
  | .traceDump port addr => Sys2Proof.Machine.execTraceDump port addr s
  | .traceMark port value => Sys2Proof.Machine.execTraceMark port value s
  | .skewEnable port data => Sys2Proof.Machine.execSkewEnable port data s
  | .skewRelease port tail => Sys2Proof.Machine.execSkewRelease port tail s
  | .tgRun port chan data => Sys2Proof.Machine.execTgRun port chan data s
  | .tgStop port chan data => Sys2Proof.Machine.execTgStop port chan data s
  | .powerLimitWrite port cap => Sys2Proof.Machine.execPowerLimitWrite port cap s
  | .doorbell port ctx n tail => Sys2Proof.Machine.execDoorbell port ctx n tail s
  | .completionRelease port ctx n released => Sys2Proof.Machine.execCompletionRelease port ctx n released s
  | .fenceSlotCommit port ctx data => Sys2Proof.Machine.execFenceSlotCommit port ctx data s
  | .faultClear port ctx => Sys2Proof.Machine.execFaultClear port ctx s
  | .flush port ctx => Sys2Proof.Machine.execFlush port ctx s
  | .readBack port ctx offset => Sys2Proof.Machine.execReadBack port ctx offset s
  | .registerWrite port offset size data poisoned => Sys2Proof.Machine.execRegisterWrite port offset size data poisoned s
  | .windowWrite port ctx offset bytes enables poisoned => Sys2Proof.Machine.execWindowWrite port ctx offset bytes enables poisoned s
  | .memWrite port addr bytes poisoned => Sys2Proof.Machine.execMemWrite port addr bytes poisoned s
  | .memRead port addr count => Sys2Proof.Machine.execMemRead port addr count s
  | .snoop port addr => Sys2Proof.Machine.execSnoop port addr s
  | .atsInvalidation port pasid firstPage pages => Sys2Proof.Machine.execAtsInvalidation port pasid firstPage pages s
  | .atsResponse port who page read write toDevice target => Sys2Proof.Machine.execAtsResponse port who page read write toDevice target s
  | .goResponse port ctx => Sys2Proof.Machine.execGoResponse port ctx s
  | .commandPortTransaction port write ctx offset bytes poisoned => Sys2Proof.Machine.execCommandPortTransaction port write ctx offset bytes poisoned s
  | .packetFetch q => Sys2Proof.Machine.execPacketFetch q s
  | .packetReread q => Sys2Proof.Machine.execPacketReread q s
  | .admission q => Sys2Proof.Machine.execAdmission q s
  | .completionRecord h => Sys2Proof.Machine.execCompletionRecord h s
  | .waitSlotTimeout q => Sys2Proof.Machine.execWaitSlotTimeout q s
  | .fenceWaitTimeout h => Sys2Proof.Machine.execFenceWaitTimeout h s
  | .fenceApply => Sys2Proof.Machine.execFenceApply s
  | .fenceValueDelivery slice fence => Sys2Proof.Machine.execFenceValueDelivery slice fence s
  | .sealSend h => Sys2Proof.Machine.execSealSend h s
  | .sealArrival src table step => Sys2Proof.Machine.execSealArrival src table step s
  | .sealTimeout h => Sys2Proof.Machine.execSealTimeout h s
  | .barrierReached h => Sys2Proof.Machine.execBarrierReached h s
  | .barrierArrival src tag => Sys2Proof.Machine.execBarrierArrival src tag s
  | .barrierTimeout h => Sys2Proof.Machine.execBarrierTimeout h s
  | .detachTimeout h => Sys2Proof.Machine.execDetachTimeout h s
  | .epochAdopt slice table => Sys2Proof.Machine.execEpochAdopt slice table s
  | .drainComplete table => Sys2Proof.Machine.execDrainComplete table s
  | .versionPublication table => Sys2Proof.Machine.execVersionPublication table s
  | .tileDrain slice vat => Sys2Proof.Machine.execTileDrain slice vat s
  | .killStepDone ctx => Sys2Proof.Machine.execKillStepDone ctx s
  | .flitReceive link module flit => Sys2Proof.Machine.execFlitReceive link module flit s
  | .linkControlFlit link module flit => Sys2Proof.Machine.execLinkControlFlit link module flit s
  | .moduleLockLoss link module => Sys2Proof.Machine.execModuleLockLoss link module s
  | .retrainComplete link module failRx failTx => Sys2Proof.Machine.execRetrainComplete link module failRx failTx s
  | .frameReceive port frame => Sys2Proof.Machine.execFrameReceive port frame s
  | .beaconSend port => Sys2Proof.Machine.execBeaconSend port s
  | .beaconReceive port b => Sys2Proof.Machine.execBeaconReceive port b s
  | .peerRowRequest src table mapId row tag => Sys2Proof.Machine.execPeerRowRequest src table mapId row tag s
  | .rowReply src tag reply => Sys2Proof.Machine.execRowReply src tag reply s
  | .contributionArrival src srcSlice table mapId step row batch elems tag => Sys2Proof.Machine.execContributionArrival src srcSlice table mapId step row batch elems tag s
  | .scanRequest src table mapId tag packet image variant queries mask parts => Sys2Proof.Machine.execScanRequest src table mapId tag packet image variant queries mask parts s
  | .scanPartial src tag fed masked absent part answer => Sys2Proof.Machine.execScanPartial src tag fed masked absent part answer s
  | .replicaWrite src table mapId row bytes poison tag => Sys2Proof.Machine.execReplicaWrite src table mapId row bytes poison tag s
  | .linkControlFrame port head body => Sys2Proof.Machine.execLinkControlFrame port head body s
  | .missTimeout port => Sys2Proof.Machine.execMissTimeout port s
  | .lossOfLight port => Sys2Proof.Machine.execLossOfLight port s
  | .opLos port dark => Sys2Proof.Machine.execOpLos port dark s
  | .opLock port locked => Sys2Proof.Machine.execOpLock port locked s
  | .wavelengthChange port count => Sys2Proof.Machine.execWavelengthChange port count s
  | .lossStateAdopt slice => Sys2Proof.Machine.execLossStateAdopt slice s
  | .powerSample rails junctions => Sys2Proof.Machine.execPowerSample rails junctions s
  | .powerWindow => Sys2Proof.Machine.execPowerWindow s
  | .slewPeriod slice demand => Sys2Proof.Machine.execSlewPeriod slice demand s
  | .thermalSample stack value => Sys2Proof.Machine.execThermalSample stack value s
  | .splitReselect stack plans => Sys2Proof.Machine.execSplitReselect stack plans s
  | .sectorRead stack offset result retried => Sys2Proof.Machine.execSectorRead stack offset result retried s
  | .repair stack => Sys2Proof.Machine.execRepair stack s
  | .retireMove stack => Sys2Proof.Machine.execRetireMove stack s
  | .scrubPatrol stack result => Sys2Proof.Machine.execScrubPatrol stack result s
  | .scrubLate stack => Sys2Proof.Machine.execScrubLate stack s
  | .counterForward slice => Sys2Proof.Machine.execCounterForward slice s
  | .skewWindowEnd slice => Sys2Proof.Machine.execSkewWindowEnd slice s
  | .skewMerge => Sys2Proof.Machine.execSkewMerge s
  | .queueWrite queue word vbytes psec last => Sys2Proof.Machine.execQueueWrite queue word vbytes psec last s
  | .queueRead queue => Sys2Proof.Machine.execQueueRead queue s
  | .queueDrop queue => Sys2Proof.Machine.execQueueDrop queue s
  | .por => Sys2Proof.Machine.execPor s
  | .engineReset => Sys2Proof.Machine.execEngineReset s
  | .resetRelease engine gsize => Sys2Proof.Machine.execResetRelease engine gsize s
  | .bootStepDone result => Sys2Proof.Machine.execBootStepDone result s
  | .restartStepDone slice result => Sys2Proof.Machine.execRestartStepDone slice result s
  | .powerOff => Sys2Proof.Machine.execPowerOff s
  | .tapInstruction code data => Sys2Proof.Machine.execTapInstruction code data s
  | .h2dResponse port who line data poisoned => Sys2Proof.Machine.execH2dResponse port who line data poisoned s
  | .registerRead port offset size => Sys2Proof.Machine.execRegisterRead port offset size s

end Sys2Proof.Machine
end

