-- ==== Sys2Proof/Machine/Work.lean ====
section
/-! DEFINITION. What goes on while nothing is commanded: a step on an empty queue is one cycle of the sequencers (R5, R355), in which the
tick counters advance and what waited inside the engine is tried again. -/

namespace Sys2Proof.Machine

open Sys2Proof

/-- The tick counters: every slice out of reset counts one tick; at every second cycle the keeper counts two (R355). [DESIGN CHOICE, log 30] -/
def State.tickAll (s : State) : State :=
  { s with
    half := !s.half, kTick := if s.half then s.kTick + 2 else s.kTick,
    slices := s.slices.map (fun l => if l.clocked then { l with tick := l.tick + 1 } else l) }

/-- What waited for lines, slices or earlier work is tried again: writes of the engine's own, and requests of peers; when nothing of that
kind waits, the lines granted to it go. [DESIGN CHOICE, log 30] -/
def State.ownWork (s : State) : State :=
  let s1 := s.workRetry.serveAll
  if s1.work.isEmpty && s1.heldPeer.isEmpty then s1.release .engine else s1

/-- One `seq` cycle. [DESIGN CHOICE, log 30] -/
def State.idle (s : State) : State :=
  if !s.live then s
  else
    let s1 := s.tickAll.ownWork
    let s2 := ((s1.cmds.filter (fun p => p.2.opcode == 0xA)).map Prod.fst).foldl State.mcCycle s1
    let s3 := (List.range 12).foldl State.tgCycle s2.frames
    (s3.cdc.map Prod.fst).foldl State.cdcCycle s3

end Sys2Proof.Machine
end

