-- ==== Sys2Proof/Safety.lean ====
section
/-! DEFINITION. What a state and a step must keep for a run to count as safe, in the terms the statements use. -/

namespace Sys2Proof.Machine

open Sys2Proof

/-- The canonical form of a cell list: addresses strictly rising, no byte equal to what an unlisted address reads as. -/
def cellsWf : List Host.Cell → Bool
  | [] => true
  | [p] => p.2 != 0
  | p :: q :: r => p.2 != 0 && decide (p.1 < q.1) && cellsWf (q :: r)

/-- Whether a list of numbers is strictly rising. -/
def rising : List Nat → Bool
  | [] => true
  | [_] => true
  | a :: b :: r => decide (a < b) && rising (b :: r)

/-- Device memory in canonical form: its bytes, its poisoned sectors and its uncorrectable sectors. -/
def Mem.wf (m : Mem) : Bool := cellsWf m.cells && rising m.poison && rising m.bad

/-- What every step keeps: device memory stays in its one canonical form. -/
abbrev State.inv (s : State) : Prop := s.dev.wf = true

/-- A step is safe when it ends in a next state whose memory is canonical. -/
def Safe (s : State) : Prop := ∃ t, step s = .next t ∧ t.inv

/-- Every byte of device memory that the address set `keep` names reads the same in both states. -/
def sameBytes (keep : Nat → Prop) (s t : State) : Prop := ∀ a, keep a → t.dev.byte a = s.dev.byte a

end Sys2Proof.Machine
end

