-- ==== Sys2Proof/WellFormed.lean ====
section
/-! DEFINITION. Which commands can arrive at all: the widths and ranges that the interface of each row has (Tables 18-1, 14-1, 14-6,
14-9, 15-2, 11-1; R272, R294, R318, R380). `exec` gives a meaning to ill-formed commands too; what arrives is well-formed. -/

namespace Sys2Proof

/-- Whether an access size of the register space is one the host path carries: 1 to 64 bytes, a power of two (R273). -/
def sizeOk (n : Nat) : Bool := [1, 2, 4, 8, 16, 32, 64].contains n

/-- Whether a beacon's fields have the widths of Table 14-9. -/
def Beacon.wf (b : Beacon) : Bool :=
  decide (b.engine < 256) && decide (b.group < 65536) && decide (b.admitNo < 65536) && decide (b.inc < 2 ^ 32) &&
  decide (b.bseq < 2 ^ 32) && decide (b.state < 256) && decide (b.presence < 2 ^ 256)

/-- Whether a table number, a row index and a map id have their widths (R24, R65). -/
def tableOk (t : Nat) : Bool := decide (t < 4096)
def rowOk (r : Nat) : Bool := decide (r < 2 ^ 40)
def word32 (m : Nat) : Bool := decide (m < 2 ^ 32)

/-- Whether an engine number exists (R380). -/
def engineOk (e : Nat) : Bool := decide (e < 256)

/-- Whether a link and module number exist (Table 14-1), and a flit is 256 bytes (R318). -/
def linkOk (link module : Nat) : Bool := decide (link < 30) && decide (module < 8)
def flitOk (flit : List Byte) : Bool := flit.length == 256

/-- Whether a crossing queue exists: fourteen at each slice, sixteen numbers apart (Table 15-2). -/
def queueOk (q : Nat) : Bool := decide (q < 64) && decide (q % 16 < 14)

/-- Whether the operands of a command have the ranges of its interface. -/
def Instr.wf (i : Instr) : Bool :=
  match i with
  | .lookup _ | .lookupPool _ | .scoreTopk _ | .scatterGrad _ | .applyStep _ | .rowWrite _ | .migrate _ | .replicate _
  | .stream _ | .multicast _ | .tileRead _ | .tileWrite _ | .fenceSignal _ | .fenceWait _ | .barrier _ | .buoy _
  | .planLoad _ | .planBind _ | .planUnbind _ | .planUnload _ | .tableOpen _ | .replaceBegin _ | .replaceCommit _
  | .tableClose _ | .hotLoad _ | .contextKill _ | .query _ => true
  | .ctxOpen _ _ | .ctxKill _ _ | .sqCreate _ _ | .sqDestroy _ _ | .cqCreate _ _ | .cqDestroy _ _ | .fenceAlloc _ _
  | .fenceFree _ _ | .fenceGrant _ _ | .fenceRevoke _ _ | .fwSet _ _ => true
  | .biasToDevice _ first count _ _ => decide (first < 2 ^ 19) && decide (count < 2 ^ 13)
  | .biasToHost _ first count _ _ => decide (first < 2 ^ 19) && decide (count < 2 ^ 13)
  | .bootRepair _ | .bootSkip _ | .sliceRestart _ _ | .opEnable _ _ | .opUp _ _ | .readmit _ | .traceStart _ _
  | .traceDeepRelease _ _ | .traceDump _ _ | .traceMark _ _ | .skewEnable _ _ | .skewRelease _ _ | .tgRun _ _ _
  | .tgStop _ _ _ | .powerLimitWrite _ _ | .doorbell _ _ _ _ | .completionRelease _ _ _ _ | .fenceSlotCommit _ _ _
  | .faultClear _ _ | .flush _ _ | .readBack _ _ _ => true
  | .registerWrite _ offset size _ _ => decide (offset < 2 ^ 29) && sizeOk size && decide (size ≤ 8)
  | .windowWrite _ _ offset bytes enables _ =>
    decide (offset < 65536) && sizeOk bytes.length && enables.length == bytes.length
  | .memWrite _ addr bytes _ => !bytes.isEmpty && decide (addr < 2 ^ 52)
  | .memRead _ addr count => decide (0 < count) && decide (addr < 2 ^ 52)
  | .snoop _ addr => decide (addr < 2 ^ 52)
  | .atsInvalidation _ _ firstPage pages => decide (firstPage + pages ≤ 2 ^ 52)
  | .atsResponse _ _ page _ _ _ target => decide (page < 2 ^ 52) && decide (target < 2 ^ 52)
  | .goResponse _ _ => true
  | .commandPortTransaction _ _ ctx offset bytes _ =>
    decide (ctx < 4096) && decide (offset < 65536) && decide (1 ≤ bytes.length ∧ bytes.length ≤ 64)
  | .packetFetch q => decide (q < Config.queues)
  | .packetReread q => decide (q < Config.queues)
  | .admission q => decide (q < Config.queues)
  | .completionRecord _ => true
  | .waitSlotTimeout q => decide (q < Config.queues)
  | .fenceWaitTimeout _ | .fenceApply => true
  | .fenceValueDelivery _ fence => decide (fence < Config.fences)
  | .sealSend _ => true
  | .sealArrival src table _ => engineOk src && tableOk table
  | .sealTimeout _ | .barrierReached _ => true
  | .barrierArrival src _ => engineOk src
  | .barrierTimeout _ | .detachTimeout _ => true
  | .epochAdopt _ table => tableOk table
  | .drainComplete table => tableOk table
  | .versionPublication table => tableOk table
  | .tileDrain _ _ | .killStepDone _ => true
  | .flitReceive link module flit => linkOk link module && flitOk flit
  | .linkControlFlit link module flit => linkOk link module && flitOk flit
  | .moduleLockLoss link module => linkOk link module
  | .retrainComplete link module _ _ => linkOk link module
  | .frameReceive _ frame => frame.length == 256
  | .beaconSend _ => true
  | .beaconReceive _ b => b.wf
  | .peerRowRequest src table mapId row _ => engineOk src && tableOk table && word32 mapId && rowOk row
  | .rowReply src _ _ => engineOk src
  | .contributionArrival src _ table mapId _ row batch elems _ =>
    engineOk src && tableOk table && word32 mapId && rowOk row && word32 batch && decide (elems.length ≤ 4096)
  | .scanRequest src table mapId _ packet _ _ queries _ _ =>
    engineOk src && tableOk table && word32 mapId && packet.length == 64 && decide (queries.length ≤ 64)
  | .scanPartial src _ _ _ _ _ a => engineOk src && a.events.length == 4 && decide (a.queries.length ≤ 64)
  | .replicaWrite src table mapId row _ _ _ => engineOk src && tableOk table && word32 mapId && rowOk row
  | .linkControlFrame _ head body => head.length == 8 && body.length == 248
  | .missTimeout _ | .lossOfLight _ | .opLos _ _ | .opLock _ _ | .wavelengthChange _ _ | .lossStateAdopt _ => true
  | .powerSample rails junctions => rails.length == 18 && junctions.length == 10
  | .powerWindow | .slewPeriod _ _ | .thermalSample _ _ | .splitReselect _ _ => true
  | .sectorRead _ offset _ _ => decide (offset < Config.stackBytes) && offset % 32 == 0
  | .repair _ | .retireMove _ | .scrubPatrol _ _ | .scrubLate _ | .counterForward _ | .skewWindowEnd _ | .skewMerge => true
  | .queueWrite queue _ _ _ _ => queueOk queue
  | .queueRead queue => queueOk queue
  | .queueDrop queue => queueOk queue
  | .por | .engineReset | .resetRelease _ _ => true
  | .bootStepDone result => decide (result < 2 ^ 4096)
  | .restartStepDone _ result => decide (result < 16)
  | .powerOff => true
  | .tapInstruction _ _ => true
  | .h2dResponse _ _ _ data _ => data.length == 64
  | .registerRead _ offset size => decide (offset < 2 ^ 29) && sizeOk size

end Sys2Proof
end

