-- ==== Sys2Proof/Certificates/Slice0/Obligations.lean ====
section
/-! DEFINITION. The statements about the model. Each docstring names the rules that a statement rests on; where it rests on a
choice of the model it names the log entry. `Completes i s P` says that the command answers a next state with `P`. -/

namespace Sys2Proof.Claims

open Sys2Proof Sys2Proof.Machine

/-- The command answers a next state that satisfies `P`. -/
def Completes (i : Instr) (s : State) (P : State → Prop) : Prop := ∃ t, exec i s = .next t ∧ P t

/-- The command answers exactly the next state `t`: every part of the state that `t` does not change is unchanged. -/
def Gives (i : Instr) (s t : State) : Prop := exec i s = .next t

/-- Command `h` has ended, and its completion record waits. -/
def Done (t : State) (h : Nat) (d : Cmd) : Prop := Tab.get? t.cmds h = some d ∧ d.phase = .done

/-- Parts of the state that no command past its admission changes on its own, even where it sends to peers: contexts' queues and rings,
plans, links, channels, boot, power. -/
def SameInside (s t : State) : Prop :=
  t.pending = s.pending ∧ t.sqs = s.sqs ∧ t.cqs = s.cqs ∧ t.plans = s.plans ∧ t.fw = s.fw ∧ t.links = s.links ∧ t.mods = s.mods ∧
  t.chans = s.chans ∧ t.boot = s.boot ∧ t.power = s.power ∧ t.cdc = s.cdc ∧ t.declared = s.declared

/-- The same parts and the optical ports: nothing is sent to a peer. -/
def SamePlaces (s t : State) : Prop := SameInside s t ∧ t.optics = s.optics

/-- Addresses outside the device bytes that a command's output writes land on. -/
def offWrites (l : List (OutWr × List Landing)) (a : Nat) : Prop :=
  ∀ p ∈ l, ∀ x ∈ p.2, ∀ d ∈ x.device, a < d.1 ∨ d.1 + d.2.length ≤ a

/-- Addresses outside the whey counters that a command increments. -/
def offWhey (l : List (Option Nat)) (a : Nat) : Prop := ∀ d, some d ∈ l → a < d ∨ d + 8 ≤ a

/-- Addresses outside the `n` bytes at `b`. -/
def off (b n a : Nat) : Prop := a < b ∨ b + n ≤ a

end Sys2Proof.Claims

open Sys2Proof Sys2Proof.Machine Sys2Proof.Claims

/-! The machine. -/

/-- A step runs the command at the front of the queue on the state with the queue's rest. -/
def Obligations.StepRunsFrontCommand : Prop :=
  ∀ (s : State) (c : Instr) (r : List Instr), s.pending = c :: r → step s = exec c { s with pending := r }

/-- R5, R355 (log entry 30): a step on an empty queue is one cycle of the sequencers: every slice out of reset counts one
tick, the keeper two at every second cycle. Where nothing waits inside the engine (no write of its own, no request of a peer, no
multicast, no traffic generator, no split, no crossing queue), nothing else changes but that lines granted to the engine itself are
given up; and nothing at all changes without power or in reset. -/
def Obligations.EmptyQueueStepIsOneCycle : Prop :=
  ∀ s : State, s.pending = [] →
    (s.live = false → step s = .next s) ∧
    (s.live = true → s.work = [] → s.heldPeer = [] → s.cdc = [] → (∀ p ∈ s.cmds, p.2.opcode ≠ 0xA) →
      (∀ p ∈ s.chans, p.2.tg = none ∧ p.2.nextSplit = none) → step s = .next { s with
        half := !s.half, kTick := if s.half then s.kTick + 2 else s.kTick,
        slices := s.slices.map (fun l => if l.clocked then { l with tick := l.tick + 1 } else l),
        lines := s.lines.filter (fun l => l.who != .engine) })

/-- R354, R355, R367, Tables 16-1, 18-2, 18-3: in the reset state every tick counter is 0, every slice is held in reset, boot has not begun,
every context is FREE, there are no commands, queues, rings, plans or tables, the power cap is 260 W, KPR_FENCE_BASE holds its address,
KPR_OP_CTL is 0, and every byte of device memory reads 0. -/
def Obligations.ResetValues : Prop :=
  State.reset.kTick = 0 ∧ State.reset.slices.length = 4 ∧ (∀ l ∈ State.reset.slices, l.tick = 0 ∧ l.run = 0) ∧
  State.reset.boot.step = 0 ∧ State.reset.boot.ready = false ∧ (∀ x, (State.reset.ctx x).state = 0) ∧
  State.reset.cmds = [] ∧ State.reset.sqs = [] ∧ State.reset.cqs = [] ∧ State.reset.plans = [] ∧ State.reset.tables = [] ∧
  State.reset.kreg 0x240 = 260 ∧ State.reset.kreg 0x118 = Config.fenceBase ∧ State.reset.kreg 0x800 = 0 ∧
  (∀ a, State.reset.dev.byte a = 0)

/-- Device memory stays in its canonical form through every step. -/
def Obligations.EveryStepKeepsMemoryCanonical : Prop :=
  ∀ s t : State, s.inv → step s = .next t → t.inv

/-- The memory of the reset state is in canonical form. -/
def Obligations.ResetMemoryIsCanonical : Prop := State.reset.inv

/-- R294: no command is refused, and the only fault is a host read or write of device memory that reaches beyond 576 GiB. -/
def Obligations.OnlyAbsentAddressesStop : Prop :=
  ∀ (i : Instr) (s : State), (∀ r, exec i s ≠ .refused r) ∧
    (∀ f, exec i s = .fault f →
      (∃ port addr bytes poisoned, i = .memWrite port addr bytes poisoned ∧ Config.devBytes < addr + bytes.length ∧
        f = .noSuchAddress addr) ∨
      (∃ port addr count, i = .memRead port addr count ∧ Config.devBytes < addr + count ∧ f = .noSuchAddress addr))

/-- R294, R306: a byte written reads back; every other byte reads as before. -/
def Sys2Proof.Claims.DeviceReadAfterWrite : Prop :=
  ∀ (m : Mem) (a : Nat) (bs : List PB), m.wf = true →
    (∀ i, i < bs.length → (m.write a bs).byte (a + i) = (bs.getD i ⟨0, 0⟩).b) ∧
    (∀ x, off a bs.length x → (m.write a bs).byte x = m.byte x)

/-- R305, R306: a clean write of a whole sector leaves it clean; a clean write of a part leaves a sector that reads uncorrectable or
poisoned as poisoned; a sector that the write does not touch keeps its state. -/
def Sys2Proof.Claims.SectorStateAfterWrite : Prop :=
  ∀ (m : Mem) (a : Nat) (bs : List Byte), bs ≠ [] →
    ∀ k, (m.writeClean a bs).sector k =
      if k < a / 32 ∨ (a + bs.length - 1) / 32 < k then m.sector k
      else if a ≤ 32 * k ∧ 32 * k + 32 ≤ a + bs.length then 0
      else if m.sector k = 0 then 0 else 4

/-- R294, R305, R306: what device memory and its sectors read as after a write. -/
def Obligations.DeviceMemoryAfterWrite : Prop := Claims.DeviceReadAfterWrite ∧ Claims.SectorStateAfterWrite

/-! The host port. -/

/-- R169, R246, R254, R274, R287, R290, R294, R359: a host write of device memory outside a repair of its stack puts its bytes there; bytes in a
region of an open table are free, and the regions that only the engine writes (log entry 89) keep theirs; a poisoned one marks
both sectors of every line that it touches. Every other byte and everything else stays. Under a repair it waits, and on a slice in
reset it is dropped. -/
def Obligations.MemWriteStores : Prop :=
  ∀ (s : State) (port : Fin 4) (addr : Nat) (bytes : List Byte) (poisoned : Bool), s.inv → s.portUp port.val = true →
    addr + bytes.length ≤ Config.devBytes →
    (s.repairing addr bytes.length = false → s.sliceUp (sliceOf addr) = true → Completes (.memWrite port addr bytes poisoned) s (fun t =>
      (∀ i, i < bytes.length → t.dev.byte (addr + i) = if guarded (addr + i) then s.dev.byte (addr + i)
        else if s.inTable (addr + i) then Config.freeByte (s.freeCtr + i) else bytes.getD i 0) ∧
      (poisoned = true → (∀ i, i < bytes.length → guarded (addr + i) = false) → bytes ≠ [] →
        ∀ k, 2 * (addr / 64) ≤ k → k ≤ 2 * ((addr + bytes.length - 1) / 64) + 1 → t.dev.sector k = 4) ∧
      sameBytes (off addr bytes.length) s t ∧ t = { s with dev := t.dev, freeCtr := s.freeCtr + bytes.length })) ∧
    (s.repairing addr bytes.length = false → s.sliceUp (sliceOf addr) = false → Gives (.memWrite port addr bytes poisoned) s s) ∧
    (s.repairing addr bytes.length = true →
      Gives (.memWrite port addr bytes poisoned) s { s with memHeld := s.memHeld ++ [.memWrite port addr bytes poisoned] })

/-- R274, R287: outside the repairs of boot, a host read of a line that a host write has just filled returns the bytes written. -/
def Sys2Proof.Claims.HostWriteReadsBack : Prop :=
  ∀ (s : State) (port : Fin 4) (addr : Nat) (bytes : List Byte), s.inv → s.portUp port.val = true → s.boot.step ≠ 10 →
    addr % 64 = 0 → bytes.length = 64 → addr + 64 ≤ Config.devBytes → s.sliceUp (sliceOf addr) = true →
    (∀ i, i < 64 → guarded (addr + i) = false ∧ s.inTable (addr + i) = false) →
    Completes (.memWrite port addr bytes false) s (fun t =>
      Gives (.memRead port addr 64) t { t with out := t.out ++ [.readData port.val bytes false], freeCtr := t.freeCtr + 64 })

/-- R287, R290, R359: a host read answers with the lines that hold its bytes, in order: the data of a line whose sectors are clean, if the
slices of the line and of the port run, and a poisoned response for every other line. It changes nothing but what has left at the port and the count of free
values. Under a repair of its stack it waits. -/
def Sys2Proof.Claims.MemReadAnswers : Prop :=
  ∀ (s : State) (port : Fin 4) (addr count : Nat), s.hostReady = true → addr + count ≤ Config.devBytes →
    (s.repairing addr count = false → 0 < count →
      Completes (.memRead port addr count) s (fun t => ∃ ms : List Msg, t = { s with out := s.out ++ ms, freeCtr := t.freeCtr } ∧
        ms.length = (addr + count - 1) / 64 + 1 - addr / 64 ∧
        (∀ i a, i < ms.length → a = 64 * (addr / 64 + i) →
          (s.sliceUp port.val = true → s.sliceUp (sliceOf a) = true → (∀ j, j < 64 → s.dev.sector ((a + j) / 32) = 0) →
            ms[i]? = some (.readData port.val (s.dev.bytes a 64) false)) ∧
          (s.sliceUp port.val = false ∨ s.sliceUp (sliceOf a) = false ∨ (∃ j, j < 64 ∧ s.dev.sector ((a + j) / 32) ≠ 0) →
            ∃ d, ms[i]? = some (.readData port.val d true))))) ∧
    (s.repairing addr count = true → Gives (.memRead port addr count) s { s with memHeld := s.memHeld ++ [.memRead port addr count] })

/-- R294: beyond 576 GiB a read and a write stop with a fault of their own. -/
def Sys2Proof.Claims.AbsentAddressFaults : Prop :=
  ∀ (s : State) (port : Fin 4) (addr count : Nat) (bytes : List Byte) (poisoned : Bool), s.portUp port.val = true →
    (Config.devBytes < addr + count → exec (.memRead port addr count) s = .fault (.noSuchAddress addr)) ∧
    (Config.devBytes < addr + bytes.length → exec (.memWrite port addr bytes poisoned) s = .fault (.noSuchAddress addr))

/-- Table 12-1: a snoop is answered RspIHitI and changes nothing else. -/
def Sys2Proof.Claims.SnoopMisses : Prop :=
  ∀ (s : State) (port : Fin 4) (addr : Nat), s.portUp port.val = true →
    Gives (.snoop port addr) s { s with out := s.out ++ [.snoopMiss port.val] }

/-- R274, R287, R290, R294, R359, Table 12-1: host reads, lines written and read back, absent addresses and snoops. -/
def Obligations.HostMemoryIsRead : Prop :=
  Claims.MemReadAnswers ∧ Claims.HostWriteReadsBack ∧ Claims.AbsentAddressFaults ∧ Claims.SnoopMisses

/-- The window writes of a context that is open, not firewall-bound, through a port that serves requests. -/
abbrev Sys2Proof.Claims.Window (s : State) (port x : Nat) : Prop :=
  s.portUp port = true ∧ s.isOpen x = true ∧ (s.ctx x).fw = false

/-- R249, R250: a doorbell through the owning slice whose tail lies within the queue size is taken and restarts a stopped queue;
every other one is ignored and counted. Nothing else changes. -/
def Sys2Proof.Claims.DoorbellTakesTail : Prop :=
  ∀ (s : State) (port : Fin 4) (x : Fin 4096) (n : Fin 64) (tail : BitVec 32) (q : Nat) (k : SQ), Window s port.val x.val →
    s.queueOf x.val n.val = some (q, k) → Tab.get? s.sqs q = some k →
    (k.slice = port.val ∧ (tail.toNat + 2 ^ 32 - k.fetch % 2 ^ 32) % 2 ^ 32 ≤ 2 ^ k.logSize →
      Gives (.doorbell port x n tail) s { s with
        sqs := Tab.set s.sqs q { k with tail := tail.toNat, stopped := false, reread := if k.stopped then none else k.reread } }) ∧
    (¬ (k.slice = port.val ∧ (tail.toNat + 2 ^ 32 - k.fetch % 2 ^ 32) % 2 ^ 32 ≤ 2 ^ k.logSize) →
      Gives (.doorbell port x n tail) s { s with sqs := Tab.set s.sqs q { k with ignored := satTo 255 (k.ignored + 1) } })

/-- R251: a release that leaves at most the ring's size free is taken; every other one is ignored and counted. -/
def Sys2Proof.Claims.ReleaseTakesCount : Prop :=
  ∀ (s : State) (port : Fin 4) (x : Fin 4096) (n : Fin 64) (rel : BitVec 32) (r : Nat) (k : CQ), Window s port.val x.val →
    s.ringOf x.val n.val = some (r, k) →
    ((k.written + 2 ^ 32 - rel.toNat) % 2 ^ 32 ≤ 2 ^ k.logSize →
      Gives (.completionRelease port x n rel) s { s with cqs := Tab.set s.cqs r { k with released := rel.toNat } }) ∧
    (2 ^ k.logSize < (k.written + 2 ^ 32 - rel.toNat) % 2 ^ 32 →
      Gives (.completionRelease port x n rel) s { s with cqs := Tab.set s.cqs r { k with ignored := satTo 255 (k.ignored + 1) } })

/-- R249 to R251: doorbells and releases. -/
def Obligations.QueueCountersFollowWrites : Prop := Claims.DoorbellTakesTail ∧ Claims.ReleaseTakesCount

/-- R252, R402: the commit configures the entry that the slice's page selects, in a queue of that slice; it is valid if the
fence is live and the context has a right on it, and marked in error if not. -/
def Sys2Proof.Claims.FenceSlotCommitConfigures : Prop :=
  ∀ (s : State) (port : Fin 4) (x : Fin 4096) (data : Word) (q e : Nat) (k : SQ), Window s port.val x.val →
    s.selectedEntry port.val x.val = some (q, e) → Tab.get? s.sqs q = some k →
    Completes (.fenceSlotCommit port x data) s (fun t => ∃ f : FSlot, ∃ good : Bool,
      t = { s with sqs := Tab.set s.sqs q { k with slots := Tab.set k.slots e f } } ∧
      good = (s.fenceState (bits data.toNat 49 32) == 1 &&
        (s.fenceRight (bits data.toNat 49 32) x.val 12 || s.fenceRight (bits data.toNat 49 32) x.val 13)) ∧
      f.fence = bits data.toNat 49 32 ∧ f.step = bits data.toNat 61 52 ∧ f.timeout = data.toNat % 2 ^ 32 ∧
      f.value = (Tab.getD k.slots e {}).value ∧ f.valid = (bitAt data.toNat 63 && good) ∧ f.err = (bitAt data.toNat 63 && !good))

/-- R261, R273: the clear empties the fault record of its context, open or not, and changes nothing else. -/
def Sys2Proof.Claims.FaultClearEmptiesRecord : Prop :=
  ∀ (s : State) (port : Fin 4) (x : Fin 4096), s.portUp port.val = true → ((s.ctx x.val).fw = false ∨ (s.ctx x.val).state = 0) →
    Completes (.faultClear port x) s (fun t =>
      t = { s with ctxs := t.ctxs } ∧ (∀ y, y ≠ x.val → t.ctx y = s.ctx y) ∧
      t.ctx x.val = { s.ctx x.val with fault := { (s.ctx x.val).fault with valid := false, more := false, count := 0 } })

/-- R252, R261, R273, R402: fence slot commits and fault clears. -/
def Obligations.ControlPageWritesAct : Prop := Claims.FenceSlotCommitConfigures ∧ Claims.FaultClearEmptiesRecord

/-- R279: a flush is answered at once when nothing of the context is outstanding, else it waits for the writes of each slice. -/
def Sys2Proof.Claims.FlushWaitsForWrites : Prop :=
  ∀ (s : State) (port : Fin 4) (x : Fin 4096), s.portUp port.val = true →
    ((∀ w ∈ s.hostWr, w.ctx ≠ x.val ∨ 4 ≤ w.slice) → Gives (.flush port x) s { s with
      out := s.out ++ [.readData port.val (natLE 8 (s.ctlRead port.val x.val 0x010)) false] }) ∧
    ((∃ w ∈ s.hostWr, w.ctx = x.val ∧ w.slice < 4) → Completes (.flush port x) s (fun t =>
      ∃ f : FlushWait, t = { s with flushes := s.flushes ++ [f] } ∧ f.port = port.val ∧ f.ctx = x.val ∧
        ∀ n k, (n, k) ∈ f.waits ↔ n < 4 ∧ 0 < k ∧ k = (s.hostWr.filter (fun w => w.slice == n && w.ctx == x.val)).length))

/-- R273, R274: an aligned read-back of a control-page register answers with the register and changes nothing. -/
def Sys2Proof.Claims.ReadBackAnswers : Prop :=
  ∀ (s : State) (port : Fin 4) (x : Fin 4096) (o : Fin 4096), s.portUp port.val = true → o.val % 8 = 0 → o.val ≠ 0x010 →
    Gives (.readBack port x o) s { s with
      out := s.out ++ [.readData port.val (natLE 8 (s.ctlRead port.val x.val o.val)) false] }

/-- R273, R287: a write of the staging area of an open context stores its enabled bytes at the staging backing of the slice;
every other byte of memory and everything else stays. -/
def Sys2Proof.Claims.WindowWriteStores : Prop :=
  ∀ (s : State) (port : Fin 4) (x : Fin 4096) (o : Nat) (bytes : List Byte) (enables : List Bool) (poisoned : Bool), s.inv →
    Window s port.val x.val → 0x1000 ≤ o → o + bytes.length ≤ 0x10000 → bytes.length ≤ 64 → bytes ≠ [] →
    enables.length = bytes.length →
    Completes (.windowWrite port x o bytes enables poisoned) s (fun t =>
      t = { s with dev := t.dev } ∧
      (∀ i, i < bytes.length → t.dev.byte (Config.stageBase port.val + x.val * 0x10000 + o + i) =
        if enables.getD i false then bytes.getD i 0 else s.dev.byte (Config.stageBase port.val + x.val * 0x10000 + o + i)) ∧
      sameBytes (off (Config.stageBase port.val + x.val * 0x10000 + o) bytes.length) s t)

/-- R9, R389, R390: a good write of an argument register of the keeper page sets it, a read answers with it, and neither
changes anything else; a write at an offset that holds no register is ignored and counted. -/
def Sys2Proof.Claims.KeeperRegisterReadsBack : Prop :=
  ∀ (s : State) (port : Fin 4) (i : Fin 16) (data : Word), s.portUp port.val = true →
    Gives (.registerWrite port (0x10000080 + 8 * i.val) 8 data false) s (s.setKreg (0x80 + 8 * i.val) data.toNat) ∧
    (s.setKreg (0x80 + 8 * i.val) data.toNat).kreg (0x80 + 8 * i.val) = data.toNat ∧
    Gives (.registerRead port (0x10000080 + 8 * i.val) 8) s
      { s with out := s.out ++ [.readData port.val (natLE 8 (s.kreg (0x80 + 8 * i.val))) false] } ∧
    Gives (.registerWrite port (0x10001000 + 8 * i.val) 8 data false) s (s.setKreg 0x28 (satTo 0xFFFFFFFF (s.kreg 0x28 + 1)))

/-- R9, R273, R274, R389, R390: control-page and keeper-page registers answer with what they hold. -/
def Obligations.RegistersReadBack : Prop := Claims.ReadBackAnswers ∧ Claims.KeeperRegisterReadsBack

/-- R286: an invalidation removes the translations it names from the slice's cache; with no host write and no host read
outstanding it is completed at once. -/
def Sys2Proof.Claims.InvalidationDropsTranslations : Prop :=
  ∀ (s : State) (port : Fin 4) (pasid : BitVec 20) (first pages : Nat), s.portUp port.val = true → s.slices.length = 4 →
    Completes (.atsInvalidation port pasid first pages) s (fun t =>
      (∀ y ∈ (t.slc port.val).atc, ¬ (y.pasid = pasid.toNat ∧ first ≤ y.page ∧ y.page < first + pages)) ∧
      (∀ y ∈ (s.slc port.val).atc, ¬ (y.pasid = pasid.toNat ∧ first ≤ y.page ∧ y.page < first + pages) → y ∈ (t.slc port.val).atc) ∧
      (s.hostWr = [] → s.lineReqs = [] → t.out = s.out ++ [.invalDone port.val] ∧ t.invals = s.invals) ∧
      t = { s with slices := t.slices, out := t.out, invals := t.invals })

/-- R284: a response that grants a page which a command asked for is kept in the slice's cache, and the request is over. -/
def Sys2Proof.Claims.TranslationIsKept : Prop :=
  ∀ (s : State) (port : Fin 4) (r : AtsReq) (read write toDevice : Bool) (target : Nat), s.portUp port.val = true →
    s.slices.length = 4 → r ∈ s.atsReqs → r.slice = port.val → (if r.write then write else read) = true →
    (∀ q ∈ s.atsReqs, q.slice = port.val ∧ q.who = r.who ∧ q.page = r.page → q = r) →
    (toDevice = true → target * 4096 + 4096 ≤ Config.devBytes) →
    Completes (.atsResponse port r.who r.page read write toDevice target) s (fun t =>
      Xlat.mk (s.ctx r.ctx).pasid r.page read write toDevice target ∈ (t.slc port.val).atc ∧ r ∉ t.atsReqs ∧
      (t.slc port.val).atc.length ≤ Config.atcEntries ∧
      t = { s with slices := t.slices, atsReqs := t.atsReqs })

/-- R277: a GO ends the oldest host write of its slice and context, and only that one, and
touches no byte of device memory, no command and no queue. -/
def Sys2Proof.Claims.GoEndsOldestWrite : Prop :=
  ∀ (s : State) (port : Fin 4) (x : Fin 4096) (w : HostWr), s.hostWr.find? (fun v => v.slice == port.val && v.ctx == x.val) = some w →
    Completes (.goResponse port x) s (fun t => t.hostWr = s.hostWr.erase w ∧ t.dev = s.dev ∧ t.cmds = s.cmds ∧ t.sqs = s.sqs ∧ t.cqs = s.cqs)

/-- R277, R279: flushes and the global observation of host writes. -/
def Obligations.FlushesFollowWrites : Prop := Claims.FlushWaitsForWrites ∧ Claims.GoEndsOldestWrite

/-- R277, R287: a response to an outstanding line request of a command delivers the line to it, as long as the command goes on. -/
def Sys2Proof.Claims.LineIsDelivered : Prop :=
  ∀ (s : State) (port : Fin 4) (r : LineReq) (h : Nat) (data : List Byte) (poisoned : Bool), s.portUp port.val = true →
    s.lineReqs.find? (fun q => q.slice == port.val && q.who == .cmd h && q.line == r.line) = some r →
    Completes (.h2dResponse port (.cmd h) r.line data poisoned) s (fun t =>
      (s.asks (.cmd h) = true → t.lines = s.lines ++
        [{ who := .cmd h, device := r.device, own := r.own, line := r.line, data := data, poisoned := poisoned }]) ∧
      (s.asks (.cmd h) = false → t.lines = s.lines) ∧
      t.lineReqs = s.lineReqs.erase r ∧ t.dev = s.dev ∧ t.cmds = s.cmds)

/-- R277, R284 to R287: invalidations, translations and lines of the host. -/
def Obligations.HostAnswersAreTaken : Prop := Claims.InvalidationDropsTranslations ∧ Claims.TranslationIsKept ∧ Claims.LineIsDelivered

/-- The credits of command port `p` after a request of its chiplet that completed at once (R326): with a module of its link in the rotation a
control flit has returned every credit owed, else one more is owed. -/
def Sys2Proof.Claims.creditsAfter (s : State) (p : Nat) (f : FwPort) : FwPort :=
  if (s.carries (22 + p) 0) then { f with credits := satTo 64 (f.credits - 1 + (f.owed + 1)), owed := 0 }
  else { f with credits := f.credits - 1, owed := f.owed + 1 }

/-- R268, R326: a command port's write to a context that its firewall forwards lands in the window of the context's home slice;
one that it does not forward is dropped and counted, and changes no byte of memory. Either takes a credit, which a control flit returns. -/
def Sys2Proof.Claims.CommandPortForwards : Prop :=
  ∀ (s : State) (p : Fin 8) (x : Fin 4096) (o : Nat) (bytes : List Byte) (poisoned : Bool), s.hostReady = true →
    (s.link (22 + p.val)).down = false → 0 < (s.fwp p.val).credits → o < 0x10000 →
    (s.fwForwards p.val x.val = true → s.sliceUp (s.ctx x.val).home = true →
      Completes (.commandPortTransaction p true x.val o bytes poisoned) s (fun t =>
        t = { s.windowStore (s.ctx x.val).home x.val o bytes (bytes.map (fun _ => true)) poisoned with fw := t.fw, links := t.links, out := t.out } ∧
        t.fwp p.val = creditsAfter s p.val (s.fwp p.val) ∧ (∀ q, q ≠ p.val → t.fwp q = s.fwp q))) ∧
    (s.fwForwards p.val x.val = false → Completes (.commandPortTransaction p true x.val o bytes poisoned) s (fun t =>
      t = { s with cntKs := Tab.set s.cntKs p.val (Tab.getD s.cntKs p.val 0 + 1), fw := t.fw, links := t.links, out := t.out } ∧
      t.fwp p.val = creditsAfter s p.val { s.fwp p.val with dropped := (s.fwp p.val).dropped + 1 } ∧ (∀ q, q ≠ p.val → t.fwp q = s.fwp q)))

/-- R268, R273, R287, R326: writes into a window through a host port and through a command port. -/
def Obligations.WindowsAreWritten : Prop := Claims.WindowWriteStores ∧ Claims.CommandPortForwards

/-! Contexts and their objects. -/

/-- The keeper executes an action at once: the port serves requests, boot is over, and no action is queued or in progress. -/
abbrev Sys2Proof.Claims.KeeperIdle (s : State) (port : Nat) : Prop :=
  s.portUp port = true ∧ s.boot.ready = true ∧ s.mgmtQ = [] ∧ s.mgmtBusy = none

/-- Argument word `i` of the keeper page. -/
def Sys2Proof.Claims.arg (s : State) (i : Nat) : Nat := s.kreg (0x80 + 8 * i)

/-- R395: an action has completed with a result: the code, the action and the tag stand in KPR_MGMT_STATUS, the first result
word in KPR_MGMT_RES0, and only those registers of the keeper page have changed. -/
def Sys2Proof.Claims.Acted (s t : State) (action result res0 : Nat) (tag : BitVec 16) : Prop :=
  bits (t.kreg 0x48) 23 16 = result ∧ bits (t.kreg 0x48) 31 24 = action ∧ bits (t.kreg 0x48) 47 32 = tag.toNat ∧
  t.kreg 0x50 = res0 ∧ (∀ o, o ≠ 0x48 → off 0x50 32 o → t.kreg o = s.kreg o)

/-- A ring and a queue as they are created (R250, R251): their counts are zero. -/
def Sys2Proof.Claims.newCq (x a0 base : Nat) : CQ := { ctx := x, idx := bits a0 21 16, base := base, logSize := bits a0 28 24, written := 0, released := 0 }
def Sys2Proof.Claims.newSq (x a0 base r : Nat) : SQ :=
  { ctx := x, idx := bits a0 21 16, slice := bits a0 33 32, base := base, logSize := bits a0 28 24, cq := r, fetch := 0, tail := 0 }

/-- R248: CTX_OPEN makes a FREE context OPEN with the PASID and rights of its descriptor; SQ_CREATE and CQ_CREATE take the lowest
free number and begin with counts of zero; the destroys remove what nothing uses. Each completes with result 0 and changes
nothing else but the counters and selectors of the context that it opens. -/
def Obligations.ObjectsAreMadeAndFreed : Prop :=
  ∀ (s : State) (port : Fin 4) (tag : BitVec 16) (x : Fin 4096), KeeperIdle s port.val → arg s 0 % 4096 = x.val →
    (∀ (pasid : Fin 1048576) (rights : Fin 3) (fwp : Fin 8) (home : Fin 4), arg s 0 = x.val → (rights.val = 2 ∨ fwp.val = 0) →
      arg s 1 = pasid.val + rights.val * 2 ^ 32 + fwp.val * 2 ^ 40 + home.val * 2 ^ 48 → (∀ i, i < 7 → arg s (2 + i) = 0) →
      (s.ctx x.val).state = 0 → Completes (.ctxOpen port tag) s (fun t => Acted s t 1 0 0 tag ∧
        t.ctx x.val = { state := 1, pasid := pasid.val, mgmt := rights.val == 1, fw := rights.val == 2, fwPort := fwp.val, home := home.val } ∧
        (∀ y, y ≠ x.val → t.ctx y = s.ctx y) ∧ t = { s with ctxs := t.ctxs, cntCtx := t.cntCtx, slices := t.slices, kpr := t.kpr })) ∧
    (∀ r, arg s 0 &&& 0x1F3F0FFF = arg s 0 → 4 ≤ bits (arg s 0) 28 24 → bits (arg s 0) 28 24 ≤ 16 → arg s 1 % 4096 = 0 → s.isOpen x.val = true →
      s.ringOf x.val (bits (arg s 0) 21 16) = none → Tab.lowestFree s.cqs Config.queues = some r →
      Completes (.cqCreate port tag) s (fun t => Acted s t 5 0 r tag ∧ t = { s with kpr := t.kpr, cqs := Tab.set s.cqs r (newCq x.val (arg s 0) (arg s 1)) })) ∧
    (∀ r k, arg s 0 &&& 0x3F0FFF = arg s 0 → s.ringOf x.val (bits (arg s 0) 21 16) = some (r, k) → (∀ p ∈ s.sqs, p.2.cq ≠ r) →
      Completes (.cqDestroy port tag) s (fun t => Acted s t 6 0 0 tag ∧ t = { s with kpr := t.kpr, cqs := Tab.erase s.cqs r })) ∧
    (∀ q r k, arg s 0 &&& (0x1F3F0FFF + 3 * 2 ^ 32 + 0x3F * 2 ^ 40) = arg s 0 → 4 ≤ bits (arg s 0) 28 24 → bits (arg s 0) 28 24 ≤ 16 →
      arg s 1 % 4096 = 0 → s.isOpen x.val = true → ((s.ctx x.val).fw = true → (s.ctx x.val).home = bits (arg s 0) 33 32) →
      s.queueOf x.val (bits (arg s 0) 21 16) = none →
      s.ringOf x.val (bits (arg s 0) 45 40) = some (r, k) → s.sliceUp (bits (arg s 0) 33 32) = true →
      Tab.lowestFree s.sqs Config.queues = some q →
      Completes (.sqCreate port tag) s (fun t => Acted s t 3 0 q tag ∧ t = { s with kpr := t.kpr, sqs := Tab.set s.sqs q (newSq x.val (arg s 0) (arg s 1) r) })) ∧
    (∀ q k, arg s 0 &&& 0x3F0FFF = arg s 0 → s.queueOf x.val (bits (arg s 0) 21 16) = some (q, k) → k.fetch % 2 ^ 32 = k.tail →
      k.pkts = [] → (∀ p ∈ s.cmds, p.2.q ≠ q) →
      Completes (.sqDestroy port tag) s (fun t => Acted s t 4 0 0 tag ∧ t = { s with kpr := t.kpr, sqs := Tab.erase s.sqs q }))

/-- R248, R254: FENCE_ALLOC gives the lowest free fence a fresh record; FENCE_GRANT, FENCE_REVOKE and FENCE_FREE change the record they
name; FW_SET installs a legal allow list. No byte outside the record of the fence changes, nor anything else. -/
def Obligations.FencesAndFirewallAreSet : Prop :=
  ∀ (s : State) (port : Fin 4) (tag : BitVec 16), s.inv → KeeperIdle s port.val →
    (∀ f, s.sliceUp 0 = true → arg s 0 < 4096 → s.isOpen (arg s 0) = true →
      firstFrom (fun f => s.fenceState f == 0) 0 Config.fences = some f →
      Completes (.fenceAlloc port tag) s (fun t => Acted s t 7 0 f tag ∧ t.fenceState f = 1 ∧ t.fenceOwner f = arg s 0 ∧
        t.fenceValue f = BitVec.ofNat 64 (arg s 1) ∧ t.fenceIgnored f = 0 ∧ sameBytes (off (fenceAddr f) 64) s t ∧
        t = { s with kpr := t.kpr, dev := t.dev })) ∧
    (s.sliceUp 0 = true → arg s 0 < 2 ^ 18 → s.fenceState (arg s 0) ≠ 0 → s.fenceNamed (arg s 0) = false →
      Completes (.fenceFree port tag) s (fun t => Acted s t 8 0 0 tag ∧ t.fenceState (arg s 0) = 0 ∧
        sameBytes (off (fenceAddr (arg s 0)) 64) s t ∧ t = { s with kpr := t.kpr, dev := t.dev })) ∧
    (∀ (f : Fin 262144) (x : Fin 4096) (w g : Bool) (i : Nat), s.sliceUp 0 = true →
      arg s 0 = f.val + x.val * 2 ^ 32 + (if w then 2 ^ 48 else 0) + (if g then 2 ^ 49 else 0) → s.fenceState f.val = 1 →
      s.isOpen x.val = true → s.fenceOwner f.val ≠ x.val → (s.grantOf f.val x.val = some i ∨
        (s.grantOf f.val x.val = none ∧ (List.range 7).find? (fun i => !bitAt (s.fenceGrant f.val i) 14) = some i)) →
      Completes (.fenceGrant port tag) s (fun t => Acted s t 9 0 0 tag ∧ t.fenceRight f.val x.val 12 = w ∧ t.fenceRight f.val x.val 13 = g ∧
        sameBytes (off (fenceAddr f.val + 0x10 + 4 * i) 4) s t ∧ t = { s with kpr := t.kpr, dev := t.dev })) ∧
    (∀ (f : Fin 262144) (x : Fin 4096) (i : Nat), s.sliceUp 0 = true → arg s 0 = f.val + x.val * 2 ^ 32 → s.fenceState f.val ≠ 0 →
      s.grantOf f.val x.val = some i →
      Completes (.fenceRevoke port tag) s (fun t => Acted s t 0xA 0 0 tag ∧ t.fenceGrant f.val i = 0 ∧
        sameBytes (off (fenceAddr f.val + 0x10 + 4 * i) 4) s t ∧
        (∀ p ∈ t.sqs, p.2.ctx = x.val → ∀ e ∈ p.2.slots, e.2.fence = f.val → e.2.valid = false) ∧
        t = { s with kpr := t.kpr, dev := t.dev, sqs := t.sqs })) ∧
    (∀ l, arg s 0 < 8 → arg s 1 % 64 = 0 → arg s 1 + 512 ≤ Config.devBytes →
      (∀ i, i < 512 → s.dev.sector ((arg s 1 + i) / 32) = 0) → fwImage (s.dev.bytes (arg s 1) 512) = some l →
      Completes (.fwSet port tag) s (fun t => Acted s t 0xB 0 0 tag ∧
        t = { s with kpr := t.kpr, fw := Tab.set s.fw (arg s 0) { (Tab.getD s.fw (arg s 0) {}) with list := l } }))

/-- R262, R264: CTX_KILL and CONTEXT_KILL begin the teardown of an open context: it is no longer OPEN, its bindings are gone,
and the teardown stands at step 1 of Table 11-11; no byte of memory changes. -/
def Sys2Proof.Claims.KillBeginsTeardown : Prop :=
  ∀ (s : State) (x : Fin 4096), s.isOpen x.val = true →
    (∀ (port : Fin 4) (tag : BitVec 16), KeeperIdle s port.val → arg s 0 = x.val → Completes (.ctxKill port tag) s (fun t =>
      (t.ctx x.val).state = 2 ∧ (t.ctx x.val).bindings = [] ∧ ((t.ctx x.val).kill.map Kill.step) = some 1 ∧
      (∀ y, y ≠ x.val → t.ctx y = s.ctx y) ∧ t.dev = s.dev ∧ t.tables = s.tables ∧ t.mgmtBusy.isSome = true)) ∧
    (∀ (h : Nat) (c : Cmd), s.running h 0x24 = some c → c.phase = .ready → c.fld 8 2 % 4096 = x.val → Completes (.contextKill h) s (fun t =>
      (t.ctx x.val).state = 2 ∧ (t.ctx x.val).bindings = [] ∧ ((t.ctx x.val).kill.map Kill.step) = some 1 ∧
      (∀ y, y ≠ x.val → t.ctx y = s.ctx y) ∧ t.dev = s.dev ∧ t.tables = s.tables))

/-- R264, Table 11-11: step 1 gives way to step 2; step 4 gives way to step 5 when no write of the context is outstanding; the last
step frees the context with its queues and rings once each request it made of a peer is answered or the peer declared lost. -/
def Sys2Proof.Claims.KillStepsAdvance : Prop :=
  ∀ (s : State) (x : Fin 4096) (k : Kill), (s.ctx x.val).kill = some k →
    (k.step = 1 → Completes (.killStepDone x) s (fun t => (t.ctx x.val).kill = some { k with step := 2 } ∧ t = { s with ctxs := t.ctxs })) ∧
    (k.step = 4 → (∀ w ∈ s.hostWr, w.ctx ≠ x.val) →
      Completes (.killStepDone x) s (fun t => (t.ctx x.val).kill = some { k with step := 5 } ∧ t = { s with ctxs := t.ctxs })) ∧
    (k.step = 8 → (∀ r ∈ s.peerReqs, r.h ∈ k.handles → presentIn s.self s.declared r.peer = false) →
      Completes (.killStepDone x) s (fun t => (t.ctx x.val).state = 0 ∧
      (∀ p ∈ t.sqs, p.2.ctx ≠ x.val) ∧ (∀ p ∈ t.cqs, p.2.ctx ≠ x.val) ∧ (∀ y, y ≠ x.val → t.ctx y = s.ctx y) ∧
      (∀ r, r ∈ t.peerReqs ↔ r ∈ s.peerReqs ∧ r.h ∉ k.handles) ∧
      t = { s with ctxs := t.ctxs, sqs := t.sqs, cqs := t.cqs, peerReqs := t.peerReqs }))

/-- R262, R264, Table 11-11: a teardown begins and goes through its steps. -/
def Obligations.ContextsAreTornDown : Prop := Claims.KillBeginsTeardown ∧ Claims.KillStepsAdvance

/-! Fences. -/

/-- R255: a signal of `v` to a live fence is taken when `v` is ahead of its value, modulo 2^64 and signed; every other signal leaves
the value and advances the count of ignored ones, to an orphaned fence too; a wait for `v` is satisfied when the value is not
behind it. No byte outside the fence's record changes. -/
def Obligations.SignalComparesModulo : Prop :=
  ∀ (s : State) (f : Nat) (v : Word), s.inv → f < Config.fences →
    (s.fenceState f = 1 → 0 < (v - s.fenceValue f).toInt →
      (s.applySignal f v).fenceValue f = v ∧ (s.applySignal f v).fenceIgnored f = s.fenceIgnored f) ∧
    ((s.fenceState f ≠ 1 ∨ (v - s.fenceValue f).toInt ≤ 0) → (s.applySignal f v).fenceValue f = s.fenceValue f ∧
      (s.applySignal f v).fenceIgnored f = min 0xFFFFFFFF (s.fenceIgnored f + 1)) ∧
    (waitState (s.fenceValue f, false) v = 0 ↔ 0 ≤ (s.fenceValue f - v).toInt) ∧
    sameBytes (off (fenceAddr f) 64) s (s.applySignal f v)

/-- R256: FENCE_SIGNAL hands its signal to the front-end; FENCE_APPLY applies the oldest signal and ends the FENCE_SIGNAL with the count
of ignored signals and the fence's value after it. -/
def Sys2Proof.Claims.FenceSignalCompletes : Prop :=
  ∀ (s : State) (h : Nat) (c : Cmd),
    (s.running h 0x10 = some c → c.phase = .ready → Gives (.fenceSignal h) s { s with
      cmds := Tab.set s.cmds h { c with phase := .stage 1 },
      fenceQ := s.fenceQ ++ [{ fence := c.fence, value := c.fenceVal, h := some h }] }) ∧
    (∀ g r, s.fenceQ = g :: r → s.sliceUp 0 = true → g.h = some h → Tab.get? s.cmds h = some c → c.phase ≠ .done →
      Completes .fenceApply s (fun t => t.fenceQ = r ∧ t.dev = (s.applySignal g.fence g.value).dev ∧ ∃ d, Done t h d ∧
        d.status = c.status ∧ d.c0 = (if s.signalIgnored g.fence g.value then 1 else 0) ∧ d.aux = some (t.fenceValue g.fence)))

/-- R257, R259: a FENCE_WAIT whose sampled value is not behind its own ends with OK and that value; one whose fence is orphaned ends
with status 0x13; a delivery samples the fence at the slice; after its timeout a wait that nothing releases ends with TIMEOUT. -/
def Sys2Proof.Claims.FenceWaitCompletes : Prop :=
  ∀ (s : State) (h : Nat) (c : Cmd), s.running h 0x11 = some c →
    (waitState (s.seenOf c.slice c.fence) c.fenceVal = 0 → Completes (.fenceWait h) s (fun t => ∃ d, Done t h d ∧ d.status = c.status ∧
      d.aux = some (s.seenOf c.slice c.fence).1 ∧ t = { s with cmds := t.cmds, nextCmd := s.nextCmd + 1 })) ∧
    (waitState (s.seenOf c.slice c.fence) c.fenceVal = 1 → Completes (.fenceWait h) s (fun t => ∃ d, Done t h d ∧ d.status = 0x13 ∧
      t = { s with cmds := t.cmds, nextCmd := s.nextCmd + 1 })) ∧
    (waitState (s.seenOf c.slice c.fence) c.fenceVal = 2 → c.fld 0x18 4 ≠ 0 → c.tick + c.fld 0x18 4 ≤ (s.slc c.slice).tick →
      Completes (.fenceWaitTimeout h) s (fun t => ∃ d, Done t h d ∧ d.status = 0x14 ∧
        t = { s with cmds := t.cmds, nextCmd := s.nextCmd + 1 })) ∧
    (∀ n : Fin 4, s.sliceUp n.val = true → c.slice = n.val → c.fence < Config.fences → s.slices.length = 4 →
      waitState (s.fenceValue c.fence, s.fenceState c.fence == 2) c.fenceVal = 0 → s.cmds = [(h, c)] →
      Completes (.fenceValueDelivery n c.fence) s (fun t => t.seenOf n.val c.fence = (s.fenceValue c.fence, s.fenceState c.fence == 2) ∧
        t.dev = s.dev ∧ ∃ d, Done t h d ∧ d.status = c.status ∧ d.aux = some (s.fenceValue c.fence)))

/-- R256 to R260: FENCE_SIGNAL and FENCE_WAIT. -/
def Obligations.FenceCommandsComplete : Prop := Claims.FenceSignalCompletes ∧ Claims.FenceWaitCompletes

/-! The sequencer. -/

/-- R229, R230, R232, R239: a slot read whole with the expected generation tag is consumed, with its extension slot if it has one,
and waits for its admission behind the packets before it; a slot that is not as expected is left for a re-read. No byte of
memory and no command changes. -/
def Sys2Proof.Claims.PacketFetchConsumesSlot : Prop :=
  ∀ (s : State) (q : Nat) (k : SQ), Tab.get? s.sqs q = some k → s.mayFetch k = true → k.reread = none → (s.slotRead q k).needs = [] →
    (k.readFault (s.slotRead q k).val = 0 → Completes (.packetFetch q) s (fun t => ∃ k' p, Tab.get? t.sqs q = some k' ∧
      k'.pkts = k.pkts ++ [p] ∧ p.bytes = dataOf (s.slotRead q k).val.1 ∧ p.ext = dataOf (s.slotRead q k).val.2 ∧
      k'.fetch = k.fetch + (if (s.slotRead q k).val.2.isEmpty then 1 else 2) ∧ k'.seq = (k.seq + 1) % 65536 ∧ k'.tail = k.tail ∧
      (∀ j, j ≠ q → Tab.get? t.sqs j = Tab.get? s.sqs j) ∧ t.dev = s.dev ∧ t.cmds = s.cmds)) ∧
    (k.readFault (s.slotRead q k).val ≠ 0 → Completes (.packetFetch q) s (fun t => ∃ k', Tab.get? t.sqs q = some k' ∧
      k'.pkts = k.pkts ∧ k'.fetch = k.fetch ∧ k'.reread = some (0, s.issuedAt k) ∧ t.dev = s.dev ∧ t.cmds = s.cmds))

/-- R232: a re-read, 64 ticks after the read before it was issued, that finds the slot as expected consumes it; the eighth that does not stops the
queue and ends in a record DOORBELL_AHEAD with the reason. -/
def Sys2Proof.Claims.PacketRereadEnds : Prop :=
  ∀ (s : State) (q n at' : Nat) (k : SQ), Tab.get? s.sqs q = some k → s.mayFetch k = true → k.reread = some (n, at') →
    at' + 64 ≤ (s.slc k.slice).tick → (s.slotRead q k).needs = [] →
    (k.readFault (s.slotRead q k).val = 0 → Completes (.packetReread q) s (fun t => ∃ k' p, Tab.get? t.sqs q = some k' ∧
      k'.pkts = k.pkts ++ [p] ∧ p.bytes = dataOf (s.slotRead q k).val.1 ∧ k'.reread = none ∧ t.dev = s.dev ∧ t.cmds = s.cmds)) ∧
    (k.readFault (s.slotRead q k).val ≠ 0 → n < 7 → Completes (.packetReread q) s (fun t => ∃ k', Tab.get? t.sqs q = some k' ∧
      k'.fetch = k.fetch ∧ k'.reread = some (n + 1, s.issuedAt k) ∧ t.dev = s.dev ∧ t.cmds = s.cmds)) ∧
    (k.readFault (s.slotRead q k).val ≠ 0 → 7 ≤ n → Completes (.packetReread q) s (fun t =>
      (∃ k', Tab.get? t.sqs q = some k' ∧ k'.fetch = k.fetch ∧ k'.stopped = true ∧ k'.reread = none) ∧ t.dev = s.dev ∧
      ∃ d, Done t s.nextCmd d ∧ d.status = 0x15 ∧ d.detail = k.readFault (s.slotRead q k).val ∧ d.q = q ∧ d.seq = k.seq))

/-- R229 to R232, R239: slots are read, consumed, or read again. -/
def Obligations.PacketsAreFetched : Prop := Claims.PacketFetchConsumesSlot ∧ Claims.PacketRereadEnds

/-- R238, R239: the packet at the front of a queue that a stage rejected ends with that status and detail; one that passes every
check and is held by nothing becomes a command, its tick that of its slice; either way it leaves the queue. -/
def Sys2Proof.Claims.AdmissionAdmitsOrRejects : Prop :=
  ∀ (s : State) (q : Nat) (k : SQ) (p : Pkt) (r : List Pkt), Tab.get? s.sqs q = some k → k.pkts = p :: r →
    s.isOpen k.ctx = true → s.sliceUp k.slice = true →
    (∀ v, p.verdict = some v → Completes (.admission q) s (fun t => (∃ k', Tab.get? t.sqs q = some k' ∧ k'.pkts = r) ∧
      t.nextCmd = s.nextCmd + 1 ∧ t.dev = s.dev ∧ t.tables = s.tables ∧
      ∃ d, Done t s.nextCmd d ∧ d.status = v.1 ∧ d.detail = v.2 ∧ d.pkt = p.bytes ∧ d.q = q)) ∧
    (p.verdict = none → p.waitCap = none → (∀ d ∈ s.cmds, d.2.q = q → d.2.phase = .done ∨ (d.2.opcode ≠ 0x11 ∧ d.2.opcode ≠ 0x12)) →
      s.planCheck (s.fixed (k.command q p)) = none →
      (s.paramCheck { s.fetchActor q k with fw := p.fw } (s.fixed (k.command q p))).needs = [] →
      (s.paramCheck { s.fetchActor q k with fw := p.fw } (s.fixed (k.command q p))).val.1 = none →
      reservedZero p.bytes = true → s.heldBack (s.fixed (k.command q p)) = false → s.ringOpen k.cq = true →
      (s.namesMoving { s.fetchActor q k with fw := p.fw } (s.fixed (k.command q p))).needs = [] →
      (s.namesMoving { s.fetchActor q k with fw := p.fw } (s.fixed (k.command q p))).val = false →
      Completes (.admission q) s (fun t => (∃ k', Tab.get? t.sqs q = some k' ∧ k'.pkts = r) ∧ t.nextCmd = s.nextCmd + 1 ∧ t.dev = s.dev ∧
        ∃ d, Tab.get? t.cmds s.nextCmd = some d ∧ d.phase = .ready ∧ d.opcode = (headerOf p.bytes).opcode ∧ d.pkt = p.bytes ∧
          d.tick = (s.slc k.slice).tick ∧ d.present = (s.slc k.slice).loss ∧ d.ctx = k.ctx))

/-- R233, R260: when the timeout of a packet's `wait_slot` has passed and nothing sampled releases it, it ends with TIMEOUT. -/
def Sys2Proof.Claims.WaitSlotTimesOut : Prop :=
  ∀ (s : State) (q from' : Nat) (k : SQ) (p : Pkt) (r : List Pkt) (w : Cap), Tab.get? s.sqs q = some k → k.pkts = p :: r →
    p.waitCap = some w → p.waitFrom = some from' → s.isOpen k.ctx = true → s.sliceUp k.slice = true → w.timeout ≠ 0 →
    from' + w.timeout ≤ (s.slc k.slice).tick → waitState (s.seenOf k.slice w.fence) w.value = 2 →
    Completes (.waitSlotTimeout q) s (fun t => (∃ k', Tab.get? t.sqs q = some k' ∧ k'.pkts = r) ∧ t.dev = s.dev ∧
      ∃ d, Done t s.nextCmd d ∧ d.status = 0x14 ∧ d.detail = 0 ∧ d.pkt = p.bytes)

/-- R233, R238, R239, R260: packets become commands, are rejected, or time out in their wait slot. -/
def Obligations.PacketsAreAdmitted : Prop := Claims.AdmissionAdmitsOrRejects ∧ Claims.WaitSlotTimesOut

/-- R240 to R242: the record whose turn it is goes to entry `written` mod size of its ring, its phase 1 in the first pass; the
written count advances and the command leaves. In device memory its 32 bytes stand there, but in a region that only the engine
writes (log entry 89), and every other byte is as before; in host memory it is one write of 32 bytes. -/
def Sys2Proof.Claims.CompletionRecordIsWritten : Prop :=
  ∀ (s : State) (h page : Nat) (c : Cmd) (k : CQ), s.inv → Tab.get? s.cmds h = some c → s.recordReady h c = true → s.recordTurn h c = true →
    Tab.get? s.cqs c.cq = some k → ringFree k ≠ 0 → k.base % 4096 = 0 →
    inRanges c.fw (k.base + 32 * (k.written % 2 ^ k.logSize)) = true →
    (s.translate (s.actor h c) c.slice ((k.base + 32 * (k.written % 2 ^ k.logSize)) / 4096) true = .device page →
      s.devNeeds (.cmd h) true (page * 4096 + (k.base + 32 * (k.written % 2 ^ k.logSize)) % 4096) 32 = [] →
      Completes (.completionRecord h) s (fun t => Tab.get? t.cmds h = none ∧ Tab.get? t.cqs c.cq = some { k with written := k.written + 1 } ∧
        (∀ i, i < 32 → t.dev.byte (page * 4096 + (k.base + 32 * (k.written % 2 ^ k.logSize)) % 4096 + i) =
          if guarded (page * 4096 + (k.base + 32 * (k.written % 2 ^ k.logSize)) % 4096 + i) then
            s.dev.byte (page * 4096 + (k.base + 32 * (k.written % 2 ^ k.logSize)) % 4096 + i)
          else (recordBytes c (k.written / 2 ^ k.logSize % 2 == 0) (s.slc c.slice).tick).getD i 0) ∧
        sameBytes (off (page * 4096 + (k.base + 32 * (k.written % 2 ^ k.logSize)) % 4096) 32) s t ∧ t.hostWr = s.hostWr ∧
        t.sqs = s.sqs ∧ t.tables = s.tables)) ∧
    (s.translate (s.actor h c) c.slice ((k.base + 32 * (k.written % 2 ^ k.logSize)) / 4096) true = .host page →
      Completes (.completionRecord h) s (fun t => Tab.get? t.cmds h = none ∧ Tab.get? t.cqs c.cq = some { k with written := k.written + 1 } ∧
        t.hostWr = s.hostWr ++ [{ slice := c.slice, ctx := c.ctx, h := h,
                                  addr := page * 4096 + (k.base + 32 * (k.written % 2 ^ k.logSize)) % 4096,
                                  bytes := recordBytes c (k.written / 2 ^ k.logSize % 2 == 0) (s.slc c.slice).tick, poisoned := false }] ∧
        t.dev = s.dev ∧ t.sqs = s.sqs ∧ t.tables = s.tables))

/-- Table 10-14, R240, R243: a record is 32 bytes that carry the sequence number, the status, the phase and the saturated counts. -/
def Sys2Proof.Claims.RecordLayout : Prop :=
  ∀ (c : Cmd) (phase : Bool) (tick : Nat), (recordBytes c phase tick).length = 32 ∧
    field (recordBytes c phase tick) 0 2 = c.seq % 65536 ∧ field (recordBytes c phase tick) 2 1 = c.status % 256 ∧
    field (recordBytes c phase tick) 3 1 = c.detail % 256 ∧ field (recordBytes c phase tick) 5 1 = (if phase then 1 else 0) ∧
    field (recordBytes c phase tick) 8 4 = min 0xFFFFFFFF c.c0 ∧ field (recordBytes c phase tick) 12 4 = min 0xFFFFFFFF c.c1 ∧
    (c.aux = none → field (recordBytes c phase tick) 24 8 = tick % 2 ^ 64)

/-- R240 to R243, Table 10-14: the record's place, its bytes and what it leaves. -/
def Obligations.CompletionRecordsAreWritten : Prop := Claims.CompletionRecordIsWritten ∧ Claims.RecordLayout

/-- R234, R237: BUOY ends with OK and changes no byte; QUERY of kind 0 or 1 ends with the capability word or the context's state word in
`aux`; of a larger kind memory changes only where the capability table lands. -/
def Obligations.BuoyAndQueryEnd : Prop :=
  ∀ (s : State) (h : Nat) (c : Cmd),
    (s.running h 0x13 = some c → Completes (.buoy h) s (fun t => SamePlaces s t ∧ t.dev = s.dev ∧ t.tables = s.tables ∧
      ∃ d, Done t h d ∧ d.status = 0 ∧ d.detail = 0)) ∧
    (s.running h 0x30 = some c →
      (c.fld 8 2 = 0 → Completes (.query h) s (fun t => ∃ d, Done t h d ∧ d.aux = some (BitVec.ofNat 64 (s.capWord (c.fld 0xC 4))) ∧
        t = { s with cmds := t.cmds, nextCmd := s.nextCmd + 1 })) ∧
      (c.fld 8 2 = 1 → Completes (.query h) s (fun t => ∃ d, Done t h d ∧ d.aux = some (BitVec.ofNat 64 (s.ctxWord (c.fld 0xC 4))) ∧
        t = { s with cmds := t.cmds, nextCmd := s.nextCmd + 1 })) ∧
      (∀ w r, 2 ≤ c.fld 8 2 → w = OutWr.mk c.slice (c.fld 0x10 8) (cleanBytes s.capBytes) 3 [0] 1 → r = s.outAcc (s.actor h c) [w] →
        r.needs = [] → Completes (.query h) s (fun t => SamePlaces s t ∧ sameBytes (offWrites r.val) s t ∧ t.tables = s.tables ∧
          ∃ d, Done t h d ∧ d.status = (if anySuppressed r.val then 0x16 else 0))))

/-! Data commands. -/

/-- R90 to R92, R201: a LOOKUP that awaits nothing and has room for its rings ends with the counts of dropped indices, absent rows and poisoned output rows and the
status of R91; memory changes only at its output rows and the whey counters of its dropped words. -/
def Obligations.LookupCompletes : Prop :=
  ∀ (s : State) (h : Nat) (c : Cmd) (r : Acc GatherOut) (w : Acc (List (OutWr × List Landing))) (y : Acc (List (Option Nat))),
    s.running h 1 = some c → s.ringsFree c = true → r = s.lookupRun h c → w = s.outAcc (s.actor h c) (r.val.writes.map Prod.snd) →
    y = s.wheyAll (s.actor h c) c.slice (s.wheyBase c) r.val.idx → r.needs ++ w.needs ++ y.needs = [] →
    Completes (.lookup h) s (fun t => SamePlaces s t ∧ t.tables = s.tables ∧ t.vats = s.vats ∧
      (∀ a, offWrites w.val a → offWhey y.val a → t.dev.byte a = s.dev.byte a) ∧
      ∃ d, Done t h d ∧ d.c0 = droppedCount r.val.idx ∧ d.c1 = r.val.absent ∧ d.c2 = r.val.poisoned ∧
        d.status = gatherStatus none (anySuppressed w.val) r.val.absent r.val.poisoned (droppedCount r.val.idx))

/-- R52, R90: an output row of a raw LOOKUP has the row's stored size: its content bytes unchanged, zero after them; the output row of
a dropped index or an absent row is all zero bytes. -/
def Sys2Proof.Claims.RawLookupRow : Prop :=
  ∀ (fmt : Nat) (t : Table) (x : Idx) (l : List PB), l.length = t.stored →
    (lookupRow true fmt t x (some l)).1.length = t.stored ∧
    (∀ i, i < contentBytes t.fmt t.dim → (lookupRow true fmt t x (some l)).1.getD i ⟨0, 0⟩ = l.getD i ⟨0, 0⟩) ∧
    (∀ i, contentBytes t.fmt t.dim ≤ i → (lookupRow true fmt t x (some l)).1.getD i ⟨0, 0⟩ = ⟨0, 0⟩) ∧
    (∀ b ∈ (lookupRow true fmt t x none).1, b.b = 0) ∧ (lookupRow true fmt t x none).1.length = t.stored

/-- R73, Table 4-4: a word is dropped for the first reason that holds, and for none if it is valid, names the table and a row
below its count, with its reserved field zero. -/
def Sys2Proof.Claims.DropReasonsInOrder : Prop :=
  ∀ (table w : Nat) (rows : Option Nat) (p : Bool),
    (p = true → dropReason table rows p w = some 0) ∧
    (p = false → (indexWord w).valid = false → dropReason table rows p w = some 1) ∧
    (p = false → (indexWord w).valid = true → (indexWord w).reserved ≠ 0 → dropReason table rows p w = some 2) ∧
    (p = false → (indexWord w).valid = true → (indexWord w).reserved = 0 → (indexWord w).table ≠ table → dropReason table rows p w = some 3) ∧
    (p = false → (indexWord w).valid = true → (indexWord w).reserved = 0 → (indexWord w).table = table → rows = none →
      dropReason table rows p w = some 4) ∧
    (∀ n, p = false → (indexWord w).valid = true → (indexWord w).reserved = 0 → (indexWord w).table = table → rows = some n →
      dropReason table rows p w = (if (indexWord w).row < n then none else some 5))

/-- R52, R73, R90, Table 4-4: drop reasons and raw output rows. -/
def Obligations.LookupRowRules : Prop := Claims.DropReasonsInOrder ∧ Claims.RawLookupRow

/-- R84 to R92, R111 to R114, R201, R213: a LOOKUP_POOL whose turn it is on its vats, with room for its rings, that awaits nothing, finds its
vats free and no row armed by another context has its counts, leaves the last tile of each vat it used finished, and holds the curds of those tiles for the drain; memory changes only at
its curds and the whey counters. -/
def Sys2Proof.Claims.LookupPoolFinishesTiles : Prop :=
  ∀ (s : State) (h : Nat) (c : Cmd) (r : Acc PoolRun) (w : Acc (List (OutWr × List Landing))) (y : Acc (List (Option Nat))),
    s.running h 2 = some c → c.phase = .ready → r = s.poolRun h c → w = s.outAcc (s.actor h c) (r.val.out.writes.map Prod.snd) →
    y = s.wheyAll (s.actor h c) c.slice (s.wheyBase c) r.val.out.idx → r.needs ++ w.needs ++ y.needs = [] →
    s.vatsFree r.val.used = true → s.turnsBefore h c = false → s.ringsFree c = true → r.val.denied = false →
    Completes (.lookupPool h) s (fun t => SamePlaces s t ∧ t.tables = s.tables ∧
      (∀ a, offWrites w.val a → offWhey y.val a → t.dev.byte a = s.dev.byte a) ∧
      (∀ v ∈ r.val.used, (t.vat v).finished = some h ∧ (t.vat v).work = (Tab.getD r.val.vats v {}).work) ∧
      ∃ d, Tab.get? t.cmds h = some d ∧ d.c0 = r.val.out.dropped ∧ d.c1 = r.val.out.absent ∧ d.c2 = r.val.out.poisoned ∧
        d.phase = (if r.val.used = [] then .done else .stage 1) ∧ d.held.map Prod.fst = (if r.val.used = [] then c.held.map Prod.fst else r.val.used))

/-- R113, R114: the drain of a finished tile moves it into the shadow set, and the drain of a command's last vat ends the command with
its counts; memory changes only where the results it holds for that vat land. -/
def Sys2Proof.Claims.TileDrainEndsPooling : Prop :=
  ∀ (s : State) (n : Fin 4) (v : Fin 16) (h : Nat) (c : Cmd) (ws : List OutWr) (w : Acc (List (OutWr × List Landing))),
    (s.vat (16 * n.val + v.val)).finished = some h → Tab.get? s.cmds h = some c → c.phase = .stage 1 → s.isOpen c.ctx = true →
    c.held = [(16 * n.val + v.val, ws)] → w = s.outAcc (s.actor h c) ws → w.needs = [] →
    Completes (.tileDrain n v) s (fun t => SamePlaces s t ∧ (t.vat (16 * n.val + v.val)).finished = none ∧
      (t.vat (16 * n.val + v.val)).shadow = (s.vat (16 * n.val + v.val)).work ∧
      (∀ u, u ≠ 16 * n.val + v.val → t.vat u = s.vat u) ∧ sameBytes (offWrites w.val) s t ∧
      ∃ d, Done t h d ∧ d.c0 = c.c0 ∧ d.c1 = c.c1 ∧ d.c2 = c.c2 ∧
        d.status = (if anySuppressed w.val && c.status != 0x18 then 0x16 else c.status))

/-- R84 to R92, R111 to R114: LOOKUP_POOL and the drains of its tiles. -/
def Obligations.PoolingEndsInTiles : Prop := Claims.LookupPoolFinishesTiles ∧ Claims.TileDrainEndsPooling

/-- R127 to R136: once every part of a SCORE_TOPK has come and its writes await nothing, it ends with the rows fed, masked and absent and
the status of R136; memory changes only at its result records. -/
def Sys2Proof.Claims.ScoreTopkCompletes : Prop :=
  ∀ (s : State) (h : Nat) (c : Cmd) (w : Acc (List (OutWr × List Landing))), s.running h 3 = some c → c.phase = .stage 1 →
    (∀ p ∈ c.scans, p.pending = false) →
    w = s.outAcc (s.actor h c) (scoreWrites c (((Tab.get? s.tables c.table).map (fun t => t.buckets.length)).getD 0)) → w.needs = [] →
    Completes (.scoreTopk h) s (fun t => SamePlaces s t ∧ t.tables = s.tables ∧ t.vats = s.vats ∧ sameBytes (offWrites w.val) s t ∧
      ∃ d, Done t h d ∧ d.c0 = (c.scans.map ScanPart.fed).sum ∧ d.c1 = (c.scans.map ScanPart.masked).sum ∧
        d.c2 = (c.scans.map ScanPart.absent).sum ∧ d.status = (if anySuppressed w.val then 0x16 else if (c.scans.map ScanPart.absent).sum ≠ 0 then 3
          else if c.inPoison || c.scans.any (fun p => p.queries.any ScanQuery.poisoned) then 2 else 0))

/-- R121, R125: a SCORE_TOPK with a part on another engine asks that engine for the part and waits with it pending; it changes no byte of
memory and no table. -/
def Sys2Proof.Claims.ScoreTopkAsksPeers : Prop :=
  ∀ (s : State) (h : Nat) (c : Cmd) (t : Table) (y : Layer) (part e : Nat), s.running h 3 = some c → c.phase = .ready →
    s.ringsFree c = true → s.viewOf c = some (t, y) → (s.readQueries (s.actor h c) c t.dim).needs = [] → (s.readMask (s.actor h c) c).needs = [] →
    part ∈ t.parts y → t.partServed y c s.self part = some e → e ≠ s.self →
    Completes (.scoreTopk h) s (fun u => u.dev = s.dev ∧ u.tables = s.tables ∧ ∃ d, Tab.get? u.cmds h = some d ∧ d.phase = .stage 1 ∧
      (∃ p ∈ d.scans, p.num = part ∧ p.src = e ∧ p.pending = true) ∧ (∃ q ∈ u.peerReqs, q.h = h ∧ q.peer = e ∧ q.want = .scan part))

/-- R121 to R136: SCORE_TOPK asks for the parts of other engines and ends with its results. -/
def Obligations.ScoringCompletes : Prop := Claims.ScoreTopkCompletes ∧ Claims.ScoreTopkAsksPeers

/-- R129: the result list of the candidates of a query has the first min(k, candidates) of them, larger score first, equal scores by
position, and nothing left out comes before one that is in it. -/
def Obligations.TopKIsSortedAndBest : Prop :=
  ∀ (k : Nat) (l : List ScanEntry), (∀ a ∈ l, F32.isNaN a.value = false) →
    (topK k l).length = min k l.length ∧ (topK k l).Pairwise (fun a b => entryBefore b a = false) ∧
    (∃ rest, (topK k l ++ rest).Perm l ∧ ∀ a ∈ topK k l, ∀ b ∈ rest, entryBefore b a = false)

/-- R142 to R146, R201: a SCATTER_GRAD with room for its rings whose contributions are all to rows of this engine and find room ends with its counts; no byte of the
table's rows changes: contributions wait in the update buffers for the apply. -/
def Obligations.ScatterGradCompletes : Prop :=
  ∀ (s : State) (h : Nat) (c : Cmd) (t : Table) (y : Layer) (r : Acc (List (Idx × List PF))) (w : Acc (List (Option Nat))),
    s.running h 4 = some c → c.phase = .ready → s.ringsFree c = true → s.viewOf c = some (t, y) → r = s.scatterRun h c t.dim →
    w = s.wheyAll (s.actor h c) c.slice (s.wheyBase c) (r.val.map Prod.fst) → r.needs ++ w.needs = [] → s.awaitsPeer h = false → c.got = [] →
    (∀ p ∈ r.val, p.1.drop = none → (t.contribOwner y c.table (BitVec.ofNat 64 (c.fld 0x10 8)) (indexWord p.1.word).row).engine = s.self ∧
      s.sliceUp ((t.contribOwner y c.table (BitVec.ofNat 64 (c.fld 0x10 8)) (indexWord p.1.word).row).stack / 3) = true) →
    t.contribs = [] → r.val.length * recordSize t.dim ≤ t.updPart →
    Completes (.scatterGrad h) s (fun u => SamePlaces s u ∧ u.vats = s.vats ∧ (∀ a, offWhey w.val a → u.dev.byte a = s.dev.byte a) ∧
      (∃ t', Tab.get? u.tables c.table = some t' ∧ t'.step = t.step ∧ t'.contribs.length = (r.val.filter (fun p => p.1.drop.isNone)).length) ∧
      ∃ d, Done u h d ∧ d.c0 = (r.val.filter (fun p => p.1.drop.isSome)).length ∧ d.c1 = 0 ∧
        d.c2 = (r.val.filter (fun p => p.1.drop.isNone && p.2.any PF.p)).length)

/-- R138, R154, R155, R163, R185: an APPLY_STEP whose seals are all held, that no reader admitted earlier holds back, that awaits no line
and no write of a spill record and finds no pending move ends with its three counts, and its table's step is one more. Its counts leave
out what engines lost unsealed and slices in reset hold. -/
def Sys2Proof.Claims.ApplyStepAdvancesStep : Prop :=
  ∀ (s : State) (h : Nat) (c : Cmd) (t : Table) (y : Layer) (mine : List Contrib) (kept : Acc (List Contrib)) (rows : List Nat),
    s.running h 5 = some c → c.phase = .stage 1 → s.viewOf c = some (t, y) → Tab.get? s.tables c.table = some t →
    s.sealed c t = true → s.readersBefore h c.table = false → s.handoverHeld h c.table t = false → s.ringsFree c = true →
    (∀ w ∈ s.work, w.act ≠ .spill c.table) → t.layer.pend = [] → mine = t.contribs.filter (fun k => k.step == t.step) →
    kept = Acc.list ((mine.filter (fun k => !(s.unsealedLost c t).contains k.engine && s.reachable c.table t y k)).map
      (s.spillRead (.cmd h) c t)) → kept.needs = [] →
    rows = sortBy (fun a b => decide (a < b)) (nubNat (kept.val.map Contrib.row)) → s.applyNeeds h c.table t y rows = [] →
    Completes (.applyStep h) s (fun u => SameInside s u ∧ u.vats = s.vats ∧
      (∃ t', Tab.get? u.tables c.table = some t' ∧ t'.step = t.step + 1 ∧ t'.desc = t.desc ∧ t'.layer = t.layer ∧
        (t.stalled = [] → ∀ k, k ∈ t'.contribs ↔ k ∈ t.contribs ∧ k.step ≠ t.step)) ∧
      ∃ d, Done u h d ∧ d.c0 + d.c1 = rows.length ∧ d.c2 = mine.length - kept.val.length +
        (t.stalled.filter (fun k => k.1.step == t.step && (s.unsealedLost c t).contains k.1.engine)).length)

/-- R158: an APPLY_STEP of a step without contributions leaves every byte of memory as it was. -/
def Sys2Proof.Claims.ApplyWithoutContributionsWritesNothing : Prop :=
  ∀ (s : State) (h : Nat) (c : Cmd) (t : Table) (y : Layer), s.running h 5 = some c → c.phase = .stage 1 → s.viewOf c = some (t, y) →
    Tab.get? s.tables c.table = some t → s.sealed c t = true → s.readersBefore h c.table = false → s.handoverHeld h c.table t = false →
    s.ringsFree c = true → (∀ w ∈ s.work, w.act ≠ .spill c.table) → t.layer.pend = [] → t.stalled = [] →
    (∀ k ∈ t.contribs, k.step ≠ t.step) →
    Completes (.applyStep h) s (fun u => u.dev = s.dev ∧ ∃ d, Done u h d ∧ d.c0 = 0 ∧ d.c1 = 0 ∧ d.c2 = 0)

/-- R138, R150 to R164: APPLY_STEP. -/
def Obligations.StepsAreApplied : Prop := Claims.ApplyStepAdvancesStep ∧ Claims.ApplyWithoutContributionsWritesNothing

/-- R193, R194: a ROW_WRITE of a table that is not replacing, that awaits nothing and that no earlier reader holds back, ends with the
rows written, the indices dropped, the rows left out as poisoned and the overwritten occurrences; memory changes only at copies of
its rows and at whey counters. -/
def Obligations.RowWriteCompletes : Prop :=
  ∀ (s : State) (h : Nat) (c : Cmd) (t : Table) (y : Layer) (r : Acc (List Idx × List RowIn)) (w : Acc (List (Option Nat))),
    s.running h 6 = some c → c.phase = .ready → s.viewOf c = some (t, y) → y.replacing = false → r = s.rowWriteRun h c (some t) →
    w = s.wheyAll (s.actor h c) c.slice (s.wheyBase c) r.val.1 → r.needs ++ w.needs = [] → s.readersBefore h c.table = false →
    (∀ x ∈ r.val.2, x.poisoned = false → s.copyNeeds (.cmd h) t (s.copiesHere t y c.table x.row) = []) →
    Completes (.rowWrite h) s (fun u => SameInside s u ∧ u.vats = s.vats ∧ u.tables = s.tables ∧
      (∀ a, offWhey w.val a → (∀ x ∈ r.val.2, x.poisoned = false → ∀ l ∈ s.copiesHere t y c.table x.row,
        off (t.addrOf l false) x.bytes.length a) → u.dev.byte a = s.dev.byte a) ∧
      ∃ d, Done u h d ∧ d.c0 = (r.val.2.filter (fun x => !x.poisoned)).length ∧ d.c1 = droppedCount r.val.1 ∧
        d.c2 = (r.val.2.filter RowIn.poisoned).length ∧ d.c3 = (validRows r.val.1).length - r.val.2.length)

/-- R205, R206, R219 to R221: a STREAM that awaits nothing and has room for its ring ends with its elements poisoned and lost; memory changes only where its
destination descriptor lands. -/
def Sys2Proof.Claims.StreamCompletes : Prop :=
  ∀ (s : State) (h hi : Nat) (c : Cmd) (sp dp : List Piece) (r : Acc (List (List PB))) (w : Acc (List (OutWr × List Landing))),
    s.running h 9 = some c → s.ringsFree c = true → hi = (if c.fld 0x28 8 = 0 then descLen (c.descs.take 64) else c.fld 0x20 8 + c.fld 0x28 8) →
    sp = windowPieces (c.descs.take 64) (c.fld 0x20 8) hi → dp = windowPieces (c.descs.drop 64) (c.fld 0x20 8) hi →
    r = s.readPieces (s.actor h c) c.slice (c.descs.take 64) sp →
    w = Acc.list (dp.map (fun p => s.writePiece (s.actor h c) c.slice (c.descs.drop 64) p
      (openBytes s.freeCtr sp dp p ((r.val.flatten.drop (p.off - c.fld 0x20 8)).take p.len)))) → r.needs ++ w.needs = [] →
    Completes (.stream h) s (fun t => SamePlaces s t ∧ t.tables = s.tables ∧ t.vats = s.vats ∧ sameBytes (offWrites w.val) s t ∧
      ∃ d, Done t h d ∧ d.c0 = countElems (List.zip sp (r.val.map anyPoison)) ∧ d.c1 = countElems (List.zip dp (w.val.map suppressedPiece)) ∧
        d.status = (if d.c1 ≠ 0 then 0x16 else if d.c0 ≠ 0 then 2 else 0))

/-- R201, R202, R214, R217, R220: a MULTICAST with room for its rings begins with a ring for each vat node of its tree, filled and written
cycle by cycle; once every slot holds the stream and no write is outstanding it ends with its counts, and until then it goes on; at
its `detach` ticks the subtrees that hold are detached and counted. -/
def Sys2Proof.Claims.MulticastCompletes : Prop :=
  ∀ (s : State) (h : Nat) (c : Cmd), s.running h 0xA = some c →
    (c.phase = .ready → s.ringsFree c = true → Completes (.multicast h) s (fun t => t = { s with cmds := t.cmds } ∧
      ∃ d, Tab.get? t.cmds h = some d ∧ d.phase = .stage 1 ∧ d.begun = true ∧ ∀ m, multicastTree c = some m →
        d.nodes.length = (treeSpan c.image m).2 ∧ ∀ i n, d.nodes[i]? = some n → n.got = 0 ∧ n.put = 0 ∧
          n.ring = (if nodeIsSlot (treeNode c.image m i) then {} else c.mcRing (nodeVat c.image m i)))) ∧
    (∀ m, c.phase = .stage 1 → multicastTree c = some m →
      (c.mcDone m = true → (∀ v ∈ s.hostWr, v.h ≠ h) → Completes (.multicast h) s (fun t => SamePlaces s t ∧ t.dev = s.dev ∧
        ∃ d, Done t h d ∧ d.c0 = c.poisonedElems ∧ d.c1 = c.lostElems ∧ d.c2 = c.c2 ∧
          d.status = (if c.lostElems ≠ 0 then 0x16 else if c.poisonedElems ≠ 0 then 2 else 0))) ∧
      (c.mcDone m = false ∨ (∃ v ∈ s.hostWr, v.h = h) → Gives (.multicast h) s s) ∧
      (c.fld 0xC 4 ≠ 0 → Completes (.detachTimeout h) s (fun t => t = { s with cmds := t.cmds } ∧ ∃ d, Tab.get? t.cmds h = some d ∧
        d.phase = .stage 1 ∧ d.detached = c.detached ++ s.detaches c m ∧ d.c2 = c.c2 + (s.detaches c m).length)))

/-- R199 to R222: STREAM and MULTICAST. -/
def Obligations.DeliveriesComplete : Prop := Claims.StreamCompletes ∧ Claims.MulticastCompletes

/-- R115 to R118: a TILE_READ whose vat no earlier command holds, with room for its rings, that awaits nothing ends with the number of the rows it showed, rows
that another context wrote counted out; memory changes only at its records. -/
def Sys2Proof.Claims.TileReadCompletes : Prop :=
  ∀ (s : State) (h : Nat) (c : Cmd) (rows : List AccRow) (w : Acc (List (OutWr × List Landing))), s.running h 0xB = some c →
    s.tileHeld h c.tileVat = false → s.ringsFree c = true →
    rows = (List.range (c.fld 0xC 1)).map (fun i =>
      Tab.getD (if bitAt (c.fld 0xA 1) 0 then (s.vat c.tileVat).shadow else (s.vat c.tileVat).work) (c.fld 0xB 1 + i) AccRow.zero) →
    w = s.outAcc (s.actor h c) ((List.range rows.length).map (fun i => OutWr.mk (c.tileVat / 16) (c.fld 0x10 8 + 1088 * i)
      (rowRecord ((rows.map (fun r => if writtenAway r c.ctx then AccRow.zero else r)).getD i AccRow.zero)) 9 [c.fld 0xB 1 + i, 0] 1)) →
    w.needs = [] →
    Completes (.tileRead h) s (fun t => SamePlaces s t ∧ t.tables = s.tables ∧ t.vats = s.vats ∧ sameBytes (offWrites w.val) s t ∧
      ∃ d, Done t h d ∧ d.c0 = (rows.filter (fun r => !writtenAway r c.ctx)).length ∧
        d.status = (if anySuppressed w.val then 0x16 else if rows.any (fun r => writtenAway r c.ctx) then 0x19 else 0))

/-- R116, R119, R120: a TILE_WRITE whose vat no earlier command holds, with room for its rings, whose records are read with no reserved bit and that meets no row
armed by another context, writes its accumulator rows as its context's and ends; no byte of memory changes. -/
def Sys2Proof.Claims.TileWriteCompletes : Prop :=
  ∀ (s : State) (h : Nat) (c : Cmd) (r : Acc (List (List PB))), s.running h 0xC = some c → s.tileHeld h c.tileVat = false →
    s.ringsFree c = true → r = Acc.list ((List.range (c.fld 0xC 1)).map (fun i => (s.ctxRead (s.actor h c) (c.tileVat / 16) 9 [c.fld 0xB 1 + i, 0]
      (c.fld 0x10 8 + 1088 * i) 1088).recoord (fun x => [c.fld 0xB 1 + i, x - (c.fld 0x10 8 + 1088 * i)]))) → r.needs = [] →
    (∀ l ∈ r.val, reservedSet l = false) → armedAway (s.vat c.tileVat) c.ctx (c.fld 0xB 1) (c.fld 0xC 1) = false →
    Completes (.tileWrite h) s (fun t => SamePlaces s t ∧ t.tables = s.tables ∧ t.dev = s.dev ∧ (∀ v, v ≠ c.tileVat → t.vat v = s.vat v) ∧
      (t.vat c.tileVat).shadow = (s.vat c.tileVat).shadow ∧
      (∀ i, i < c.fld 0xC 1 → Tab.getD (t.vat c.tileVat).work (c.fld 0xB 1 + i) AccRow.zero =
        recordRow (r.val.getD i []) c.ctx (bitAt (c.fld 0xA 1) 1)) ∧
      ∃ d, Done t h d ∧ d.c0 = c.fld 0xC 1 ∧ d.status = (if r.val.any anyPoison then 2 else 0))

/-- R115 to R118: TILE_READ and TILE_WRITE. -/
def Obligations.TilesAreMoved : Prop := Claims.TileReadCompletes ∧ Claims.TileWriteCompletes

/-! Barriers. -/

/-- R223: a BARRIER of queue scope with no earlier command of its queue busy ends at once, by its own row and by BARRIER_REACHED; one of
group scope sends its arrival to every present engine of its peer list and, with arrivals still awaited, waits from then on. -/
def Sys2Proof.Claims.BarrierIsReached : Prop :=
  ∀ (s : State) (h : Nat) (c : Cmd), s.running h 0x12 = some c → c.phase = .ready → s.earlierBusy h c = false →
    (bitAt (c.fld 0xA 1) 0 = false →
      Completes (.barrierReached h) s (fun t => SamePlaces s t ∧ t.dev = s.dev ∧ ∃ d, Done t h d ∧ d.status = c.status) ∧
      Completes (.barrier h) s (fun t => SamePlaces s t ∧ t.dev = s.dev ∧ ∃ d, Done t h d ∧ d.status = c.status)) ∧
    (bitAt (c.fld 0xA 1) 0 = true → (s.barrierLost c).length + (s.barrierHeld c).length < (peersOf c.image).length →
      Completes (.barrierReached h) s (fun t => SameInside s t ∧
        t = { (peersOf c.image).foldl (fun acc e => acc.toPeer e (.arrival c.tag)) s with cmds := t.cmds } ∧
        Tab.get? t.cmds h = some { c with phase := .stage 1, since := (s.slc c.slice).tick }))

/-- R224, R260: an arrival from a present engine is held; a group BARRIER that holds every expected arrival ends with the arrivals it
consumed and the peers it lost, and its arrivals are consumed; at its timeout it ends with TIMEOUT and they are kept. -/
def Sys2Proof.Claims.BarrierCompletes : Prop :=
  ∀ (s : State) (h : Nat) (c : Cmd),
    (s.running h 0x12 = some c → c.phase = .stage 1 → (peersOf c.image).length ≤ (s.barrierLost c).length + (s.barrierHeld c).length →
      s.stalledArr = [] → Completes (.barrier h) s (fun t => SamePlaces s t ∧ t.dev = s.dev ∧
        t.arrivals = s.arrivals.filter (fun p => p.2 != c.tag) ∧ ∃ d, Done t h d ∧ d.c0 = (s.barrierHeld c).length ∧
          d.c1 = (s.barrierLost c).length ∧ d.status = (if (s.barrierLost c).length ≠ 0 then 3 else 0))) ∧
    (s.running h 0x12 = some c → c.phase = .stage 1 → c.fld 0xC 4 ≠ 0 → c.since + c.fld 0xC 4 ≤ (s.slc c.slice).tick →
      (s.barrierLost c).length + (s.barrierIn c).length < (peersOf c.image).length →
      Completes (.barrierTimeout h) s (fun t => SamePlaces s t ∧ t.dev = s.dev ∧ t.arrivals = s.arrivals ∧
        ∃ d, Done t h d ∧ d.status = 0x14 ∧ d.c0 = (s.barrierIn c).length ∧ d.c1 = (s.barrierLost c).length)) ∧
    (∀ (src : Nat) (tag : Word), presentIn s.self s.declared src = true → s.cmds = [] → s.earlyTags.length < 256 →
      Completes (.barrierArrival src tag) s (fun t => (src, tag) ∈ t.arrivals ∧ t = { s with arrivals := t.arrivals } ∧
        (∀ p ∈ s.arrivals, p ∈ t.arrivals)))

/-- R223, R224, R260: BARRIER, its arrivals and its timeout. -/
def Obligations.BarriersComplete : Prop := Claims.BarrierIsReached ∧ Claims.BarrierCompletes

/-! Plans. -/

/-- R40, R41: a PLAN_LOAD into a free slot whose image passes every check keeps the image in the slot and writes it, and nothing
else, to the plan area. -/
def Sys2Proof.Claims.PlanLoadKeepsImage : Prop :=
  ∀ (s : State) (h : Nat) (c : Cmd) (r : Acc (List PB)), s.inv → s.bindRunning h 0 = some c → s.sliceUp 0 = true →
    Tab.get? s.plans c.planSlot = none → r = s.devRead (s.actor h c) c.slice 4 [] (c.fld 0x10 8) (c.fld 0xC 4) → r.needs = [] →
    s.checkImage (dataOf r.val) (anyPoison r.val) (c.fld 0xC 4) c.planSlot = none →
    Completes (.planLoad h) s (fun t => Tab.get? t.plans c.planSlot = some { image := dataOf r.val, retiring := false } ∧
      (∀ p, p ≠ c.planSlot → Tab.get? t.plans p = Tab.get? s.plans p) ∧ sameBytes (off (planAddr c.planSlot) r.val.length) s t ∧
      (∀ i, i < r.val.length → t.dev.byte (planAddr c.planSlot + i) = (dataOf r.val).getD i 0) ∧
      (∃ d, Done t h d ∧ d.status = 0) ∧ t.tables = s.tables ∧ t.ctxs = s.ctxs ∧ t.sqs = s.sqs ∧ t.cqs = s.cqs)

/-- R40, R43, R44: PLAN_BIND adds the slot to the bindings of an open context that has fewer than 64; PLAN_UNBIND takes it away; PLAN_UNLOAD
takes it from every context and lets a slot that does not yet retire, or is still used, retire, free at once when no command that has not ended
uses it. No byte of memory changes. -/
def Sys2Proof.Claims.PlanBindingsChange : Prop :=
  ∀ (s : State) (h : Nat) (c : Cmd),
    (∀ v, s.bindRunning h 1 = some c → s.isOpen (c.fld 8 2 % 4096) = true → Tab.get? s.plans c.planSlot = some v → v.retiring = false →
      c.planSlot ∉ (s.ctx (c.fld 8 2 % 4096)).bindings → (s.ctx (c.fld 8 2 % 4096)).bindings.length < 64 →
      Completes (.planBind h) s (fun t => (t.ctx (c.fld 8 2 % 4096)).bindings = (s.ctx (c.fld 8 2 % 4096)).bindings ++ [c.planSlot] ∧
        (∀ y, y ≠ c.fld 8 2 % 4096 → t.ctx y = s.ctx y) ∧ (∃ d, Done t h d ∧ d.status = 0) ∧
        t = { s with ctxs := t.ctxs, cmds := t.cmds, nextCmd := s.nextCmd + 1 })) ∧
    (s.bindRunning h 2 = some c → Completes (.planUnbind h) s (fun t => c.planSlot ∉ (t.ctx (c.fld 8 2 % 4096)).bindings ∧
        (∀ p, p ≠ c.planSlot → (p ∈ (t.ctx (c.fld 8 2 % 4096)).bindings ↔ p ∈ (s.ctx (c.fld 8 2 % 4096)).bindings)) ∧
        (∀ y, y ≠ c.fld 8 2 % 4096 → t.ctx y = s.ctx y) ∧ (∃ d, Done t h d ∧ d.status = 0) ∧
        t = { s with ctxs := t.ctxs, cmds := t.cmds, nextCmd := s.nextCmd + 1 })) ∧
    (∀ v, s.bindRunning h 3 = some c → Tab.get? s.plans c.planSlot = some v →
      (v.retiring = false ∨ ∃ p ∈ s.cmds, p.2.plan = c.planSlot ∧ p.2.phase ≠ .done) → Completes (.planUnload h) s (fun t =>
        (∀ y, c.planSlot ∉ (t.ctx y).bindings) ∧ (∃ d, Done t h d ∧ d.status = 0) ∧
        (∀ u, Tab.get? t.plans c.planSlot = some u → u.image = v.image ∧ u.retiring = true ∧ ∃ p ∈ s.cmds, p.2.plan = c.planSlot ∧ p.2.phase ≠ .done) ∧
        (∀ p, p ≠ c.planSlot → Tab.get? t.plans p = Tab.get? s.plans p) ∧
        t = { s with ctxs := t.ctxs, cmds := t.cmds, plans := t.plans, nextCmd := s.nextCmd + 1 }))

/-- R40 to R44: plan slots and bindings. -/
def Obligations.PlansAreLoadedAndBound : Prop := Claims.PlanLoadKeepsImage ∧ Claims.PlanBindingsChange

/-! Table life. -/

/-- The state of a command that waits for its publication or drain. -/
def Sys2Proof.Claims.Waits (t : State) (h k : Nat) : Prop := ∃ d, Tab.get? t.cmds h = some d ∧ d.phase = .stage k

/-- R168, R169, R171: a TABLE_OPEN that passes its checks opens the table that its descriptor and map describe and publishes its first
layers; once every slice has adopted them it ends with its status. No byte of memory changes. -/
def Sys2Proof.Claims.TableOpenOpens : Prop :=
  ∀ (s : State) (h : Nat) (c : Cmd), s.openRunning h 0 = some c →
    (c.phase = .ready → (s.checkOpen (s.actor h c) c.slice c).needs = [] → (s.checkOpen (s.actor h c) c.slice c).val = none →
      Completes (.tableOpen h) s (fun t => Waits t h 1 ∧ t.dev = s.dev ∧ SamePlaces s t ∧
        (∃ d m, Tab.get? t.tables c.table = some (tableOf d m) ∧
          d = dataOf (s.openRead (s.actor h c) c.slice c).val.1 ∧ m = dataOf (s.openRead (s.actor h c) c.slice c).val.2 ∧
          t.adopt = s.adopt ++ [{ table := c.table, layer := (tableOf d m).layer, maker := some h }]) ∧
        (∀ n, n ≠ c.table → Tab.get? t.tables n = Tab.get? s.tables n))) ∧
    (c.phase = .stage 1 → s.pubDone c.table c.pubNum = true → Completes (.tableOpen h) s (fun t => (∃ d, Done t h d ∧ d.status = c.status) ∧
      t.dev = s.dev ∧ t.tables = s.tables ∧ SamePlaces s t))

/-- R171, R172: the slice whose turn it is installs the layers of the oldest publication of the table; with the fourth the publication
is complete and its drain begins; a drain whose commands have all ended, and whose requests of peers are all answered, is over. No byte of
memory changes. -/
def Obligations.EpochsAreAdoptedAndDrained : Prop :=
  ∀ (s : State) (num : Nat),
    (∀ (n : Fin 4) (p : Pub), s.slices.length = 4 → s.adopt.find? (fun a => a.table == num) = some p → p.next = n.val →
      Completes (.epochAdopt n num) s (fun t =>
        Tab.get? (t.slc n.val).layers num = some p.layer ∧ t.dev = s.dev ∧ t.tables = s.tables ∧
        (∀ m, m ≠ n.val → t.slc m = s.slc m) ∧ (n.val = 3 → t.adopt = s.adopt.erase p ∧ t.drains.length = s.drains.length + 1) ∧
        (n.val < 3 → t.drains = s.drains ∧ ∃ q ∈ t.adopt, q = { p with next := p.next + 1 }))) ∧
    (∀ d : Drain, s.drains.find? (fun d => d.table == num) = some d →
      (∀ h ∈ d.waits, (∀ c, Tab.get? s.cmds h = some c → c.phase = .done) ∧ (∀ p ∈ s.heldPeer, p.id ≠ h) ∧
        (∀ t, Tab.get? s.tables num = some t → ∀ k ∈ t.stalled, k.1.id ≠ h)) →
      Completes (.drainComplete num) s (fun t => t.drains = s.drains.erase d ∧ t = { s with drains := t.drains, journal := t.journal }))

/-- R174: a TABLE_CLOSE closes its table to later commands and publishes that; when its publication is adopted and drained, the table and
its layers are gone and it ends with the contributions discarded. -/
def Sys2Proof.Claims.TableCloseCloses : Prop :=
  ∀ (s : State) (h : Nat) (c : Cmd) (t : Table), s.running h 0x22 = some c → Tab.get? s.tables c.table = some t →
    (c.phase = .ready → Completes (.tableClose h) s (fun u => Waits u h 1 ∧ u.dev = s.dev ∧ ∃ t', Tab.get? u.tables c.table = some t' ∧
      t'.closing = true ∧ t'.layer.closing = true ∧ t'.layer.num = (t.layer.num + 1) % 2 ^ 32)) ∧
    (c.phase = .stage 1 → s.settled c.table = true → s.cmds = [(h, c)] → Completes (.tableClose h) s (fun u =>
      Tab.get? u.tables c.table = none ∧ (∀ n, n ≠ c.table → Tab.get? u.tables n = Tab.get? s.tables n) ∧
      (∀ l ∈ u.slices, Tab.get? l.layers c.table = none) ∧ u.dev = s.dev ∧
      ∃ d, Done u h d ∧ d.c0 = t.contribs.length + t.stalled.length))

/-- R168, R169, R171, R174: TABLE_OPEN and TABLE_CLOSE. -/
def Obligations.TablesOpenAndClose : Prop := Claims.TableOpenOpens ∧ Claims.TableCloseCloses

/-- R176, R177: a HOT_LOAD whose list is read publishes new hot sets, in mode 0 of listed rows only, in mode 2 the earlier ones
without the listed rows, and ends after the drain; no byte but whey counters changes. -/
def Sys2Proof.Claims.HotLoadPublishes : Prop :=
  ∀ (s : State) (h : Nat) (c : Cmd) (t : Table) (y : Layer) (r : Acc (List Idx)) (w : Acc (List (Option Nat))), s.running h 0x23 = some c →
    s.viewOf c = some (t, y) →
    (c.phase = .ready → r = Acc.list ((List.range (c.fld 0xC 4)).map (fun i => (s.devRead (s.actor h c) c.slice 0 [i] (c.fld 0x10 8 + 8 * i) 8).map (fun l =>
        { word := leNat (dataOf l), poisoned := anyPoison l, drop := dropReason c.table (some t.rows) (anyPoison l) (leNat (dataOf l)) }))) →
      w = s.wheyAll (s.actor h c) c.slice (s.wheyBase c) r.val → r.needs ++ w.needs = [] →
      (∀ p ∈ s.hotListed c t y r.val, s.devNeeds (.cmd h) false (t.addrOf (t.owner y c.table p.1) false) t.stored = []) →
      Completes (.hotLoad h) s (fun u => Waits u h 1 ∧ (∀ a, offWhey w.val a → u.dev.byte a = s.dev.byte a) ∧
        ∃ t', Tab.get? u.tables c.table = some t' ∧ t'.layer.num = (t.layer.num + 1) % 2 ^ 32 ∧
          (c.fld 0xA 1 = 0 → ∀ n, n < 4 → ∀ x ∈ t'.layer.hots.getD n [], (x, n) ∈ s.hotListed c t y r.val) ∧
          (c.fld 0xA 1 = 2 → ∀ n, n < 4 → ∀ x, x ∈ t'.layer.hots.getD n [] ↔ x ∈ t.layer.hots.getD n [] ∧ (x, n) ∉ s.hotListed c t y r.val))) ∧
    (c.phase = .stage 1 → s.drainDone c.table c.pubNum = true → Completes (.hotLoad h) s (fun u =>
      (∃ d, Done u h d ∧ d.status = c.status ∧ d.c0 = c.c0) ∧ u.dev = s.dev ∧ u.tables = s.tables))

/-- R183 to R187: a MIGRATE of mode 0 adds its moves to those pending, from its step on; one of mode 1 that finds no earlier row write, no
publication on its way and no slot held, and awaits nothing, publishes their overrides; each ends when its publication is adopted. -/
def Sys2Proof.Claims.MigratePublishes : Prop :=
  ∀ (s : State) (h : Nat) (c : Cmd) (t : Table), s.running h 7 = some c → Tab.get? s.tables c.table = some t →
    (c.phase = .ready → c.fld 0xA 1 % 2 = 0 → Completes (.migrate h) s (fun u => Waits u h 1 ∧ u.dev = s.dev ∧
      ∃ t', Tab.get? u.tables c.table = some t' ∧ t'.layer.pend = t.layer.pend.filter (fun o => !c.moves.any (fun m => m.row == o.row)) ++ c.moves ∧ t'.layer.pendStep = BitVec.ofNat 64 (c.fld 0x10 8) ∧
        t'.layer.ovr = t.layer.ovr ∧ t'.layer.num = (t.layer.num + 1) % 2 ^ 32)) ∧
    (c.phase = .ready → c.fld 0xA 1 % 2 = 1 → s.writesBefore h c.table = false → s.adopting c.table = false →
      s.slotHeld c.table c.moves = false → s.moveNeeds (.cmd h) c.table t c.moves = [] →
      Completes (.migrate h) s (fun u => Waits u h 1 ∧ ∃ t', Tab.get? u.tables c.table = some t' ∧ t'.layer.ovr = mergeMoves t.layer.ovr c.moves ∧
        t'.layer.num = (t.layer.num + 1) % 2 ^ 32)) ∧
    (c.phase = .stage 1 → s.pubDone c.table c.pubNum = true → Completes (.migrate h) s (fun u => (∃ d, Done u h d ∧ d.c0 = c.c0 ∧ d.c1 = c.c1) ∧
      u.dev = s.dev ∧ u.tables = s.tables))

/-- R189: a REPLICATE with no position to fill on this engine publishes its new layer, whose positions then take writes as copies; when it is
adopted and drained the command ends. -/
def Sys2Proof.Claims.ReplicatePublishes : Prop :=
  ∀ (s : State) (h : Nat) (c : Cmd) (t : Table) (y : Layer), s.running h 8 = some c → s.viewOf c = some (t, y) →
    (c.phase = .ready → t.fills y s.self = [] → Completes (.replicate h) s (fun u => Waits u h 1 ∧ u.dev = s.dev ∧
      ∃ t', Tab.get? u.tables c.table = some t' ∧ t'.layer.reps = t.newReps ∧ t'.layer.sets = t.newSets ∧ t'.layer.ovr = t.layer.ovr ∧
        t'.newReps = [] ∧ t'.newSets = [] ∧ t'.layer.num = (t.layer.num + 1) % 2 ^ 32)) ∧
    (c.phase = .stage 1 → s.drainDone c.table c.pubNum = true → Completes (.replicate h) s (fun u =>
      (∃ d, Done u h d ∧ d.c0 = c.c0 ∧ d.c1 = c.c1 ∧ d.status = c.status) ∧ u.dev = s.dev ∧ u.tables = s.tables))

/-- R176, R177, R183 to R189: HOT_LOAD, MIGRATE and REPLICATE. -/
def Obligations.LayersArePublished : Prop := Claims.HotLoadPublishes ∧ Claims.MigratePublishes ∧ Claims.ReplicatePublishes

/-- R168, R191, R195, R196: a REPLACE_BEGIN that finds the staging SRAM free and awaits nothing claims it, publishes a replacing layer with
empty hot sets, and ends when that is adopted; one that finds it held ends with status 0x19. From 10,000 keeper ticks after the last publication, unpublished
writes are published; a REPLACE_COMMIT with no ROW_WRITE about to run publishes first, and with its last publication drained ends and
gives the claim back. -/
def Obligations.ReplacementRuns : Prop :=
  ∀ (s : State) (h : Nat) (c : Cmd) (t : Table), Tab.get? s.tables c.table = some t →
    (s.openRunning h 1 = some c → c.phase = .ready → s.staging = 0 → s.stampNeeds h t = [] → Completes (.replaceBegin h) s (fun u =>
      Waits u h 1 ∧ u.staging = 2 + c.table ∧ ∃ t', Tab.get? u.tables c.table = some t' ∧ t'.layer.replacing = true ∧
        t'.layer.hots = [[], [], [], []] ∧ t'.layer.num = (t.layer.num + 1) % 2 ^ 32)) ∧
    (s.openRunning h 1 = some c → c.phase = .ready → s.staged.staging ≠ 0 → Completes (.replaceBegin h) s (fun u =>
      (∃ d, Done u h d ∧ d.status = 0x19 ∧ d.detail = 1) ∧ u.dev = s.dev ∧ u.tables = s.tables ∧ u.staging = s.staging)) ∧
    (s.openRunning h 1 = some c → c.phase = .stage 1 → s.pubDone c.table c.pubNum = true → Completes (.replaceBegin h) s (fun u =>
      (∃ d, Done u h d ∧ d.status = c.status) ∧ u.dev = s.dev ∧ u.staging = s.staging ∧ u.tables = s.tables)) ∧
    (t.layer.replacing = true → t.unpublished = true → t.lastVersion + 10000 ≤ s.kTick → s.adopting c.table = false →
      Completes (.versionPublication c.table) s (fun u => u.dev = s.dev ∧ u.cmds = s.cmds ∧ ∃ t', Tab.get? u.tables c.table = some t' ∧
        t'.unpublished = false ∧ t'.lastVersion = s.kTick ∧ t'.layer = { t.layer with num := (t.layer.num + 1) % 2 ^ 32 })) ∧
    (s.openRunning h 2 = some c → c.phase = .ready → (∀ p ∈ s.cmds, p.2.opcode = 6 → p.2.table = c.table → p.2.phase ≠ .ready) →
      s.adopting c.table = false → Completes (.replaceCommit h) s (fun u => Waits u h 1 ∧ u.dev = s.dev ∧ u.staging = s.staging ∧
        ∃ t', Tab.get? u.tables c.table = some t' ∧ t'.unpublished = false ∧ t'.layer.num = (t.layer.num + 1) % 2 ^ 32)) ∧
    (s.openRunning h 2 = some c → c.phase = .stage 2 → s.drainDone c.table c.pubNum = true → Completes (.replaceCommit h) s (fun u =>
      (∃ d, Done u h d ∧ d.status = c.status ∧ d.c0 = c.c0) ∧ u.dev = s.dev ∧ u.staging = 0 ∧ u.tables = s.tables))

/-! Bias, reset, boot and restart. -/

/-- The pages that a bias request may change: none pinned, flipping, or in device bias for another context (R282). -/
abbrev Sys2Proof.Claims.MayFlip (s : State) (first count owner : Nat) : Prop :=
  ∀ i, i < count → bitAt (s.biasEntry (first + i)) 1 = false ∧ bitAt (s.biasEntry (first + i)) 2 = false ∧
    (bitAt (s.biasEntry (first + i)) 0 = true → bitAt (s.biasEntry (first + i)) 31 = true → bits (s.biasEntry (first + i)) 27 16 = owner)

/-- R281, R282, R398: a request to host bias clears `bias`, `flipping` and `owned` of its pages and ends; one to device bias sets `bias`
and the owner of pages that are in device bias already, and asks for the lines of a page in host bias, which flips meanwhile; a
range outside the rules ends with result 1, a page that may not change with result 2, and neither changes an entry. -/
def Obligations.BiasRequestsFlipPages : Prop :=
  ∀ (s : State) (port : Fin 4) (first count : Nat) (owner : Fin 4096) (own : Bool), s.inv → s.portUp port.val = true → s.biasReq = none →
    s.biasWait = [] → s.sliceUp 0 = true → first < 2 ^ 19 → count < 2 ^ 13 →
    (count = 0 ∨ 4096 < count ∨ 294912 < first + count →
      Completes (.biasToHost port first count owner own) s (fun t => bits (t.kreg 0x108) 33 32 = 1 ∧ t = { s with kpr := t.kpr }) ∧
      Completes (.biasToDevice port first count owner own) s (fun t => bits (t.kreg 0x108) 33 32 = 1 ∧ t = { s with kpr := t.kpr })) ∧
    (1 ≤ count → count ≤ 4096 → first + count ≤ 294912 → ¬ MayFlip s first count owner.val →
      Completes (.biasToHost port first count owner own) s (fun t => bits (t.kreg 0x108) 33 32 = 2 ∧ t = { s with kpr := t.kpr }) ∧
      Completes (.biasToDevice port first count owner own) s (fun t => bits (t.kreg 0x108) 33 32 = 2 ∧ t = { s with kpr := t.kpr })) ∧
    (1 ≤ count → count ≤ 4096 → first + count ≤ 294912 → MayFlip s first count owner.val →
      Completes (.biasToHost port first count owner own) s (fun t =>
        (∀ i, i < count → t.biasEntry (first + i) = putBit (putBit (putBit (s.biasEntry (first + i)) 0 false) 2 false) 31 false) ∧
        sameBytes (off (Config.biasBase + 4 * first) (4 * count)) s t ∧ bits (t.kreg 0x108) 12 0 = count ∧ bits (t.kreg 0x108) 33 32 = 0 ∧
        t = { s with kpr := t.kpr, dev := t.dev }) ∧
      ((∀ i, i < count → bitAt (s.biasEntry (first + i)) 0 = true) → Completes (.biasToDevice port first count owner own) s (fun t =>
        (∀ i, i < count → bitAt (t.biasEntry (first + i)) 0 = true ∧ bitAt (t.biasEntry (first + i)) 31 = own ∧
          (own = true → bits (t.biasEntry (first + i)) 27 16 = owner.val)) ∧
        sameBytes (off (Config.biasBase + 4 * first) (4 * count)) s t ∧ bits (t.kreg 0x108) 12 0 = count ∧
        t = { s with kpr := t.kpr, dev := t.dev })) ∧
      (bitAt (s.biasEntry first) 0 = false → Completes (.biasToDevice port first count owner own) s (fun t =>
        bitAt (t.biasEntry first) 2 = true ∧ t.biasReq.isSome = true ∧ sameBytes (off (Config.biasBase + 4 * first) 4) s t ∧
        t.lineReqs.length = s.lineReqs.length + 512 ∧ (∀ r ∈ s.lineReqs, r ∈ t.lineReqs))))

/-- R354, R358, R416: a reset input or the loss of power discards every state but the commands that wait, what has left at the ports, and
the model's count of free values (log entry 2); the field lock outlives a reset, not the power. Once both inputs are high the
keeper samples the straps and begins boot at step 1 with its counter at 0. -/
def Obligations.ResetsDiscardState : Prop :=
  ∀ s : State,
    Completes .por s (fun t => t = { State.reset with
      pending := s.pending, out := t.out, freeCtr := s.freeCtr, boot := { lock := s.boot.lock } } ∧
      t.out = s.out ++ (if s.lit then (List.range 6).map (fun p => Msg.laser p false) else [])) ∧
    (s.powered = true → Completes .engineReset s (fun t => t = { State.reset with
      pending := s.pending, out := t.out, freeCtr := s.freeCtr, boot := { lock := s.boot.lock } } ∧
      t.out = s.out ++ (if s.lit then (List.range 6).map (fun p => Msg.laser p false) else []))) ∧
    (s.powered = false → Gives .engineReset s s) ∧
    Completes .powerOff s (fun t => t = { State.reset with pending := s.pending, out := t.out, freeCtr := s.freeCtr, powered := false } ∧
      t.out = s.out ++ (if s.lit then (List.range 6).map (fun p => Msg.laser p false) else [])) ∧
    (∀ engine gsize : BitVec 8,
      (s.powered = true → s.trip = false → s.boot.step = 0 → Gives (.resetRelease engine gsize) s { s with
        kTick := 0, half := false, boot := { step := 1, strapEngine := engine.toNat, strapGsize := gsize.toNat, lock := true } }) ∧
      (s.powered = false ∨ s.trip = true ∨ s.boot.step ≠ 0 → Gives (.resetRelease engine gsize) s s))

/-- A module whose lane checks have found nothing and are still to be reported, or that has not trained yet. -/
abbrev Sys2Proof.Claims.Untrained (s : State) (l : Nat) : Prop :=
  ∀ m, m < modulesOf l → (s.linkMod l m).state = 0 ∧ (s.linkMod l m).bad = [] ∧ (s.linkMod l m).half = none

/-- R359, R360, R361, Table 16-1: a boot step that nothing failed in gives way to the next: at the end of step 2 the slices run, of step 3
spokes without a bad lane are up, of step 4 the slices' counters have the keeper's value, of step 7 memory is zero, of step 8 every page is in host bias but
the pinned ones, of step 10 no host access waits, and the last makes the engine ready. Step 9 waits for a write of KPR_BOOT_CTL, which selects repair or
skips it. A slice that fails stays in reset while boot goes on; without the keeper, or without PS0 from step 7 on, boot halts. -/
def Obligations.BootGoesThroughItsSteps : Prop :=
  ∀ s : State, s.live = true → s.boot.halted = false →
    (s.boot.step ∈ [1, 2, 3, 4, 5, 6, 7, 8, 10, 11] → (s.boot.step ∈ [7, 8, 11] → s.sliceUp 0 = true) →
      Completes (.bootStepDone 0) s (fun t => t.boot.step = s.boot.step + 1 ∧ t.boot.halted = false ∧ t.kTick = s.kTick ∧
        t.pending = s.pending ∧ t.cmds = s.cmds ∧ t.tables = s.tables ∧
        (s.boot.step = 2 → ∀ l ∈ t.slices, l.run = 2) ∧ (s.boot.step = 4 → ∀ l ∈ t.slices, l.run = 2 → l.tick = s.kTick) ∧
        (s.boot.step = 3 → ∀ n, n < 4 → s.slices.length = 4 → s.sliceUp n = true → (∀ l ∈ spokeLinks n, Untrained s l) →
          t.sliceUp n = true ∧ ∀ l ∈ spokeLinks n, (t.link l).down = false ∧ ∀ m, m < modulesOf l → (t.linkMod l m).state = 1) ∧
        (s.boot.step = 7 → ∀ a, t.dev.byte a = 0) ∧
        (s.boot.step = 8 → ∀ p, p < 294912 → t.biasEntry p = if pinnedPage p then 3 else 0) ∧
        (s.boot.step = 10 → t.memHeld = []) ∧ (s.boot.step = 11 → t.boot.ready = true ∧ t.vats = []))) ∧
    (s.boot.step = 9 → Gives (.bootStepDone 0) s s) ∧
    (∀ n : Fin 4, s.boot.step ∈ [3, 4, 5, 6, 7, 8, 11] → (s.boot.step ∈ [7, 8, 11] → n.val ≠ 0 ∧ s.sliceUp 0 = true) →
      s.slices.length = 4 → s.sliceUp n.val = true →
      Completes (.bootStepDone (2 ^ n.val)) s (fun t => t.boot.step = s.boot.step + 1 ∧ t.boot.failed = true ∧ (t.slc n.val).run = 0 ∧
        (s.boot.step ≠ 3 → ∀ m, m ≠ n.val → (t.slc m).run = (s.slc m).run) ∧ s.errs.total < t.errs.total)) ∧
    (s.boot.step = 2 → Completes (.bootStepDone 16) s (fun t => t.boot.step = 2 ∧ t.boot.halted = true ∧ t.boot.rstFail = true)) ∧
    (s.boot.step ∈ [7, 8, 11] → s.sliceUp 0 = false → Completes (.bootStepDone 0) s (fun t =>
      t.boot.step = s.boot.step ∧ t.boot.halted = true ∧ t.boot.rstFail = true)) ∧
    (∀ port : Fin 4,
      (s.portUp port.val = true → s.boot.step = 9 → Gives (.bootRepair port) s { s with boot := { s.boot with step := 10 } } ∧
        Gives (.bootSkip port) s { (s.setKreg 0x130 0) with boot := { s.boot with step := 11 } }) ∧
      (s.boot.step ≠ 9 → Gives (.bootRepair port) s s ∧ Gives (.bootSkip port) s s))

/-- R362, R363, Tables 16-4 and 16-5: a trigger begins the restart of a slice that runs, or waits while another restarts, and does nothing
to a slice in reset; an internal fault makes an entry of its own. Steps follow one another; at the end of step 3 the slice's commands, queues, vats and
host writes are gone; at step 4 its counter is loaded with a value ahead of the keeper's, or it stays in reset without its spoke; at
step 7 its vats are zero; after step 8 it runs. -/
def Obligations.SliceRestartRuns : Prop :=
  ∀ (s : State) (n : Fin 4) (trig : Fin 3), s.live = true → s.slices.length = 4 → (trig.val = 0 → s.hostReady = true) →
    (s.sliceUp n.val = true → s.restartQ = [] → (∀ l ∈ s.slices, l.run ≠ 1) → Completes (.sliceRestart n trig) s (fun t =>
      (t.slc n.val).run = 1 ∧ (t.slc n.val).rstep = 1 ∧ t.restartQ = [] ∧ (∀ m, m ≠ n.val → t.slc m = s.slc m) ∧
      t.errs.total = s.errs.total + (if trig.val = 2 then 2 else 1) ∧ t.cmds = s.cmds ∧ t.dev = s.dev)) ∧
    (s.sliceUp n.val = true → (∀ p ∈ s.restartQ, p.1 ≠ n.val) → (∃ l ∈ s.slices, l.run = 1) → Completes (.sliceRestart n trig) s (fun t =>
      t.restartQ = s.restartQ ++ [(n.val, trig.val)] ∧ t.slices = s.slices ∧ t.errs.total = s.errs.total + (if trig.val = 2 then 1 else 0) ∧
      (trig.val ≠ 2 → t = { s with restartQ := t.restartQ }))) ∧
    (s.sliceUp n.val = false → Gives (.sliceRestart n trig) s s) ∧
    ((s.slc n.val).run = 1 →
      ((s.slc n.val).rstep ∈ [1, 2, 5, 6, 7] → Completes (.restartStepDone n 0) s (fun t =>
        t.slc n.val = { s.slc n.val with rstep := (s.slc n.val).rstep + 1 } ∧ (∀ m, m ≠ n.val → t.slc m = s.slc m) ∧ t.cmds = s.cmds ∧
        t.dev = s.dev ∧ (∀ v, t.vat v = if (s.slc n.val).rstep = 7 ∧ v / 16 = n.val then {} else s.vat v))) ∧
      ((s.slc n.val).rstep = 3 → Completes (.restartStepDone n 0) s (fun t => (t.slc n.val).rstep = 4 ∧ (t.slc n.val).tick = (s.slc n.val).tick ∧
        (∀ p ∈ t.cmds, p.2.slice ≠ n.val) ∧ (∀ p ∈ t.sqs, p.2.slice ≠ n.val) ∧ (∀ v, v / 16 = n.val → t.vat v = {}) ∧
        (∀ w ∈ t.hostWr, w.slice ≠ n.val))) ∧
      ((s.slc n.val).rstep = 4 → (∀ l ∈ spokeLinks n.val, Untrained s l) → Completes (.restartStepDone n 0) s (fun t =>
        t.slc n.val = { s.slc n.val with rstep := 5, tick := s.kTick + cdiv (s.kTick - (s.slc n.val).lastLoad) 999, lastLoad := s.kTick } ∧
        (∀ l ∈ spokeLinks n.val, (t.link l).down = false) ∧ t.cmds = s.cmds ∧ t.dev = s.dev)) ∧
      ((s.slc n.val).rstep = 4 → (∀ l ∈ spokeLinks n.val, Untrained s l) → s.restartQ = [] → Completes (.restartStepDone n 1) s (fun t =>
        (t.slc n.val).run = 0 ∧ (t.slc n.val).rstep = 0 ∧ (∀ l ∈ spokeLinks n.val, (t.link l).down = true) ∧ t.cmds = s.cmds ∧ t.dev = s.dev)) ∧
      ((s.slc n.val).rstep = 8 → s.restartQ = [] → s.mgmtQ = [] → s.biasWait = [] → s.biasReq = none → s.retirePend = [] →
        Completes (.restartStepDone n 0) s (fun t => t.slc n.val = { s.slc n.val with run := 2, rstep := 0 } ∧
          (∀ m, m ≠ n.val → t.slc m = s.slc m) ∧ t.cmds = s.cmds ∧ sameBytes (off Config.capPtr 192) s t ∧ (n.val ≠ 0 → t.dev = s.dev))))

/-! Optical ports and presence. -/

/-- R332, R333, R338, R378: setting `enable` begins each port's beacons anew and lights the lasers, clearing it darkens them; `up` = 0 leaves
no engine present; READMIT adds one to `admit`; a beacon that is due leaves with its port's number, and one that is not due does
not; the loss-of-light input is followed. -/
def Obligations.OpticalPortsAreControlled : Prop :=
  ∀ (s : State) (port : Fin 4) (p : Fin 6), s.portUp port.val = true → s.live = true →
    (bitAt (s.kreg 0x800) 0 = false → Completes (.opEnable port true) s (fun t => t.kreg 0x800 = putBit (s.kreg 0x800) 0 true ∧
      (t.optic p.val).bseq = 0 ∧ (t.optic p.val).nextBeacon = s.kTick + 1000 ∧ t.out = s.out ++ (if t.lit then (List.range 6).map (fun q => Msg.laser q true) else []) ∧
      t = { s with kpr := t.kpr, optics := t.optics, out := t.out })) ∧
    (bitAt (s.kreg 0x800) 0 = true → Completes (.opEnable port false) s (fun t => t.kreg 0x800 = putBit (s.kreg 0x800) 0 false ∧
      t.out = s.out ++ (if s.lit then (List.range 6).map (fun q => Msg.laser q false) else []) ∧ t = { s with kpr := t.kpr, out := t.out })) ∧
    (bitAt (s.kreg 0x800) 1 = true → Completes (.opUp port false) s (fun t => bitAt (t.kreg 0x800) 1 = false ∧ t.declared = 0 ∧
      t.cmds = s.cmds ∧ t.dev = s.dev ∧ t.visible = s.visible)) ∧
    (bitAt (s.kreg 0x800) 1 = false → Completes (.opUp port true) s (fun t => bitAt (t.kreg 0x800) 1 = true ∧ t.declared = t.presenceMap ∧
      t.cmds = s.cmds ∧ t.dev = s.dev ∧ t.visible = s.visible)) ∧
    (∀ on, bitAt (s.kreg 0x800) 0 = on → Gives (.opEnable port on) s s) ∧ (∀ on, bitAt (s.kreg 0x800) 1 = on → Gives (.opUp port on) s s) ∧
    Completes (.readmit port) s (fun t => t = s.setKreg 0x800 (t.kreg 0x800) ∧ bits (t.kreg 0x800) 47 32 = (bits (s.kreg 0x800) 47 32 + 1) % 65536 ∧
      bits (t.kreg 0x800) 31 0 = bits (s.kreg 0x800) 31 0) ∧
    (s.lit = true → s.attached p.val = true → (s.optic p.val).nextBeacon ≤ s.kTick → (s.optic p.val).replay.length < 640 →
      Completes (.beaconSend p) s (fun t => (t.optic p.val).nextBeacon = (s.optic p.val).nextBeacon + 1000 ∧
        (t.optic p.val).bseq = ((s.optic p.val).bseq + 1) % 2 ^ 32 ∧ (∃ f, t.out = s.out ++ [.frame p.val f] ∧ f.length = 256 ∧
          (beaconOf f).bseq = (s.optic p.val).bseq % 2 ^ 32 ∧ (beaconOf f).engine = s.self % 256) ∧ t = { s with optics := t.optics, out := t.out })) ∧
    (s.kTick < (s.optic p.val).nextBeacon → Gives (.beaconSend p) s s) ∧
    (∀ dark, Completes (.opLos p dark) s (fun t => (t.optic p.val).los = dark ∧ (dark = true → (s.optic p.val).los = false → (t.optic p.val).losSince = s.kTick) ∧
      (∀ q, q ≠ p.val → t.optic q = s.optic q) ∧ t = { s with optics := t.optics }))

/-- R327, R330, R333, R334, R342: the third consecutive UP beacon of a partner that was not present and may come back makes it present; a
beacon of another group or source is dropped and counted. A partner is lost after 4,000 ticks without a beacon, 100 ns of dark, or
when its port loses lock or its eighth wavelength, and its pair is recorded. The keeper's map of
present engines follows. -/
def Sys2Proof.Claims.PresenceFollowsBeacons : Prop :=
  ∀ (s : State) (p : Fin 6), s.live = true →
    (∀ b a : Beacon, s.attached p.val = true → s.admits p.val 0 b.engine = true → b.group = bits (s.kreg 0x800) 31 16 →
      (s.optic p.val).partner = some b.engine → (s.optic p.val).beacon = some a → (s.optic p.val).run = 2 → (s.optic p.val).present = false →
      bitAt a.state 0 = true → bitAt b.state 0 = true → b.bseq = (a.bseq + 1) % 2 ^ 32 → bitAt b.presence s.self = true →
      Tab.get? s.lostPairs b.engine ≠ some (b.inc, b.admitNo) → s.portFit p.val = true →
      Completes (.beaconReceive p b) s (fun t => (t.optic p.val).present = true ∧ (t.optic p.val).beacon = some b ∧ (t.optic p.val).run = 3 ∧
        t.declared = t.presenceMap ∧ t.dev = s.dev ∧ t.cmds = s.cmds)) ∧
    (∀ b : Beacon, s.attached p.val = true → (s.admits p.val 0 b.engine = false ∨ b.group ≠ bits (s.kreg 0x800) 31 16) →
      Gives (.beaconReceive p b) s (s.modOptic p.val (fun o => { o with deny := satTo 65535 (o.deny + 1) }))) ∧
    ((s.optic p.val).present = true →
      ((s.optic p.val).heard + 4000 ≤ s.kTick → Completes (.missTimeout p) s (fun t => (t.optic p.val).present = false ∧ t.declared = t.presenceMap ∧
        (∀ e b, (s.optic p.val).partner = some e → (s.optic p.val).beacon = some b → Tab.get? t.lostPairs e = some (b.inc, b.admitNo)) ∧
        t.dev = s.dev ∧ t.cmds = s.cmds)) ∧
      ((s.optic p.val).los = true → (s.optic p.val).losSince + 100 ≤ s.kTick → Completes (.lossOfLight p) s (fun t =>
        (t.optic p.val).present = false ∧ t.declared = t.presenceMap ∧ t.dev = s.dev ∧ t.cmds = s.cmds)) ∧
      ((s.optic p.val).lock = true → Completes (.opLock p false) s (fun t => (t.optic p.val).lock = false ∧ (t.optic p.val).present = false ∧
        t.declared = t.presenceMap ∧ t.errs.total = s.errs.total + 1 ∧ t.dev = s.dev ∧ t.cmds = s.cmds))) ∧
    (s.kTick < (s.optic p.val).heard + 4000 → Gives (.missTimeout p) s s) ∧
    Completes (.opLock p true) s (fun t => (t.optic p.val).lock = true ∧ t.declared = t.presenceMap ∧ t.dev = s.dev ∧ t.cmds = s.cmds) ∧
    (∀ n : Fin 17, (s.optic p.val).lambda ≠ n.val → Completes (.wavelengthChange p n) s (fun t => (t.optic p.val).lambda = n.val ∧
      t.errs.total = s.errs.total + (if 8 ≤ (s.optic p.val).lambda ∧ n.val < 8 then 2 else 1) ∧
      (8 ≤ (s.optic p.val).lambda → n.val < 8 → (t.optic p.val).present = false) ∧ t.dev = s.dev ∧ t.cmds = s.cmds))

/-- R288, R336: the slice whose turn it is adopts the oldest publication of the presence map; with the last one the host sees the map and
KPR_LOSS_SEQ advances by the number of engines that changed. -/
def Sys2Proof.Claims.LossStatesAreAdopted : Prop :=
  ∀ (s : State) (n : Fin 4) (p : LossPub), s.slices.length = 4 → s.lossAdopt.find? (fun q => q.next == n.val) = some p →
    (∀ c ∈ s.cmds, c.2.slice = n.val → c.2.phase = .done) →
    Completes (.lossStateAdopt n) s (fun t => (t.slc n.val).loss = p.map ∧ (∀ m, m ≠ n.val → t.slc m = s.slc m) ∧ t.cmds = s.cmds ∧
      t.declared = s.declared ∧ (n.val < 3 → t.visible = s.visible ∧ t.dev = s.dev ∧ { p with next := p.next + 1 } ∈ t.lossAdopt) ∧
      (n.val = 3 → t.visible = p.map ∧ t.lossAdopt = s.lossAdopt.erase p ∧ t.kreg 0x220 = (s.kreg 0x220 + p.changes.length) % 2 ^ 32 ∧
        (s.inv → sameBytes (off Config.capPtr 192) s t)))

/-- R288, R327, R330 to R336, R342: presence of partners and its adoption by the slices. -/
def Obligations.PresenceIsTrackedAndPublished : Prop := Claims.PresenceFollowsBeacons ∧ Claims.LossStatesAreAdopted

/-- R327, R329, R331: a whole frame with the expected `seq` for this engine, from a source that passes the tests, is taken and its payload
passed on; one for another engine that passes them is sent on with `hops` raised by one; one that fails its check or is out of order
is not taken. An acknowledgement frees the frames before it, a nak sends the rest again; a link-control frame that the tests refuse
is dropped and counted. -/
def Sys2Proof.Claims.FramesAreDelivered : Prop :=
  ∀ (s : State) (p : Fin 6) (f : List Byte), s.attached p.val = true → f.length = 256 →
    (crc32c (f.take 252) = field f 252 4 → field f 4 2 = (s.optic p.val).rxSeq → 1 ≤ field f 2 2 % 16 → field f 2 2 % 16 ≤ 8 → field f 0 1 = s.self →
      s.admits p.val (field f 2 2 % 16) (field f 1 1) = true → s.tracked (field f 1 1) = true →
      Completes (.frameReceive p f) s (fun t => (t.optic p.val).rxSeq = ((s.optic p.val).rxSeq + 1) % 65536 ∧
        (∃ acks, t.out = s.out ++ acks ++ [.payload (16 + p.val) ((f.drop 8).take (field f 2 2 / 16 % 256))]) ∧
        t = { s with optics := t.optics, out := t.out })) ∧
    (∀ q, crc32c (f.take 252) = field f 252 4 → field f 4 2 = (s.optic p.val).rxSeq → 1 ≤ field f 2 2 % 16 → field f 2 1 % 16 ≠ 15 →
      field f 0 1 ≠ s.self → s.passes p.val f = true → s.routePort (field f 0 1) = some q → (s.optic q).replay.length < 640 →
      Completes (.frameReceive p f) s (fun t => (t.optic p.val).rxSeq = ((s.optic p.val).rxSeq + 1) % 65536 ∧
        (∃ acks, t.out = s.out ++ acks ++ [.frame q (stampFrame (f.take 2 ++ natLE 2 (field f 2 2 + 4096) ++ f.drop 4) (s.optic q).txSeq)]) ∧
        t = { s with optics := t.optics, out := t.out })) ∧
    (crc32c (f.take 252) ≠ field f 252 4 ∨ (field f 2 1 % 16 ≠ 15 ∧ field f 4 2 ≠ (s.optic p.val).rxSeq) → Completes (.frameReceive p f) s (fun t =>
      (t.optic p.val).rxSeq = (s.optic p.val).rxSeq ∧ t = { s with optics := t.optics, out := t.out } ∧
      (t.out = s.out ∨ t.out = s.out ++ [.frame p.val (stampFrame (frameOf ((s.optic p.val).partner.getD 0xFF) s.self 0xF 3 0
        (natLE 2 (s.optic p.val).rxSeq ++ [1])) 0)]))) ∧
    (∀ h b, f = h ++ b → crc32c (f.take 252) = field f 252 4 → field f 2 1 % 16 = 15 →
      (s.passes p.val f = true →
        (∀ rest, ackedBefore (field f 8 2) (s.optic p.val).txSeq (s.optic p.val).replay = some rest → (s.optic p.val).waiting = [] →
          (bitAt (field f 10 1) 0 = false → Completes (.linkControlFrame p h b) s (fun t => (t.optic p.val).replay = rest ∧ t.out = s.out ∧
            t = { s with optics := t.optics })) ∧
          (bitAt (field f 10 1) 0 = true → (∀ x ∈ rest, x.2.2 < 16) → Completes (.linkControlFrame p h b) s (fun t =>
            (t.optic p.val).replay = rest.map (fun x => (x.1, x.2.1, x.2.2 + 1)) ∧ t.out = s.out ++ rest.map (fun x => x.2.1.msg p.val x.1) ∧
            t = { s with optics := t.optics, out := t.out }))) ∧
        (ackedBefore (field f 8 2) (s.optic p.val).txSeq (s.optic p.val).replay = none → Gives (.linkControlFrame p h b) s s)) ∧
      (s.passes p.val f = false → Gives (.linkControlFrame p h b) s
        (s.modOptic p.val (fun o => { o with deny := satTo 65535 (o.deny + 1) })))) ∧
    (∀ h b, f = h ++ b → (crc32c (f.take 252) ≠ field f 252 4 ∨ field f 2 1 % 16 ≠ 15) → Gives (.linkControlFrame p h b) s s)

/-- R329, R331, R336: what the engine sends to a peer leaves as a frame on the primary port of the peer's route entry if that port is up and its
direct partner is present, else on the alternate one under the same test, numbered and kept until it is acknowledged; with 640 frames
unacknowledged it waits; without a port, and to an engine that is lost, nothing is sent. (That a message is one frame: log entry 90.) -/
def Sys2Proof.Claims.OwnTrafficIsRouted : Prop :=
  ∀ (s : State) (e : Nat) (m : PeerMsg),
    (s.usable (s.routeEntry e).1 = true → s.routePort e = some (s.routeEntry e).1) ∧
    (s.usable (s.routeEntry e).1 = false → s.usable (s.routeEntry e).2 = true → s.routePort e = some (s.routeEntry e).2) ∧
    (s.usable (s.routeEntry e).1 = false → s.usable (s.routeEntry e).2 = false → s.toPeer e m = s) ∧
    (presentIn s.self s.declared e = false → s.toPeer e m = s) ∧
    (∀ q, presentIn s.self s.declared e = true → s.routePort e = some q →
      ((s.optic q).replay.length < 640 → (s.toPeer e m).out = s.out ++ [.toPeer q (s.optic q).txSeq e m] ∧
        ((s.toPeer e m).optic q).replay = (s.optic q).replay ++ [((s.optic q).txSeq, .peer e m, 1)] ∧
        ((s.toPeer e m).optic q).txSeq = ((s.optic q).txSeq + 1) % 65536 ∧
        s.toPeer e m = { s with optics := (s.toPeer e m).optics, out := (s.toPeer e m).out }) ∧
      (640 ≤ (s.optic q).replay.length → ((s.toPeer e m).optic q).waiting = (s.optic q).waiting ++ [.peer e m] ∧
        s.toPeer e m = { s with optics := (s.toPeer e m).optics }))

/-- R327, R329, R331, R336: frames that come and frames that go. -/
def Obligations.FramesAreTaken : Prop := Claims.FramesAreDelivered ∧ Claims.OwnTrafficIsRouted

/-! Package links. -/

/-- R318 to R323: the expected data flit is passed on and numbered off; one that fails its check is counted and not taken, nor is one out
of order. An acknowledgement that comes in on the way back frees the replay buffer, a nak sends the rest again, dealt over the modules
that carry flits now; with none of them they wait. A module that loses lock retrains. -/
def Sys2Proof.Claims.FlitsAreTaken : Prop :=
  ∀ (s : State) (l m : Nat) (f : List Byte), s.receives l m = true → f.length = 256 →
    (crc32c (f.take 252) = field f 252 4 → field f 0 2 / 16384 = 0 → field f 0 2 % 4096 = (s.link l).expected →
      Completes (.flitReceive l m f) s (fun t => (t.link l).expected = ((s.link l).expected + 1) % 4096 ∧
        (l < 22 → (∃ before, t.out = s.out ++ before ++ [.payload l ((f.drop 2).take 250)]) ∧ t.dev = s.dev ∧ t.cmds = s.cmds))) ∧
    (crc32c (f.take 252) ≠ field f 252 4 → Completes (.flitReceive l m f) s (fun t => (t.link l).expected = (s.link l).expected ∧
      (t.linkMod l m).crcErr = satTo 65535 ((s.linkMod l m).crcErr + 1) ∧ t.dev = s.dev ∧ t.cmds = s.cmds)) ∧
    (crc32c (f.take 252) = field f 252 4 → field f 0 2 / 16384 = 0 → field f 0 2 % 4096 ≠ (s.link l).expected →
      Completes (.flitReceive l m f) s (fun t => (t.link l).expected = (s.link l).expected ∧ t.dev = s.dev ∧ t.cmds = s.cmds)) ∧
    (∀ b rest, crc32c (f.take 252) = field f 252 4 → field f 0 2 / 16384 = 2 → b = linkBack l → (s.link b).waiting = [] → (s.linkMod l m).fails = [] →
      freeBefore (field f 2 2 % 4096) (s.link b).next (s.link b).replay = some rest → Completes (.linkControlFlit l m f) s (fun t =>
        (t.link b).replay = rest ∧ (t.link l).expected = (s.link l).expected ∧ t.dev = s.dev ∧ t.cmds = s.cmds ∧
        (bitAt (field f 2 2) 15 = false → (s.link b).unsent = 0 → t.out = s.out) ∧
        (bitAt (field f 2 2) 15 = true → (∀ m', m' < modulesOf b → s.carries b m' = false) → (t.link b).unsent = rest.length ∧ t.out = s.out) ∧
        (bitAt (field f 2 2) 15 = true → (∃ m', m' < modulesOf b ∧ s.carries b m' = true) → (t.link b).unsent = 0 ∧
          ∃ dealt : List Nat, dealt.length = rest.length ∧ (∀ m' ∈ dealt, m' < modulesOf b ∧ s.carries b m' = true) ∧
            t.out = s.out ++ (List.zip dealt rest).map (fun x => Msg.flit b x.1 (flitOf x.2.1 x.2.2))))) ∧
    Completes (.moduleLockLoss l m) s (fun t => (t.linkMod l m).state = 0 ∧ (t.linkMod l m).retrains = satTo 255 ((s.linkMod l m).retrains + 1) ∧
      t.errs.total = s.errs.total + 1 ∧ t.dev = s.dev ∧ t.cmds = s.cmds)

/-- R322, R323: the lanes that failed in both checks are bad from then on, their number fixes the module's state, a module that has run on half
its lanes does not return to all of them, and a direction whose modules are all disabled is down, unless its training is still in
progress. -/
def Sys2Proof.Claims.RetrainingFixesModules : Prop :=
  ∀ (s : State) (l m : Nat) (rx tx : BitVec 34), l < 30 → m < modulesOf l → s.endUp l = true → (s.link l).down = false →
    (s.linkMod l m).state = 0 → Completes (.retrainComplete l m rx tx) s (fun t =>
      (∀ i, i ∈ (t.linkMod l m).bad.map Prod.fst ↔ i ∈ (s.linkMod l m).bad.map Prod.fst ∨ (i < 34 ∧ (rx &&& tx).getLsbD i = true)) ∧
      (t.linkMod l m).state = (if (t.linkMod l m).bad.length ≤ 2 ∧ (s.linkMod l m).half = none then 1
        else if (t.linkMod l m).bad.length ≤ 18 then 2 else 3) ∧
      ((t.linkMod l m).state ≠ 1 → (t.linkMod l m).half ≠ none) ∧
      (s.training l = false →
        ((t.link l).down = true ↔ (t.linkMod l m).state = 3 ∧ ∀ i, i < modulesOf l → i ≠ m → 3 ≤ (s.linkMod l i).state)) ∧
      (s.training l = true → (t.link l).down = false) ∧ t.dev = s.dev ∧ t.cmds = s.cmds)

/-- R318 to R323: flits, retries, retraining and links that go down. -/
def Obligations.LinksCarryFlits : Prop := Claims.FlitsAreTaken ∧ Claims.RetrainingFixesModules

/-! Groups of engines. -/

/-- R152, R153: SEAL_SEND seals the step to every present engine of the peer list and holds its own seal; an arrival from a present engine is held;
the timeout of an APPLY_STEP that lacks a seal ends it with TIMEOUT, and the step stays open. -/
def Obligations.SealsAreHeld : Prop :=
  ∀ (s : State) (h : Nat) (c : Cmd) (t : Table), Tab.get? s.tables c.table = some t →
    (s.running h 5 = some c → c.phase = .ready →
      (∀ p ∈ s.cmds, p.2.opcode = 4 → p.2.table = c.table → p.2.fld 0x10 8 = c.fld 0x10 8 → p.2.phase = .done) →
      (∃ e ∈ peersOf c.image, e ≠ s.self ∧ e ∉ c.lost ∧ presentIn s.self (s.slc c.slice).loss e = true ∧ (e, t.step) ∉ t.seals ∧
        (e, t.step) ∉ t.dropped) →
      Completes (.sealSend h) s (fun u =>
        Tab.get? u.tables c.table = some { t with seals := t.seals ++ [(s.self, BitVec.ofNat 64 (c.fld 0x10 8))] } ∧
        Tab.get? u.cmds h = some { c with phase := .stage 1 } ∧
        u = { (peersOf c.image).foldl (fun acc e => acc.toPeer e (.seal c.table (BitVec.ofNat 64 (c.fld 0x10 8)))) s with
          tables := u.tables, cmds := u.cmds })) ∧
    (∀ (src : Nat) (step : Word), presentIn s.self s.declared src = true →
      (∀ p ∈ s.cmds, p.2.opcode = 5 → p.2.table = c.table → p.2.phase = .done) → Completes (.sealArrival src c.table step) s (fun u =>
        Tab.get? u.tables c.table = some { t with seals := t.seals ++ [(src, step)] } ∧ u = { s with tables := u.tables })) ∧
    (Tab.get? s.cmds h = some c → c.opcode = 5 → (c.phase = .ready ∨ c.phase = .stage 1) → s.sealed c t = false → c.fld 0xC 4 ≠ 0 →
      c.tick + c.fld 0xC 4 ≤ (s.slc c.slice).tick → Completes (.sealTimeout h) s (fun u => u.dev = s.dev ∧ u.tables = s.tables ∧
        ∃ d, Done u h d ∧ d.status = 0x14 ∧ d.detail = 0))

/-- R81, R83, R147, R173, R421: a present engine's request for a row is answered under the layers at its arrival with the row that this engine
serves, absent where it serves none, or is held until the lines it needs have come; a reply reaches the command that asked; a
contribution is refused, or buffered and accepted, or held back without an answer where no buffer has room. -/
def Sys2Proof.Claims.RowsAndContributionsAreAnswered : Prop :=
  ∀ (s : State) (src : Nat), presentIn s.self s.declared src = true →
    (∀ table mapId row tag,
      (Tab.get? (s.slc 3).layers table = none → Gives (.peerRowRequest src table mapId row tag) s (s.toPeer src (.reply tag .absent))) ∧
      (∀ y, Tab.get? (s.slc 3).layers table = some y →
        (s.peerCopy table mapId row y = none → Gives (.peerRowRequest src table mapId row tag) s (s.toPeer src (.reply tag .absent))) ∧
        (y.closing = true ∨ (∀ t, Tab.get? s.tables table = some t → t.mapId ≠ mapId) → s.peerCopy table mapId row y = none) ∧
        (∀ t l b, s.peerCopy table mapId row y = some (t, l) →
          b = s.copyBytes { who := .engine, ctx := 0, pasid := 0, fw := none } (l.stack / 3) [] t y row l →
          (b.needs = [] → Completes (.peerRowRequest src table mapId row tag) s (fun u => ∃ bad : List Nat,
            (∀ i, i ∈ bad ↔ i < t.stored / 32 ∧ anyPoison (sliceP b.val (32 * i) 32) = true) ∧
            u = { s.toPeer src (.reply tag (.row (dataOf b.val) bad)) with slices := u.slices })) ∧
          (b.needs ≠ [] → Completes (.peerRowRequest src table mapId row tag) s (fun u => u.dev = s.dev ∧ u.cmds = s.cmds ∧ u.tables = s.tables ∧
            ∃ p, u.heldPeer = s.heldPeer ++ [p] ∧ p.ins = .peerRowRequest src table mapId row tag ∧ p.view = y))))) ∧
    (∀ tag reply q, s.peerReqs.find? (fun q => q.tag == tag && q.peer == src) = some q → (∀ i, q.want ≠ .contribution i) →
      Gives (.rowReply src tag reply) s { s with
        peerReqs := s.peerReqs.erase q, cmds := Tab.modify s.cmds q.h (fun d => { d with got := d.got ++ [(q.want, reply)] }) }) ∧
    (∀ tag reply, (∀ q ∈ s.peerReqs, q.tag ≠ tag ∨ q.peer ≠ src) → Gives (.rowReply src tag reply) s s) ∧
    (∀ (n : Fin 4) table mapId step row batch elems tag,
      (s.refuses table mapId step row elems.length = true ∨ s.ownerDown table step row = true →
        Completes (.contributionArrival src n table mapId step row batch elems tag) s (fun u =>
          u = { s.toPeer src (.reply tag .refused) with slices := u.slices })) ∧
      (∀ t y, s.refuses table mapId step row elems.length = false → Tab.get? s.tables table = some t → Tab.get? (s.slc 3).layers table = some y →
        s.sliceUp ((t.contribOwner y table step row).stack / 3) = true →
        (t.hasRoom ((t.contribOwner y table step row).stack / 3) 0 = true →
          Completes (.contributionArrival src n table mapId step row batch elems tag) s (fun u =>
            u = { s.toPeer src (.reply tag .accepted) with tables := u.tables, slices := u.slices } ∧
            ∃ k, Tab.get? u.tables table = some { t with contribs := t.contribs ++ [k], arrivals := t.arrivals + 1 } ∧ k.row = row ∧ k.engine = src ∧
              k.slice = n.val ∧ k.batch = batch ∧ k.step = step ∧ k.level = 0 ∧ k.elems = elems.map (fun e => ⟨e.1, e.2⟩))) ∧
        (t.nextLevel ((t.contribOwner y table step row).stack / 3) = none →
          Completes (.contributionArrival src n table mapId step row batch elems tag) s (fun u => u.out = s.out ∧ u.dev = s.dev ∧ u.cmds = s.cmds ∧
            ∃ k, Tab.get? u.tables table = some { t with stalled := t.stalled ++ [(k, tag)] } ∧ k.row = row ∧ k.engine = src ∧ k.step = step ∧
              k.batch = batch))))

/-- R125, R133, R134, R161, R173, R195: a scan is answered part by part, as absent where the table is not open here, and a part's answer is taken
from the peer that owes it; a replica write changes no byte but at the copies of its row here. -/
def Sys2Proof.Claims.ScansAndReplicasAreServed : Prop :=
  ∀ (s : State) (src : Nat), presentIn s.self s.declared src = true →
    (∀ table mapId tag packet image variant queries mask parts,
      Completes (.scanRequest src table mapId tag packet image variant queries mask parts) s (fun u =>
        u.dev = s.dev ∧ u.cmds = s.cmds ∧ u.tables = s.tables ∧
        (Tab.get? s.tables table = none ∨ Tab.get? (s.slc 3).layers table = none →
          u = parts.foldl (fun acc p => acc.toPeer src (.scanPartial tag 0 0 0 p [0, 0, 0, 0] [])) s) ∧
        (u.heldPeer = s.heldPeer → ∃ ms : List PeerMsg, u = { ms.foldl (fun acc m => acc.toPeer src m) s with slices := u.slices } ∧
          ∀ p ∈ parts, ∃ fed masked absent ev qs, PeerMsg.scanPartial tag fed masked absent p ev qs ∈ ms))) ∧
    (∀ tag fed masked absent part ev qs q c, s.peerReqs.find? (fun q => q.tag == tag && q.peer == src && q.want == .scan part) = some q → qs ≠ [] →
      Tab.get? s.cmds q.h = some c → c.opcode = 3 → c.phase ≠ .done → (∃ p ∈ c.scans, p.num ≠ part ∧ p.pending = true) →
      Completes (.scanPartial src tag fed masked absent part ⟨ev, qs⟩) s (fun u => u.peerReqs = s.peerReqs.erase q ∧ u.dev = s.dev ∧ u.out = s.out ∧
        (∃ d, Tab.get? u.cmds q.h = some d ∧ d.phase = c.phase ∧ ∃ p ∈ d.scans, p.num = part ∧ p.fed = fed ∧ p.masked = masked ∧ p.absent = absent))) ∧
    (∀ table mapId row bytes poison tag t y, Tab.get? s.tables table = some t → Tab.get? (s.slc 3).layers table = some y → t.mapId = mapId →
      row < t.rows → y.closing = false → y.replacing = false → s.readersBefore s.nextCmd table = false → s.writeHeld s.nextCmd table row = false →
      s.rowNeeds .engine table t y row = [] → s.inv → Completes (.replicaWrite src table mapId row bytes poison tag) s (fun u =>
        u = { s with dev := u.dev } ∧
        (∀ a, (∀ l ∈ s.copiesHere t y table row, off (t.addrOf l false) t.stored a) → u.dev.byte a = s.dev.byte a) ∧
        (∀ l, s.copiesHere t y table row = [l] → s.sliceUp (l.stack / 3) = true →
          ∀ i, i < t.stored → u.dev.byte (t.addrOf l false + i) = bytes.getD i 0)))

/-- R81, R83, R125, R133, R134, R147, R161, R173, R195, R421: what peers ask and answer. -/
def Obligations.PeersAreAnswered : Prop := Claims.RowsAndContributionsAreAnswered ∧ Claims.ScansAndReplicasAreServed

/-! Power and temperature. -/

/-- R366 to R369, R372, Table 16-8: the cap is kept from 100 to 260 W, and a window that ends in the cycle of its write still takes the one before;
a sample adds to the millisecond and fixes what the junctions withhold from the next sample on, or trips the engine from 110 °C; a
window raises or lowers what is withheld for power and begins anew; a slice's estimate follows its demand by at most 6 A a
period. -/
def Obligations.PowerManagerKeepsItsCap : Prop :=
  ∀ s : State, s.live = true →
    (∀ (port : Fin 4) (cap : BitVec 16), s.portUp port.val = true → Completes (.powerLimitWrite port cap) s (fun t =>
      t.kreg 0x240 = (if cap.toNat < 100 then 100 else if 260 < cap.toNat then 260 else cap.toNat) ∧ t.windowCap = s.windowCap ∧
      t = { s with kpr := t.kpr, power := { s.power with capAt := some (s.kTick, s.windowCap) } })) ∧
    (∀ rails junctions v, hottestOf junctions = some v →
      (v < 110 → Completes (.powerSample rails junctions) s (fun t => t.power.samples = s.power.samples + 1 ∧ t.power.sum = s.power.sum + railPower rails 0 18 ∧
        t.power.withheld = s.power.withheld ∧ t.power.junction = s.power.nextJunction ∧ (105 ≤ v → t.power.nextJunction = 15) ∧
        (100 ≤ v → v < 103 → t.power.nextJunction = 8) ∧ (95 ≤ v → v < 98 → t.power.nextJunction = 4) ∧ (v < 93 → t.power.nextJunction = 0) ∧
        t.errs.total = s.errs.total + (if 105 ≤ v ∧ s.power.hot105 = false then 1 else 0) ∧ t.dev = s.dev ∧ t.cmds = s.cmds ∧ t.boot = s.boot)) ∧
      (110 ≤ v → Completes (.powerSample rails junctions) s (fun t => t.trip = true ∧ t.boot.step = 0 ∧ t.cmds = [] ∧ t.tables = [] ∧
        (∀ a, t.dev.byte a = 0) ∧ t.pending = s.pending))) ∧
    (s.power.samples ≠ 0 → Completes .powerWindow s (fun t => t.power.samples = 0 ∧ t.power.sum = 0 ∧
      (s.windowCap * 1000000 < s.power.sum / s.power.samples → t.power.withheld = min 15 (s.power.withheld + 1)) ∧
      (s.power.sum / s.power.samples ≤ s.windowCap * 1000000 → s.windowCap * 1000000 ≤ s.power.sum / s.power.samples + 10000000 →
        t.power.withheld = s.power.withheld) ∧
      (s.power.sum / s.power.samples + 10000000 < s.windowCap * 1000000 → t.power.withheld = s.power.withheld - 1) ∧
      bits (t.kreg 0x248) 15 0 = min 65535 (s.power.sum / s.power.samples / 1000000) ∧ t.dev = s.dev ∧ t.cmds = s.cmds)) ∧
    (∀ (n : Fin 4) (demand : Nat), s.sliceUp n.val = true → s.power.slew.length = 4 → Completes (.slewPeriod n demand) s (fun t =>
      t.power.slew.getD n.val 0 ≤ s.power.slew.getD n.val 0 + 60 ∧ s.power.slew.getD n.val 0 ≤ t.power.slew.getD n.val 0 + 60 ∧
      (demand ≤ s.power.slew.getD n.val 0 + 60 → s.power.slew.getD n.val 0 ≤ demand + 60 → t.power.slew.getD n.val 0 = demand) ∧
      (∀ m, m ≠ n.val → t.power.slew.getD m 0 = s.power.slew.getD m 0) ∧ t = { s with power := t.power }))

/-- R303: three failed temperature reads in a row put a stack into T2 and make an entry of the error record; it stays in T2 as long as reads
fail, and leaves it by the first that succeeds. -/
def Obligations.FailedTemperatureReadsMeanT2 : Prop :=
  ∀ (s : State) (k : Fin 12), s.sliceUp (k.val / 3) = true →
    ((s.chan k.val).badReads = 0 → Completes (.thermalSample k none) s (fun a => (a.chan k.val).state = (s.chan k.val).state ∧ a.errs = s.errs ∧
      Completes (.thermalSample k none) a (fun b => (b.chan k.val).state = (s.chan k.val).state ∧ b.errs = s.errs ∧
        Completes (.thermalSample k none) b (fun c => (c.chan k.val).state = 2 ∧ c.errs.total = s.errs.total + 1 ∧ 3 ≤ (c.chan k.val).badReads)))) ∧
    (3 ≤ (s.chan k.val).badReads → (s.chan k.val).state = 2 ∧
      Completes (.thermalSample k none) s (fun a => (a.chan k.val).state = 2 ∧ 3 ≤ (a.chan k.val).badReads ∧ a.errs = s.errs)) ∧
    (∀ v, Completes (.thermalSample k (some v)) s (fun a => (a.chan k.val).badReads = 0 ∧ (a.chan k.val).state = thermalNext (s.chan k.val).thermal v))

/-! Memory channels. -/

/-- R34, R301, Table 13-3: a sample at or above 100, 95 and 85 °C and one below 83 °C lead to the states of the table; the split of the lowest
plan with traffic queued is selected for a stack, and holds from the next frame on. Neither changes memory. -/
def Sys2Proof.Claims.ChannelsAreSampled : Prop :=
  ∀ (s : State) (k : Fin 12), s.sliceUp (k.val / 3) = true →
    (∀ v, (s.chan k.val).thermal ≤ 3 → Completes (.thermalSample k (some v)) s (fun t => (100 ≤ v → (t.chan k.val).state = 3) ∧
      (95 ≤ v → v < 100 → 2 ≤ (t.chan k.val).state) ∧ (93 ≤ v → v < 95 → (s.chan k.val).thermal = 2 → (t.chan k.val).state = 2) ∧
      (v < 93 → (s.chan k.val).thermal = 2 → (t.chan k.val).state = 1) ∧ (83 ≤ v → v < 95 → (s.chan k.val).thermal = 1 → (t.chan k.val).state = 1) ∧
      (v < 83 → (s.chan k.val).thermal = 1 → (t.chan k.val).state = 0) ∧ (85 ≤ v → v < 95 → (s.chan k.val).thermal = 0 → (t.chan k.val).state = 1) ∧
      (v < 85 → (s.chan k.val).thermal = 0 → (t.chan k.val).state = 0) ∧ (v < 95 → (s.chan k.val).thermal = 3 → (t.chan k.val).state = 2) ∧
      (∀ j, j ≠ k.val → t.chan j = s.chan j) ∧ t.dev = s.dev ∧ t.cmds = s.cmds)) ∧
    (∀ plans p v, plans.min? = some p → Tab.get? s.plans p = some v → Completes (.splitReselect k plans) s (fun t =>
      t.chan k.val = { s.chan k.val with nextSplit := some (field v.image 0x18 4) } ∧ (t.frames.chan k.val).split = field v.image 0x18 4 ∧
      t = { s with chans := t.chans }))

/-- R292, R302, R304 to R308: a clean or corrected read changes no data; an uncorrectable one leaves its sector poisoned with its data, marks its
DRAM row and makes an entry, and so do a correctable error in a poisoned sector and a parity error that the retry repeats; a retry is
counted beside what it reads; an error that escapes leaves other data. The patrol goes on sector by sector, not in T3; a pass of 12
hours is recorded once. -/
def Obligations.SectorReadsAndPatrol : Prop :=
  ∀ (s : State) (k : Fin 12), s.inv → s.sliceUp (k.val / 3) = true →
    (∀ o a, o < Config.stackBytes → a = k.val * Config.stackBytes + o →
      (∀ p, Completes (.sectorRead k o .clean p) s (fun t => t = { s with slices := t.slices })) ∧
      (∀ p, s.dev.sector (a / 32) ≠ 4 → Completes (.sectorRead k o .corrected p) s (fun t => t.dev = s.dev ∧ t.cmds = s.cmds ∧ t.errs = s.errs)) ∧
      (∀ p r, r = .uncorrectable ∨ r = .parity ∨ (r = .corrected ∧ s.dev.sector (a / 32) = 4) → Completes (.sectorRead k o r p) s (fun t =>
        t.dev.sector (a / 32) = 2 ∧ (∀ x, x ≠ a / 32 → t.dev.sector x = s.dev.sector x) ∧
        (∀ x, t.dev.byte x = s.dev.byte x) ∧ t.errs.total = s.errs.total + 1 ∧ t.cmds = s.cmds ∧
        ((placeOf o).1 ∉ (s.chan k.val).retired → ∃ b, ((placeOf o).1, b) ∈ (t.chan k.val).marks))) ∧
      (∀ p, s.dev.sector (a / 32) = 0 → Completes (.sectorRead k o .escaped p) s (fun t =>
        (∀ i, i < 32 → t.dev.byte (a / 32 * 32 + i) = Config.freeByte (s.freeCtr + i)) ∧
        sameBytes (off (a / 32 * 32) 32) s t ∧ t = { s with dev := t.dev, freeCtr := s.freeCtr + 32, slices := t.slices })) ∧
      (∀ p, s.dev.sector (a / 32) ≠ 0 → Completes (.sectorRead k o .escaped p) s (fun t => t = { s with slices := t.slices }))) ∧
    (s.boot.ready = true → (s.chan k.val).state ≠ 3 → ∀ r, Completes (.scrubPatrol k r) s (fun t =>
      (t.chan k.val).patrol = (if (s.chan k.val).patrol + 1 < stackSectors then (s.chan k.val).patrol + 1 else 0) ∧
      (r ≠ .escaped → ∀ x, t.dev.byte x = s.dev.byte x) ∧ t.cmds = s.cmds)) ∧
    ((s.chan k.val).state = 3 → ∀ r, Gives (.scrubPatrol k r) s s) ∧
    (s.boot.ready = true → (s.chan k.val).late = false → (s.chan k.val).passStart + 43200000000000 ≤ (s.slc (k.val / 3)).tick →
      Completes (.scrubLate k) s (fun t => t.chan k.val = { s.chan k.val with late := true } ∧ t.errs.total = s.errs.total + 1 ∧ t.dev = s.dev ∧
        Gives (.scrubLate k) t t))

/-- R309 to R312: the oldest marked row is remapped with a free resource of its bank group and entered in the row-retire list at level 1;
without a resource it is retired. Rows of a table that allows it move off a retired row under a new epoch. -/
def Obligations.RepairsAndRetirements : Prop :=
  ∀ (s : State) (k : Fin 12), s.inv → s.sliceUp (k.val / 3) = true →
    ((s.chan k.val).marks = [] → Gives (.repair k) s s) ∧
    (∀ d unc rest, (s.chan k.val).marks = (d, unc) :: rest → s.sliceUp 0 = true → s.retirePend = [] → s.retireCount < 4096 →
      s.retireFind k.val d = none → Completes (.repair k) s (fun t => (t.chan k.val).marks = rest ∧ t.kreg 0x130 = s.retireCount + 1 ∧
        sameBytes (off (retireAddr s.retireCount) 16) s t ∧ t.errs.total = s.errs.total + 1 ∧ t.cmds = s.cmds ∧ t.tables = s.tables ∧
        (s.repairFree k.val d = true → t.dev.bytes (retireAddr s.retireCount) 16 = retireBytes k.val d 1 unc (s.slc (k.val / 3)).tick ∧
          (t.chan k.val).retired = (s.chan k.val).retired ∧
          Tab.getD (t.chan k.val).used (d.pc * 16 + d.bank / 4) 0 = Tab.getD (s.chan k.val).used (d.pc * 16 + d.bank / 4) 0 + 1) ∧
        (s.repairFree k.val d = false → t.dev.bytes (retireAddr s.retireCount) 16 = retireBytes k.val d 3 unc (s.slc (k.val / 3)).tick ∧
          (t.chan k.val).retired = (s.chan k.val).retired ++ [d]))) ∧
    ((s.chan k.val).retired = [] → Gives (.retireMove k) s s) ∧
    (∀ d num t ms, (s.chan k.val).retired = [d] → s.tables = [(num, t)] → t.shift = [] → ms = s.retireMoves num t k.val d [] → ms ≠ [] →
      s.moveHeld num t = false → s.writesBefore s.nextCmd num = false → s.moveNeeds .engine num t ms = [] →
      Completes (.retireMove k) s (fun u => u.adopt.length = s.adopt.length + 1 ∧ u.cmds = s.cmds ∧ ∃ t', Tab.get? u.tables num = some t' ∧
        t'.shift = [] ∧ t'.layer = { t.layer.moved ms with num := (t.layer.num + 1) % 2 ^ 32 })) ∧
    (∀ d num t ms, (s.chan k.val).retired = [d] → s.tables = [(num, t)] → t.shift = [] → ms = s.retireMoves num t k.val d [] → ms ≠ [] →
      s.moveHeld num t = false → s.writesBefore s.nextCmd num = true → Completes (.retireMove k) s (fun u =>
        Tab.get? u.tables num = some { t with shift := ms.map Ovr.row, shiftFrom := s.nextCmd } ∧ u.dev = s.dev ∧ u.adopt = s.adopt ∧ u.cmds = s.cmds))

/-- R314, R315: a start that the rules do not allow sets `refused`; one that they allow begins a run with its results at 0 and changes no byte;
a stop ends the run. With the checker, a run first fills its range, access by access, with the pattern and changes no other byte; then
a word that differs, and a sector that reads poisoned or uncorrectable, is counted. -/
def Sys2Proof.Claims.GeneratorRuns : Prop :=
  (∀ (s : State) (n : Fin 4) (i : Fin 3) (data : Word), s.inv → s.portUp n.val = true → s.slices.length = 4 →
    (bitAt (s.sreg n.val (tgReg i.val 0)) 62 = false → bitAt data.toNat 61 = false →
      (s.tgAllowed n.val i.val = false → Completes (.tgRun n i data) s (fun t => bitAt (t.sreg n.val (tgReg i.val 0)) 61 = true ∧ t.dev = s.dev ∧
        t = { s with slices := t.slices })) ∧
      (s.tgAllowed n.val i.val = true → Completes (.tgRun n i data) s (fun t =>
        (∃ g, (t.chan (3 * n.val + i.val)).tg = some g ∧ g.lo = s.sreg n.val (tgReg i.val 8) ∧ g.hi = s.sreg n.val (tgReg i.val 0x10) ∧
          g.seed = s.sreg n.val (tgReg i.val 0x18) ∧ g.size = bits (s.sreg n.val (tgReg i.val 0)) 47 42 ∧
          g.check = bitAt (s.sreg n.val (tgReg i.val 0)) 33 ∧ g.fill = (if g.check then g.lo else g.hi)) ∧
        t.sreg n.val (tgReg i.val 0x20) = 0 ∧ t.sreg n.val (tgReg i.val 0x28) = 0 ∧ bitAt (t.sreg n.val (tgReg i.val 0)) 63 = true ∧
        bitAt (t.sreg n.val (tgReg i.val 0)) 62 = true ∧ t = { s with slices := t.slices, chans := t.chans }))) ∧
    (bitAt (s.sreg n.val (tgReg i.val 0)) 62 = true → Completes (.tgStop n i data) s (fun t => bitAt (t.sreg n.val (tgReg i.val 0)) 62 = false ∧
      bitAt (t.sreg n.val (tgReg i.val 0)) 63 = false ∧ (t.chan (3 * n.val + i.val)).tg = none ∧
      t = { s with slices := t.slices, chans := t.chans }))) ∧
  (∀ (s : State) (k : Fin 12) (g : TgRun), s.inv → s.sliceUp (k.val / 3) = true → (s.chan k.val).state ≠ 3 → (s.chan k.val).tg = some g →
    g.fill < g.hi → g.hi ≤ Config.stackBytes → ∀ t, t = s.tgCycle k.val →
      (∀ j b, j < g.size → g.fill + 32 * j < g.hi → b < 32 →
        t.dev.byte (k.val * Config.stackBytes + g.fill + 32 * j + b) = (tgSector g.seed (g.fill + 32 * j)).getD b 0) ∧
      sameBytes (off (k.val * Config.stackBytes + g.fill) (32 * g.size)) s t ∧
      (t.chan k.val).tg = some { g with fill := g.fill + 32 * g.size } ∧ t = { s with dev := t.dev, chans := t.chans }) ∧
  (∀ (s : State) (k : Fin 12) (g : TgRun) (o a res : Nat), s.slices.length = 4 → g.check = true → a = k.val * Config.stackBytes + o →
    res = s.sreg (k.val / 3) (tgReg (k.val % 3) 0x20) →
    (s.dev.sector (a / 32) ≠ 0 → (s.tgRead k.val g o).sreg (k.val / 3) (tgReg (k.val % 3) 0x20) =
      res % 2 ^ 32 + min 0xFFFFFFFF (res / 2 ^ 32 + 1) * 2 ^ 32) ∧
    (s.dev.sector (a / 32) = 0 → (∀ w, w < 4 → s.dev.num (a + 8 * w) 8 = g.seed ^^^ (o + 8 * w)) →
      (s.tgRead k.val g o).sreg (k.val / 3) (tgReg (k.val % 3) 0x20) = res) ∧
    (s.dev.sector (a / 32) = 0 → (∀ w, w < 4 → s.dev.num (a + 8 * w) 8 ≠ g.seed ^^^ (o + 8 * w)) →
      (s.tgRead k.val g o).sreg (k.val / 3) (tgReg (k.val % 3) 0x20) = min 0xFFFFFFFF (res % 2 ^ 32 + 4) + res / 2 ^ 32 * 2 ^ 32))

/-- R34, R301, R314, R315: temperature, the split and the traffic generator. -/
def Obligations.ChannelsAreSampledAndTested : Prop := Claims.ChannelsAreSampled ∧ Claims.GeneratorRuns

/-! Observation, skew and the crossing queues. -/

/-- R406, R410, R412, R415, R416: forwarded increments reach the keeper's counters; trace starts empty, refused where the staging SRAM has
another holder, one of the same cycle included; a release gives the SRAM back; a dump writes every record and no other byte, or waits
for its lines, and is ignored and counted where it may not be made; a mark is one record; the test port
answers IDCODE, BYPASS and reads, and every other instruction acts as BYPASS and is counted. -/
def Obligations.ObservationCommandsAct : Prop :=
  ∀ (s : State) (port : Fin 4), s.inv → s.portUp port.val = true → s.live = true →
    (∀ data : Word, bitAt (s.kreg 0x8000) 63 = false →
      (bitAt data.toNat 62 = false ∨ (s.staging < 2 ∧ s.claimComes = false) → Completes (.traceStart port data) s (fun t => t.trace.recs = [] ∧ bitAt (t.kreg 0x8000) 63 = true ∧
        (bitAt data.toNat 62 = true → t.staging = 1) ∧ (bitAt data.toNat 62 = false → 2 ≤ s.staging → t.staging = s.staging) ∧
        t = { s with kpr := t.kpr, trace := t.trace, staging := t.staging })) ∧
      (bitAt data.toNat 62 = true → 2 ≤ s.staging ∨ s.claimComes = true → Completes (.traceStart port data) s (fun t => bitAt (t.kreg 0x8000) 63 = false ∧
        bits (t.kreg 0x8000) 55 48 = 1 ∧ t = { s with kpr := t.kpr })) ∧
      (s.staging = 1 → Completes (.traceDeepRelease port data) s (fun t => t.staging = 0 ∧ t.trace.recs = s.trace.recs.take 262144 ∧
        t = { s with kpr := t.kpr, trace := t.trace, staging := t.staging })) ∧
      (∀ (addr : Word) (w : EngWr), w = { act := .dump, addr := addr.toNat, bytes := s.trace.recs.flatMap traceBytes } → addr.toNat % 64 = 0 →
        addr.toNat + 32 * s.trace.recs.length ≤ Config.devBytes → s.dumping = false →
        (s.workNeeds w = [] → Completes (.traceDump port addr) s (fun t =>
          (∀ i, i < 32 * s.trace.recs.length → t.dev.byte (addr.toNat + i) = w.bytes.getD i 0) ∧
          sameBytes (off addr.toNat (32 * s.trace.recs.length)) s t ∧ t.trace = { s.trace with copied := s.trace.recs.length } ∧
          t = { s with dev := t.dev, trace := t.trace })) ∧
        (s.workNeeds w ≠ [] → Completes (.traceDump port addr) s (fun t => t.work = s.work ++ [w] ∧ t.dev = s.dev ∧ t.trace = s.trace ∧ t.cmds = s.cmds))) ∧
      (∀ addr : Word, addr.toNat % 64 ≠ 0 ∨ Config.devBytes < addr.toNat + 32 * s.trace.recs.length ∨ s.dumping = true →
        Gives (.traceDump port addr) s (s.setKreg 0x28 (satTo 0xFFFFFFFF (s.kreg 0x28 + 1))))) ∧
    (∀ v : Word, (bitAt (s.kreg 0x8000) 63 = false ∨ bitAt (s.kreg 0x8000) 9 = false → Gives (.traceMark port v) s s) ∧
      (bitAt (s.kreg 0x8000) 63 = true → bitAt (s.kreg 0x8000) 9 = true → s.trace.recs.length < 262144 → Completes (.traceMark port v) s (fun t =>
        ∃ r, t.trace.recs = s.trace.recs ++ [r] ∧ r.kind = 9 ∧ r.tick = s.kTick ∧ r.payload = natLE 8 v.toNat ++ [0, 0, 0, 0] ∧ t = { s with trace := t.trace }))) ∧
    (∀ n : Fin 4, s.sliceUp n.val = true → s.slices.length = 4 → ((s.slc n.val).incCtx.map Prod.fst).Nodup → ((s.slc n.val).incTbl.map Prod.fst).Nodup →
      Completes (.counterForward n) s (fun t =>
        (∀ x, x ∈ (s.slc n.val).incCtx.map Prod.fst → Tab.getD t.cntCtx x 0 = (Tab.getD s.cntCtx x 0 + Tab.getD (s.slc n.val).incCtx x 0) % 2 ^ 64) ∧
        (∀ x, x ∉ (s.slc n.val).incCtx.map Prod.fst → Tab.getD t.cntCtx x 0 = Tab.getD s.cntCtx x 0) ∧
        (∀ x, x ∈ (s.slc n.val).incTbl.map Prod.fst → Tab.getD t.cntTbl x 0 = (Tab.getD s.cntTbl x 0 + Tab.getD (s.slc n.val).incTbl x 0) % 2 ^ 64) ∧
        t.slc n.val = { s.slc n.val with incCtx := [], incTbl := [] } ∧ t = { s with cntCtx := t.cntCtx, cntTbl := t.cntTbl, slices := t.slices })) ∧
    (∀ data, Gives (.tapInstruction 0 data) s { s with out := s.out ++ [.tap 0 Config.idcode] } ∧
      Gives (.tapInstruction 1 data) s { s with out := s.out ++ [.tap 1 data] } ∧
      (∀ code, code = 2 ∨ code = 3 → Gives (.tapInstruction code data) s { s with out := s.out ++ [.tap code (Config.freeNat s.freeCtr)], freeCtr := s.freeCtr + 1 }) ∧
      (∀ code, 4 ≤ code → Gives (.tapInstruction code data) s
        { s.setKreg 0x8400 (satTo 65535 (s.kreg 0x8400 + 1)) with out := s.out ++ [.tap 1 data] }))

/-- R180: the skew index of twelve stack counts, its limits, the flags that a record takes from it, and that an access served from a hot store
counts at no stack. -/
def Obligations.SkewIndexFollowsTheStacks : Prop :=
  (∀ l : List Nat, l.length = 12 → 65536 ≤ l.sum → skewIndex l = min 65535 (256 * 12 * l.foldl max 0 / l.sum)) ∧
  (∀ l : List Nat, l.sum < 65536 → skewIndex l = 0) ∧
  (∀ n : Nat, 65536 ≤ 12 * n → skewIndex (List.replicate 12 n) = 256) ∧
  (∀ (num t : Nat) (k : SkewSum) (warm : Bool), field (skewRecord num t k warm) 10 2 = skewIndex k.counts12 ∧
    bitAt (field (skewRecord num t k warm) 12 1) 0 = decide (768 ≤ skewIndex k.counts12) ∧
    bitAt (field (skewRecord num t k warm) 12 1) 1 = decide (1536 ≤ skewIndex k.counts12)) ∧
  (∀ (s : State) (num stack bucket row : Nat) (peer : Bool), stack < 12 → s.slices.length = 4 →
    (Tab.getD ((s.skewAccess num stack bucket row true peer).slc (stack / 3)).skew num {}).near =
      (Tab.getD ((s.rollWindow (stack / 3)).slc (stack / 3)).skew num {}).near)

/-- R178, R179, R399: the ring is enabled with its counts at 0 for a legal size and base, and not for another; a release that leaves at most
the ring's size free is taken, every other one is ignored and counted; a slice's window ends when its counter has left it; a merge
takes the window from every slice; a record goes to the slot of the head, or is lost and counted when the ring is full. -/
def Obligations.SkewWindowsAreMerged : Prop :=
  ∀ (s : State) (port : Fin 4), s.inv → s.portUp port.val = true →
    (∀ data : Word, bitAt (s.kreg 0x188) 8 = false → bitAt data.toNat 8 = true →
      (4 ≤ data.toNat % 32 → data.toNat % 32 ≤ 16 → s.kreg 0x180 ≠ 0 → Completes (.skewEnable port data) s (fun t =>
        t.kreg 0x188 = data.toNat % 32 + 256 ∧ t.kreg 0x190 = 0 ∧ t.kreg 0x198 = 0 ∧ t = { s with kpr := t.kpr })) ∧
      (data.toNat % 32 < 4 ∨ 16 < data.toNat % 32 ∨ s.kreg 0x180 = 0 → Completes (.skewEnable port data) s (fun t =>
        bitAt (t.kreg 0x188) 8 = false ∧ t.kreg 0x28 = min 0xFFFFFFFF (s.kreg 0x28 + 1) ∧ t = { s with kpr := t.kpr }))) ∧
    (∀ tail : BitVec 32,
      ((s.kreg 0x190 + 2 ^ 32 - tail.toNat) % 2 ^ 32 ≤ 2 ^ (s.kreg 0x188 % 32) → Gives (.skewRelease port tail) s (s.setKreg 0x198 tail.toNat)) ∧
      (2 ^ (s.kreg 0x188 % 32) < (s.kreg 0x190 + 2 ^ 32 - tail.toNat) % 2 ^ 32 →
        Gives (.skewRelease port tail) s (s.setKreg 0x28 (satTo 0xFFFFFFFF (s.kreg 0x28 + 1))))) ∧
    (∀ n : Fin 4, s.sliceUp n.val = true → s.slices.length = 4 →
      ((s.slc n.val).window < (s.slc n.val).tick / 100000000 → Completes (.skewWindowEnd n) s (fun t => (t.slc n.val).skew = [] ∧
        (t.slc n.val).window = (s.slc n.val).tick / 100000000 ∧
        (t.slc n.val).ended = (s.slc n.val).ended ++ [{ num := (s.slc n.val).window, counts := (s.slc n.val).skew, warm := (s.slc n.val).warm }] ∧
        t = { s with slices := t.slices })) ∧
      ((s.slc n.val).tick / 100000000 ≤ (s.slc n.val).window → Gives (.skewWindowEnd n) s s)) ∧
    (∀ num, s.mergeDue = some num → Completes .skewMerge s (fun t => (∀ l ∈ t.slices, ∀ w ∈ l.ended, w.num ≠ num) ∧
      (∀ l ∈ s.slices, ∀ w ∈ l.ended, w.num ≠ num → ∃ l' ∈ t.slices, w ∈ l'.ended) ∧ t.cmds = s.cmds ∧
      (bitAt (s.kreg 0x188) 8 = false → s.work = [] → t = { s with slices := t.slices }))) ∧
    (∀ (bytes : List Byte) (t : State), bytes.length = 256 → bitAt (s.kreg 0x188) 8 = true → s.pending = [] →
      t = s.workLand { act := .skew, addr := 0, bytes := bytes } →
      ((s.kreg 0x190 + 2 ^ 32 - s.kreg 0x198) % 2 ^ 32 = 2 ^ (s.kreg 0x188 % 32) → t = s.setKreg 0x1A0 (satTo 0xFFFFFFFF (s.kreg 0x1A0 + 1))) ∧
      ((s.kreg 0x190 + 2 ^ 32 - s.kreg 0x198) % 2 ^ 32 ≠ 2 ^ (s.kreg 0x188 % 32) → s.skewSlot + 256 ≤ Config.devBytes →
        s.skewSlot = s.kreg 0x180 + 256 * (s.kreg 0x190 % 2 ^ (s.kreg 0x188 % 32)) ∧ t.kreg 0x190 = (s.kreg 0x190 + 1) % 2 ^ 32 ∧
        (∀ i, i < 256 → t.dev.byte (s.skewSlot + i) = bytes.getD i 0) ∧ sameBytes (off s.skewSlot 256) s t))

/-- R344 to R346, R349 to R352: a full word written to a queue that is not full by the flags of its producer goes to the slot of the write pointer;
at a full one it is held, and presented again; a read takes the word at the read pointer, or a not-valid word when the consumer sees
the queue empty; a drop outside a packet is counted. Flags compare the Gray codes of the pointers, the remote one as two flip-flops
have brought it over, which takes two edges of the receiving clock; and codes are equal where pointers are. -/
def Obligations.QueuesMoveWords : Prop :=
  (∀ a b : Nat, gray a = gray b ↔ a = b) ∧
  ∀ (s : State) (q : Nat), s.writerUp q = true → s.readerUp q = true → s.slices.length = 4 →
    (∀ word vbytes psec last, word.length = (cdcShape (q % 16)).1 → (cdcShape (q % 16)).1 = (cdcShape (q % 16)).2.1 → (s.queue q).pack = [] →
      (s.queue q).held = [] →
      ((s.queue q).full q = false → Completes (.queueWrite q word vbytes psec last) s (fun t =>
        (t.queue q).wptr = ((s.queue q).wptr + 1) % ptrMod q ∧ (t.queue q).wGray = gray (t.queue q).wptr ∧ (t.queue q).rptr = (s.queue q).rptr ∧
        (∃ w, Tab.get? (t.queue q).entries ((s.queue q).wptr % (ptrMod q / 2)) = some w ∧ w.eop = last ∧
          w.vbytes = (if last then min vbytes (cdcShape (q % 16)).1 else (cdcShape (q % 16)).1) ∧ (last = false → w.data = word)) ∧
        (t.queue q).held = [] ∧ t = { s with cdc := t.cdc })) ∧
      ((s.queue q).full q = true → Completes (.queueWrite q word vbytes psec last) s (fun t => (t.queue q).wptr = (s.queue q).wptr ∧
        (t.queue q).entries = (s.queue q).entries ∧ (t.queue q).rSync = ((s.queue q).rGray, (s.queue q).rSync.1) ∧
        (∃ w, (t.queue q).held = [w] ∧ w.data = word ∧ w.eop = last ∧
          (((t.queue q).full q = true → ((t.cdcCycle q).queue q).held = [w]) ∧ ((t.queue q).full q = false → ((t.cdcCycle q).queue q).held = []))) ∧
        t = { s with cdc := t.cdc }))) ∧
    ((s.queue q).dropping = false → (s.queue q).empty = false → Completes (.queueRead q) s (fun t =>
      (t.queue q).rptr = ((s.queue q).rptr + 1) % ptrMod q ∧ (t.queue q).rGray = gray (t.queue q).rptr ∧
      t.out = s.out ++ [.queueWord q ((s.queue q).head q).data (queueTag ((s.queue q).head q))] ∧
      (t.queue q).wSync = ((s.queue q).wGray, (s.queue q).wSync.1) ∧ (t.queue q).inPkt = !((s.queue q).head q).eop ∧ t = { s with cdc := t.cdc, out := t.out })) ∧
    ((s.queue q).dropping = false → (s.queue q).empty = true → Completes (.queueRead q) s (fun t =>
      (t.queue q).rptr = (s.queue q).rptr ∧ (∃ z, t.out = s.out ++ [.queueWord q z (2 ^ 15)] ∧ ∀ b ∈ z, b = 0) ∧
      (t.queue q).wSync = ((s.queue q).wGray, (s.queue q).wSync.1) ∧ t = { s with cdc := t.cdc, out := t.out })) ∧
    ((s.queue q).dropping = false → (s.queue q).inPkt = false → Completes (.queueDrop q) s (fun t =>
      t.sreg (q / 16) 0x4100 = (s.sreg (q / 16) 0x4100 + 1) % 2 ^ 64 ∧ (t.queue q).rptr = (s.queue q).rptr ∧ t = { s with cdc := t.cdc, slices := t.slices })) ∧
    ((s.queue q).dropping = false → (s.queue q).inPkt = true → Completes (.queueDrop q) s (fun t =>
      ((s.queue q).empty = true → (t.queue q).dropping = true ∧ (t.queue q).rptr = (s.queue q).rptr) ∧
      ((s.queue q).empty = false → (t.queue q).rptr = ((s.queue q).rptr + 1) % ptrMod q ∧ (t.queue q).dropping = !((s.queue q).head q).eop) ∧
      t = { s with cdc := t.cdc })) ∧
    (∀ c, Tab.get? s.cdc q = some c → c.held = [] → c.dropping = false →
      ((s.cdcCycle q).queue q) = { c with rSync := (c.rGray, c.rSync.1), wSync := (c.wGray, c.wSync.1) } ∧
      (((s.cdcCycle q).cdcCycle q).queue q) = { c with rSync := (c.rGray, c.rGray), wSync := (c.wGray, c.wGray) })

/-- R201, R202: a ring whose counters lie within twice its slots holds at most its slots; its producer may fill it only while it is not full and
fewer than `ahead` slots are filled, which adds one; its consumer takes one when it is not empty; and a command whose rings find no
room on their vats waits, and nothing else happens. (That a command takes all its rings at once: log entry 91.) -/
def Obligations.RingsBoundWhatIsFetched : Prop :=
  (∀ r : Ring, 0 < r.slots → r.head < 2 * r.slots → r.tail < 2 * r.slots → r.filled ≤ r.slots →
    (r.isEmpty = true ↔ r.filled = 0) ∧ (r.isFull = true ↔ r.filled = r.slots) ∧
    (r.mayFill = true ↔ r.filled < r.slots ∧ (r.ahead = 0 ∨ r.filled < r.ahead)) ∧
    (r.mayFill = true → r.fill.filled = r.filled + 1 ∧ r.fill.filled ≤ r.slots ∧ r.fill.tail < 2 * r.slots) ∧
    (r.isEmpty = false → r.take.filled = r.filled - 1 ∧ r.take.head < 2 * r.slots)) ∧
  (∀ (s : State) (h : Nat) (c : Cmd), c.phase = .ready → s.ringsFree c = false →
    c.begun = false ∧ (∃ v r, (v, r) ∈ c.rings ∧ Config.streamSram < ringBytes s.rings v + ringBytes c.rings v) ∧
    (s.running h 1 = some c → Gives (.lookup h) s s) ∧ (s.running h 3 = some c → Gives (.scoreTopk h) s s) ∧
    (s.running h 4 = some c → Gives (.scatterGrad h) s s))
end

