-- ==== Sys2Proof/Laws/Memory.lean ====
section
/-! SUPPORT. Device memory: every operation keeps the canonical form, a byte written reads back, every other byte stays; and the
laws of things held by number. -/

namespace Sys2Proof.Laws

open Sys2Proof Sys2Proof.Machine

/-! Things held by number. -/

@[simp] theorem tab_get?_set_self {α : Type} (t : Tab α) (k : Nat) (a : α) : Tab.get? (Tab.set t k a) k = some a := by
  induction t with
  | nil => simp [Tab.set, Tab.get?]
  | cons p r ih =>
    obtain ⟨j, b⟩ := p
    simp only [Tab.set]
    split
    · simp [Tab.get?]
    · split
      · simp [Tab.get?]
      · simp_all [Tab.get?]

theorem tab_get?_set_other {α : Type} (t : Tab α) (k j : Nat) (a : α) (h : j ≠ k) : Tab.get? (Tab.set t k a) j = Tab.get? t j := by
  induction t with
  | nil => simp [Tab.set, Tab.get?, Ne.symm h]
  | cons p r ih =>
    obtain ⟨i, b⟩ := p
    simp only [Tab.set]
    split
    · subst_vars; simp [Tab.get?, Ne.symm h]
    · split
      · simp [Tab.get?, Ne.symm h]
      · simp [Tab.get?, ih]

theorem tab_get?_set {α : Type} (t : Tab α) (k j : Nat) (a : α) :
    Tab.get? (Tab.set t k a) j = if j = k then some a else Tab.get? t j := by
  split
  · subst_vars; simp
  · exact tab_get?_set_other t k j a ‹_›

@[simp] theorem tab_getD_set_self {α : Type} (t : Tab α) (k : Nat) (a d : α) : Tab.getD (Tab.set t k a) k d = a := by
  simp [Tab.getD]

theorem tab_getD_set_other {α : Type} (t : Tab α) (k j : Nat) (a d : α) (h : j ≠ k) : Tab.getD (Tab.set t k a) j d = Tab.getD t j d := by
  simp [Tab.getD, tab_get?_set_other t k j a h]

/-- Changing an entry that is there sets it; one that is not there stays away. -/
theorem tab_get?_modify {α : Type} (t : Tab α) (k j : Nat) (f : α → α) :
    Tab.get? (Tab.modify t k f) j = if j = k then (Tab.get? t k).map f else Tab.get? t j := by
  unfold Tab.modify
  cases h : Tab.get? t k with
  | none => by_cases e : j = k <;> simp [e, h]
  | some a => simp [tab_get?_set]

theorem tab_get?_filter_ne {α : Type} (t : Tab α) (k j : Nat) :
    Tab.get? (Tab.erase t k) j = if j = k then none else Tab.get? t j := by
  unfold Tab.erase
  induction t with
  | nil => simp [Tab.get?]
  | cons p r ih =>
    obtain ⟨i, b⟩ := p
    by_cases e : i = k
    · subst e
      by_cases e2 : j = i
      · subst e2; simp_all
      · simp_all [Tab.get?, Ne.symm e2]
    · by_cases e2 : i = j
      · subst e2; simp [Tab.get?, e]
      · simp_all [Tab.get?]

/-- Slice `n` after slice `m` has changed. -/
theorem slc_modSlice (s : State) (m n : Nat) (f : Slice → Slice) (h : m < s.slices.length) :
    (s.modSlice m f).slc n = if n = m then f (s.slc m) else s.slc n := by
  unfold State.modSlice State.slc
  simp only [List.getD_eq_getElem?_getD, List.getElem?_set]
  by_cases e : n = m
  · subst e; simp [h]
  · simp [e, Ne.symm e]

/-- Context `y` after context `x` has changed. -/
theorem ctx_modCtx (s : State) (x y : Nat) (f : Ctx → Ctx) : (s.modCtx x f).ctx y = if y = x then f (s.ctx x) else s.ctx y := by
  unfold State.modCtx State.ctx
  by_cases e : y = x
  · subst e; simp
  · simp [e, tab_getD_set_other _ _ _ _ _ e]

/-- Register `j` of the keeper page after register `o` has been set. -/
theorem kreg_setKreg (s : State) (o j v : Nat) : (s.setKreg o v).kreg j = if j = o then v % 2 ^ 64 else s.kreg j := by
  unfold State.setKreg State.kreg
  by_cases e : j = o
  · subst e; simp [BitVec.toNat_ofNat]
  · simp [e, tab_getD_set_other _ _ _ _ _ e]

/-! Sorted sets of numbers. -/

theorem rising_iff (l : List Nat) : rising l = true ↔ l.Pairwise (· < ·) := by
  induction l with
  | nil => simp [rising]
  | cons a r ih =>
    cases r with
    | nil => simp [rising]
    | cons b r =>
      simp only [rising, Bool.and_eq_true, decide_eq_true_eq, ih, List.pairwise_cons]
      constructor
      · rintro ⟨h1, h2, h3⟩
        refine ⟨?_, h2, h3⟩
        intro c hc
        rcases List.mem_cons.mp hc with rfl | hc
        · exact h1
        · exact lt_trans h1 (h2 c hc)
      · rintro ⟨h1, h2, h3⟩
        exact ⟨h1 b (by simp), h2, h3⟩

@[simp] theorem mem_insNat (l : List Nat) (a x : Nat) : x ∈ insNat l a ↔ x = a ∨ x ∈ l := by
  induction l with
  | nil => simp [insNat]
  | cons b r ih =>
    simp only [insNat]
    split
    · simp
    · split
      · subst_vars; simp
      · simp [ih]; tauto

theorem insNat_rising (l : List Nat) (a : Nat) (h : rising l = true) : rising (insNat l a) = true := by
  rw [rising_iff] at *
  induction l with
  | nil => simp [insNat]
  | cons b r ih =>
    rw [List.pairwise_cons] at h
    simp only [insNat]
    split
    · rename_i hab
      rw [List.pairwise_cons, List.pairwise_cons]
      refine ⟨?_, h⟩
      intro x hx
      rcases List.mem_cons.mp hx with rfl | hx
      · exact hab
      · exact lt_trans hab (h.1 x hx)
    · split
      · rw [List.pairwise_cons]; exact h
      · rename_i h1 h2
        rw [List.pairwise_cons]
        refine ⟨?_, ih h.2⟩
        intro x hx
        rcases (mem_insNat r a x).mp hx with rfl | hx
        · omega
        · exact h.1 x hx

theorem delNat_rising (l : List Nat) (a : Nat) (h : rising l = true) : rising (delNat l a) = true := by
  rw [rising_iff] at *
  exact h.filter _

/-! Cells. -/

/-- The canonical form in other words: addresses rise, no byte is 0. -/
theorem cellsWf_iff (l : List Host.Cell) : cellsWf l = true ↔ l.Pairwise (fun p q => p.1 < q.1) ∧ ∀ p ∈ l, p.2 ≠ 0 := by
  induction l with
  | nil => simp [cellsWf]
  | cons p r ih =>
    cases r with
    | nil => simp [cellsWf]
    | cons q r =>
      simp only [cellsWf, Bool.and_eq_true, bne_iff_ne, ne_eq, decide_eq_true_eq, ih, List.pairwise_cons, List.mem_cons]
      constructor
      · rintro ⟨⟨h1, h2⟩, ⟨h3, h4⟩, h5⟩
        refine ⟨⟨?_, h3, h4⟩, ?_⟩
        · rintro c (rfl | hc)
          · exact h2
          · exact lt_trans h2 (h3 c hc)
        · rintro c (rfl | hc)
          · exact h1
          · exact h5 c hc
      · rintro ⟨⟨h1, h3, h4⟩, h5⟩
        exact ⟨⟨h5 p (Or.inl rfl), h1 q (Or.inl rfl)⟩, ⟨h3, h4⟩, fun c hc => h5 c (Or.inr hc)⟩

theorem putCell_mem (l : List Host.Cell) (a : Nat) (b : Byte) (p : Host.Cell) (h : p ∈ putCell l a b) : p = (a, b) ∧ b ≠ 0 ∨ p ∈ l := by
  induction l with
  | nil =>
    simp only [putCell] at h
    split at h
    · simp at h
    · simp_all
  | cons q r ih =>
    obtain ⟨k, c⟩ := q
    simp only [putCell] at h
    split at h
    · split at h
      · exact Or.inr h
      · rcases List.mem_cons.mp h with h | h
        · exact Or.inl ⟨h, ‹_›⟩
        · exact Or.inr h
    · split at h
      · split at h
        · exact Or.inr (List.mem_cons_of_mem _ h)
        · rcases List.mem_cons.mp h with h | h
          · subst_vars; exact Or.inl ⟨rfl, ‹_›⟩
          · exact Or.inr (List.mem_cons_of_mem _ h)
      · rcases List.mem_cons.mp h with h | h
        · exact Or.inr (by simp [h])
        · rcases ih h with h | h
          · exact Or.inl h
          · exact Or.inr (List.mem_cons_of_mem _ h)

/-- Storing a byte keeps the canonical form. -/
theorem putCell_wf (l : List Host.Cell) (a : Nat) (b : Byte) (h : cellsWf l = true) : cellsWf (putCell l a b) = true := by
  rw [cellsWf_iff] at *
  refine ⟨?_, ?_⟩
  · induction l with
    | nil => simp only [putCell]; split <;> simp
    | cons q r ih =>
      obtain ⟨k, c⟩ := q
      obtain ⟨h1, h2⟩ := h
      rw [List.pairwise_cons] at h1
      simp only [putCell]
      split
      · rename_i hak
        split
        · rw [List.pairwise_cons]; exact h1
        · rw [List.pairwise_cons, List.pairwise_cons]
          refine ⟨?_, h1⟩
          intro p hp
          rcases List.mem_cons.mp hp with rfl | hp
          · exact hak
          · exact lt_trans hak (h1.1 p hp)
      · split
        · split
          · exact h1.2
          · rw [List.pairwise_cons]; exact h1
        · rw [List.pairwise_cons]
          refine ⟨?_, ih ⟨h1.2, fun p hp => h2 p (List.mem_cons_of_mem _ hp)⟩⟩
          intro p hp
          rcases putCell_mem r a b p hp with ⟨rfl, -⟩ | hp
          · simp only; omega
          · exact h1.1 p hp
  · intro p hp
    rcases putCell_mem l a b p hp with ⟨rfl, hb⟩ | hp
    · exact hb
    · exact h.2 p hp

theorem cellAt_absent (l : List Host.Cell) (a : Nat) (h : ∀ p ∈ l, p.1 ≠ a) : cellAt l a = 0 := by
  induction l with
  | nil => rfl
  | cons q r ih =>
    obtain ⟨k, c⟩ := q
    have hk : k ≠ a := h (k, c) (by simp)
    simp [cellAt, hk, ih (fun p hp => h p (List.mem_cons_of_mem _ hp))]

/-- A byte stored reads back; every other byte reads as before. -/
theorem cellAt_putCell (l : List Host.Cell) (a x : Nat) (b : Byte) (h : cellsWf l = true) :
    cellAt (putCell l a b) x = if x = a then b else cellAt l x := by
  rw [cellsWf_iff] at h
  induction l with
  | nil =>
    simp only [putCell]
    split
    · subst_vars; simp [cellAt]
    · by_cases e : x = a
      · subst e; simp [cellAt]
      · simp [cellAt, e, Ne.symm e]
  | cons q r ih =>
    obtain ⟨k, c⟩ := q
    obtain ⟨h1, h2⟩ := h
    rw [List.pairwise_cons] at h1
    have ih := ih ⟨h1.2, fun p hp => h2 p (List.mem_cons_of_mem _ hp)⟩
    simp only [putCell]
    split
    · rename_i hak
      by_cases e : x = a
      · subst e
        have h0 : cellAt ((k, c) :: r) x = 0 := by
          apply cellAt_absent
          intro p hp
          rcases List.mem_cons.mp hp with rfl | hp
          · simp only; omega
          · have := h1.1 p hp; simp only at this; omega
        split
        · subst_vars; simp [h0]
        · simp [cellAt]
      · split
        · simp
        · simp [cellAt, Ne.symm e]
    · split
      · subst_vars
        by_cases e : x = k
        · subst e
          have h0 : cellAt r x = 0 := by
            apply cellAt_absent
            intro p hp
            have := h1.1 p hp
            simp only at this; omega
          split
          · subst_vars; simp [h0]
          · simp [cellAt]
        · split <;> simp [cellAt, Ne.symm e]
      · rename_i hak hk
        by_cases e : k = x
        · subst e
          simp [cellAt, Ne.symm hk]
        · simp [cellAt, e, ih]

theorem putCells_wf (l : List Host.Cell) (a : Nat) (bs : List Byte) (h : cellsWf l = true) : cellsWf (putCells l a bs) = true := by
  induction bs generalizing l a with
  | nil => exact h
  | cons b r ih => exact ih _ _ (putCell_wf l a b h)

/-- Bytes stored read back in order; every other byte reads as before. -/
theorem cellAt_putCells (l : List Host.Cell) (a x : Nat) (bs : List Byte) (h : cellsWf l = true) :
    cellAt (putCells l a bs) x = if a ≤ x ∧ x < a + bs.length then bs.getD (x - a) 0 else cellAt l x := by
  induction bs generalizing l a with
  | nil => simp [putCells]
  | cons b r ih =>
    rw [putCells, ih _ _ (putCell_wf l a b h), cellAt_putCell l a x b h]
    by_cases e : x = a
    · subst e; simp
    · by_cases e2 : a + 1 ≤ x ∧ x < a + 1 + r.length
      · have : x - a = (x - (a + 1)) + 1 := by omega
        rw [if_pos e2, if_pos (by simp; omega), this, List.getD_cons_succ]
      · rw [if_neg e2, if_neg e, if_neg (by simp; omega)]

/-! Device memory as a whole. -/

theorem mem_wf_iff (m : Mem) : m.wf = true ↔ cellsWf m.cells = true ∧ rising m.poison = true ∧ rising m.bad = true := by
  simp [Mem.wf, and_assoc]

@[simp] theorem mark_cells (m : Mem) (k : Nat) (p : Bool) : (m.mark k p).cells = m.cells := rfl
@[simp] theorem markWrite_cells (m : Mem) (a : Nat) (bs : List PB) (k : Nat) : (m.markWrite a bs k).cells = m.cells := rfl

theorem mark_wf (m : Mem) (k : Nat) (p : Bool) (h : m.wf = true) : (m.mark k p).wf = true := by
  rw [mem_wf_iff] at *
  refine ⟨h.1, ?_, delNat_rising _ _ h.2.2⟩
  simp only [Mem.mark]
  split
  · exact insNat_rising _ _ h.2.1
  · exact delNat_rising _ _ h.2.1

theorem foldl_markWrite_wf (ks : List Nat) (m : Mem) (a : Nat) (bs : List PB) (h : m.wf = true) :
    (ks.foldl (fun acc k => acc.markWrite a bs k) m).wf = true := by
  induction ks generalizing m with
  | nil => exact h
  | cons k r ih => exact ih _ (mark_wf m k _ h)

@[simp] theorem foldl_markWrite_cells (ks : List Nat) (m : Mem) (a : Nat) (bs : List PB) :
    (ks.foldl (fun acc k => acc.markWrite a bs k) m).cells = m.cells := by
  induction ks generalizing m with
  | nil => rfl
  | cons k r ih => simp [ih]

/-- Every write of device memory keeps its canonical form. -/
theorem write_wf (m : Mem) (a : Nat) (bs : List PB) (h : m.wf = true) : (m.write a bs).wf = true := by
  unfold Mem.write
  split
  · exact h
  · have h1 := foldl_markWrite_wf ((List.range ((a + bs.length - 1) / 32 + 1 - a / 32)).map (fun i => a / 32 + i)) m a bs h
    rw [mem_wf_iff] at *
    exact ⟨putCells_wf _ _ _ h1.1, h1.2⟩

theorem writeClean_wf (m : Mem) (a : Nat) (bs : List Byte) (h : m.wf = true) : (m.writeClean a bs).wf = true :=
  write_wf m a _ h

/-- A byte of device memory after a write. -/
theorem byte_write (m : Mem) (a x : Nat) (bs : List PB) (h : m.wf = true) :
    (m.write a bs).byte x = if a ≤ x ∧ x < a + bs.length then (dataOf bs).getD (x - a) 0 else m.byte x := by
  have hc := ((mem_wf_iff m).mp h).1
  unfold Mem.write Mem.byte
  split
  · simp
  · simp only [foldl_markWrite_cells]
    rw [cellAt_putCells _ _ _ _ hc]
    simp [dataOf]

/-- Every byte outside the bytes written reads as before. -/
theorem byte_write_off (m : Mem) (a x : Nat) (bs : List PB) (h : m.wf = true) (hx : x < a ∨ a + bs.length ≤ x) :
    (m.write a bs).byte x = m.byte x := by
  rw [byte_write m a x bs h, if_neg (by omega)]

theorem devWrite_inv (s : State) (a : Nat) (bs : List PB) (h : s.inv) : (s.devWrite a bs).inv := write_wf _ _ _ h
theorem devPut_inv (s : State) (a : Nat) (bs : List Byte) (h : s.inv) : (s.devPut a bs).inv := writeClean_wf _ _ _ h

/-- An uncorrectable sector more keeps the canonical form. -/
theorem bad_wf (m : Mem) (k : Nat) (h : m.wf = true) : ({ m with bad := insNat m.bad k } : Mem).wf = true := by
  rw [mem_wf_iff] at *
  exact ⟨h.1, h.2.1, insNat_rising _ _ h.2.2⟩

/-- Zeroed memory is canonical. -/
theorem empty_wf : ({} : Mem).wf = true := by decide

/-- The pinned pages of boot step 8 leave memory canonical. -/
theorem pinned_wf : ({ cells := pinnedCells } : Mem).wf = true := by
  rw [mem_wf_iff]
  refine ⟨?_, by simp [rising], by simp [rising]⟩
  unfold pinnedCells
  generalize (pinnedRuns.flatMap (fun r => (List.range r.2).map (fun i => r.1 + i))) = l
  induction l with
  | nil => simp [cellsWf]
  | cons p r ih => exact putCell_wf _ _ _ ih

end Sys2Proof.Laws
end

