-- ==== Sys2Proof/Laws/State.lean ====
section
/-! SUPPORT. What each update of the state leaves alone: one lemma per update, with one equation per field it does not touch,
so that no later proof unfolds a record update. -/

namespace Sys2Proof.Laws

open Sys2Proof Sys2Proof.Machine

@[simp] theorem devWrite_frame (s : State) (a : Nat) (bs : List PB) :
    (s.devWrite a bs).pending = s.pending ∧ (s.devWrite a bs).out = s.out ∧ (s.devWrite a bs).msiWait = s.msiWait ∧
    (s.devWrite a bs).freeCtr = s.freeCtr ∧ (s.devWrite a bs).powered = s.powered ∧ (s.devWrite a bs).trip = s.trip ∧
    (s.devWrite a bs).boot = s.boot ∧ (s.devWrite a bs).half = s.half ∧ (s.devWrite a bs).restartQ = s.restartQ ∧
    (s.devWrite a bs).kTick = s.kTick ∧ (s.devWrite a bs).slices = s.slices ∧ (s.devWrite a bs).atsReqs = s.atsReqs ∧
    (s.devWrite a bs).lineReqs = s.lineReqs ∧ (s.devWrite a bs).lines = s.lines ∧ (s.devWrite a bs).hostWr = s.hostWr ∧
    (s.devWrite a bs).memHeld = s.memHeld ∧ (s.devWrite a bs).flushes = s.flushes ∧ (s.devWrite a bs).invals = s.invals ∧
    (s.devWrite a bs).biasReq = s.biasReq ∧ (s.devWrite a bs).biasWait = s.biasWait ∧ (s.devWrite a bs).kpr = s.kpr ∧
    (s.devWrite a bs).mgmtQ = s.mgmtQ ∧ (s.devWrite a bs).mgmtBusy = s.mgmtBusy ∧
    (s.devWrite a bs).retirePend = s.retirePend ∧ (s.devWrite a bs).ctxs = s.ctxs ∧ (s.devWrite a bs).sqs = s.sqs ∧
    (s.devWrite a bs).cqs = s.cqs ∧ (s.devWrite a bs).fenceQ = s.fenceQ ∧ (s.devWrite a bs).fw = s.fw ∧
    (s.devWrite a bs).cmds = s.cmds ∧ (s.devWrite a bs).nextCmd = s.nextCmd ∧ (s.devWrite a bs).plans = s.plans ∧
    (s.devWrite a bs).tables = s.tables ∧ (s.devWrite a bs).adopt = s.adopt ∧ (s.devWrite a bs).drains = s.drains ∧
    (s.devWrite a bs).staging = s.staging ∧ (s.devWrite a bs).journal = s.journal ∧ (s.devWrite a bs).vats = s.vats ∧
    (s.devWrite a bs).arrivals = s.arrivals ∧ (s.devWrite a bs).stalledArr = s.stalledArr ∧
    (s.devWrite a bs).declared = s.declared ∧ (s.devWrite a bs).lostMap = s.lostMap ∧
    (s.devWrite a bs).lostPairs = s.lostPairs ∧ (s.devWrite a bs).lossAdopt = s.lossAdopt ∧
    (s.devWrite a bs).visible = s.visible ∧ (s.devWrite a bs).peerReqs = s.peerReqs ∧ (s.devWrite a bs).nextTag = s.nextTag ∧
    (s.devWrite a bs).heldPeer = s.heldPeer ∧ (s.devWrite a bs).work = s.work ∧ (s.devWrite a bs).chans = s.chans ∧
    (s.devWrite a bs).links = s.links ∧ (s.devWrite a bs).mods = s.mods ∧ (s.devWrite a bs).optics = s.optics ∧
    (s.devWrite a bs).power = s.power ∧ (s.devWrite a bs).trace = s.trace ∧ (s.devWrite a bs).cdc = s.cdc ∧
    (s.devWrite a bs).cntCtx = s.cntCtx ∧ (s.devWrite a bs).cntTbl = s.cntTbl ∧ (s.devWrite a bs).cntKs = s.cntKs ∧
    (s.devWrite a bs).errs = s.errs :=
    ⟨rfl, rfl, rfl, rfl, rfl, rfl, rfl, rfl, rfl, rfl, rfl, rfl, rfl, rfl, rfl, rfl, rfl, rfl, rfl, rfl, rfl, rfl, rfl, rfl,
    rfl, rfl, rfl, rfl, rfl, rfl, rfl, rfl, rfl, rfl, rfl, rfl, rfl, rfl, rfl, rfl, rfl, rfl, rfl, rfl, rfl, rfl, rfl, rfl,
    rfl, rfl, rfl, rfl, rfl, rfl, rfl, rfl, rfl, rfl, rfl, rfl⟩

@[simp] theorem devPut_frame (s : State) (a : Nat) (bs : List Byte) :
    (s.devPut a bs).pending = s.pending ∧ (s.devPut a bs).out = s.out ∧ (s.devPut a bs).msiWait = s.msiWait ∧
    (s.devPut a bs).freeCtr = s.freeCtr ∧ (s.devPut a bs).powered = s.powered ∧ (s.devPut a bs).trip = s.trip ∧
    (s.devPut a bs).boot = s.boot ∧ (s.devPut a bs).half = s.half ∧ (s.devPut a bs).restartQ = s.restartQ ∧
    (s.devPut a bs).kTick = s.kTick ∧ (s.devPut a bs).slices = s.slices ∧ (s.devPut a bs).atsReqs = s.atsReqs ∧
    (s.devPut a bs).lineReqs = s.lineReqs ∧ (s.devPut a bs).lines = s.lines ∧ (s.devPut a bs).hostWr = s.hostWr ∧
    (s.devPut a bs).memHeld = s.memHeld ∧ (s.devPut a bs).flushes = s.flushes ∧ (s.devPut a bs).invals = s.invals ∧
    (s.devPut a bs).biasReq = s.biasReq ∧ (s.devPut a bs).biasWait = s.biasWait ∧ (s.devPut a bs).kpr = s.kpr ∧
    (s.devPut a bs).mgmtQ = s.mgmtQ ∧ (s.devPut a bs).mgmtBusy = s.mgmtBusy ∧ (s.devPut a bs).retirePend = s.retirePend ∧
    (s.devPut a bs).ctxs = s.ctxs ∧ (s.devPut a bs).sqs = s.sqs ∧ (s.devPut a bs).cqs = s.cqs ∧
    (s.devPut a bs).fenceQ = s.fenceQ ∧ (s.devPut a bs).fw = s.fw ∧ (s.devPut a bs).cmds = s.cmds ∧
    (s.devPut a bs).nextCmd = s.nextCmd ∧ (s.devPut a bs).plans = s.plans ∧ (s.devPut a bs).tables = s.tables ∧
    (s.devPut a bs).adopt = s.adopt ∧ (s.devPut a bs).drains = s.drains ∧ (s.devPut a bs).staging = s.staging ∧
    (s.devPut a bs).journal = s.journal ∧ (s.devPut a bs).vats = s.vats ∧ (s.devPut a bs).arrivals = s.arrivals ∧
    (s.devPut a bs).stalledArr = s.stalledArr ∧ (s.devPut a bs).declared = s.declared ∧ (s.devPut a bs).lostMap = s.lostMap ∧
    (s.devPut a bs).lostPairs = s.lostPairs ∧ (s.devPut a bs).lossAdopt = s.lossAdopt ∧ (s.devPut a bs).visible = s.visible ∧
    (s.devPut a bs).peerReqs = s.peerReqs ∧ (s.devPut a bs).nextTag = s.nextTag ∧ (s.devPut a bs).heldPeer = s.heldPeer ∧
    (s.devPut a bs).work = s.work ∧ (s.devPut a bs).chans = s.chans ∧ (s.devPut a bs).links = s.links ∧
    (s.devPut a bs).mods = s.mods ∧ (s.devPut a bs).optics = s.optics ∧ (s.devPut a bs).power = s.power ∧
    (s.devPut a bs).trace = s.trace ∧ (s.devPut a bs).cdc = s.cdc ∧ (s.devPut a bs).cntCtx = s.cntCtx ∧
    (s.devPut a bs).cntTbl = s.cntTbl ∧ (s.devPut a bs).cntKs = s.cntKs ∧ (s.devPut a bs).errs = s.errs :=
    ⟨rfl, rfl, rfl, rfl, rfl, rfl, rfl, rfl, rfl, rfl, rfl, rfl, rfl, rfl, rfl, rfl, rfl, rfl, rfl, rfl, rfl, rfl, rfl, rfl,
    rfl, rfl, rfl, rfl, rfl, rfl, rfl, rfl, rfl, rfl, rfl, rfl, rfl, rfl, rfl, rfl, rfl, rfl, rfl, rfl, rfl, rfl, rfl, rfl,
    rfl, rfl, rfl, rfl, rfl, rfl, rfl, rfl, rfl, rfl, rfl, rfl⟩

@[simp] theorem modSlice_frame (s : State) (n : Nat) (f : Slice → Slice) :
    (s.modSlice n f).pending = s.pending ∧ (s.modSlice n f).out = s.out ∧ (s.modSlice n f).msiWait = s.msiWait ∧
    (s.modSlice n f).freeCtr = s.freeCtr ∧ (s.modSlice n f).powered = s.powered ∧ (s.modSlice n f).trip = s.trip ∧
    (s.modSlice n f).boot = s.boot ∧ (s.modSlice n f).half = s.half ∧ (s.modSlice n f).restartQ = s.restartQ ∧
    (s.modSlice n f).kTick = s.kTick ∧ (s.modSlice n f).dev = s.dev ∧ (s.modSlice n f).atsReqs = s.atsReqs ∧
    (s.modSlice n f).lineReqs = s.lineReqs ∧ (s.modSlice n f).lines = s.lines ∧ (s.modSlice n f).hostWr = s.hostWr ∧
    (s.modSlice n f).memHeld = s.memHeld ∧ (s.modSlice n f).flushes = s.flushes ∧ (s.modSlice n f).invals = s.invals ∧
    (s.modSlice n f).biasReq = s.biasReq ∧ (s.modSlice n f).biasWait = s.biasWait ∧ (s.modSlice n f).kpr = s.kpr ∧
    (s.modSlice n f).mgmtQ = s.mgmtQ ∧ (s.modSlice n f).mgmtBusy = s.mgmtBusy ∧ (s.modSlice n f).retirePend = s.retirePend ∧
    (s.modSlice n f).ctxs = s.ctxs ∧ (s.modSlice n f).sqs = s.sqs ∧ (s.modSlice n f).cqs = s.cqs ∧
    (s.modSlice n f).fenceQ = s.fenceQ ∧ (s.modSlice n f).fw = s.fw ∧ (s.modSlice n f).cmds = s.cmds ∧
    (s.modSlice n f).nextCmd = s.nextCmd ∧ (s.modSlice n f).plans = s.plans ∧ (s.modSlice n f).tables = s.tables ∧
    (s.modSlice n f).adopt = s.adopt ∧ (s.modSlice n f).drains = s.drains ∧ (s.modSlice n f).staging = s.staging ∧
    (s.modSlice n f).journal = s.journal ∧ (s.modSlice n f).vats = s.vats ∧ (s.modSlice n f).arrivals = s.arrivals ∧
    (s.modSlice n f).stalledArr = s.stalledArr ∧ (s.modSlice n f).declared = s.declared ∧
    (s.modSlice n f).lostMap = s.lostMap ∧ (s.modSlice n f).lostPairs = s.lostPairs ∧
    (s.modSlice n f).lossAdopt = s.lossAdopt ∧ (s.modSlice n f).visible = s.visible ∧
    (s.modSlice n f).peerReqs = s.peerReqs ∧ (s.modSlice n f).nextTag = s.nextTag ∧ (s.modSlice n f).heldPeer = s.heldPeer ∧
    (s.modSlice n f).work = s.work ∧ (s.modSlice n f).chans = s.chans ∧ (s.modSlice n f).links = s.links ∧
    (s.modSlice n f).mods = s.mods ∧ (s.modSlice n f).optics = s.optics ∧ (s.modSlice n f).power = s.power ∧
    (s.modSlice n f).trace = s.trace ∧ (s.modSlice n f).cdc = s.cdc ∧ (s.modSlice n f).cntCtx = s.cntCtx ∧
    (s.modSlice n f).cntTbl = s.cntTbl ∧ (s.modSlice n f).cntKs = s.cntKs ∧ (s.modSlice n f).errs = s.errs :=
    ⟨rfl, rfl, rfl, rfl, rfl, rfl, rfl, rfl, rfl, rfl, rfl, rfl, rfl, rfl, rfl, rfl, rfl, rfl, rfl, rfl, rfl, rfl, rfl, rfl,
    rfl, rfl, rfl, rfl, rfl, rfl, rfl, rfl, rfl, rfl, rfl, rfl, rfl, rfl, rfl, rfl, rfl, rfl, rfl, rfl, rfl, rfl, rfl, rfl,
    rfl, rfl, rfl, rfl, rfl, rfl, rfl, rfl, rfl, rfl, rfl, rfl⟩

@[simp] theorem modCtx_frame (s : State) (x : Nat) (f : Ctx → Ctx) :
    (s.modCtx x f).pending = s.pending ∧ (s.modCtx x f).out = s.out ∧ (s.modCtx x f).msiWait = s.msiWait ∧
    (s.modCtx x f).freeCtr = s.freeCtr ∧ (s.modCtx x f).powered = s.powered ∧ (s.modCtx x f).trip = s.trip ∧
    (s.modCtx x f).boot = s.boot ∧ (s.modCtx x f).half = s.half ∧ (s.modCtx x f).restartQ = s.restartQ ∧
    (s.modCtx x f).kTick = s.kTick ∧ (s.modCtx x f).slices = s.slices ∧ (s.modCtx x f).dev = s.dev ∧
    (s.modCtx x f).atsReqs = s.atsReqs ∧ (s.modCtx x f).lineReqs = s.lineReqs ∧ (s.modCtx x f).lines = s.lines ∧
    (s.modCtx x f).hostWr = s.hostWr ∧ (s.modCtx x f).memHeld = s.memHeld ∧ (s.modCtx x f).flushes = s.flushes ∧
    (s.modCtx x f).invals = s.invals ∧ (s.modCtx x f).biasReq = s.biasReq ∧ (s.modCtx x f).biasWait = s.biasWait ∧
    (s.modCtx x f).kpr = s.kpr ∧ (s.modCtx x f).mgmtQ = s.mgmtQ ∧ (s.modCtx x f).mgmtBusy = s.mgmtBusy ∧
    (s.modCtx x f).retirePend = s.retirePend ∧ (s.modCtx x f).sqs = s.sqs ∧ (s.modCtx x f).cqs = s.cqs ∧
    (s.modCtx x f).fenceQ = s.fenceQ ∧ (s.modCtx x f).fw = s.fw ∧ (s.modCtx x f).cmds = s.cmds ∧
    (s.modCtx x f).nextCmd = s.nextCmd ∧ (s.modCtx x f).plans = s.plans ∧ (s.modCtx x f).tables = s.tables ∧
    (s.modCtx x f).adopt = s.adopt ∧ (s.modCtx x f).drains = s.drains ∧ (s.modCtx x f).staging = s.staging ∧
    (s.modCtx x f).journal = s.journal ∧ (s.modCtx x f).vats = s.vats ∧ (s.modCtx x f).arrivals = s.arrivals ∧
    (s.modCtx x f).stalledArr = s.stalledArr ∧ (s.modCtx x f).declared = s.declared ∧ (s.modCtx x f).lostMap = s.lostMap ∧
    (s.modCtx x f).lostPairs = s.lostPairs ∧ (s.modCtx x f).lossAdopt = s.lossAdopt ∧ (s.modCtx x f).visible = s.visible ∧
    (s.modCtx x f).peerReqs = s.peerReqs ∧ (s.modCtx x f).nextTag = s.nextTag ∧ (s.modCtx x f).heldPeer = s.heldPeer ∧
    (s.modCtx x f).work = s.work ∧ (s.modCtx x f).chans = s.chans ∧ (s.modCtx x f).links = s.links ∧
    (s.modCtx x f).mods = s.mods ∧ (s.modCtx x f).optics = s.optics ∧ (s.modCtx x f).power = s.power ∧
    (s.modCtx x f).trace = s.trace ∧ (s.modCtx x f).cdc = s.cdc ∧ (s.modCtx x f).cntCtx = s.cntCtx ∧
    (s.modCtx x f).cntTbl = s.cntTbl ∧ (s.modCtx x f).cntKs = s.cntKs ∧ (s.modCtx x f).errs = s.errs :=
    ⟨rfl, rfl, rfl, rfl, rfl, rfl, rfl, rfl, rfl, rfl, rfl, rfl, rfl, rfl, rfl, rfl, rfl, rfl, rfl, rfl, rfl, rfl, rfl, rfl,
    rfl, rfl, rfl, rfl, rfl, rfl, rfl, rfl, rfl, rfl, rfl, rfl, rfl, rfl, rfl, rfl, rfl, rfl, rfl, rfl, rfl, rfl, rfl, rfl,
    rfl, rfl, rfl, rfl, rfl, rfl, rfl, rfl, rfl, rfl, rfl, rfl⟩

@[simp] theorem modCmd_frame (s : State) (h : Nat) (f : Cmd → Cmd) :
    (s.modCmd h f).pending = s.pending ∧ (s.modCmd h f).out = s.out ∧ (s.modCmd h f).msiWait = s.msiWait ∧
    (s.modCmd h f).freeCtr = s.freeCtr ∧ (s.modCmd h f).powered = s.powered ∧ (s.modCmd h f).trip = s.trip ∧
    (s.modCmd h f).boot = s.boot ∧ (s.modCmd h f).half = s.half ∧ (s.modCmd h f).restartQ = s.restartQ ∧
    (s.modCmd h f).kTick = s.kTick ∧ (s.modCmd h f).slices = s.slices ∧ (s.modCmd h f).dev = s.dev ∧
    (s.modCmd h f).atsReqs = s.atsReqs ∧ (s.modCmd h f).lineReqs = s.lineReqs ∧ (s.modCmd h f).lines = s.lines ∧
    (s.modCmd h f).hostWr = s.hostWr ∧ (s.modCmd h f).memHeld = s.memHeld ∧ (s.modCmd h f).flushes = s.flushes ∧
    (s.modCmd h f).invals = s.invals ∧ (s.modCmd h f).biasReq = s.biasReq ∧ (s.modCmd h f).biasWait = s.biasWait ∧
    (s.modCmd h f).kpr = s.kpr ∧ (s.modCmd h f).mgmtQ = s.mgmtQ ∧ (s.modCmd h f).mgmtBusy = s.mgmtBusy ∧
    (s.modCmd h f).retirePend = s.retirePend ∧ (s.modCmd h f).ctxs = s.ctxs ∧ (s.modCmd h f).sqs = s.sqs ∧
    (s.modCmd h f).cqs = s.cqs ∧ (s.modCmd h f).fenceQ = s.fenceQ ∧ (s.modCmd h f).fw = s.fw ∧
    (s.modCmd h f).nextCmd = s.nextCmd ∧ (s.modCmd h f).plans = s.plans ∧ (s.modCmd h f).tables = s.tables ∧
    (s.modCmd h f).adopt = s.adopt ∧ (s.modCmd h f).drains = s.drains ∧ (s.modCmd h f).staging = s.staging ∧
    (s.modCmd h f).journal = s.journal ∧ (s.modCmd h f).vats = s.vats ∧ (s.modCmd h f).arrivals = s.arrivals ∧
    (s.modCmd h f).stalledArr = s.stalledArr ∧ (s.modCmd h f).declared = s.declared ∧ (s.modCmd h f).lostMap = s.lostMap ∧
    (s.modCmd h f).lostPairs = s.lostPairs ∧ (s.modCmd h f).lossAdopt = s.lossAdopt ∧ (s.modCmd h f).visible = s.visible ∧
    (s.modCmd h f).peerReqs = s.peerReqs ∧ (s.modCmd h f).nextTag = s.nextTag ∧ (s.modCmd h f).heldPeer = s.heldPeer ∧
    (s.modCmd h f).work = s.work ∧ (s.modCmd h f).chans = s.chans ∧ (s.modCmd h f).links = s.links ∧
    (s.modCmd h f).mods = s.mods ∧ (s.modCmd h f).optics = s.optics ∧ (s.modCmd h f).power = s.power ∧
    (s.modCmd h f).trace = s.trace ∧ (s.modCmd h f).cdc = s.cdc ∧ (s.modCmd h f).cntCtx = s.cntCtx ∧
    (s.modCmd h f).cntTbl = s.cntTbl ∧ (s.modCmd h f).cntKs = s.cntKs ∧ (s.modCmd h f).errs = s.errs :=
    ⟨rfl, rfl, rfl, rfl, rfl, rfl, rfl, rfl, rfl, rfl, rfl, rfl, rfl, rfl, rfl, rfl, rfl, rfl, rfl, rfl, rfl, rfl, rfl, rfl,
    rfl, rfl, rfl, rfl, rfl, rfl, rfl, rfl, rfl, rfl, rfl, rfl, rfl, rfl, rfl, rfl, rfl, rfl, rfl, rfl, rfl, rfl, rfl, rfl,
    rfl, rfl, rfl, rfl, rfl, rfl, rfl, rfl, rfl, rfl, rfl, rfl⟩

@[simp] theorem modSq_frame (s : State) (q : Nat) (f : SQ → SQ) :
    (s.modSq q f).pending = s.pending ∧ (s.modSq q f).out = s.out ∧ (s.modSq q f).msiWait = s.msiWait ∧
    (s.modSq q f).freeCtr = s.freeCtr ∧ (s.modSq q f).powered = s.powered ∧ (s.modSq q f).trip = s.trip ∧
    (s.modSq q f).boot = s.boot ∧ (s.modSq q f).half = s.half ∧ (s.modSq q f).restartQ = s.restartQ ∧
    (s.modSq q f).kTick = s.kTick ∧ (s.modSq q f).slices = s.slices ∧ (s.modSq q f).dev = s.dev ∧
    (s.modSq q f).atsReqs = s.atsReqs ∧ (s.modSq q f).lineReqs = s.lineReqs ∧ (s.modSq q f).lines = s.lines ∧
    (s.modSq q f).hostWr = s.hostWr ∧ (s.modSq q f).memHeld = s.memHeld ∧ (s.modSq q f).flushes = s.flushes ∧
    (s.modSq q f).invals = s.invals ∧ (s.modSq q f).biasReq = s.biasReq ∧ (s.modSq q f).biasWait = s.biasWait ∧
    (s.modSq q f).kpr = s.kpr ∧ (s.modSq q f).mgmtQ = s.mgmtQ ∧ (s.modSq q f).mgmtBusy = s.mgmtBusy ∧
    (s.modSq q f).retirePend = s.retirePend ∧ (s.modSq q f).ctxs = s.ctxs ∧ (s.modSq q f).cqs = s.cqs ∧
    (s.modSq q f).fenceQ = s.fenceQ ∧ (s.modSq q f).fw = s.fw ∧ (s.modSq q f).cmds = s.cmds ∧
    (s.modSq q f).nextCmd = s.nextCmd ∧ (s.modSq q f).plans = s.plans ∧ (s.modSq q f).tables = s.tables ∧
    (s.modSq q f).adopt = s.adopt ∧ (s.modSq q f).drains = s.drains ∧ (s.modSq q f).staging = s.staging ∧
    (s.modSq q f).journal = s.journal ∧ (s.modSq q f).vats = s.vats ∧ (s.modSq q f).arrivals = s.arrivals ∧
    (s.modSq q f).stalledArr = s.stalledArr ∧ (s.modSq q f).declared = s.declared ∧ (s.modSq q f).lostMap = s.lostMap ∧
    (s.modSq q f).lostPairs = s.lostPairs ∧ (s.modSq q f).lossAdopt = s.lossAdopt ∧ (s.modSq q f).visible = s.visible ∧
    (s.modSq q f).peerReqs = s.peerReqs ∧ (s.modSq q f).nextTag = s.nextTag ∧ (s.modSq q f).heldPeer = s.heldPeer ∧
    (s.modSq q f).work = s.work ∧ (s.modSq q f).chans = s.chans ∧ (s.modSq q f).links = s.links ∧
    (s.modSq q f).mods = s.mods ∧ (s.modSq q f).optics = s.optics ∧ (s.modSq q f).power = s.power ∧
    (s.modSq q f).trace = s.trace ∧ (s.modSq q f).cdc = s.cdc ∧ (s.modSq q f).cntCtx = s.cntCtx ∧
    (s.modSq q f).cntTbl = s.cntTbl ∧ (s.modSq q f).cntKs = s.cntKs ∧ (s.modSq q f).errs = s.errs :=
    ⟨rfl, rfl, rfl, rfl, rfl, rfl, rfl, rfl, rfl, rfl, rfl, rfl, rfl, rfl, rfl, rfl, rfl, rfl, rfl, rfl, rfl, rfl, rfl, rfl,
    rfl, rfl, rfl, rfl, rfl, rfl, rfl, rfl, rfl, rfl, rfl, rfl, rfl, rfl, rfl, rfl, rfl, rfl, rfl, rfl, rfl, rfl, rfl, rfl,
    rfl, rfl, rfl, rfl, rfl, rfl, rfl, rfl, rfl, rfl, rfl, rfl⟩

@[simp] theorem modTable_frame (s : State) (t : Nat) (f : Table → Table) :
    (s.modTable t f).pending = s.pending ∧ (s.modTable t f).out = s.out ∧ (s.modTable t f).msiWait = s.msiWait ∧
    (s.modTable t f).freeCtr = s.freeCtr ∧ (s.modTable t f).powered = s.powered ∧ (s.modTable t f).trip = s.trip ∧
    (s.modTable t f).boot = s.boot ∧ (s.modTable t f).half = s.half ∧ (s.modTable t f).restartQ = s.restartQ ∧
    (s.modTable t f).kTick = s.kTick ∧ (s.modTable t f).slices = s.slices ∧ (s.modTable t f).dev = s.dev ∧
    (s.modTable t f).atsReqs = s.atsReqs ∧ (s.modTable t f).lineReqs = s.lineReqs ∧ (s.modTable t f).lines = s.lines ∧
    (s.modTable t f).hostWr = s.hostWr ∧ (s.modTable t f).memHeld = s.memHeld ∧ (s.modTable t f).flushes = s.flushes ∧
    (s.modTable t f).invals = s.invals ∧ (s.modTable t f).biasReq = s.biasReq ∧ (s.modTable t f).biasWait = s.biasWait ∧
    (s.modTable t f).kpr = s.kpr ∧ (s.modTable t f).mgmtQ = s.mgmtQ ∧ (s.modTable t f).mgmtBusy = s.mgmtBusy ∧
    (s.modTable t f).retirePend = s.retirePend ∧ (s.modTable t f).ctxs = s.ctxs ∧ (s.modTable t f).sqs = s.sqs ∧
    (s.modTable t f).cqs = s.cqs ∧ (s.modTable t f).fenceQ = s.fenceQ ∧ (s.modTable t f).fw = s.fw ∧
    (s.modTable t f).cmds = s.cmds ∧ (s.modTable t f).nextCmd = s.nextCmd ∧ (s.modTable t f).plans = s.plans ∧
    (s.modTable t f).adopt = s.adopt ∧ (s.modTable t f).drains = s.drains ∧ (s.modTable t f).staging = s.staging ∧
    (s.modTable t f).journal = s.journal ∧ (s.modTable t f).vats = s.vats ∧ (s.modTable t f).arrivals = s.arrivals ∧
    (s.modTable t f).stalledArr = s.stalledArr ∧ (s.modTable t f).declared = s.declared ∧
    (s.modTable t f).lostMap = s.lostMap ∧ (s.modTable t f).lostPairs = s.lostPairs ∧
    (s.modTable t f).lossAdopt = s.lossAdopt ∧ (s.modTable t f).visible = s.visible ∧
    (s.modTable t f).peerReqs = s.peerReqs ∧ (s.modTable t f).nextTag = s.nextTag ∧ (s.modTable t f).heldPeer = s.heldPeer ∧
    (s.modTable t f).work = s.work ∧ (s.modTable t f).chans = s.chans ∧ (s.modTable t f).links = s.links ∧
    (s.modTable t f).mods = s.mods ∧ (s.modTable t f).optics = s.optics ∧ (s.modTable t f).power = s.power ∧
    (s.modTable t f).trace = s.trace ∧ (s.modTable t f).cdc = s.cdc ∧ (s.modTable t f).cntCtx = s.cntCtx ∧
    (s.modTable t f).cntTbl = s.cntTbl ∧ (s.modTable t f).cntKs = s.cntKs ∧ (s.modTable t f).errs = s.errs :=
    ⟨rfl, rfl, rfl, rfl, rfl, rfl, rfl, rfl, rfl, rfl, rfl, rfl, rfl, rfl, rfl, rfl, rfl, rfl, rfl, rfl, rfl, rfl, rfl, rfl,
    rfl, rfl, rfl, rfl, rfl, rfl, rfl, rfl, rfl, rfl, rfl, rfl, rfl, rfl, rfl, rfl, rfl, rfl, rfl, rfl, rfl, rfl, rfl, rfl,
    rfl, rfl, rfl, rfl, rfl, rfl, rfl, rfl, rfl, rfl, rfl, rfl⟩

@[simp] theorem send_frame (s : State) (m : Msg) :
    (s.send m).pending = s.pending ∧ (s.send m).msiWait = s.msiWait ∧ (s.send m).freeCtr = s.freeCtr ∧
    (s.send m).powered = s.powered ∧ (s.send m).trip = s.trip ∧ (s.send m).boot = s.boot ∧ (s.send m).half = s.half ∧
    (s.send m).restartQ = s.restartQ ∧ (s.send m).kTick = s.kTick ∧ (s.send m).slices = s.slices ∧ (s.send m).dev = s.dev ∧
    (s.send m).atsReqs = s.atsReqs ∧ (s.send m).lineReqs = s.lineReqs ∧ (s.send m).lines = s.lines ∧
    (s.send m).hostWr = s.hostWr ∧ (s.send m).memHeld = s.memHeld ∧ (s.send m).flushes = s.flushes ∧
    (s.send m).invals = s.invals ∧ (s.send m).biasReq = s.biasReq ∧ (s.send m).biasWait = s.biasWait ∧
    (s.send m).kpr = s.kpr ∧ (s.send m).mgmtQ = s.mgmtQ ∧ (s.send m).mgmtBusy = s.mgmtBusy ∧
    (s.send m).retirePend = s.retirePend ∧ (s.send m).ctxs = s.ctxs ∧ (s.send m).sqs = s.sqs ∧ (s.send m).cqs = s.cqs ∧
    (s.send m).fenceQ = s.fenceQ ∧ (s.send m).fw = s.fw ∧ (s.send m).cmds = s.cmds ∧ (s.send m).nextCmd = s.nextCmd ∧
    (s.send m).plans = s.plans ∧ (s.send m).tables = s.tables ∧ (s.send m).adopt = s.adopt ∧ (s.send m).drains = s.drains ∧
    (s.send m).staging = s.staging ∧ (s.send m).journal = s.journal ∧ (s.send m).vats = s.vats ∧
    (s.send m).arrivals = s.arrivals ∧ (s.send m).stalledArr = s.stalledArr ∧ (s.send m).declared = s.declared ∧
    (s.send m).lostMap = s.lostMap ∧ (s.send m).lostPairs = s.lostPairs ∧ (s.send m).lossAdopt = s.lossAdopt ∧
    (s.send m).visible = s.visible ∧ (s.send m).peerReqs = s.peerReqs ∧ (s.send m).nextTag = s.nextTag ∧
    (s.send m).heldPeer = s.heldPeer ∧ (s.send m).work = s.work ∧ (s.send m).chans = s.chans ∧ (s.send m).links = s.links ∧
    (s.send m).mods = s.mods ∧ (s.send m).optics = s.optics ∧ (s.send m).power = s.power ∧ (s.send m).trace = s.trace ∧
    (s.send m).cdc = s.cdc ∧ (s.send m).cntCtx = s.cntCtx ∧ (s.send m).cntTbl = s.cntTbl ∧ (s.send m).cntKs = s.cntKs ∧
    (s.send m).errs = s.errs :=
    ⟨rfl, rfl, rfl, rfl, rfl, rfl, rfl, rfl, rfl, rfl, rfl, rfl, rfl, rfl, rfl, rfl, rfl, rfl, rfl, rfl, rfl, rfl, rfl, rfl,
    rfl, rfl, rfl, rfl, rfl, rfl, rfl, rfl, rfl, rfl, rfl, rfl, rfl, rfl, rfl, rfl, rfl, rfl, rfl, rfl, rfl, rfl, rfl, rfl,
    rfl, rfl, rfl, rfl, rfl, rfl, rfl, rfl, rfl, rfl, rfl, rfl⟩

@[simp] theorem setKreg_frame (s : State) (o v : Nat) :
    (s.setKreg o v).pending = s.pending ∧ (s.setKreg o v).out = s.out ∧ (s.setKreg o v).msiWait = s.msiWait ∧
    (s.setKreg o v).freeCtr = s.freeCtr ∧ (s.setKreg o v).powered = s.powered ∧ (s.setKreg o v).trip = s.trip ∧
    (s.setKreg o v).boot = s.boot ∧ (s.setKreg o v).half = s.half ∧ (s.setKreg o v).restartQ = s.restartQ ∧
    (s.setKreg o v).kTick = s.kTick ∧ (s.setKreg o v).slices = s.slices ∧ (s.setKreg o v).dev = s.dev ∧
    (s.setKreg o v).atsReqs = s.atsReqs ∧ (s.setKreg o v).lineReqs = s.lineReqs ∧ (s.setKreg o v).lines = s.lines ∧
    (s.setKreg o v).hostWr = s.hostWr ∧ (s.setKreg o v).memHeld = s.memHeld ∧ (s.setKreg o v).flushes = s.flushes ∧
    (s.setKreg o v).invals = s.invals ∧ (s.setKreg o v).biasReq = s.biasReq ∧ (s.setKreg o v).biasWait = s.biasWait ∧
    (s.setKreg o v).mgmtQ = s.mgmtQ ∧ (s.setKreg o v).mgmtBusy = s.mgmtBusy ∧ (s.setKreg o v).retirePend = s.retirePend ∧
    (s.setKreg o v).ctxs = s.ctxs ∧ (s.setKreg o v).sqs = s.sqs ∧ (s.setKreg o v).cqs = s.cqs ∧
    (s.setKreg o v).fenceQ = s.fenceQ ∧ (s.setKreg o v).fw = s.fw ∧ (s.setKreg o v).cmds = s.cmds ∧
    (s.setKreg o v).nextCmd = s.nextCmd ∧ (s.setKreg o v).plans = s.plans ∧ (s.setKreg o v).tables = s.tables ∧
    (s.setKreg o v).adopt = s.adopt ∧ (s.setKreg o v).drains = s.drains ∧ (s.setKreg o v).staging = s.staging ∧
    (s.setKreg o v).journal = s.journal ∧ (s.setKreg o v).vats = s.vats ∧ (s.setKreg o v).arrivals = s.arrivals ∧
    (s.setKreg o v).stalledArr = s.stalledArr ∧ (s.setKreg o v).declared = s.declared ∧ (s.setKreg o v).lostMap = s.lostMap ∧
    (s.setKreg o v).lostPairs = s.lostPairs ∧ (s.setKreg o v).lossAdopt = s.lossAdopt ∧ (s.setKreg o v).visible = s.visible ∧
    (s.setKreg o v).peerReqs = s.peerReqs ∧ (s.setKreg o v).nextTag = s.nextTag ∧ (s.setKreg o v).heldPeer = s.heldPeer ∧
    (s.setKreg o v).work = s.work ∧ (s.setKreg o v).chans = s.chans ∧ (s.setKreg o v).links = s.links ∧
    (s.setKreg o v).mods = s.mods ∧ (s.setKreg o v).optics = s.optics ∧ (s.setKreg o v).power = s.power ∧
    (s.setKreg o v).trace = s.trace ∧ (s.setKreg o v).cdc = s.cdc ∧ (s.setKreg o v).cntCtx = s.cntCtx ∧
    (s.setKreg o v).cntTbl = s.cntTbl ∧ (s.setKreg o v).cntKs = s.cntKs ∧ (s.setKreg o v).errs = s.errs :=
    ⟨rfl, rfl, rfl, rfl, rfl, rfl, rfl, rfl, rfl, rfl, rfl, rfl, rfl, rfl, rfl, rfl, rfl, rfl, rfl, rfl, rfl, rfl, rfl, rfl,
    rfl, rfl, rfl, rfl, rfl, rfl, rfl, rfl, rfl, rfl, rfl, rfl, rfl, rfl, rfl, rfl, rfl, rfl, rfl, rfl, rfl, rfl, rfl, rfl,
    rfl, rfl, rfl, rfl, rfl, rfl, rfl, rfl, rfl, rfl, rfl, rfl⟩

@[simp] theorem setSreg_frame (s : State) (n o v : Nat) :
    (s.setSreg n o v).pending = s.pending ∧ (s.setSreg n o v).out = s.out ∧ (s.setSreg n o v).msiWait = s.msiWait ∧
    (s.setSreg n o v).freeCtr = s.freeCtr ∧ (s.setSreg n o v).powered = s.powered ∧ (s.setSreg n o v).trip = s.trip ∧
    (s.setSreg n o v).boot = s.boot ∧ (s.setSreg n o v).half = s.half ∧ (s.setSreg n o v).restartQ = s.restartQ ∧
    (s.setSreg n o v).kTick = s.kTick ∧ (s.setSreg n o v).dev = s.dev ∧ (s.setSreg n o v).atsReqs = s.atsReqs ∧
    (s.setSreg n o v).lineReqs = s.lineReqs ∧ (s.setSreg n o v).lines = s.lines ∧ (s.setSreg n o v).hostWr = s.hostWr ∧
    (s.setSreg n o v).memHeld = s.memHeld ∧ (s.setSreg n o v).flushes = s.flushes ∧ (s.setSreg n o v).invals = s.invals ∧
    (s.setSreg n o v).biasReq = s.biasReq ∧ (s.setSreg n o v).biasWait = s.biasWait ∧ (s.setSreg n o v).kpr = s.kpr ∧
    (s.setSreg n o v).mgmtQ = s.mgmtQ ∧ (s.setSreg n o v).mgmtBusy = s.mgmtBusy ∧
    (s.setSreg n o v).retirePend = s.retirePend ∧ (s.setSreg n o v).ctxs = s.ctxs ∧ (s.setSreg n o v).sqs = s.sqs ∧
    (s.setSreg n o v).cqs = s.cqs ∧ (s.setSreg n o v).fenceQ = s.fenceQ ∧ (s.setSreg n o v).fw = s.fw ∧
    (s.setSreg n o v).cmds = s.cmds ∧ (s.setSreg n o v).nextCmd = s.nextCmd ∧ (s.setSreg n o v).plans = s.plans ∧
    (s.setSreg n o v).tables = s.tables ∧ (s.setSreg n o v).adopt = s.adopt ∧ (s.setSreg n o v).drains = s.drains ∧
    (s.setSreg n o v).staging = s.staging ∧ (s.setSreg n o v).journal = s.journal ∧ (s.setSreg n o v).vats = s.vats ∧
    (s.setSreg n o v).arrivals = s.arrivals ∧ (s.setSreg n o v).stalledArr = s.stalledArr ∧
    (s.setSreg n o v).declared = s.declared ∧ (s.setSreg n o v).lostMap = s.lostMap ∧
    (s.setSreg n o v).lostPairs = s.lostPairs ∧ (s.setSreg n o v).lossAdopt = s.lossAdopt ∧
    (s.setSreg n o v).visible = s.visible ∧ (s.setSreg n o v).peerReqs = s.peerReqs ∧ (s.setSreg n o v).nextTag = s.nextTag ∧
    (s.setSreg n o v).heldPeer = s.heldPeer ∧ (s.setSreg n o v).work = s.work ∧ (s.setSreg n o v).chans = s.chans ∧
    (s.setSreg n o v).links = s.links ∧ (s.setSreg n o v).mods = s.mods ∧ (s.setSreg n o v).optics = s.optics ∧
    (s.setSreg n o v).power = s.power ∧ (s.setSreg n o v).trace = s.trace ∧ (s.setSreg n o v).cdc = s.cdc ∧
    (s.setSreg n o v).cntCtx = s.cntCtx ∧ (s.setSreg n o v).cntTbl = s.cntTbl ∧ (s.setSreg n o v).cntKs = s.cntKs ∧
    (s.setSreg n o v).errs = s.errs :=
    ⟨rfl, rfl, rfl, rfl, rfl, rfl, rfl, rfl, rfl, rfl, rfl, rfl, rfl, rfl, rfl, rfl, rfl, rfl, rfl, rfl, rfl, rfl, rfl, rfl,
    rfl, rfl, rfl, rfl, rfl, rfl, rfl, rfl, rfl, rfl, rfl, rfl, rfl, rfl, rfl, rfl, rfl, rfl, rfl, rfl, rfl, rfl, rfl, rfl,
    rfl, rfl, rfl, rfl, rfl, rfl, rfl, rfl, rfl, rfl, rfl, rfl⟩

@[simp] theorem endCmd_frame (s : State) (h : Nat) (f : Cmd → Cmd) :
    (s.endCmd h f).pending = s.pending ∧ (s.endCmd h f).out = s.out ∧ (s.endCmd h f).msiWait = s.msiWait ∧
    (s.endCmd h f).freeCtr = s.freeCtr ∧ (s.endCmd h f).powered = s.powered ∧ (s.endCmd h f).trip = s.trip ∧
    (s.endCmd h f).boot = s.boot ∧ (s.endCmd h f).half = s.half ∧ (s.endCmd h f).restartQ = s.restartQ ∧
    (s.endCmd h f).kTick = s.kTick ∧ (s.endCmd h f).slices = s.slices ∧ (s.endCmd h f).dev = s.dev ∧
    (s.endCmd h f).atsReqs = s.atsReqs ∧ (s.endCmd h f).lineReqs = s.lineReqs ∧ (s.endCmd h f).lines = s.lines ∧
    (s.endCmd h f).hostWr = s.hostWr ∧ (s.endCmd h f).memHeld = s.memHeld ∧ (s.endCmd h f).flushes = s.flushes ∧
    (s.endCmd h f).invals = s.invals ∧ (s.endCmd h f).biasReq = s.biasReq ∧ (s.endCmd h f).biasWait = s.biasWait ∧
    (s.endCmd h f).kpr = s.kpr ∧ (s.endCmd h f).mgmtQ = s.mgmtQ ∧ (s.endCmd h f).mgmtBusy = s.mgmtBusy ∧
    (s.endCmd h f).retirePend = s.retirePend ∧ (s.endCmd h f).ctxs = s.ctxs ∧ (s.endCmd h f).sqs = s.sqs ∧
    (s.endCmd h f).cqs = s.cqs ∧ (s.endCmd h f).fenceQ = s.fenceQ ∧ (s.endCmd h f).fw = s.fw ∧
    (s.endCmd h f).plans = s.plans ∧ (s.endCmd h f).tables = s.tables ∧ (s.endCmd h f).adopt = s.adopt ∧
    (s.endCmd h f).drains = s.drains ∧ (s.endCmd h f).staging = s.staging ∧ (s.endCmd h f).journal = s.journal ∧
    (s.endCmd h f).vats = s.vats ∧ (s.endCmd h f).arrivals = s.arrivals ∧ (s.endCmd h f).stalledArr = s.stalledArr ∧
    (s.endCmd h f).declared = s.declared ∧ (s.endCmd h f).lostMap = s.lostMap ∧ (s.endCmd h f).lostPairs = s.lostPairs ∧
    (s.endCmd h f).lossAdopt = s.lossAdopt ∧ (s.endCmd h f).visible = s.visible ∧ (s.endCmd h f).peerReqs = s.peerReqs ∧
    (s.endCmd h f).nextTag = s.nextTag ∧ (s.endCmd h f).heldPeer = s.heldPeer ∧ (s.endCmd h f).work = s.work ∧
    (s.endCmd h f).chans = s.chans ∧ (s.endCmd h f).links = s.links ∧ (s.endCmd h f).mods = s.mods ∧
    (s.endCmd h f).optics = s.optics ∧ (s.endCmd h f).power = s.power ∧ (s.endCmd h f).trace = s.trace ∧
    (s.endCmd h f).cdc = s.cdc ∧ (s.endCmd h f).cntCtx = s.cntCtx ∧ (s.endCmd h f).cntTbl = s.cntTbl ∧
    (s.endCmd h f).cntKs = s.cntKs ∧ (s.endCmd h f).errs = s.errs :=
    ⟨rfl, rfl, rfl, rfl, rfl, rfl, rfl, rfl, rfl, rfl, rfl, rfl, rfl, rfl, rfl, rfl, rfl, rfl, rfl, rfl, rfl, rfl, rfl, rfl,
    rfl, rfl, rfl, rfl, rfl, rfl, rfl, rfl, rfl, rfl, rfl, rfl, rfl, rfl, rfl, rfl, rfl, rfl, rfl, rfl, rfl, rfl, rfl, rfl,
    rfl, rfl, rfl, rfl, rfl, rfl, rfl, rfl, rfl, rfl, rfl⟩

@[simp] theorem release_frame (s : State) (w : Who) :
    (s.release w).pending = s.pending ∧ (s.release w).out = s.out ∧ (s.release w).msiWait = s.msiWait ∧
    (s.release w).freeCtr = s.freeCtr ∧ (s.release w).powered = s.powered ∧ (s.release w).trip = s.trip ∧
    (s.release w).boot = s.boot ∧ (s.release w).half = s.half ∧ (s.release w).restartQ = s.restartQ ∧
    (s.release w).kTick = s.kTick ∧ (s.release w).slices = s.slices ∧ (s.release w).dev = s.dev ∧
    (s.release w).atsReqs = s.atsReqs ∧ (s.release w).lineReqs = s.lineReqs ∧ (s.release w).hostWr = s.hostWr ∧
    (s.release w).memHeld = s.memHeld ∧ (s.release w).flushes = s.flushes ∧ (s.release w).invals = s.invals ∧
    (s.release w).biasReq = s.biasReq ∧ (s.release w).biasWait = s.biasWait ∧ (s.release w).kpr = s.kpr ∧
    (s.release w).mgmtQ = s.mgmtQ ∧ (s.release w).mgmtBusy = s.mgmtBusy ∧ (s.release w).retirePend = s.retirePend ∧
    (s.release w).ctxs = s.ctxs ∧ (s.release w).sqs = s.sqs ∧ (s.release w).cqs = s.cqs ∧ (s.release w).fenceQ = s.fenceQ ∧
    (s.release w).fw = s.fw ∧ (s.release w).cmds = s.cmds ∧ (s.release w).nextCmd = s.nextCmd ∧
    (s.release w).plans = s.plans ∧ (s.release w).tables = s.tables ∧ (s.release w).adopt = s.adopt ∧
    (s.release w).drains = s.drains ∧ (s.release w).staging = s.staging ∧ (s.release w).journal = s.journal ∧
    (s.release w).vats = s.vats ∧ (s.release w).arrivals = s.arrivals ∧ (s.release w).stalledArr = s.stalledArr ∧
    (s.release w).declared = s.declared ∧ (s.release w).lostMap = s.lostMap ∧ (s.release w).lostPairs = s.lostPairs ∧
    (s.release w).lossAdopt = s.lossAdopt ∧ (s.release w).visible = s.visible ∧ (s.release w).peerReqs = s.peerReqs ∧
    (s.release w).nextTag = s.nextTag ∧ (s.release w).heldPeer = s.heldPeer ∧ (s.release w).work = s.work ∧
    (s.release w).chans = s.chans ∧ (s.release w).links = s.links ∧ (s.release w).mods = s.mods ∧
    (s.release w).optics = s.optics ∧ (s.release w).power = s.power ∧ (s.release w).trace = s.trace ∧
    (s.release w).cdc = s.cdc ∧ (s.release w).cntCtx = s.cntCtx ∧ (s.release w).cntTbl = s.cntTbl ∧
    (s.release w).cntKs = s.cntKs ∧ (s.release w).errs = s.errs :=
    ⟨rfl, rfl, rfl, rfl, rfl, rfl, rfl, rfl, rfl, rfl, rfl, rfl, rfl, rfl, rfl, rfl, rfl, rfl, rfl, rfl, rfl, rfl, rfl, rfl,
    rfl, rfl, rfl, rfl, rfl, rfl, rfl, rfl, rfl, rfl, rfl, rfl, rfl, rfl, rfl, rfl, rfl, rfl, rfl, rfl, rfl, rfl, rfl, rfl,
    rfl, rfl, rfl, rfl, rfl, rfl, rfl, rfl, rfl, rfl, rfl, rfl⟩

@[simp] theorem modChan_frame (s : State) (k : Nat) (f : Chan → Chan) :
    (s.modChan k f).pending = s.pending ∧ (s.modChan k f).out = s.out ∧ (s.modChan k f).msiWait = s.msiWait ∧
    (s.modChan k f).freeCtr = s.freeCtr ∧ (s.modChan k f).powered = s.powered ∧ (s.modChan k f).trip = s.trip ∧
    (s.modChan k f).boot = s.boot ∧ (s.modChan k f).half = s.half ∧ (s.modChan k f).restartQ = s.restartQ ∧
    (s.modChan k f).kTick = s.kTick ∧ (s.modChan k f).slices = s.slices ∧ (s.modChan k f).dev = s.dev ∧
    (s.modChan k f).atsReqs = s.atsReqs ∧ (s.modChan k f).lineReqs = s.lineReqs ∧ (s.modChan k f).lines = s.lines ∧
    (s.modChan k f).hostWr = s.hostWr ∧ (s.modChan k f).memHeld = s.memHeld ∧ (s.modChan k f).flushes = s.flushes ∧
    (s.modChan k f).invals = s.invals ∧ (s.modChan k f).biasReq = s.biasReq ∧ (s.modChan k f).biasWait = s.biasWait ∧
    (s.modChan k f).kpr = s.kpr ∧ (s.modChan k f).mgmtQ = s.mgmtQ ∧ (s.modChan k f).mgmtBusy = s.mgmtBusy ∧
    (s.modChan k f).retirePend = s.retirePend ∧ (s.modChan k f).ctxs = s.ctxs ∧ (s.modChan k f).sqs = s.sqs ∧
    (s.modChan k f).cqs = s.cqs ∧ (s.modChan k f).fenceQ = s.fenceQ ∧ (s.modChan k f).fw = s.fw ∧
    (s.modChan k f).cmds = s.cmds ∧ (s.modChan k f).nextCmd = s.nextCmd ∧ (s.modChan k f).plans = s.plans ∧
    (s.modChan k f).tables = s.tables ∧ (s.modChan k f).adopt = s.adopt ∧ (s.modChan k f).drains = s.drains ∧
    (s.modChan k f).staging = s.staging ∧ (s.modChan k f).journal = s.journal ∧ (s.modChan k f).vats = s.vats ∧
    (s.modChan k f).arrivals = s.arrivals ∧ (s.modChan k f).stalledArr = s.stalledArr ∧
    (s.modChan k f).declared = s.declared ∧ (s.modChan k f).lostMap = s.lostMap ∧ (s.modChan k f).lostPairs = s.lostPairs ∧
    (s.modChan k f).lossAdopt = s.lossAdopt ∧ (s.modChan k f).visible = s.visible ∧ (s.modChan k f).peerReqs = s.peerReqs ∧
    (s.modChan k f).nextTag = s.nextTag ∧ (s.modChan k f).heldPeer = s.heldPeer ∧ (s.modChan k f).work = s.work ∧
    (s.modChan k f).links = s.links ∧ (s.modChan k f).mods = s.mods ∧ (s.modChan k f).optics = s.optics ∧
    (s.modChan k f).power = s.power ∧ (s.modChan k f).trace = s.trace ∧ (s.modChan k f).cdc = s.cdc ∧
    (s.modChan k f).cntCtx = s.cntCtx ∧ (s.modChan k f).cntTbl = s.cntTbl ∧ (s.modChan k f).cntKs = s.cntKs ∧
    (s.modChan k f).errs = s.errs :=
    ⟨rfl, rfl, rfl, rfl, rfl, rfl, rfl, rfl, rfl, rfl, rfl, rfl, rfl, rfl, rfl, rfl, rfl, rfl, rfl, rfl, rfl, rfl, rfl, rfl,
    rfl, rfl, rfl, rfl, rfl, rfl, rfl, rfl, rfl, rfl, rfl, rfl, rfl, rfl, rfl, rfl, rfl, rfl, rfl, rfl, rfl, rfl, rfl, rfl,
    rfl, rfl, rfl, rfl, rfl, rfl, rfl, rfl, rfl, rfl, rfl, rfl⟩

@[simp] theorem modOptic_frame (s : State) (p : Nat) (f : OptPort → OptPort) :
    (s.modOptic p f).pending = s.pending ∧ (s.modOptic p f).out = s.out ∧ (s.modOptic p f).msiWait = s.msiWait ∧
    (s.modOptic p f).freeCtr = s.freeCtr ∧ (s.modOptic p f).powered = s.powered ∧ (s.modOptic p f).trip = s.trip ∧
    (s.modOptic p f).boot = s.boot ∧ (s.modOptic p f).half = s.half ∧ (s.modOptic p f).restartQ = s.restartQ ∧
    (s.modOptic p f).kTick = s.kTick ∧ (s.modOptic p f).slices = s.slices ∧ (s.modOptic p f).dev = s.dev ∧
    (s.modOptic p f).atsReqs = s.atsReqs ∧ (s.modOptic p f).lineReqs = s.lineReqs ∧ (s.modOptic p f).lines = s.lines ∧
    (s.modOptic p f).hostWr = s.hostWr ∧ (s.modOptic p f).memHeld = s.memHeld ∧ (s.modOptic p f).flushes = s.flushes ∧
    (s.modOptic p f).invals = s.invals ∧ (s.modOptic p f).biasReq = s.biasReq ∧ (s.modOptic p f).biasWait = s.biasWait ∧
    (s.modOptic p f).kpr = s.kpr ∧ (s.modOptic p f).mgmtQ = s.mgmtQ ∧ (s.modOptic p f).mgmtBusy = s.mgmtBusy ∧
    (s.modOptic p f).retirePend = s.retirePend ∧ (s.modOptic p f).ctxs = s.ctxs ∧ (s.modOptic p f).sqs = s.sqs ∧
    (s.modOptic p f).cqs = s.cqs ∧ (s.modOptic p f).fenceQ = s.fenceQ ∧ (s.modOptic p f).fw = s.fw ∧
    (s.modOptic p f).cmds = s.cmds ∧ (s.modOptic p f).nextCmd = s.nextCmd ∧ (s.modOptic p f).plans = s.plans ∧
    (s.modOptic p f).tables = s.tables ∧ (s.modOptic p f).adopt = s.adopt ∧ (s.modOptic p f).drains = s.drains ∧
    (s.modOptic p f).staging = s.staging ∧ (s.modOptic p f).journal = s.journal ∧ (s.modOptic p f).vats = s.vats ∧
    (s.modOptic p f).arrivals = s.arrivals ∧ (s.modOptic p f).stalledArr = s.stalledArr ∧
    (s.modOptic p f).declared = s.declared ∧ (s.modOptic p f).lostMap = s.lostMap ∧
    (s.modOptic p f).lostPairs = s.lostPairs ∧ (s.modOptic p f).lossAdopt = s.lossAdopt ∧
    (s.modOptic p f).visible = s.visible ∧ (s.modOptic p f).peerReqs = s.peerReqs ∧ (s.modOptic p f).nextTag = s.nextTag ∧
    (s.modOptic p f).heldPeer = s.heldPeer ∧ (s.modOptic p f).work = s.work ∧ (s.modOptic p f).chans = s.chans ∧
    (s.modOptic p f).links = s.links ∧ (s.modOptic p f).mods = s.mods ∧ (s.modOptic p f).power = s.power ∧
    (s.modOptic p f).trace = s.trace ∧ (s.modOptic p f).cdc = s.cdc ∧ (s.modOptic p f).cntCtx = s.cntCtx ∧
    (s.modOptic p f).cntTbl = s.cntTbl ∧ (s.modOptic p f).cntKs = s.cntKs ∧ (s.modOptic p f).errs = s.errs :=
    ⟨rfl, rfl, rfl, rfl, rfl, rfl, rfl, rfl, rfl, rfl, rfl, rfl, rfl, rfl, rfl, rfl, rfl, rfl, rfl, rfl, rfl, rfl, rfl, rfl,
    rfl, rfl, rfl, rfl, rfl, rfl, rfl, rfl, rfl, rfl, rfl, rfl, rfl, rfl, rfl, rfl, rfl, rfl, rfl, rfl, rfl, rfl, rfl, rfl,
    rfl, rfl, rfl, rfl, rfl, rfl, rfl, rfl, rfl, rfl, rfl, rfl⟩

@[simp] theorem modLink_frame (s : State) (l : Nat) (f : LinkDir → LinkDir) :
    (s.modLink l f).pending = s.pending ∧ (s.modLink l f).out = s.out ∧ (s.modLink l f).msiWait = s.msiWait ∧
    (s.modLink l f).freeCtr = s.freeCtr ∧ (s.modLink l f).powered = s.powered ∧ (s.modLink l f).trip = s.trip ∧
    (s.modLink l f).boot = s.boot ∧ (s.modLink l f).half = s.half ∧ (s.modLink l f).restartQ = s.restartQ ∧
    (s.modLink l f).kTick = s.kTick ∧ (s.modLink l f).slices = s.slices ∧ (s.modLink l f).dev = s.dev ∧
    (s.modLink l f).atsReqs = s.atsReqs ∧ (s.modLink l f).lineReqs = s.lineReqs ∧ (s.modLink l f).lines = s.lines ∧
    (s.modLink l f).hostWr = s.hostWr ∧ (s.modLink l f).memHeld = s.memHeld ∧ (s.modLink l f).flushes = s.flushes ∧
    (s.modLink l f).invals = s.invals ∧ (s.modLink l f).biasReq = s.biasReq ∧ (s.modLink l f).biasWait = s.biasWait ∧
    (s.modLink l f).kpr = s.kpr ∧ (s.modLink l f).mgmtQ = s.mgmtQ ∧ (s.modLink l f).mgmtBusy = s.mgmtBusy ∧
    (s.modLink l f).retirePend = s.retirePend ∧ (s.modLink l f).ctxs = s.ctxs ∧ (s.modLink l f).sqs = s.sqs ∧
    (s.modLink l f).cqs = s.cqs ∧ (s.modLink l f).fenceQ = s.fenceQ ∧ (s.modLink l f).fw = s.fw ∧
    (s.modLink l f).cmds = s.cmds ∧ (s.modLink l f).nextCmd = s.nextCmd ∧ (s.modLink l f).plans = s.plans ∧
    (s.modLink l f).tables = s.tables ∧ (s.modLink l f).adopt = s.adopt ∧ (s.modLink l f).drains = s.drains ∧
    (s.modLink l f).staging = s.staging ∧ (s.modLink l f).journal = s.journal ∧ (s.modLink l f).vats = s.vats ∧
    (s.modLink l f).arrivals = s.arrivals ∧ (s.modLink l f).stalledArr = s.stalledArr ∧
    (s.modLink l f).declared = s.declared ∧ (s.modLink l f).lostMap = s.lostMap ∧ (s.modLink l f).lostPairs = s.lostPairs ∧
    (s.modLink l f).lossAdopt = s.lossAdopt ∧ (s.modLink l f).visible = s.visible ∧ (s.modLink l f).peerReqs = s.peerReqs ∧
    (s.modLink l f).nextTag = s.nextTag ∧ (s.modLink l f).heldPeer = s.heldPeer ∧ (s.modLink l f).work = s.work ∧
    (s.modLink l f).chans = s.chans ∧ (s.modLink l f).mods = s.mods ∧ (s.modLink l f).optics = s.optics ∧
    (s.modLink l f).power = s.power ∧ (s.modLink l f).trace = s.trace ∧ (s.modLink l f).cdc = s.cdc ∧
    (s.modLink l f).cntCtx = s.cntCtx ∧ (s.modLink l f).cntTbl = s.cntTbl ∧ (s.modLink l f).cntKs = s.cntKs ∧
    (s.modLink l f).errs = s.errs :=
    ⟨rfl, rfl, rfl, rfl, rfl, rfl, rfl, rfl, rfl, rfl, rfl, rfl, rfl, rfl, rfl, rfl, rfl, rfl, rfl, rfl, rfl, rfl, rfl, rfl,
    rfl, rfl, rfl, rfl, rfl, rfl, rfl, rfl, rfl, rfl, rfl, rfl, rfl, rfl, rfl, rfl, rfl, rfl, rfl, rfl, rfl, rfl, rfl, rfl,
    rfl, rfl, rfl, rfl, rfl, rfl, rfl, rfl, rfl, rfl, rfl, rfl⟩

@[simp] theorem modMod_frame (s : State) (l m : Nat) (f : LinkMod → LinkMod) :
    (s.modMod l m f).pending = s.pending ∧ (s.modMod l m f).out = s.out ∧ (s.modMod l m f).msiWait = s.msiWait ∧
    (s.modMod l m f).freeCtr = s.freeCtr ∧ (s.modMod l m f).powered = s.powered ∧ (s.modMod l m f).trip = s.trip ∧
    (s.modMod l m f).boot = s.boot ∧ (s.modMod l m f).half = s.half ∧ (s.modMod l m f).restartQ = s.restartQ ∧
    (s.modMod l m f).kTick = s.kTick ∧ (s.modMod l m f).slices = s.slices ∧ (s.modMod l m f).dev = s.dev ∧
    (s.modMod l m f).atsReqs = s.atsReqs ∧ (s.modMod l m f).lineReqs = s.lineReqs ∧ (s.modMod l m f).lines = s.lines ∧
    (s.modMod l m f).hostWr = s.hostWr ∧ (s.modMod l m f).memHeld = s.memHeld ∧ (s.modMod l m f).flushes = s.flushes ∧
    (s.modMod l m f).invals = s.invals ∧ (s.modMod l m f).biasReq = s.biasReq ∧ (s.modMod l m f).biasWait = s.biasWait ∧
    (s.modMod l m f).kpr = s.kpr ∧ (s.modMod l m f).mgmtQ = s.mgmtQ ∧ (s.modMod l m f).mgmtBusy = s.mgmtBusy ∧
    (s.modMod l m f).retirePend = s.retirePend ∧ (s.modMod l m f).ctxs = s.ctxs ∧ (s.modMod l m f).sqs = s.sqs ∧
    (s.modMod l m f).cqs = s.cqs ∧ (s.modMod l m f).fenceQ = s.fenceQ ∧ (s.modMod l m f).fw = s.fw ∧
    (s.modMod l m f).cmds = s.cmds ∧ (s.modMod l m f).nextCmd = s.nextCmd ∧ (s.modMod l m f).plans = s.plans ∧
    (s.modMod l m f).tables = s.tables ∧ (s.modMod l m f).adopt = s.adopt ∧ (s.modMod l m f).drains = s.drains ∧
    (s.modMod l m f).staging = s.staging ∧ (s.modMod l m f).journal = s.journal ∧ (s.modMod l m f).vats = s.vats ∧
    (s.modMod l m f).arrivals = s.arrivals ∧ (s.modMod l m f).stalledArr = s.stalledArr ∧
    (s.modMod l m f).declared = s.declared ∧ (s.modMod l m f).lostMap = s.lostMap ∧
    (s.modMod l m f).lostPairs = s.lostPairs ∧ (s.modMod l m f).lossAdopt = s.lossAdopt ∧
    (s.modMod l m f).visible = s.visible ∧ (s.modMod l m f).peerReqs = s.peerReqs ∧ (s.modMod l m f).nextTag = s.nextTag ∧
    (s.modMod l m f).heldPeer = s.heldPeer ∧ (s.modMod l m f).work = s.work ∧ (s.modMod l m f).chans = s.chans ∧
    (s.modMod l m f).links = s.links ∧ (s.modMod l m f).optics = s.optics ∧ (s.modMod l m f).power = s.power ∧
    (s.modMod l m f).trace = s.trace ∧ (s.modMod l m f).cdc = s.cdc ∧ (s.modMod l m f).cntCtx = s.cntCtx ∧
    (s.modMod l m f).cntTbl = s.cntTbl ∧ (s.modMod l m f).cntKs = s.cntKs ∧ (s.modMod l m f).errs = s.errs :=
    ⟨rfl, rfl, rfl, rfl, rfl, rfl, rfl, rfl, rfl, rfl, rfl, rfl, rfl, rfl, rfl, rfl, rfl, rfl, rfl, rfl, rfl, rfl, rfl, rfl,
    rfl, rfl, rfl, rfl, rfl, rfl, rfl, rfl, rfl, rfl, rfl, rfl, rfl, rfl, rfl, rfl, rfl, rfl, rfl, rfl, rfl, rfl, rfl, rfl,
    rfl, rfl, rfl, rfl, rfl, rfl, rfl, rfl, rfl, rfl, rfl, rfl⟩

end Sys2Proof.Laws
end

