-- ==== Sys2Proof/Laws/Ops.lean ====
section
/-! SUPPORT. What each shared operation leaves alone, field by field, and that those which write device memory keep it canonical. -/

namespace Sys2Proof.Laws

open Sys2Proof Sys2Proof.Machine

/-- What every step of a fold leaves alone, the fold leaves alone. -/
theorem foldl_field {α β : Type} (f : State → α → State) (g : State → β) (h : ∀ s a, g (f s a) = g s) (l : List α) (s : State) :
    g (l.foldl f s) = g s := by
  induction l generalizing s with
  | nil => rfl
  | cons a r ih => rw [List.foldl_cons, ih, h]

/-- What every step of a fold keeps, the fold keeps. -/
theorem foldl_keeps {α : Type} (f : State → α → State) (P : State → Prop) (h : ∀ s a, P s → P (f s a)) (l : List α) (s : State) (hs : P s) :
    P (l.foldl f s) := by
  induction l generalizing s with
  | nil => exact hs
  | cons a r ih => exact ih _ (h s a hs)

@[simp] theorem sendFrame_frame (s : State) (p : Nat) (f : Frame) :
    (s.sendFrame p f).pending = s.pending ∧ (s.sendFrame p f).msiWait = s.msiWait ∧ (s.sendFrame p f).freeCtr = s.freeCtr ∧
    (s.sendFrame p f).powered = s.powered ∧ (s.sendFrame p f).trip = s.trip ∧ (s.sendFrame p f).boot = s.boot ∧
    (s.sendFrame p f).half = s.half ∧ (s.sendFrame p f).restartQ = s.restartQ ∧ (s.sendFrame p f).kTick = s.kTick ∧
    (s.sendFrame p f).slices = s.slices ∧ (s.sendFrame p f).dev = s.dev ∧ (s.sendFrame p f).atsReqs = s.atsReqs ∧
    (s.sendFrame p f).lineReqs = s.lineReqs ∧ (s.sendFrame p f).lines = s.lines ∧ (s.sendFrame p f).hostWr = s.hostWr ∧
    (s.sendFrame p f).memHeld = s.memHeld ∧ (s.sendFrame p f).flushes = s.flushes ∧ (s.sendFrame p f).invals = s.invals ∧
    (s.sendFrame p f).biasReq = s.biasReq ∧ (s.sendFrame p f).biasWait = s.biasWait ∧ (s.sendFrame p f).kpr = s.kpr ∧
    (s.sendFrame p f).mgmtQ = s.mgmtQ ∧ (s.sendFrame p f).mgmtBusy = s.mgmtBusy ∧
    (s.sendFrame p f).retirePend = s.retirePend ∧ (s.sendFrame p f).ctxs = s.ctxs ∧ (s.sendFrame p f).sqs = s.sqs ∧
    (s.sendFrame p f).cqs = s.cqs ∧ (s.sendFrame p f).fenceQ = s.fenceQ ∧ (s.sendFrame p f).fw = s.fw ∧
    (s.sendFrame p f).cmds = s.cmds ∧ (s.sendFrame p f).nextCmd = s.nextCmd ∧ (s.sendFrame p f).plans = s.plans ∧
    (s.sendFrame p f).tables = s.tables ∧ (s.sendFrame p f).adopt = s.adopt ∧ (s.sendFrame p f).drains = s.drains ∧
    (s.sendFrame p f).staging = s.staging ∧ (s.sendFrame p f).journal = s.journal ∧ (s.sendFrame p f).vats = s.vats ∧
    (s.sendFrame p f).arrivals = s.arrivals ∧ (s.sendFrame p f).stalledArr = s.stalledArr ∧
    (s.sendFrame p f).declared = s.declared ∧ (s.sendFrame p f).lostMap = s.lostMap ∧
    (s.sendFrame p f).lostPairs = s.lostPairs ∧ (s.sendFrame p f).lossAdopt = s.lossAdopt ∧
    (s.sendFrame p f).visible = s.visible ∧ (s.sendFrame p f).peerReqs = s.peerReqs ∧ (s.sendFrame p f).nextTag = s.nextTag ∧
    (s.sendFrame p f).heldPeer = s.heldPeer ∧ (s.sendFrame p f).work = s.work ∧ (s.sendFrame p f).chans = s.chans ∧
    (s.sendFrame p f).links = s.links ∧ (s.sendFrame p f).mods = s.mods ∧ (s.sendFrame p f).power = s.power ∧
    (s.sendFrame p f).trace = s.trace ∧ (s.sendFrame p f).cdc = s.cdc ∧ (s.sendFrame p f).cntCtx = s.cntCtx ∧
    (s.sendFrame p f).cntTbl = s.cntTbl ∧ (s.sendFrame p f).cntKs = s.cntKs ∧ (s.sendFrame p f).errs = s.errs := by
  unfold State.sendFrame
  dsimp only
  split
  all_goals simp

@[simp] theorem sendRouted_frame (s : State) (f : Frame) :
    (s.sendRouted f).pending = s.pending ∧ (s.sendRouted f).msiWait = s.msiWait ∧ (s.sendRouted f).freeCtr = s.freeCtr ∧
    (s.sendRouted f).powered = s.powered ∧ (s.sendRouted f).trip = s.trip ∧ (s.sendRouted f).boot = s.boot ∧
    (s.sendRouted f).half = s.half ∧ (s.sendRouted f).restartQ = s.restartQ ∧ (s.sendRouted f).kTick = s.kTick ∧
    (s.sendRouted f).slices = s.slices ∧ (s.sendRouted f).dev = s.dev ∧ (s.sendRouted f).atsReqs = s.atsReqs ∧
    (s.sendRouted f).lineReqs = s.lineReqs ∧ (s.sendRouted f).lines = s.lines ∧ (s.sendRouted f).hostWr = s.hostWr ∧
    (s.sendRouted f).memHeld = s.memHeld ∧ (s.sendRouted f).flushes = s.flushes ∧ (s.sendRouted f).invals = s.invals ∧
    (s.sendRouted f).biasReq = s.biasReq ∧ (s.sendRouted f).biasWait = s.biasWait ∧ (s.sendRouted f).kpr = s.kpr ∧
    (s.sendRouted f).mgmtQ = s.mgmtQ ∧ (s.sendRouted f).mgmtBusy = s.mgmtBusy ∧ (s.sendRouted f).retirePend = s.retirePend ∧
    (s.sendRouted f).ctxs = s.ctxs ∧ (s.sendRouted f).sqs = s.sqs ∧ (s.sendRouted f).cqs = s.cqs ∧
    (s.sendRouted f).fenceQ = s.fenceQ ∧ (s.sendRouted f).fw = s.fw ∧ (s.sendRouted f).cmds = s.cmds ∧
    (s.sendRouted f).nextCmd = s.nextCmd ∧ (s.sendRouted f).plans = s.plans ∧ (s.sendRouted f).tables = s.tables ∧
    (s.sendRouted f).adopt = s.adopt ∧ (s.sendRouted f).drains = s.drains ∧ (s.sendRouted f).staging = s.staging ∧
    (s.sendRouted f).journal = s.journal ∧ (s.sendRouted f).vats = s.vats ∧ (s.sendRouted f).arrivals = s.arrivals ∧
    (s.sendRouted f).stalledArr = s.stalledArr ∧ (s.sendRouted f).declared = s.declared ∧
    (s.sendRouted f).lostMap = s.lostMap ∧ (s.sendRouted f).lostPairs = s.lostPairs ∧
    (s.sendRouted f).lossAdopt = s.lossAdopt ∧ (s.sendRouted f).visible = s.visible ∧
    (s.sendRouted f).peerReqs = s.peerReqs ∧ (s.sendRouted f).nextTag = s.nextTag ∧ (s.sendRouted f).heldPeer = s.heldPeer ∧
    (s.sendRouted f).work = s.work ∧ (s.sendRouted f).chans = s.chans ∧ (s.sendRouted f).links = s.links ∧
    (s.sendRouted f).mods = s.mods ∧ (s.sendRouted f).power = s.power ∧ (s.sendRouted f).trace = s.trace ∧
    (s.sendRouted f).cdc = s.cdc ∧ (s.sendRouted f).cntCtx = s.cntCtx ∧ (s.sendRouted f).cntTbl = s.cntTbl ∧
    (s.sendRouted f).cntKs = s.cntKs ∧ (s.sendRouted f).errs = s.errs := by
  unfold State.sendRouted
  split
  all_goals simp

@[simp] theorem toPeer_frame (s : State) (e : Nat) (m : PeerMsg) :
    (s.toPeer e m).pending = s.pending ∧ (s.toPeer e m).msiWait = s.msiWait ∧ (s.toPeer e m).freeCtr = s.freeCtr ∧
    (s.toPeer e m).powered = s.powered ∧ (s.toPeer e m).trip = s.trip ∧ (s.toPeer e m).boot = s.boot ∧
    (s.toPeer e m).half = s.half ∧ (s.toPeer e m).restartQ = s.restartQ ∧ (s.toPeer e m).kTick = s.kTick ∧
    (s.toPeer e m).slices = s.slices ∧ (s.toPeer e m).dev = s.dev ∧ (s.toPeer e m).atsReqs = s.atsReqs ∧
    (s.toPeer e m).lineReqs = s.lineReqs ∧ (s.toPeer e m).lines = s.lines ∧ (s.toPeer e m).hostWr = s.hostWr ∧
    (s.toPeer e m).memHeld = s.memHeld ∧ (s.toPeer e m).flushes = s.flushes ∧ (s.toPeer e m).invals = s.invals ∧
    (s.toPeer e m).biasReq = s.biasReq ∧ (s.toPeer e m).biasWait = s.biasWait ∧ (s.toPeer e m).kpr = s.kpr ∧
    (s.toPeer e m).mgmtQ = s.mgmtQ ∧ (s.toPeer e m).mgmtBusy = s.mgmtBusy ∧ (s.toPeer e m).retirePend = s.retirePend ∧
    (s.toPeer e m).ctxs = s.ctxs ∧ (s.toPeer e m).sqs = s.sqs ∧ (s.toPeer e m).cqs = s.cqs ∧
    (s.toPeer e m).fenceQ = s.fenceQ ∧ (s.toPeer e m).fw = s.fw ∧ (s.toPeer e m).cmds = s.cmds ∧
    (s.toPeer e m).nextCmd = s.nextCmd ∧ (s.toPeer e m).plans = s.plans ∧ (s.toPeer e m).tables = s.tables ∧
    (s.toPeer e m).adopt = s.adopt ∧ (s.toPeer e m).drains = s.drains ∧ (s.toPeer e m).staging = s.staging ∧
    (s.toPeer e m).journal = s.journal ∧ (s.toPeer e m).vats = s.vats ∧ (s.toPeer e m).arrivals = s.arrivals ∧
    (s.toPeer e m).stalledArr = s.stalledArr ∧ (s.toPeer e m).declared = s.declared ∧ (s.toPeer e m).lostMap = s.lostMap ∧
    (s.toPeer e m).lostPairs = s.lostPairs ∧ (s.toPeer e m).lossAdopt = s.lossAdopt ∧ (s.toPeer e m).visible = s.visible ∧
    (s.toPeer e m).peerReqs = s.peerReqs ∧ (s.toPeer e m).nextTag = s.nextTag ∧ (s.toPeer e m).heldPeer = s.heldPeer ∧
    (s.toPeer e m).work = s.work ∧ (s.toPeer e m).chans = s.chans ∧ (s.toPeer e m).links = s.links ∧
    (s.toPeer e m).mods = s.mods ∧ (s.toPeer e m).power = s.power ∧ (s.toPeer e m).trace = s.trace ∧
    (s.toPeer e m).cdc = s.cdc ∧ (s.toPeer e m).cntCtx = s.cntCtx ∧ (s.toPeer e m).cntTbl = s.cntTbl ∧
    (s.toPeer e m).cntKs = s.cntKs ∧ (s.toPeer e m).errs = s.errs := by
  unfold State.toPeer
  split
  all_goals simp

@[simp] theorem addSreg_frame (s : State) (n o k : Nat) :
    (s.addSreg n o k).pending = s.pending ∧ (s.addSreg n o k).out = s.out ∧ (s.addSreg n o k).msiWait = s.msiWait ∧
    (s.addSreg n o k).freeCtr = s.freeCtr ∧ (s.addSreg n o k).powered = s.powered ∧ (s.addSreg n o k).trip = s.trip ∧
    (s.addSreg n o k).boot = s.boot ∧ (s.addSreg n o k).half = s.half ∧ (s.addSreg n o k).restartQ = s.restartQ ∧
    (s.addSreg n o k).kTick = s.kTick ∧ (s.addSreg n o k).dev = s.dev ∧ (s.addSreg n o k).atsReqs = s.atsReqs ∧
    (s.addSreg n o k).lineReqs = s.lineReqs ∧ (s.addSreg n o k).lines = s.lines ∧ (s.addSreg n o k).hostWr = s.hostWr ∧
    (s.addSreg n o k).memHeld = s.memHeld ∧ (s.addSreg n o k).flushes = s.flushes ∧ (s.addSreg n o k).invals = s.invals ∧
    (s.addSreg n o k).biasReq = s.biasReq ∧ (s.addSreg n o k).biasWait = s.biasWait ∧ (s.addSreg n o k).kpr = s.kpr ∧
    (s.addSreg n o k).mgmtQ = s.mgmtQ ∧ (s.addSreg n o k).mgmtBusy = s.mgmtBusy ∧
    (s.addSreg n o k).retirePend = s.retirePend ∧ (s.addSreg n o k).ctxs = s.ctxs ∧ (s.addSreg n o k).sqs = s.sqs ∧
    (s.addSreg n o k).cqs = s.cqs ∧ (s.addSreg n o k).fenceQ = s.fenceQ ∧ (s.addSreg n o k).fw = s.fw ∧
    (s.addSreg n o k).cmds = s.cmds ∧ (s.addSreg n o k).nextCmd = s.nextCmd ∧ (s.addSreg n o k).plans = s.plans ∧
    (s.addSreg n o k).tables = s.tables ∧ (s.addSreg n o k).adopt = s.adopt ∧ (s.addSreg n o k).drains = s.drains ∧
    (s.addSreg n o k).staging = s.staging ∧ (s.addSreg n o k).journal = s.journal ∧ (s.addSreg n o k).vats = s.vats ∧
    (s.addSreg n o k).arrivals = s.arrivals ∧ (s.addSreg n o k).stalledArr = s.stalledArr ∧
    (s.addSreg n o k).declared = s.declared ∧ (s.addSreg n o k).lostMap = s.lostMap ∧
    (s.addSreg n o k).lostPairs = s.lostPairs ∧ (s.addSreg n o k).lossAdopt = s.lossAdopt ∧
    (s.addSreg n o k).visible = s.visible ∧ (s.addSreg n o k).peerReqs = s.peerReqs ∧ (s.addSreg n o k).nextTag = s.nextTag ∧
    (s.addSreg n o k).heldPeer = s.heldPeer ∧ (s.addSreg n o k).work = s.work ∧ (s.addSreg n o k).chans = s.chans ∧
    (s.addSreg n o k).links = s.links ∧ (s.addSreg n o k).mods = s.mods ∧ (s.addSreg n o k).optics = s.optics ∧
    (s.addSreg n o k).power = s.power ∧ (s.addSreg n o k).trace = s.trace ∧ (s.addSreg n o k).cdc = s.cdc ∧
    (s.addSreg n o k).cntCtx = s.cntCtx ∧ (s.addSreg n o k).cntTbl = s.cntTbl ∧ (s.addSreg n o k).cntKs = s.cntKs ∧
    (s.addSreg n o k).errs = s.errs := by
  simp [State.addSreg]

@[simp] theorem countHp_frame (s : State) (n i : Nat) :
    (s.countHp n i).pending = s.pending ∧ (s.countHp n i).out = s.out ∧ (s.countHp n i).msiWait = s.msiWait ∧
    (s.countHp n i).freeCtr = s.freeCtr ∧ (s.countHp n i).powered = s.powered ∧ (s.countHp n i).trip = s.trip ∧
    (s.countHp n i).boot = s.boot ∧ (s.countHp n i).half = s.half ∧ (s.countHp n i).restartQ = s.restartQ ∧
    (s.countHp n i).kTick = s.kTick ∧ (s.countHp n i).dev = s.dev ∧ (s.countHp n i).atsReqs = s.atsReqs ∧
    (s.countHp n i).lineReqs = s.lineReqs ∧ (s.countHp n i).lines = s.lines ∧ (s.countHp n i).hostWr = s.hostWr ∧
    (s.countHp n i).memHeld = s.memHeld ∧ (s.countHp n i).flushes = s.flushes ∧ (s.countHp n i).invals = s.invals ∧
    (s.countHp n i).biasReq = s.biasReq ∧ (s.countHp n i).biasWait = s.biasWait ∧ (s.countHp n i).kpr = s.kpr ∧
    (s.countHp n i).mgmtQ = s.mgmtQ ∧ (s.countHp n i).mgmtBusy = s.mgmtBusy ∧ (s.countHp n i).retirePend = s.retirePend ∧
    (s.countHp n i).ctxs = s.ctxs ∧ (s.countHp n i).sqs = s.sqs ∧ (s.countHp n i).cqs = s.cqs ∧
    (s.countHp n i).fenceQ = s.fenceQ ∧ (s.countHp n i).fw = s.fw ∧ (s.countHp n i).cmds = s.cmds ∧
    (s.countHp n i).nextCmd = s.nextCmd ∧ (s.countHp n i).plans = s.plans ∧ (s.countHp n i).tables = s.tables ∧
    (s.countHp n i).adopt = s.adopt ∧ (s.countHp n i).drains = s.drains ∧ (s.countHp n i).staging = s.staging ∧
    (s.countHp n i).journal = s.journal ∧ (s.countHp n i).vats = s.vats ∧ (s.countHp n i).arrivals = s.arrivals ∧
    (s.countHp n i).stalledArr = s.stalledArr ∧ (s.countHp n i).declared = s.declared ∧ (s.countHp n i).lostMap = s.lostMap ∧
    (s.countHp n i).lostPairs = s.lostPairs ∧ (s.countHp n i).lossAdopt = s.lossAdopt ∧ (s.countHp n i).visible = s.visible ∧
    (s.countHp n i).peerReqs = s.peerReqs ∧ (s.countHp n i).nextTag = s.nextTag ∧ (s.countHp n i).heldPeer = s.heldPeer ∧
    (s.countHp n i).work = s.work ∧ (s.countHp n i).chans = s.chans ∧ (s.countHp n i).links = s.links ∧
    (s.countHp n i).mods = s.mods ∧ (s.countHp n i).optics = s.optics ∧ (s.countHp n i).power = s.power ∧
    (s.countHp n i).trace = s.trace ∧ (s.countHp n i).cdc = s.cdc ∧ (s.countHp n i).cntCtx = s.cntCtx ∧
    (s.countHp n i).cntTbl = s.cntTbl ∧ (s.countHp n i).cntKs = s.cntKs ∧ (s.countHp n i).errs = s.errs := by
  simp [State.countHp, State.addSreg]

@[simp] theorem countSeq_frame (s : State) (n i : Nat) :
    (s.countSeq n i).pending = s.pending ∧ (s.countSeq n i).out = s.out ∧ (s.countSeq n i).msiWait = s.msiWait ∧
    (s.countSeq n i).freeCtr = s.freeCtr ∧ (s.countSeq n i).powered = s.powered ∧ (s.countSeq n i).trip = s.trip ∧
    (s.countSeq n i).boot = s.boot ∧ (s.countSeq n i).half = s.half ∧ (s.countSeq n i).restartQ = s.restartQ ∧
    (s.countSeq n i).kTick = s.kTick ∧ (s.countSeq n i).dev = s.dev ∧ (s.countSeq n i).atsReqs = s.atsReqs ∧
    (s.countSeq n i).lineReqs = s.lineReqs ∧ (s.countSeq n i).lines = s.lines ∧ (s.countSeq n i).hostWr = s.hostWr ∧
    (s.countSeq n i).memHeld = s.memHeld ∧ (s.countSeq n i).flushes = s.flushes ∧ (s.countSeq n i).invals = s.invals ∧
    (s.countSeq n i).biasReq = s.biasReq ∧ (s.countSeq n i).biasWait = s.biasWait ∧ (s.countSeq n i).kpr = s.kpr ∧
    (s.countSeq n i).mgmtQ = s.mgmtQ ∧ (s.countSeq n i).mgmtBusy = s.mgmtBusy ∧ (s.countSeq n i).retirePend = s.retirePend ∧
    (s.countSeq n i).ctxs = s.ctxs ∧ (s.countSeq n i).sqs = s.sqs ∧ (s.countSeq n i).cqs = s.cqs ∧
    (s.countSeq n i).fenceQ = s.fenceQ ∧ (s.countSeq n i).fw = s.fw ∧ (s.countSeq n i).cmds = s.cmds ∧
    (s.countSeq n i).nextCmd = s.nextCmd ∧ (s.countSeq n i).plans = s.plans ∧ (s.countSeq n i).tables = s.tables ∧
    (s.countSeq n i).adopt = s.adopt ∧ (s.countSeq n i).drains = s.drains ∧ (s.countSeq n i).staging = s.staging ∧
    (s.countSeq n i).journal = s.journal ∧ (s.countSeq n i).vats = s.vats ∧ (s.countSeq n i).arrivals = s.arrivals ∧
    (s.countSeq n i).stalledArr = s.stalledArr ∧ (s.countSeq n i).declared = s.declared ∧
    (s.countSeq n i).lostMap = s.lostMap ∧ (s.countSeq n i).lostPairs = s.lostPairs ∧
    (s.countSeq n i).lossAdopt = s.lossAdopt ∧ (s.countSeq n i).visible = s.visible ∧
    (s.countSeq n i).peerReqs = s.peerReqs ∧ (s.countSeq n i).nextTag = s.nextTag ∧ (s.countSeq n i).heldPeer = s.heldPeer ∧
    (s.countSeq n i).work = s.work ∧ (s.countSeq n i).chans = s.chans ∧ (s.countSeq n i).links = s.links ∧
    (s.countSeq n i).mods = s.mods ∧ (s.countSeq n i).optics = s.optics ∧ (s.countSeq n i).power = s.power ∧
    (s.countSeq n i).trace = s.trace ∧ (s.countSeq n i).cdc = s.cdc ∧ (s.countSeq n i).cntCtx = s.cntCtx ∧
    (s.countSeq n i).cntTbl = s.cntTbl ∧ (s.countSeq n i).cntKs = s.cntKs ∧ (s.countSeq n i).errs = s.errs := by
  simp [State.countSeq, State.addSreg]

@[simp] theorem countCtx_frame (s : State) (n x i k : Nat) :
    (s.countCtx n x i k).pending = s.pending ∧ (s.countCtx n x i k).out = s.out ∧ (s.countCtx n x i k).msiWait = s.msiWait ∧
    (s.countCtx n x i k).freeCtr = s.freeCtr ∧ (s.countCtx n x i k).powered = s.powered ∧
    (s.countCtx n x i k).trip = s.trip ∧ (s.countCtx n x i k).boot = s.boot ∧ (s.countCtx n x i k).half = s.half ∧
    (s.countCtx n x i k).restartQ = s.restartQ ∧ (s.countCtx n x i k).kTick = s.kTick ∧ (s.countCtx n x i k).dev = s.dev ∧
    (s.countCtx n x i k).atsReqs = s.atsReqs ∧ (s.countCtx n x i k).lineReqs = s.lineReqs ∧
    (s.countCtx n x i k).lines = s.lines ∧ (s.countCtx n x i k).hostWr = s.hostWr ∧
    (s.countCtx n x i k).memHeld = s.memHeld ∧ (s.countCtx n x i k).flushes = s.flushes ∧
    (s.countCtx n x i k).invals = s.invals ∧ (s.countCtx n x i k).biasReq = s.biasReq ∧
    (s.countCtx n x i k).biasWait = s.biasWait ∧ (s.countCtx n x i k).kpr = s.kpr ∧ (s.countCtx n x i k).mgmtQ = s.mgmtQ ∧
    (s.countCtx n x i k).mgmtBusy = s.mgmtBusy ∧ (s.countCtx n x i k).retirePend = s.retirePend ∧
    (s.countCtx n x i k).ctxs = s.ctxs ∧ (s.countCtx n x i k).sqs = s.sqs ∧ (s.countCtx n x i k).cqs = s.cqs ∧
    (s.countCtx n x i k).fenceQ = s.fenceQ ∧ (s.countCtx n x i k).fw = s.fw ∧ (s.countCtx n x i k).cmds = s.cmds ∧
    (s.countCtx n x i k).nextCmd = s.nextCmd ∧ (s.countCtx n x i k).plans = s.plans ∧
    (s.countCtx n x i k).tables = s.tables ∧ (s.countCtx n x i k).adopt = s.adopt ∧ (s.countCtx n x i k).drains = s.drains ∧
    (s.countCtx n x i k).staging = s.staging ∧ (s.countCtx n x i k).journal = s.journal ∧
    (s.countCtx n x i k).vats = s.vats ∧ (s.countCtx n x i k).arrivals = s.arrivals ∧
    (s.countCtx n x i k).stalledArr = s.stalledArr ∧ (s.countCtx n x i k).declared = s.declared ∧
    (s.countCtx n x i k).lostMap = s.lostMap ∧ (s.countCtx n x i k).lostPairs = s.lostPairs ∧
    (s.countCtx n x i k).lossAdopt = s.lossAdopt ∧ (s.countCtx n x i k).visible = s.visible ∧
    (s.countCtx n x i k).peerReqs = s.peerReqs ∧ (s.countCtx n x i k).nextTag = s.nextTag ∧
    (s.countCtx n x i k).heldPeer = s.heldPeer ∧ (s.countCtx n x i k).work = s.work ∧ (s.countCtx n x i k).chans = s.chans ∧
    (s.countCtx n x i k).links = s.links ∧ (s.countCtx n x i k).mods = s.mods ∧ (s.countCtx n x i k).optics = s.optics ∧
    (s.countCtx n x i k).power = s.power ∧ (s.countCtx n x i k).trace = s.trace ∧ (s.countCtx n x i k).cdc = s.cdc ∧
    (s.countCtx n x i k).cntCtx = s.cntCtx ∧ (s.countCtx n x i k).cntTbl = s.cntTbl ∧ (s.countCtx n x i k).cntKs = s.cntKs ∧
    (s.countCtx n x i k).errs = s.errs := by
  unfold State.countCtx
  repeat' split
  all_goals simp

@[simp] theorem countTbl_frame (s : State) (n t i k : Nat) :
    (s.countTbl n t i k).pending = s.pending ∧ (s.countTbl n t i k).out = s.out ∧ (s.countTbl n t i k).msiWait = s.msiWait ∧
    (s.countTbl n t i k).freeCtr = s.freeCtr ∧ (s.countTbl n t i k).powered = s.powered ∧
    (s.countTbl n t i k).trip = s.trip ∧ (s.countTbl n t i k).boot = s.boot ∧ (s.countTbl n t i k).half = s.half ∧
    (s.countTbl n t i k).restartQ = s.restartQ ∧ (s.countTbl n t i k).kTick = s.kTick ∧ (s.countTbl n t i k).dev = s.dev ∧
    (s.countTbl n t i k).atsReqs = s.atsReqs ∧ (s.countTbl n t i k).lineReqs = s.lineReqs ∧
    (s.countTbl n t i k).lines = s.lines ∧ (s.countTbl n t i k).hostWr = s.hostWr ∧
    (s.countTbl n t i k).memHeld = s.memHeld ∧ (s.countTbl n t i k).flushes = s.flushes ∧
    (s.countTbl n t i k).invals = s.invals ∧ (s.countTbl n t i k).biasReq = s.biasReq ∧
    (s.countTbl n t i k).biasWait = s.biasWait ∧ (s.countTbl n t i k).kpr = s.kpr ∧ (s.countTbl n t i k).mgmtQ = s.mgmtQ ∧
    (s.countTbl n t i k).mgmtBusy = s.mgmtBusy ∧ (s.countTbl n t i k).retirePend = s.retirePend ∧
    (s.countTbl n t i k).ctxs = s.ctxs ∧ (s.countTbl n t i k).sqs = s.sqs ∧ (s.countTbl n t i k).cqs = s.cqs ∧
    (s.countTbl n t i k).fenceQ = s.fenceQ ∧ (s.countTbl n t i k).fw = s.fw ∧ (s.countTbl n t i k).cmds = s.cmds ∧
    (s.countTbl n t i k).nextCmd = s.nextCmd ∧ (s.countTbl n t i k).plans = s.plans ∧
    (s.countTbl n t i k).tables = s.tables ∧ (s.countTbl n t i k).adopt = s.adopt ∧ (s.countTbl n t i k).drains = s.drains ∧
    (s.countTbl n t i k).staging = s.staging ∧ (s.countTbl n t i k).journal = s.journal ∧
    (s.countTbl n t i k).vats = s.vats ∧ (s.countTbl n t i k).arrivals = s.arrivals ∧
    (s.countTbl n t i k).stalledArr = s.stalledArr ∧ (s.countTbl n t i k).declared = s.declared ∧
    (s.countTbl n t i k).lostMap = s.lostMap ∧ (s.countTbl n t i k).lostPairs = s.lostPairs ∧
    (s.countTbl n t i k).lossAdopt = s.lossAdopt ∧ (s.countTbl n t i k).visible = s.visible ∧
    (s.countTbl n t i k).peerReqs = s.peerReqs ∧ (s.countTbl n t i k).nextTag = s.nextTag ∧
    (s.countTbl n t i k).heldPeer = s.heldPeer ∧ (s.countTbl n t i k).work = s.work ∧ (s.countTbl n t i k).chans = s.chans ∧
    (s.countTbl n t i k).links = s.links ∧ (s.countTbl n t i k).mods = s.mods ∧ (s.countTbl n t i k).optics = s.optics ∧
    (s.countTbl n t i k).power = s.power ∧ (s.countTbl n t i k).trace = s.trace ∧ (s.countTbl n t i k).cdc = s.cdc ∧
    (s.countTbl n t i k).cntCtx = s.cntCtx ∧ (s.countTbl n t i k).cntTbl = s.cntTbl ∧ (s.countTbl n t i k).cntKs = s.cntKs ∧
    (s.countTbl n t i k).errs = s.errs := by
  unfold State.countTbl
  repeat' split
  all_goals simp

@[simp] theorem countPress_frame (s : State) (n x : Nat) (e : Ev) :
    (s.countPress n x e).pending = s.pending ∧ (s.countPress n x e).out = s.out ∧ (s.countPress n x e).msiWait = s.msiWait ∧
    (s.countPress n x e).freeCtr = s.freeCtr ∧ (s.countPress n x e).powered = s.powered ∧
    (s.countPress n x e).trip = s.trip ∧ (s.countPress n x e).boot = s.boot ∧ (s.countPress n x e).half = s.half ∧
    (s.countPress n x e).restartQ = s.restartQ ∧ (s.countPress n x e).kTick = s.kTick ∧ (s.countPress n x e).dev = s.dev ∧
    (s.countPress n x e).atsReqs = s.atsReqs ∧ (s.countPress n x e).lineReqs = s.lineReqs ∧
    (s.countPress n x e).lines = s.lines ∧ (s.countPress n x e).hostWr = s.hostWr ∧
    (s.countPress n x e).memHeld = s.memHeld ∧ (s.countPress n x e).flushes = s.flushes ∧
    (s.countPress n x e).invals = s.invals ∧ (s.countPress n x e).biasReq = s.biasReq ∧
    (s.countPress n x e).biasWait = s.biasWait ∧ (s.countPress n x e).kpr = s.kpr ∧ (s.countPress n x e).mgmtQ = s.mgmtQ ∧
    (s.countPress n x e).mgmtBusy = s.mgmtBusy ∧ (s.countPress n x e).retirePend = s.retirePend ∧
    (s.countPress n x e).ctxs = s.ctxs ∧ (s.countPress n x e).sqs = s.sqs ∧ (s.countPress n x e).cqs = s.cqs ∧
    (s.countPress n x e).fenceQ = s.fenceQ ∧ (s.countPress n x e).fw = s.fw ∧ (s.countPress n x e).cmds = s.cmds ∧
    (s.countPress n x e).nextCmd = s.nextCmd ∧ (s.countPress n x e).plans = s.plans ∧
    (s.countPress n x e).tables = s.tables ∧ (s.countPress n x e).adopt = s.adopt ∧ (s.countPress n x e).drains = s.drains ∧
    (s.countPress n x e).staging = s.staging ∧ (s.countPress n x e).journal = s.journal ∧
    (s.countPress n x e).vats = s.vats ∧ (s.countPress n x e).arrivals = s.arrivals ∧
    (s.countPress n x e).stalledArr = s.stalledArr ∧ (s.countPress n x e).declared = s.declared ∧
    (s.countPress n x e).lostMap = s.lostMap ∧ (s.countPress n x e).lostPairs = s.lostPairs ∧
    (s.countPress n x e).lossAdopt = s.lossAdopt ∧ (s.countPress n x e).visible = s.visible ∧
    (s.countPress n x e).peerReqs = s.peerReqs ∧ (s.countPress n x e).nextTag = s.nextTag ∧
    (s.countPress n x e).heldPeer = s.heldPeer ∧ (s.countPress n x e).work = s.work ∧ (s.countPress n x e).chans = s.chans ∧
    (s.countPress n x e).links = s.links ∧ (s.countPress n x e).mods = s.mods ∧ (s.countPress n x e).optics = s.optics ∧
    (s.countPress n x e).power = s.power ∧ (s.countPress n x e).trace = s.trace ∧ (s.countPress n x e).cdc = s.cdc ∧
    (s.countPress n x e).cntCtx = s.cntCtx ∧ (s.countPress n x e).cntTbl = s.cntTbl ∧ (s.countPress n x e).cntKs = s.cntKs ∧
    (s.countPress n x e).errs = s.errs := by
  simp [State.countPress]

@[simp] theorem countConv_frame (s : State) (n x : Nat) (c : Conv) :
    (s.countConv n x c).pending = s.pending ∧ (s.countConv n x c).out = s.out ∧ (s.countConv n x c).msiWait = s.msiWait ∧
    (s.countConv n x c).freeCtr = s.freeCtr ∧ (s.countConv n x c).powered = s.powered ∧ (s.countConv n x c).trip = s.trip ∧
    (s.countConv n x c).boot = s.boot ∧ (s.countConv n x c).half = s.half ∧ (s.countConv n x c).restartQ = s.restartQ ∧
    (s.countConv n x c).kTick = s.kTick ∧ (s.countConv n x c).dev = s.dev ∧ (s.countConv n x c).atsReqs = s.atsReqs ∧
    (s.countConv n x c).lineReqs = s.lineReqs ∧ (s.countConv n x c).lines = s.lines ∧ (s.countConv n x c).hostWr = s.hostWr ∧
    (s.countConv n x c).memHeld = s.memHeld ∧ (s.countConv n x c).flushes = s.flushes ∧
    (s.countConv n x c).invals = s.invals ∧ (s.countConv n x c).biasReq = s.biasReq ∧
    (s.countConv n x c).biasWait = s.biasWait ∧ (s.countConv n x c).kpr = s.kpr ∧ (s.countConv n x c).mgmtQ = s.mgmtQ ∧
    (s.countConv n x c).mgmtBusy = s.mgmtBusy ∧ (s.countConv n x c).retirePend = s.retirePend ∧
    (s.countConv n x c).ctxs = s.ctxs ∧ (s.countConv n x c).sqs = s.sqs ∧ (s.countConv n x c).cqs = s.cqs ∧
    (s.countConv n x c).fenceQ = s.fenceQ ∧ (s.countConv n x c).fw = s.fw ∧ (s.countConv n x c).cmds = s.cmds ∧
    (s.countConv n x c).nextCmd = s.nextCmd ∧ (s.countConv n x c).plans = s.plans ∧ (s.countConv n x c).tables = s.tables ∧
    (s.countConv n x c).adopt = s.adopt ∧ (s.countConv n x c).drains = s.drains ∧ (s.countConv n x c).staging = s.staging ∧
    (s.countConv n x c).journal = s.journal ∧ (s.countConv n x c).vats = s.vats ∧ (s.countConv n x c).arrivals = s.arrivals ∧
    (s.countConv n x c).stalledArr = s.stalledArr ∧ (s.countConv n x c).declared = s.declared ∧
    (s.countConv n x c).lostMap = s.lostMap ∧ (s.countConv n x c).lostPairs = s.lostPairs ∧
    (s.countConv n x c).lossAdopt = s.lossAdopt ∧ (s.countConv n x c).visible = s.visible ∧
    (s.countConv n x c).peerReqs = s.peerReqs ∧ (s.countConv n x c).nextTag = s.nextTag ∧
    (s.countConv n x c).heldPeer = s.heldPeer ∧ (s.countConv n x c).work = s.work ∧ (s.countConv n x c).chans = s.chans ∧
    (s.countConv n x c).links = s.links ∧ (s.countConv n x c).mods = s.mods ∧ (s.countConv n x c).optics = s.optics ∧
    (s.countConv n x c).power = s.power ∧ (s.countConv n x c).trace = s.trace ∧ (s.countConv n x c).cdc = s.cdc ∧
    (s.countConv n x c).cntCtx = s.cntCtx ∧ (s.countConv n x c).cntTbl = s.cntTbl ∧ (s.countConv n x c).cntKs = s.cntKs ∧
    (s.countConv n x c).errs = s.errs := by
  simp [State.countConv]

@[simp] theorem rollWindow_frame (s : State) (n : Nat) :
    (s.rollWindow n).pending = s.pending ∧ (s.rollWindow n).out = s.out ∧ (s.rollWindow n).msiWait = s.msiWait ∧
    (s.rollWindow n).freeCtr = s.freeCtr ∧ (s.rollWindow n).powered = s.powered ∧ (s.rollWindow n).trip = s.trip ∧
    (s.rollWindow n).boot = s.boot ∧ (s.rollWindow n).half = s.half ∧ (s.rollWindow n).restartQ = s.restartQ ∧
    (s.rollWindow n).kTick = s.kTick ∧ (s.rollWindow n).dev = s.dev ∧ (s.rollWindow n).atsReqs = s.atsReqs ∧
    (s.rollWindow n).lineReqs = s.lineReqs ∧ (s.rollWindow n).lines = s.lines ∧ (s.rollWindow n).hostWr = s.hostWr ∧
    (s.rollWindow n).memHeld = s.memHeld ∧ (s.rollWindow n).flushes = s.flushes ∧ (s.rollWindow n).invals = s.invals ∧
    (s.rollWindow n).biasReq = s.biasReq ∧ (s.rollWindow n).biasWait = s.biasWait ∧ (s.rollWindow n).kpr = s.kpr ∧
    (s.rollWindow n).mgmtQ = s.mgmtQ ∧ (s.rollWindow n).mgmtBusy = s.mgmtBusy ∧ (s.rollWindow n).retirePend = s.retirePend ∧
    (s.rollWindow n).ctxs = s.ctxs ∧ (s.rollWindow n).sqs = s.sqs ∧ (s.rollWindow n).cqs = s.cqs ∧
    (s.rollWindow n).fenceQ = s.fenceQ ∧ (s.rollWindow n).fw = s.fw ∧ (s.rollWindow n).cmds = s.cmds ∧
    (s.rollWindow n).nextCmd = s.nextCmd ∧ (s.rollWindow n).plans = s.plans ∧ (s.rollWindow n).tables = s.tables ∧
    (s.rollWindow n).adopt = s.adopt ∧ (s.rollWindow n).drains = s.drains ∧ (s.rollWindow n).staging = s.staging ∧
    (s.rollWindow n).journal = s.journal ∧ (s.rollWindow n).vats = s.vats ∧ (s.rollWindow n).arrivals = s.arrivals ∧
    (s.rollWindow n).stalledArr = s.stalledArr ∧ (s.rollWindow n).declared = s.declared ∧
    (s.rollWindow n).lostMap = s.lostMap ∧ (s.rollWindow n).lostPairs = s.lostPairs ∧
    (s.rollWindow n).lossAdopt = s.lossAdopt ∧ (s.rollWindow n).visible = s.visible ∧
    (s.rollWindow n).peerReqs = s.peerReqs ∧ (s.rollWindow n).nextTag = s.nextTag ∧ (s.rollWindow n).heldPeer = s.heldPeer ∧
    (s.rollWindow n).work = s.work ∧ (s.rollWindow n).chans = s.chans ∧ (s.rollWindow n).links = s.links ∧
    (s.rollWindow n).mods = s.mods ∧ (s.rollWindow n).optics = s.optics ∧ (s.rollWindow n).power = s.power ∧
    (s.rollWindow n).trace = s.trace ∧ (s.rollWindow n).cdc = s.cdc ∧ (s.rollWindow n).cntCtx = s.cntCtx ∧
    (s.rollWindow n).cntTbl = s.cntTbl ∧ (s.rollWindow n).cntKs = s.cntKs ∧ (s.rollWindow n).errs = s.errs := by
  unfold State.rollWindow
  dsimp only
  split
  all_goals simp

@[simp] theorem skewAccess_frame (s : State) (t k b r : Nat) (hot peer : Bool) :
    (s.skewAccess t k b r hot peer).pending = s.pending ∧ (s.skewAccess t k b r hot peer).out = s.out ∧
    (s.skewAccess t k b r hot peer).msiWait = s.msiWait ∧ (s.skewAccess t k b r hot peer).freeCtr = s.freeCtr ∧
    (s.skewAccess t k b r hot peer).powered = s.powered ∧ (s.skewAccess t k b r hot peer).trip = s.trip ∧
    (s.skewAccess t k b r hot peer).boot = s.boot ∧ (s.skewAccess t k b r hot peer).half = s.half ∧
    (s.skewAccess t k b r hot peer).restartQ = s.restartQ ∧ (s.skewAccess t k b r hot peer).kTick = s.kTick ∧
    (s.skewAccess t k b r hot peer).dev = s.dev ∧ (s.skewAccess t k b r hot peer).atsReqs = s.atsReqs ∧
    (s.skewAccess t k b r hot peer).lineReqs = s.lineReqs ∧ (s.skewAccess t k b r hot peer).lines = s.lines ∧
    (s.skewAccess t k b r hot peer).hostWr = s.hostWr ∧ (s.skewAccess t k b r hot peer).memHeld = s.memHeld ∧
    (s.skewAccess t k b r hot peer).flushes = s.flushes ∧ (s.skewAccess t k b r hot peer).invals = s.invals ∧
    (s.skewAccess t k b r hot peer).biasReq = s.biasReq ∧ (s.skewAccess t k b r hot peer).biasWait = s.biasWait ∧
    (s.skewAccess t k b r hot peer).kpr = s.kpr ∧ (s.skewAccess t k b r hot peer).mgmtQ = s.mgmtQ ∧
    (s.skewAccess t k b r hot peer).mgmtBusy = s.mgmtBusy ∧ (s.skewAccess t k b r hot peer).retirePend = s.retirePend ∧
    (s.skewAccess t k b r hot peer).ctxs = s.ctxs ∧ (s.skewAccess t k b r hot peer).sqs = s.sqs ∧
    (s.skewAccess t k b r hot peer).cqs = s.cqs ∧ (s.skewAccess t k b r hot peer).fenceQ = s.fenceQ ∧
    (s.skewAccess t k b r hot peer).fw = s.fw ∧ (s.skewAccess t k b r hot peer).cmds = s.cmds ∧
    (s.skewAccess t k b r hot peer).nextCmd = s.nextCmd ∧ (s.skewAccess t k b r hot peer).plans = s.plans ∧
    (s.skewAccess t k b r hot peer).tables = s.tables ∧ (s.skewAccess t k b r hot peer).adopt = s.adopt ∧
    (s.skewAccess t k b r hot peer).drains = s.drains ∧ (s.skewAccess t k b r hot peer).staging = s.staging ∧
    (s.skewAccess t k b r hot peer).journal = s.journal ∧ (s.skewAccess t k b r hot peer).vats = s.vats ∧
    (s.skewAccess t k b r hot peer).arrivals = s.arrivals ∧ (s.skewAccess t k b r hot peer).stalledArr = s.stalledArr ∧
    (s.skewAccess t k b r hot peer).declared = s.declared ∧ (s.skewAccess t k b r hot peer).lostMap = s.lostMap ∧
    (s.skewAccess t k b r hot peer).lostPairs = s.lostPairs ∧ (s.skewAccess t k b r hot peer).lossAdopt = s.lossAdopt ∧
    (s.skewAccess t k b r hot peer).visible = s.visible ∧ (s.skewAccess t k b r hot peer).peerReqs = s.peerReqs ∧
    (s.skewAccess t k b r hot peer).nextTag = s.nextTag ∧ (s.skewAccess t k b r hot peer).heldPeer = s.heldPeer ∧
    (s.skewAccess t k b r hot peer).work = s.work ∧ (s.skewAccess t k b r hot peer).chans = s.chans ∧
    (s.skewAccess t k b r hot peer).links = s.links ∧ (s.skewAccess t k b r hot peer).mods = s.mods ∧
    (s.skewAccess t k b r hot peer).optics = s.optics ∧ (s.skewAccess t k b r hot peer).power = s.power ∧
    (s.skewAccess t k b r hot peer).trace = s.trace ∧ (s.skewAccess t k b r hot peer).cdc = s.cdc ∧
    (s.skewAccess t k b r hot peer).cntCtx = s.cntCtx ∧ (s.skewAccess t k b r hot peer).cntTbl = s.cntTbl ∧
    (s.skewAccess t k b r hot peer).cntKs = s.cntKs ∧ (s.skewAccess t k b r hot peer).errs = s.errs := by
  simp [State.skewAccess]

@[simp] theorem regEvt_frame (s : State) (n : Nat) :
    (s.regEvt n).pending = s.pending ∧ (s.regEvt n).out = s.out ∧ (s.regEvt n).msiWait = s.msiWait ∧
    (s.regEvt n).freeCtr = s.freeCtr ∧ (s.regEvt n).powered = s.powered ∧ (s.regEvt n).trip = s.trip ∧
    (s.regEvt n).boot = s.boot ∧ (s.regEvt n).half = s.half ∧ (s.regEvt n).restartQ = s.restartQ ∧
    (s.regEvt n).kTick = s.kTick ∧ (s.regEvt n).dev = s.dev ∧ (s.regEvt n).atsReqs = s.atsReqs ∧
    (s.regEvt n).lineReqs = s.lineReqs ∧ (s.regEvt n).lines = s.lines ∧ (s.regEvt n).hostWr = s.hostWr ∧
    (s.regEvt n).memHeld = s.memHeld ∧ (s.regEvt n).flushes = s.flushes ∧ (s.regEvt n).invals = s.invals ∧
    (s.regEvt n).biasReq = s.biasReq ∧ (s.regEvt n).biasWait = s.biasWait ∧ (s.regEvt n).kpr = s.kpr ∧
    (s.regEvt n).mgmtQ = s.mgmtQ ∧ (s.regEvt n).mgmtBusy = s.mgmtBusy ∧ (s.regEvt n).retirePend = s.retirePend ∧
    (s.regEvt n).ctxs = s.ctxs ∧ (s.regEvt n).sqs = s.sqs ∧ (s.regEvt n).cqs = s.cqs ∧ (s.regEvt n).fenceQ = s.fenceQ ∧
    (s.regEvt n).fw = s.fw ∧ (s.regEvt n).cmds = s.cmds ∧ (s.regEvt n).nextCmd = s.nextCmd ∧ (s.regEvt n).plans = s.plans ∧
    (s.regEvt n).tables = s.tables ∧ (s.regEvt n).adopt = s.adopt ∧ (s.regEvt n).drains = s.drains ∧
    (s.regEvt n).staging = s.staging ∧ (s.regEvt n).journal = s.journal ∧ (s.regEvt n).vats = s.vats ∧
    (s.regEvt n).arrivals = s.arrivals ∧ (s.regEvt n).stalledArr = s.stalledArr ∧ (s.regEvt n).declared = s.declared ∧
    (s.regEvt n).lostMap = s.lostMap ∧ (s.regEvt n).lostPairs = s.lostPairs ∧ (s.regEvt n).lossAdopt = s.lossAdopt ∧
    (s.regEvt n).visible = s.visible ∧ (s.regEvt n).peerReqs = s.peerReqs ∧ (s.regEvt n).nextTag = s.nextTag ∧
    (s.regEvt n).heldPeer = s.heldPeer ∧ (s.regEvt n).work = s.work ∧ (s.regEvt n).chans = s.chans ∧
    (s.regEvt n).links = s.links ∧ (s.regEvt n).mods = s.mods ∧ (s.regEvt n).optics = s.optics ∧
    (s.regEvt n).power = s.power ∧ (s.regEvt n).trace = s.trace ∧ (s.regEvt n).cdc = s.cdc ∧ (s.regEvt n).cntCtx = s.cntCtx ∧
    (s.regEvt n).cntTbl = s.cntTbl ∧ (s.regEvt n).cntKs = s.cntKs ∧ (s.regEvt n).errs = s.errs := by
  simp [State.regEvt]

@[simp] theorem kregEvt_frame (s : State) :
    (s.kregEvt).pending = s.pending ∧ (s.kregEvt).out = s.out ∧ (s.kregEvt).msiWait = s.msiWait ∧
    (s.kregEvt).freeCtr = s.freeCtr ∧ (s.kregEvt).powered = s.powered ∧ (s.kregEvt).trip = s.trip ∧
    (s.kregEvt).boot = s.boot ∧ (s.kregEvt).half = s.half ∧ (s.kregEvt).restartQ = s.restartQ ∧ (s.kregEvt).kTick = s.kTick ∧
    (s.kregEvt).slices = s.slices ∧ (s.kregEvt).dev = s.dev ∧ (s.kregEvt).atsReqs = s.atsReqs ∧
    (s.kregEvt).lineReqs = s.lineReqs ∧ (s.kregEvt).lines = s.lines ∧ (s.kregEvt).hostWr = s.hostWr ∧
    (s.kregEvt).memHeld = s.memHeld ∧ (s.kregEvt).flushes = s.flushes ∧ (s.kregEvt).invals = s.invals ∧
    (s.kregEvt).biasReq = s.biasReq ∧ (s.kregEvt).biasWait = s.biasWait ∧ (s.kregEvt).mgmtQ = s.mgmtQ ∧
    (s.kregEvt).mgmtBusy = s.mgmtBusy ∧ (s.kregEvt).retirePend = s.retirePend ∧ (s.kregEvt).ctxs = s.ctxs ∧
    (s.kregEvt).sqs = s.sqs ∧ (s.kregEvt).cqs = s.cqs ∧ (s.kregEvt).fenceQ = s.fenceQ ∧ (s.kregEvt).fw = s.fw ∧
    (s.kregEvt).cmds = s.cmds ∧ (s.kregEvt).nextCmd = s.nextCmd ∧ (s.kregEvt).plans = s.plans ∧
    (s.kregEvt).tables = s.tables ∧ (s.kregEvt).adopt = s.adopt ∧ (s.kregEvt).drains = s.drains ∧
    (s.kregEvt).staging = s.staging ∧ (s.kregEvt).journal = s.journal ∧ (s.kregEvt).vats = s.vats ∧
    (s.kregEvt).arrivals = s.arrivals ∧ (s.kregEvt).stalledArr = s.stalledArr ∧ (s.kregEvt).declared = s.declared ∧
    (s.kregEvt).lostMap = s.lostMap ∧ (s.kregEvt).lostPairs = s.lostPairs ∧ (s.kregEvt).lossAdopt = s.lossAdopt ∧
    (s.kregEvt).visible = s.visible ∧ (s.kregEvt).peerReqs = s.peerReqs ∧ (s.kregEvt).nextTag = s.nextTag ∧
    (s.kregEvt).heldPeer = s.heldPeer ∧ (s.kregEvt).work = s.work ∧ (s.kregEvt).chans = s.chans ∧
    (s.kregEvt).links = s.links ∧ (s.kregEvt).mods = s.mods ∧ (s.kregEvt).optics = s.optics ∧ (s.kregEvt).power = s.power ∧
    (s.kregEvt).trace = s.trace ∧ (s.kregEvt).cdc = s.cdc ∧ (s.kregEvt).cntCtx = s.cntCtx ∧ (s.kregEvt).cntTbl = s.cntTbl ∧
    (s.kregEvt).cntKs = s.cntKs ∧ (s.kregEvt).errs = s.errs := by
  simp [State.kregEvt]

@[simp] theorem clearFault_frame (s : State) (x : Nat) :
    (s.clearFault x).pending = s.pending ∧ (s.clearFault x).out = s.out ∧ (s.clearFault x).msiWait = s.msiWait ∧
    (s.clearFault x).freeCtr = s.freeCtr ∧ (s.clearFault x).powered = s.powered ∧ (s.clearFault x).trip = s.trip ∧
    (s.clearFault x).boot = s.boot ∧ (s.clearFault x).half = s.half ∧ (s.clearFault x).restartQ = s.restartQ ∧
    (s.clearFault x).kTick = s.kTick ∧ (s.clearFault x).slices = s.slices ∧ (s.clearFault x).dev = s.dev ∧
    (s.clearFault x).atsReqs = s.atsReqs ∧ (s.clearFault x).lineReqs = s.lineReqs ∧ (s.clearFault x).lines = s.lines ∧
    (s.clearFault x).hostWr = s.hostWr ∧ (s.clearFault x).memHeld = s.memHeld ∧ (s.clearFault x).flushes = s.flushes ∧
    (s.clearFault x).invals = s.invals ∧ (s.clearFault x).biasReq = s.biasReq ∧ (s.clearFault x).biasWait = s.biasWait ∧
    (s.clearFault x).kpr = s.kpr ∧ (s.clearFault x).mgmtQ = s.mgmtQ ∧ (s.clearFault x).mgmtBusy = s.mgmtBusy ∧
    (s.clearFault x).retirePend = s.retirePend ∧ (s.clearFault x).sqs = s.sqs ∧ (s.clearFault x).cqs = s.cqs ∧
    (s.clearFault x).fenceQ = s.fenceQ ∧ (s.clearFault x).fw = s.fw ∧ (s.clearFault x).cmds = s.cmds ∧
    (s.clearFault x).nextCmd = s.nextCmd ∧ (s.clearFault x).plans = s.plans ∧ (s.clearFault x).tables = s.tables ∧
    (s.clearFault x).adopt = s.adopt ∧ (s.clearFault x).drains = s.drains ∧ (s.clearFault x).staging = s.staging ∧
    (s.clearFault x).journal = s.journal ∧ (s.clearFault x).vats = s.vats ∧ (s.clearFault x).arrivals = s.arrivals ∧
    (s.clearFault x).stalledArr = s.stalledArr ∧ (s.clearFault x).declared = s.declared ∧
    (s.clearFault x).lostMap = s.lostMap ∧ (s.clearFault x).lostPairs = s.lostPairs ∧
    (s.clearFault x).lossAdopt = s.lossAdopt ∧ (s.clearFault x).visible = s.visible ∧
    (s.clearFault x).peerReqs = s.peerReqs ∧ (s.clearFault x).nextTag = s.nextTag ∧ (s.clearFault x).heldPeer = s.heldPeer ∧
    (s.clearFault x).work = s.work ∧ (s.clearFault x).chans = s.chans ∧ (s.clearFault x).links = s.links ∧
    (s.clearFault x).mods = s.mods ∧ (s.clearFault x).optics = s.optics ∧ (s.clearFault x).power = s.power ∧
    (s.clearFault x).trace = s.trace ∧ (s.clearFault x).cdc = s.cdc ∧ (s.clearFault x).cntCtx = s.cntCtx ∧
    (s.clearFault x).cntTbl = s.cntTbl ∧ (s.clearFault x).cntKs = s.cntKs ∧ (s.clearFault x).errs = s.errs := by
  simp [State.clearFault]

@[simp] theorem endWith_frame (s : State) (h a d : Nat) :
    (s.endWith h a d).pending = s.pending ∧ (s.endWith h a d).out = s.out ∧ (s.endWith h a d).msiWait = s.msiWait ∧
    (s.endWith h a d).freeCtr = s.freeCtr ∧ (s.endWith h a d).powered = s.powered ∧ (s.endWith h a d).trip = s.trip ∧
    (s.endWith h a d).boot = s.boot ∧ (s.endWith h a d).half = s.half ∧ (s.endWith h a d).restartQ = s.restartQ ∧
    (s.endWith h a d).kTick = s.kTick ∧ (s.endWith h a d).slices = s.slices ∧ (s.endWith h a d).dev = s.dev ∧
    (s.endWith h a d).atsReqs = s.atsReqs ∧ (s.endWith h a d).lineReqs = s.lineReqs ∧ (s.endWith h a d).lines = s.lines ∧
    (s.endWith h a d).hostWr = s.hostWr ∧ (s.endWith h a d).memHeld = s.memHeld ∧ (s.endWith h a d).flushes = s.flushes ∧
    (s.endWith h a d).invals = s.invals ∧ (s.endWith h a d).biasReq = s.biasReq ∧ (s.endWith h a d).biasWait = s.biasWait ∧
    (s.endWith h a d).kpr = s.kpr ∧ (s.endWith h a d).mgmtQ = s.mgmtQ ∧ (s.endWith h a d).mgmtBusy = s.mgmtBusy ∧
    (s.endWith h a d).retirePend = s.retirePend ∧ (s.endWith h a d).ctxs = s.ctxs ∧ (s.endWith h a d).sqs = s.sqs ∧
    (s.endWith h a d).cqs = s.cqs ∧ (s.endWith h a d).fenceQ = s.fenceQ ∧ (s.endWith h a d).fw = s.fw ∧
    (s.endWith h a d).plans = s.plans ∧ (s.endWith h a d).tables = s.tables ∧ (s.endWith h a d).adopt = s.adopt ∧
    (s.endWith h a d).drains = s.drains ∧ (s.endWith h a d).staging = s.staging ∧ (s.endWith h a d).journal = s.journal ∧
    (s.endWith h a d).vats = s.vats ∧ (s.endWith h a d).arrivals = s.arrivals ∧ (s.endWith h a d).stalledArr = s.stalledArr ∧
    (s.endWith h a d).declared = s.declared ∧ (s.endWith h a d).lostMap = s.lostMap ∧
    (s.endWith h a d).lostPairs = s.lostPairs ∧ (s.endWith h a d).lossAdopt = s.lossAdopt ∧
    (s.endWith h a d).visible = s.visible ∧ (s.endWith h a d).peerReqs = s.peerReqs ∧ (s.endWith h a d).nextTag = s.nextTag ∧
    (s.endWith h a d).heldPeer = s.heldPeer ∧ (s.endWith h a d).work = s.work ∧ (s.endWith h a d).chans = s.chans ∧
    (s.endWith h a d).links = s.links ∧ (s.endWith h a d).mods = s.mods ∧ (s.endWith h a d).optics = s.optics ∧
    (s.endWith h a d).power = s.power ∧ (s.endWith h a d).trace = s.trace ∧ (s.endWith h a d).cdc = s.cdc ∧
    (s.endWith h a d).cntCtx = s.cntCtx ∧ (s.endWith h a d).cntTbl = s.cntTbl ∧ (s.endWith h a d).cntKs = s.cntKs ∧
    (s.endWith h a d).errs = s.errs := by
  simp [State.endWith]

@[simp] theorem setQueue_frame (s : State) (q : Nat) (c : Cdc) :
    (s.setQueue q c).pending = s.pending ∧ (s.setQueue q c).out = s.out ∧ (s.setQueue q c).msiWait = s.msiWait ∧
    (s.setQueue q c).freeCtr = s.freeCtr ∧ (s.setQueue q c).powered = s.powered ∧ (s.setQueue q c).trip = s.trip ∧
    (s.setQueue q c).boot = s.boot ∧ (s.setQueue q c).half = s.half ∧ (s.setQueue q c).restartQ = s.restartQ ∧
    (s.setQueue q c).kTick = s.kTick ∧ (s.setQueue q c).slices = s.slices ∧ (s.setQueue q c).dev = s.dev ∧
    (s.setQueue q c).atsReqs = s.atsReqs ∧ (s.setQueue q c).lineReqs = s.lineReqs ∧ (s.setQueue q c).lines = s.lines ∧
    (s.setQueue q c).hostWr = s.hostWr ∧ (s.setQueue q c).memHeld = s.memHeld ∧ (s.setQueue q c).flushes = s.flushes ∧
    (s.setQueue q c).invals = s.invals ∧ (s.setQueue q c).biasReq = s.biasReq ∧ (s.setQueue q c).biasWait = s.biasWait ∧
    (s.setQueue q c).kpr = s.kpr ∧ (s.setQueue q c).mgmtQ = s.mgmtQ ∧ (s.setQueue q c).mgmtBusy = s.mgmtBusy ∧
    (s.setQueue q c).retirePend = s.retirePend ∧ (s.setQueue q c).ctxs = s.ctxs ∧ (s.setQueue q c).sqs = s.sqs ∧
    (s.setQueue q c).cqs = s.cqs ∧ (s.setQueue q c).fenceQ = s.fenceQ ∧ (s.setQueue q c).fw = s.fw ∧
    (s.setQueue q c).cmds = s.cmds ∧ (s.setQueue q c).nextCmd = s.nextCmd ∧ (s.setQueue q c).plans = s.plans ∧
    (s.setQueue q c).tables = s.tables ∧ (s.setQueue q c).adopt = s.adopt ∧ (s.setQueue q c).drains = s.drains ∧
    (s.setQueue q c).staging = s.staging ∧ (s.setQueue q c).journal = s.journal ∧ (s.setQueue q c).vats = s.vats ∧
    (s.setQueue q c).arrivals = s.arrivals ∧ (s.setQueue q c).stalledArr = s.stalledArr ∧
    (s.setQueue q c).declared = s.declared ∧ (s.setQueue q c).lostMap = s.lostMap ∧
    (s.setQueue q c).lostPairs = s.lostPairs ∧ (s.setQueue q c).lossAdopt = s.lossAdopt ∧
    (s.setQueue q c).visible = s.visible ∧ (s.setQueue q c).peerReqs = s.peerReqs ∧ (s.setQueue q c).nextTag = s.nextTag ∧
    (s.setQueue q c).heldPeer = s.heldPeer ∧ (s.setQueue q c).work = s.work ∧ (s.setQueue q c).chans = s.chans ∧
    (s.setQueue q c).links = s.links ∧ (s.setQueue q c).mods = s.mods ∧ (s.setQueue q c).optics = s.optics ∧
    (s.setQueue q c).power = s.power ∧ (s.setQueue q c).trace = s.trace ∧ (s.setQueue q c).cntCtx = s.cntCtx ∧
    (s.setQueue q c).cntTbl = s.cntTbl ∧ (s.setQueue q c).cntKs = s.cntKs ∧ (s.setQueue q c).errs = s.errs := by
  refine ⟨?_, ?_, ?_, ?_, ?_, ?_, ?_, ?_, ?_, ?_, ?_, ?_, ?_, ?_, ?_, ?_, ?_, ?_, ?_, ?_, ?_, ?_, ?_, ?_, ?_, ?_, ?_, ?_, ?_, ?_,
    ?_, ?_, ?_, ?_, ?_, ?_, ?_, ?_, ?_, ?_, ?_, ?_, ?_, ?_, ?_, ?_, ?_, ?_, ?_, ?_, ?_, ?_, ?_, ?_, ?_, ?_, ?_, ?_, ?_, ?_⟩ <;> rfl

@[simp] theorem bootGo_frame (s : State) (k : Nat) :
    (s.bootGo k).pending = s.pending ∧ (s.bootGo k).out = s.out ∧ (s.bootGo k).msiWait = s.msiWait ∧
    (s.bootGo k).freeCtr = s.freeCtr ∧ (s.bootGo k).powered = s.powered ∧ (s.bootGo k).trip = s.trip ∧
    (s.bootGo k).half = s.half ∧ (s.bootGo k).restartQ = s.restartQ ∧ (s.bootGo k).kTick = s.kTick ∧
    (s.bootGo k).slices = s.slices ∧ (s.bootGo k).dev = s.dev ∧ (s.bootGo k).atsReqs = s.atsReqs ∧
    (s.bootGo k).lineReqs = s.lineReqs ∧ (s.bootGo k).lines = s.lines ∧ (s.bootGo k).hostWr = s.hostWr ∧
    (s.bootGo k).memHeld = s.memHeld ∧ (s.bootGo k).flushes = s.flushes ∧ (s.bootGo k).invals = s.invals ∧
    (s.bootGo k).biasReq = s.biasReq ∧ (s.bootGo k).biasWait = s.biasWait ∧ (s.bootGo k).kpr = s.kpr ∧
    (s.bootGo k).mgmtQ = s.mgmtQ ∧ (s.bootGo k).mgmtBusy = s.mgmtBusy ∧ (s.bootGo k).retirePend = s.retirePend ∧
    (s.bootGo k).ctxs = s.ctxs ∧ (s.bootGo k).sqs = s.sqs ∧ (s.bootGo k).cqs = s.cqs ∧ (s.bootGo k).fenceQ = s.fenceQ ∧
    (s.bootGo k).fw = s.fw ∧ (s.bootGo k).cmds = s.cmds ∧ (s.bootGo k).nextCmd = s.nextCmd ∧ (s.bootGo k).plans = s.plans ∧
    (s.bootGo k).tables = s.tables ∧ (s.bootGo k).adopt = s.adopt ∧ (s.bootGo k).drains = s.drains ∧
    (s.bootGo k).staging = s.staging ∧ (s.bootGo k).journal = s.journal ∧ (s.bootGo k).vats = s.vats ∧
    (s.bootGo k).arrivals = s.arrivals ∧ (s.bootGo k).stalledArr = s.stalledArr ∧ (s.bootGo k).declared = s.declared ∧
    (s.bootGo k).lostMap = s.lostMap ∧ (s.bootGo k).lostPairs = s.lostPairs ∧ (s.bootGo k).lossAdopt = s.lossAdopt ∧
    (s.bootGo k).visible = s.visible ∧ (s.bootGo k).peerReqs = s.peerReqs ∧ (s.bootGo k).nextTag = s.nextTag ∧
    (s.bootGo k).heldPeer = s.heldPeer ∧ (s.bootGo k).work = s.work ∧ (s.bootGo k).chans = s.chans ∧
    (s.bootGo k).links = s.links ∧ (s.bootGo k).mods = s.mods ∧ (s.bootGo k).optics = s.optics ∧
    (s.bootGo k).power = s.power ∧ (s.bootGo k).trace = s.trace ∧ (s.bootGo k).cdc = s.cdc ∧ (s.bootGo k).cntCtx = s.cntCtx ∧
    (s.bootGo k).cntTbl = s.cntTbl ∧ (s.bootGo k).cntKs = s.cntKs ∧ (s.bootGo k).errs = s.errs := by
  refine ⟨?_, ?_, ?_, ?_, ?_, ?_, ?_, ?_, ?_, ?_, ?_, ?_, ?_, ?_, ?_, ?_, ?_, ?_, ?_, ?_, ?_, ?_, ?_, ?_, ?_, ?_, ?_, ?_, ?_, ?_,
    ?_, ?_, ?_, ?_, ?_, ?_, ?_, ?_, ?_, ?_, ?_, ?_, ?_, ?_, ?_, ?_, ?_, ?_, ?_, ?_, ?_, ?_, ?_, ?_, ?_, ?_, ?_, ?_, ?_, ?_⟩ <;> rfl

@[simp] theorem msix_frame (s : State) (v : Nat) :
    (s.msix v).pending = s.pending ∧ (s.msix v).freeCtr = s.freeCtr ∧ (s.msix v).powered = s.powered ∧
    (s.msix v).trip = s.trip ∧ (s.msix v).boot = s.boot ∧ (s.msix v).half = s.half ∧ (s.msix v).restartQ = s.restartQ ∧
    (s.msix v).kTick = s.kTick ∧ (s.msix v).slices = s.slices ∧ (s.msix v).dev = s.dev ∧ (s.msix v).atsReqs = s.atsReqs ∧
    (s.msix v).lineReqs = s.lineReqs ∧ (s.msix v).lines = s.lines ∧ (s.msix v).hostWr = s.hostWr ∧
    (s.msix v).memHeld = s.memHeld ∧ (s.msix v).flushes = s.flushes ∧ (s.msix v).invals = s.invals ∧
    (s.msix v).biasReq = s.biasReq ∧ (s.msix v).biasWait = s.biasWait ∧ (s.msix v).kpr = s.kpr ∧ (s.msix v).mgmtQ = s.mgmtQ ∧
    (s.msix v).mgmtBusy = s.mgmtBusy ∧ (s.msix v).retirePend = s.retirePend ∧ (s.msix v).ctxs = s.ctxs ∧
    (s.msix v).sqs = s.sqs ∧ (s.msix v).cqs = s.cqs ∧ (s.msix v).fenceQ = s.fenceQ ∧ (s.msix v).fw = s.fw ∧
    (s.msix v).cmds = s.cmds ∧ (s.msix v).nextCmd = s.nextCmd ∧ (s.msix v).plans = s.plans ∧ (s.msix v).tables = s.tables ∧
    (s.msix v).adopt = s.adopt ∧ (s.msix v).drains = s.drains ∧ (s.msix v).staging = s.staging ∧
    (s.msix v).journal = s.journal ∧ (s.msix v).vats = s.vats ∧ (s.msix v).arrivals = s.arrivals ∧
    (s.msix v).stalledArr = s.stalledArr ∧ (s.msix v).declared = s.declared ∧ (s.msix v).lostMap = s.lostMap ∧
    (s.msix v).lostPairs = s.lostPairs ∧ (s.msix v).lossAdopt = s.lossAdopt ∧ (s.msix v).visible = s.visible ∧
    (s.msix v).peerReqs = s.peerReqs ∧ (s.msix v).nextTag = s.nextTag ∧ (s.msix v).heldPeer = s.heldPeer ∧
    (s.msix v).work = s.work ∧ (s.msix v).chans = s.chans ∧ (s.msix v).links = s.links ∧ (s.msix v).mods = s.mods ∧
    (s.msix v).optics = s.optics ∧ (s.msix v).power = s.power ∧ (s.msix v).trace = s.trace ∧ (s.msix v).cdc = s.cdc ∧
    (s.msix v).cntCtx = s.cntCtx ∧ (s.msix v).cntTbl = s.cntTbl ∧ (s.msix v).cntKs = s.cntKs ∧ (s.msix v).errs = s.errs := by
  unfold State.msix
  repeat' split
  all_goals simp

@[simp] theorem traceRec_frame (s : State) (a k x q n o c : Nat) (p : List Byte) :
    (s.traceRec a k x q n o c p).pending = s.pending ∧ (s.traceRec a k x q n o c p).out = s.out ∧
    (s.traceRec a k x q n o c p).msiWait = s.msiWait ∧ (s.traceRec a k x q n o c p).freeCtr = s.freeCtr ∧
    (s.traceRec a k x q n o c p).powered = s.powered ∧ (s.traceRec a k x q n o c p).trip = s.trip ∧
    (s.traceRec a k x q n o c p).boot = s.boot ∧ (s.traceRec a k x q n o c p).half = s.half ∧
    (s.traceRec a k x q n o c p).restartQ = s.restartQ ∧ (s.traceRec a k x q n o c p).kTick = s.kTick ∧
    (s.traceRec a k x q n o c p).slices = s.slices ∧ (s.traceRec a k x q n o c p).dev = s.dev ∧
    (s.traceRec a k x q n o c p).atsReqs = s.atsReqs ∧ (s.traceRec a k x q n o c p).lineReqs = s.lineReqs ∧
    (s.traceRec a k x q n o c p).lines = s.lines ∧ (s.traceRec a k x q n o c p).hostWr = s.hostWr ∧
    (s.traceRec a k x q n o c p).memHeld = s.memHeld ∧ (s.traceRec a k x q n o c p).flushes = s.flushes ∧
    (s.traceRec a k x q n o c p).invals = s.invals ∧ (s.traceRec a k x q n o c p).biasReq = s.biasReq ∧
    (s.traceRec a k x q n o c p).biasWait = s.biasWait ∧ (s.traceRec a k x q n o c p).mgmtQ = s.mgmtQ ∧
    (s.traceRec a k x q n o c p).mgmtBusy = s.mgmtBusy ∧ (s.traceRec a k x q n o c p).retirePend = s.retirePend ∧
    (s.traceRec a k x q n o c p).ctxs = s.ctxs ∧ (s.traceRec a k x q n o c p).sqs = s.sqs ∧
    (s.traceRec a k x q n o c p).cqs = s.cqs ∧ (s.traceRec a k x q n o c p).fenceQ = s.fenceQ ∧
    (s.traceRec a k x q n o c p).fw = s.fw ∧ (s.traceRec a k x q n o c p).cmds = s.cmds ∧
    (s.traceRec a k x q n o c p).nextCmd = s.nextCmd ∧ (s.traceRec a k x q n o c p).plans = s.plans ∧
    (s.traceRec a k x q n o c p).tables = s.tables ∧ (s.traceRec a k x q n o c p).adopt = s.adopt ∧
    (s.traceRec a k x q n o c p).drains = s.drains ∧ (s.traceRec a k x q n o c p).staging = s.staging ∧
    (s.traceRec a k x q n o c p).journal = s.journal ∧ (s.traceRec a k x q n o c p).vats = s.vats ∧
    (s.traceRec a k x q n o c p).arrivals = s.arrivals ∧ (s.traceRec a k x q n o c p).stalledArr = s.stalledArr ∧
    (s.traceRec a k x q n o c p).declared = s.declared ∧ (s.traceRec a k x q n o c p).lostMap = s.lostMap ∧
    (s.traceRec a k x q n o c p).lostPairs = s.lostPairs ∧ (s.traceRec a k x q n o c p).lossAdopt = s.lossAdopt ∧
    (s.traceRec a k x q n o c p).visible = s.visible ∧ (s.traceRec a k x q n o c p).peerReqs = s.peerReqs ∧
    (s.traceRec a k x q n o c p).nextTag = s.nextTag ∧ (s.traceRec a k x q n o c p).heldPeer = s.heldPeer ∧
    (s.traceRec a k x q n o c p).work = s.work ∧ (s.traceRec a k x q n o c p).chans = s.chans ∧
    (s.traceRec a k x q n o c p).links = s.links ∧ (s.traceRec a k x q n o c p).mods = s.mods ∧
    (s.traceRec a k x q n o c p).optics = s.optics ∧ (s.traceRec a k x q n o c p).power = s.power ∧
    (s.traceRec a k x q n o c p).cdc = s.cdc ∧ (s.traceRec a k x q n o c p).cntCtx = s.cntCtx ∧
    (s.traceRec a k x q n o c p).cntTbl = s.cntTbl ∧ (s.traceRec a k x q n o c p).cntKs = s.cntKs ∧
    (s.traceRec a k x q n o c p).errs = s.errs := by
  unfold State.traceRec
  dsimp only
  repeat' split
  all_goals simp

@[simp] theorem errEntry_frame (s : State) (a c r : Nat) (d : List Byte) :
    (s.errEntry a c r d).pending = s.pending ∧ (s.errEntry a c r d).freeCtr = s.freeCtr ∧
    (s.errEntry a c r d).powered = s.powered ∧ (s.errEntry a c r d).trip = s.trip ∧ (s.errEntry a c r d).boot = s.boot ∧
    (s.errEntry a c r d).half = s.half ∧ (s.errEntry a c r d).restartQ = s.restartQ ∧ (s.errEntry a c r d).kTick = s.kTick ∧
    (s.errEntry a c r d).slices = s.slices ∧ (s.errEntry a c r d).dev = s.dev ∧ (s.errEntry a c r d).atsReqs = s.atsReqs ∧
    (s.errEntry a c r d).lineReqs = s.lineReqs ∧ (s.errEntry a c r d).lines = s.lines ∧
    (s.errEntry a c r d).hostWr = s.hostWr ∧ (s.errEntry a c r d).memHeld = s.memHeld ∧
    (s.errEntry a c r d).flushes = s.flushes ∧ (s.errEntry a c r d).invals = s.invals ∧
    (s.errEntry a c r d).biasReq = s.biasReq ∧ (s.errEntry a c r d).biasWait = s.biasWait ∧
    (s.errEntry a c r d).mgmtQ = s.mgmtQ ∧ (s.errEntry a c r d).mgmtBusy = s.mgmtBusy ∧
    (s.errEntry a c r d).retirePend = s.retirePend ∧ (s.errEntry a c r d).ctxs = s.ctxs ∧ (s.errEntry a c r d).sqs = s.sqs ∧
    (s.errEntry a c r d).cqs = s.cqs ∧ (s.errEntry a c r d).fenceQ = s.fenceQ ∧ (s.errEntry a c r d).fw = s.fw ∧
    (s.errEntry a c r d).cmds = s.cmds ∧ (s.errEntry a c r d).nextCmd = s.nextCmd ∧ (s.errEntry a c r d).plans = s.plans ∧
    (s.errEntry a c r d).tables = s.tables ∧ (s.errEntry a c r d).adopt = s.adopt ∧ (s.errEntry a c r d).drains = s.drains ∧
    (s.errEntry a c r d).staging = s.staging ∧ (s.errEntry a c r d).journal = s.journal ∧
    (s.errEntry a c r d).vats = s.vats ∧ (s.errEntry a c r d).arrivals = s.arrivals ∧
    (s.errEntry a c r d).stalledArr = s.stalledArr ∧ (s.errEntry a c r d).declared = s.declared ∧
    (s.errEntry a c r d).lostMap = s.lostMap ∧ (s.errEntry a c r d).lostPairs = s.lostPairs ∧
    (s.errEntry a c r d).lossAdopt = s.lossAdopt ∧ (s.errEntry a c r d).visible = s.visible ∧
    (s.errEntry a c r d).peerReqs = s.peerReqs ∧ (s.errEntry a c r d).nextTag = s.nextTag ∧
    (s.errEntry a c r d).heldPeer = s.heldPeer ∧ (s.errEntry a c r d).work = s.work ∧ (s.errEntry a c r d).chans = s.chans ∧
    (s.errEntry a c r d).links = s.links ∧ (s.errEntry a c r d).mods = s.mods ∧ (s.errEntry a c r d).optics = s.optics ∧
    (s.errEntry a c r d).power = s.power ∧ (s.errEntry a c r d).cdc = s.cdc ∧ (s.errEntry a c r d).cntCtx = s.cntCtx ∧
    (s.errEntry a c r d).cntTbl = s.cntTbl ∧ (s.errEntry a c r d).cntKs = s.cntKs := by
  simp [State.errEntry]

@[simp] theorem faultEvent_frame (s : State) (sl x q n o c w a : Nat) (l : List Nat) :
    (s.faultEvent sl x q n o c w a l).pending = s.pending ∧ (s.faultEvent sl x q n o c w a l).freeCtr = s.freeCtr ∧
    (s.faultEvent sl x q n o c w a l).powered = s.powered ∧ (s.faultEvent sl x q n o c w a l).trip = s.trip ∧
    (s.faultEvent sl x q n o c w a l).boot = s.boot ∧ (s.faultEvent sl x q n o c w a l).half = s.half ∧
    (s.faultEvent sl x q n o c w a l).restartQ = s.restartQ ∧ (s.faultEvent sl x q n o c w a l).kTick = s.kTick ∧
    (s.faultEvent sl x q n o c w a l).slices = s.slices ∧ (s.faultEvent sl x q n o c w a l).dev = s.dev ∧
    (s.faultEvent sl x q n o c w a l).atsReqs = s.atsReqs ∧ (s.faultEvent sl x q n o c w a l).lineReqs = s.lineReqs ∧
    (s.faultEvent sl x q n o c w a l).lines = s.lines ∧ (s.faultEvent sl x q n o c w a l).hostWr = s.hostWr ∧
    (s.faultEvent sl x q n o c w a l).memHeld = s.memHeld ∧ (s.faultEvent sl x q n o c w a l).flushes = s.flushes ∧
    (s.faultEvent sl x q n o c w a l).invals = s.invals ∧ (s.faultEvent sl x q n o c w a l).biasReq = s.biasReq ∧
    (s.faultEvent sl x q n o c w a l).biasWait = s.biasWait ∧ (s.faultEvent sl x q n o c w a l).mgmtQ = s.mgmtQ ∧
    (s.faultEvent sl x q n o c w a l).mgmtBusy = s.mgmtBusy ∧ (s.faultEvent sl x q n o c w a l).retirePend = s.retirePend ∧
    (s.faultEvent sl x q n o c w a l).sqs = s.sqs ∧ (s.faultEvent sl x q n o c w a l).cqs = s.cqs ∧
    (s.faultEvent sl x q n o c w a l).fenceQ = s.fenceQ ∧ (s.faultEvent sl x q n o c w a l).fw = s.fw ∧
    (s.faultEvent sl x q n o c w a l).cmds = s.cmds ∧ (s.faultEvent sl x q n o c w a l).nextCmd = s.nextCmd ∧
    (s.faultEvent sl x q n o c w a l).plans = s.plans ∧ (s.faultEvent sl x q n o c w a l).tables = s.tables ∧
    (s.faultEvent sl x q n o c w a l).adopt = s.adopt ∧ (s.faultEvent sl x q n o c w a l).drains = s.drains ∧
    (s.faultEvent sl x q n o c w a l).staging = s.staging ∧ (s.faultEvent sl x q n o c w a l).journal = s.journal ∧
    (s.faultEvent sl x q n o c w a l).vats = s.vats ∧ (s.faultEvent sl x q n o c w a l).arrivals = s.arrivals ∧
    (s.faultEvent sl x q n o c w a l).stalledArr = s.stalledArr ∧ (s.faultEvent sl x q n o c w a l).declared = s.declared ∧
    (s.faultEvent sl x q n o c w a l).lostMap = s.lostMap ∧ (s.faultEvent sl x q n o c w a l).lostPairs = s.lostPairs ∧
    (s.faultEvent sl x q n o c w a l).lossAdopt = s.lossAdopt ∧ (s.faultEvent sl x q n o c w a l).visible = s.visible ∧
    (s.faultEvent sl x q n o c w a l).peerReqs = s.peerReqs ∧ (s.faultEvent sl x q n o c w a l).nextTag = s.nextTag ∧
    (s.faultEvent sl x q n o c w a l).heldPeer = s.heldPeer ∧ (s.faultEvent sl x q n o c w a l).work = s.work ∧
    (s.faultEvent sl x q n o c w a l).chans = s.chans ∧ (s.faultEvent sl x q n o c w a l).links = s.links ∧
    (s.faultEvent sl x q n o c w a l).mods = s.mods ∧ (s.faultEvent sl x q n o c w a l).optics = s.optics ∧
    (s.faultEvent sl x q n o c w a l).power = s.power ∧ (s.faultEvent sl x q n o c w a l).cdc = s.cdc ∧
    (s.faultEvent sl x q n o c w a l).cntCtx = s.cntCtx ∧ (s.faultEvent sl x q n o c w a l).cntTbl = s.cntTbl ∧
    (s.faultEvent sl x q n o c w a l).cntKs = s.cntKs ∧ (s.faultEvent sl x q n o c w a l).errs = s.errs := by
  unfold State.faultEvent
  dsimp only
  repeat' split
  all_goals simp

@[simp] theorem ask_frame (s : State) (h : Nat) (n : Need) :
    (s.ask h n).pending = s.pending ∧ (s.ask h n).msiWait = s.msiWait ∧ (s.ask h n).freeCtr = s.freeCtr ∧
    (s.ask h n).powered = s.powered ∧ (s.ask h n).trip = s.trip ∧ (s.ask h n).boot = s.boot ∧ (s.ask h n).half = s.half ∧
    (s.ask h n).restartQ = s.restartQ ∧ (s.ask h n).kTick = s.kTick ∧ (s.ask h n).slices = s.slices ∧
    (s.ask h n).dev = s.dev ∧ (s.ask h n).lines = s.lines ∧ (s.ask h n).hostWr = s.hostWr ∧ (s.ask h n).memHeld = s.memHeld ∧
    (s.ask h n).flushes = s.flushes ∧ (s.ask h n).invals = s.invals ∧ (s.ask h n).biasReq = s.biasReq ∧
    (s.ask h n).biasWait = s.biasWait ∧ (s.ask h n).kpr = s.kpr ∧ (s.ask h n).mgmtQ = s.mgmtQ ∧
    (s.ask h n).mgmtBusy = s.mgmtBusy ∧ (s.ask h n).retirePend = s.retirePend ∧ (s.ask h n).ctxs = s.ctxs ∧
    (s.ask h n).sqs = s.sqs ∧ (s.ask h n).cqs = s.cqs ∧ (s.ask h n).fenceQ = s.fenceQ ∧ (s.ask h n).fw = s.fw ∧
    (s.ask h n).cmds = s.cmds ∧ (s.ask h n).nextCmd = s.nextCmd ∧ (s.ask h n).plans = s.plans ∧
    (s.ask h n).tables = s.tables ∧ (s.ask h n).adopt = s.adopt ∧ (s.ask h n).drains = s.drains ∧
    (s.ask h n).staging = s.staging ∧ (s.ask h n).journal = s.journal ∧ (s.ask h n).vats = s.vats ∧
    (s.ask h n).arrivals = s.arrivals ∧ (s.ask h n).stalledArr = s.stalledArr ∧ (s.ask h n).declared = s.declared ∧
    (s.ask h n).lostMap = s.lostMap ∧ (s.ask h n).lostPairs = s.lostPairs ∧ (s.ask h n).lossAdopt = s.lossAdopt ∧
    (s.ask h n).visible = s.visible ∧ (s.ask h n).heldPeer = s.heldPeer ∧ (s.ask h n).work = s.work ∧
    (s.ask h n).chans = s.chans ∧ (s.ask h n).links = s.links ∧ (s.ask h n).mods = s.mods ∧ (s.ask h n).power = s.power ∧
    (s.ask h n).trace = s.trace ∧ (s.ask h n).cdc = s.cdc ∧ (s.ask h n).cntCtx = s.cntCtx ∧ (s.ask h n).cntTbl = s.cntTbl ∧
    (s.ask h n).cntKs = s.cntKs ∧ (s.ask h n).errs = s.errs := by
  unfold State.ask
  repeat' split
  all_goals simp

@[simp] theorem faults_frame (s : State) (c : Cmd) (l : List FaultEv) :
    (s.faults c l).pending = s.pending ∧ (s.faults c l).freeCtr = s.freeCtr ∧ (s.faults c l).powered = s.powered ∧
    (s.faults c l).trip = s.trip ∧ (s.faults c l).boot = s.boot ∧ (s.faults c l).half = s.half ∧
    (s.faults c l).restartQ = s.restartQ ∧ (s.faults c l).kTick = s.kTick ∧ (s.faults c l).slices = s.slices ∧
    (s.faults c l).dev = s.dev ∧ (s.faults c l).atsReqs = s.atsReqs ∧ (s.faults c l).lineReqs = s.lineReqs ∧
    (s.faults c l).lines = s.lines ∧ (s.faults c l).hostWr = s.hostWr ∧ (s.faults c l).memHeld = s.memHeld ∧
    (s.faults c l).flushes = s.flushes ∧ (s.faults c l).invals = s.invals ∧ (s.faults c l).biasReq = s.biasReq ∧
    (s.faults c l).biasWait = s.biasWait ∧ (s.faults c l).mgmtQ = s.mgmtQ ∧ (s.faults c l).mgmtBusy = s.mgmtBusy ∧
    (s.faults c l).retirePend = s.retirePend ∧ (s.faults c l).sqs = s.sqs ∧ (s.faults c l).cqs = s.cqs ∧
    (s.faults c l).fenceQ = s.fenceQ ∧ (s.faults c l).fw = s.fw ∧ (s.faults c l).cmds = s.cmds ∧
    (s.faults c l).nextCmd = s.nextCmd ∧ (s.faults c l).plans = s.plans ∧ (s.faults c l).tables = s.tables ∧
    (s.faults c l).adopt = s.adopt ∧ (s.faults c l).drains = s.drains ∧ (s.faults c l).staging = s.staging ∧
    (s.faults c l).journal = s.journal ∧ (s.faults c l).vats = s.vats ∧ (s.faults c l).arrivals = s.arrivals ∧
    (s.faults c l).stalledArr = s.stalledArr ∧ (s.faults c l).declared = s.declared ∧ (s.faults c l).lostMap = s.lostMap ∧
    (s.faults c l).lostPairs = s.lostPairs ∧ (s.faults c l).lossAdopt = s.lossAdopt ∧ (s.faults c l).visible = s.visible ∧
    (s.faults c l).peerReqs = s.peerReqs ∧ (s.faults c l).nextTag = s.nextTag ∧ (s.faults c l).heldPeer = s.heldPeer ∧
    (s.faults c l).work = s.work ∧ (s.faults c l).chans = s.chans ∧ (s.faults c l).links = s.links ∧
    (s.faults c l).mods = s.mods ∧ (s.faults c l).optics = s.optics ∧ (s.faults c l).power = s.power ∧
    (s.faults c l).cdc = s.cdc ∧ (s.faults c l).cntCtx = s.cntCtx ∧ (s.faults c l).cntTbl = s.cntTbl ∧
    (s.faults c l).cntKs = s.cntKs ∧ (s.faults c l).errs = s.errs := by
  unfold State.faults
  exact ⟨foldl_field _ State.pending (by intro s a; simp) _ s, foldl_field _ State.freeCtr (by intro s a; simp) _ s,
    foldl_field _ State.powered (by intro s a; simp) _ s, foldl_field _ State.trip (by intro s a; simp) _ s,
    foldl_field _ State.boot (by intro s a; simp) _ s, foldl_field _ State.half (by intro s a; simp) _ s,
    foldl_field _ State.restartQ (by intro s a; simp) _ s, foldl_field _ State.kTick (by intro s a; simp) _ s,
    foldl_field _ State.slices (by intro s a; simp) _ s, foldl_field _ State.dev (by intro s a; simp) _ s,
    foldl_field _ State.atsReqs (by intro s a; simp) _ s, foldl_field _ State.lineReqs (by intro s a; simp) _ s,
    foldl_field _ State.lines (by intro s a; simp) _ s, foldl_field _ State.hostWr (by intro s a; simp) _ s,
    foldl_field _ State.memHeld (by intro s a; simp) _ s, foldl_field _ State.flushes (by intro s a; simp) _ s,
    foldl_field _ State.invals (by intro s a; simp) _ s, foldl_field _ State.biasReq (by intro s a; simp) _ s,
    foldl_field _ State.biasWait (by intro s a; simp) _ s, foldl_field _ State.mgmtQ (by intro s a; simp) _ s,
    foldl_field _ State.mgmtBusy (by intro s a; simp) _ s, foldl_field _ State.retirePend (by intro s a; simp) _ s,
    foldl_field _ State.sqs (by intro s a; simp) _ s, foldl_field _ State.cqs (by intro s a; simp) _ s,
    foldl_field _ State.fenceQ (by intro s a; simp) _ s, foldl_field _ State.fw (by intro s a; simp) _ s,
    foldl_field _ State.cmds (by intro s a; simp) _ s, foldl_field _ State.nextCmd (by intro s a; simp) _ s,
    foldl_field _ State.plans (by intro s a; simp) _ s, foldl_field _ State.tables (by intro s a; simp) _ s,
    foldl_field _ State.adopt (by intro s a; simp) _ s, foldl_field _ State.drains (by intro s a; simp) _ s,
    foldl_field _ State.staging (by intro s a; simp) _ s, foldl_field _ State.journal (by intro s a; simp) _ s,
    foldl_field _ State.vats (by intro s a; simp) _ s, foldl_field _ State.arrivals (by intro s a; simp) _ s,
    foldl_field _ State.stalledArr (by intro s a; simp) _ s, foldl_field _ State.declared (by intro s a; simp) _ s,
    foldl_field _ State.lostMap (by intro s a; simp) _ s, foldl_field _ State.lostPairs (by intro s a; simp) _ s,
    foldl_field _ State.lossAdopt (by intro s a; simp) _ s, foldl_field _ State.visible (by intro s a; simp) _ s,
    foldl_field _ State.peerReqs (by intro s a; simp) _ s, foldl_field _ State.nextTag (by intro s a; simp) _ s,
    foldl_field _ State.heldPeer (by intro s a; simp) _ s, foldl_field _ State.work (by intro s a; simp) _ s,
    foldl_field _ State.chans (by intro s a; simp) _ s, foldl_field _ State.links (by intro s a; simp) _ s,
    foldl_field _ State.mods (by intro s a; simp) _ s, foldl_field _ State.optics (by intro s a; simp) _ s,
    foldl_field _ State.power (by intro s a; simp) _ s, foldl_field _ State.cdc (by intro s a; simp) _ s,
    foldl_field _ State.cntCtx (by intro s a; simp) _ s, foldl_field _ State.cntTbl (by intro s a; simp) _ s,
    foldl_field _ State.cntKs (by intro s a; simp) _ s, foldl_field _ State.errs (by intro s a; simp) _ s⟩

@[simp] theorem askAll_frame (s : State) (h : Nat) (l : List Need) :
    (s.askAll h l).pending = s.pending ∧ (s.askAll h l).msiWait = s.msiWait ∧ (s.askAll h l).freeCtr = s.freeCtr ∧
    (s.askAll h l).powered = s.powered ∧ (s.askAll h l).trip = s.trip ∧ (s.askAll h l).boot = s.boot ∧
    (s.askAll h l).half = s.half ∧ (s.askAll h l).restartQ = s.restartQ ∧ (s.askAll h l).kTick = s.kTick ∧
    (s.askAll h l).slices = s.slices ∧ (s.askAll h l).dev = s.dev ∧ (s.askAll h l).lines = s.lines ∧
    (s.askAll h l).hostWr = s.hostWr ∧ (s.askAll h l).memHeld = s.memHeld ∧ (s.askAll h l).flushes = s.flushes ∧
    (s.askAll h l).invals = s.invals ∧ (s.askAll h l).biasReq = s.biasReq ∧ (s.askAll h l).biasWait = s.biasWait ∧
    (s.askAll h l).kpr = s.kpr ∧ (s.askAll h l).mgmtQ = s.mgmtQ ∧ (s.askAll h l).mgmtBusy = s.mgmtBusy ∧
    (s.askAll h l).retirePend = s.retirePend ∧ (s.askAll h l).ctxs = s.ctxs ∧ (s.askAll h l).sqs = s.sqs ∧
    (s.askAll h l).cqs = s.cqs ∧ (s.askAll h l).fenceQ = s.fenceQ ∧ (s.askAll h l).fw = s.fw ∧ (s.askAll h l).cmds = s.cmds ∧
    (s.askAll h l).nextCmd = s.nextCmd ∧ (s.askAll h l).plans = s.plans ∧ (s.askAll h l).tables = s.tables ∧
    (s.askAll h l).adopt = s.adopt ∧ (s.askAll h l).drains = s.drains ∧ (s.askAll h l).staging = s.staging ∧
    (s.askAll h l).journal = s.journal ∧ (s.askAll h l).vats = s.vats ∧ (s.askAll h l).arrivals = s.arrivals ∧
    (s.askAll h l).stalledArr = s.stalledArr ∧ (s.askAll h l).declared = s.declared ∧ (s.askAll h l).lostMap = s.lostMap ∧
    (s.askAll h l).lostPairs = s.lostPairs ∧ (s.askAll h l).lossAdopt = s.lossAdopt ∧ (s.askAll h l).visible = s.visible ∧
    (s.askAll h l).heldPeer = s.heldPeer ∧ (s.askAll h l).work = s.work ∧ (s.askAll h l).chans = s.chans ∧
    (s.askAll h l).links = s.links ∧ (s.askAll h l).mods = s.mods ∧ (s.askAll h l).power = s.power ∧
    (s.askAll h l).trace = s.trace ∧ (s.askAll h l).cdc = s.cdc ∧ (s.askAll h l).cntCtx = s.cntCtx ∧
    (s.askAll h l).cntTbl = s.cntTbl ∧ (s.askAll h l).cntKs = s.cntKs ∧ (s.askAll h l).errs = s.errs := by
  unfold State.askAll
  exact ⟨foldl_field _ State.pending (by intro s a; simp) _ s, foldl_field _ State.msiWait (by intro s a; simp) _ s,
    foldl_field _ State.freeCtr (by intro s a; simp) _ s, foldl_field _ State.powered (by intro s a; simp) _ s,
    foldl_field _ State.trip (by intro s a; simp) _ s, foldl_field _ State.boot (by intro s a; simp) _ s,
    foldl_field _ State.half (by intro s a; simp) _ s, foldl_field _ State.restartQ (by intro s a; simp) _ s,
    foldl_field _ State.kTick (by intro s a; simp) _ s, foldl_field _ State.slices (by intro s a; simp) _ s,
    foldl_field _ State.dev (by intro s a; simp) _ s, foldl_field _ State.lines (by intro s a; simp) _ s,
    foldl_field _ State.hostWr (by intro s a; simp) _ s, foldl_field _ State.memHeld (by intro s a; simp) _ s,
    foldl_field _ State.flushes (by intro s a; simp) _ s, foldl_field _ State.invals (by intro s a; simp) _ s,
    foldl_field _ State.biasReq (by intro s a; simp) _ s, foldl_field _ State.biasWait (by intro s a; simp) _ s,
    foldl_field _ State.kpr (by intro s a; simp) _ s, foldl_field _ State.mgmtQ (by intro s a; simp) _ s,
    foldl_field _ State.mgmtBusy (by intro s a; simp) _ s, foldl_field _ State.retirePend (by intro s a; simp) _ s,
    foldl_field _ State.ctxs (by intro s a; simp) _ s, foldl_field _ State.sqs (by intro s a; simp) _ s,
    foldl_field _ State.cqs (by intro s a; simp) _ s, foldl_field _ State.fenceQ (by intro s a; simp) _ s,
    foldl_field _ State.fw (by intro s a; simp) _ s, foldl_field _ State.cmds (by intro s a; simp) _ s,
    foldl_field _ State.nextCmd (by intro s a; simp) _ s, foldl_field _ State.plans (by intro s a; simp) _ s,
    foldl_field _ State.tables (by intro s a; simp) _ s, foldl_field _ State.adopt (by intro s a; simp) _ s,
    foldl_field _ State.drains (by intro s a; simp) _ s, foldl_field _ State.staging (by intro s a; simp) _ s,
    foldl_field _ State.journal (by intro s a; simp) _ s, foldl_field _ State.vats (by intro s a; simp) _ s,
    foldl_field _ State.arrivals (by intro s a; simp) _ s, foldl_field _ State.stalledArr (by intro s a; simp) _ s,
    foldl_field _ State.declared (by intro s a; simp) _ s, foldl_field _ State.lostMap (by intro s a; simp) _ s,
    foldl_field _ State.lostPairs (by intro s a; simp) _ s, foldl_field _ State.lossAdopt (by intro s a; simp) _ s,
    foldl_field _ State.visible (by intro s a; simp) _ s, foldl_field _ State.heldPeer (by intro s a; simp) _ s,
    foldl_field _ State.work (by intro s a; simp) _ s, foldl_field _ State.chans (by intro s a; simp) _ s,
    foldl_field _ State.links (by intro s a; simp) _ s, foldl_field _ State.mods (by intro s a; simp) _ s,
    foldl_field _ State.power (by intro s a; simp) _ s, foldl_field _ State.trace (by intro s a; simp) _ s,
    foldl_field _ State.cdc (by intro s a; simp) _ s, foldl_field _ State.cntCtx (by intro s a; simp) _ s,
    foldl_field _ State.cntTbl (by intro s a; simp) _ s, foldl_field _ State.cntKs (by intro s a; simp) _ s,
    foldl_field _ State.errs (by intro s a; simp) _ s⟩

@[simp] theorem await_frame (s : State) (h : Nat) (l : List Need) :
    (s.await h l).pending = s.pending ∧ (s.await h l).msiWait = s.msiWait ∧ (s.await h l).freeCtr = s.freeCtr ∧
    (s.await h l).powered = s.powered ∧ (s.await h l).trip = s.trip ∧ (s.await h l).boot = s.boot ∧
    (s.await h l).half = s.half ∧ (s.await h l).restartQ = s.restartQ ∧ (s.await h l).kTick = s.kTick ∧
    (s.await h l).slices = s.slices ∧ (s.await h l).dev = s.dev ∧ (s.await h l).lines = s.lines ∧
    (s.await h l).hostWr = s.hostWr ∧ (s.await h l).memHeld = s.memHeld ∧ (s.await h l).flushes = s.flushes ∧
    (s.await h l).invals = s.invals ∧ (s.await h l).biasReq = s.biasReq ∧ (s.await h l).biasWait = s.biasWait ∧
    (s.await h l).kpr = s.kpr ∧ (s.await h l).mgmtQ = s.mgmtQ ∧ (s.await h l).mgmtBusy = s.mgmtBusy ∧
    (s.await h l).retirePend = s.retirePend ∧ (s.await h l).ctxs = s.ctxs ∧ (s.await h l).sqs = s.sqs ∧
    (s.await h l).cqs = s.cqs ∧ (s.await h l).fenceQ = s.fenceQ ∧ (s.await h l).fw = s.fw ∧
    (s.await h l).nextCmd = s.nextCmd ∧ (s.await h l).plans = s.plans ∧ (s.await h l).tables = s.tables ∧
    (s.await h l).adopt = s.adopt ∧ (s.await h l).drains = s.drains ∧ (s.await h l).staging = s.staging ∧
    (s.await h l).journal = s.journal ∧ (s.await h l).vats = s.vats ∧ (s.await h l).arrivals = s.arrivals ∧
    (s.await h l).stalledArr = s.stalledArr ∧ (s.await h l).declared = s.declared ∧ (s.await h l).lostMap = s.lostMap ∧
    (s.await h l).lostPairs = s.lostPairs ∧ (s.await h l).lossAdopt = s.lossAdopt ∧ (s.await h l).visible = s.visible ∧
    (s.await h l).heldPeer = s.heldPeer ∧ (s.await h l).work = s.work ∧ (s.await h l).chans = s.chans ∧
    (s.await h l).links = s.links ∧ (s.await h l).mods = s.mods ∧ (s.await h l).power = s.power ∧
    (s.await h l).trace = s.trace ∧ (s.await h l).cdc = s.cdc ∧ (s.await h l).cntCtx = s.cntCtx ∧
    (s.await h l).cntTbl = s.cntTbl ∧ (s.await h l).cntKs = s.cntKs ∧ (s.await h l).errs = s.errs := by
  unfold State.await
  simp

@[simp] theorem outWrite_frame (s : State) (a : Nat) (b : List PB) :
    (s.outWrite a b).pending = s.pending ∧ (s.outWrite a b).out = s.out ∧ (s.outWrite a b).msiWait = s.msiWait ∧
    (s.outWrite a b).freeCtr = s.freeCtr ∧ (s.outWrite a b).powered = s.powered ∧ (s.outWrite a b).trip = s.trip ∧
    (s.outWrite a b).boot = s.boot ∧ (s.outWrite a b).half = s.half ∧ (s.outWrite a b).restartQ = s.restartQ ∧
    (s.outWrite a b).kTick = s.kTick ∧ (s.outWrite a b).slices = s.slices ∧ (s.outWrite a b).atsReqs = s.atsReqs ∧
    (s.outWrite a b).lineReqs = s.lineReqs ∧ (s.outWrite a b).lines = s.lines ∧ (s.outWrite a b).hostWr = s.hostWr ∧
    (s.outWrite a b).memHeld = s.memHeld ∧ (s.outWrite a b).flushes = s.flushes ∧ (s.outWrite a b).invals = s.invals ∧
    (s.outWrite a b).biasReq = s.biasReq ∧ (s.outWrite a b).biasWait = s.biasWait ∧ (s.outWrite a b).kpr = s.kpr ∧
    (s.outWrite a b).mgmtQ = s.mgmtQ ∧ (s.outWrite a b).mgmtBusy = s.mgmtBusy ∧ (s.outWrite a b).retirePend = s.retirePend ∧
    (s.outWrite a b).ctxs = s.ctxs ∧ (s.outWrite a b).sqs = s.sqs ∧ (s.outWrite a b).cqs = s.cqs ∧
    (s.outWrite a b).fenceQ = s.fenceQ ∧ (s.outWrite a b).fw = s.fw ∧ (s.outWrite a b).cmds = s.cmds ∧
    (s.outWrite a b).nextCmd = s.nextCmd ∧ (s.outWrite a b).plans = s.plans ∧ (s.outWrite a b).tables = s.tables ∧
    (s.outWrite a b).adopt = s.adopt ∧ (s.outWrite a b).drains = s.drains ∧ (s.outWrite a b).staging = s.staging ∧
    (s.outWrite a b).journal = s.journal ∧ (s.outWrite a b).vats = s.vats ∧ (s.outWrite a b).arrivals = s.arrivals ∧
    (s.outWrite a b).stalledArr = s.stalledArr ∧ (s.outWrite a b).declared = s.declared ∧
    (s.outWrite a b).lostMap = s.lostMap ∧ (s.outWrite a b).lostPairs = s.lostPairs ∧
    (s.outWrite a b).lossAdopt = s.lossAdopt ∧ (s.outWrite a b).visible = s.visible ∧
    (s.outWrite a b).peerReqs = s.peerReqs ∧ (s.outWrite a b).nextTag = s.nextTag ∧ (s.outWrite a b).heldPeer = s.heldPeer ∧
    (s.outWrite a b).work = s.work ∧ (s.outWrite a b).chans = s.chans ∧ (s.outWrite a b).links = s.links ∧
    (s.outWrite a b).mods = s.mods ∧ (s.outWrite a b).optics = s.optics ∧ (s.outWrite a b).power = s.power ∧
    (s.outWrite a b).trace = s.trace ∧ (s.outWrite a b).cdc = s.cdc ∧ (s.outWrite a b).cntCtx = s.cntCtx ∧
    (s.outWrite a b).cntTbl = s.cntTbl ∧ (s.outWrite a b).cntKs = s.cntKs ∧ (s.outWrite a b).errs = s.errs := by
  unfold State.outWrite
  split
  · exact ⟨foldl_field _ State.pending (by intro s a; simp) _ s, foldl_field _ State.out (by intro s a; simp) _ s,
      foldl_field _ State.msiWait (by intro s a; simp) _ s, foldl_field _ State.freeCtr (by intro s a; simp) _ s,
      foldl_field _ State.powered (by intro s a; simp) _ s, foldl_field _ State.trip (by intro s a; simp) _ s,
      foldl_field _ State.boot (by intro s a; simp) _ s, foldl_field _ State.half (by intro s a; simp) _ s,
      foldl_field _ State.restartQ (by intro s a; simp) _ s, foldl_field _ State.kTick (by intro s a; simp) _ s,
      foldl_field _ State.slices (by intro s a; simp) _ s, foldl_field _ State.atsReqs (by intro s a; simp) _ s,
      foldl_field _ State.lineReqs (by intro s a; simp) _ s, foldl_field _ State.lines (by intro s a; simp) _ s,
      foldl_field _ State.hostWr (by intro s a; simp) _ s, foldl_field _ State.memHeld (by intro s a; simp) _ s,
      foldl_field _ State.flushes (by intro s a; simp) _ s, foldl_field _ State.invals (by intro s a; simp) _ s,
      foldl_field _ State.biasReq (by intro s a; simp) _ s, foldl_field _ State.biasWait (by intro s a; simp) _ s,
      foldl_field _ State.kpr (by intro s a; simp) _ s, foldl_field _ State.mgmtQ (by intro s a; simp) _ s,
      foldl_field _ State.mgmtBusy (by intro s a; simp) _ s, foldl_field _ State.retirePend (by intro s a; simp) _ s,
      foldl_field _ State.ctxs (by intro s a; simp) _ s, foldl_field _ State.sqs (by intro s a; simp) _ s,
      foldl_field _ State.cqs (by intro s a; simp) _ s, foldl_field _ State.fenceQ (by intro s a; simp) _ s,
      foldl_field _ State.fw (by intro s a; simp) _ s, foldl_field _ State.cmds (by intro s a; simp) _ s,
      foldl_field _ State.nextCmd (by intro s a; simp) _ s, foldl_field _ State.plans (by intro s a; simp) _ s,
      foldl_field _ State.tables (by intro s a; simp) _ s, foldl_field _ State.adopt (by intro s a; simp) _ s,
      foldl_field _ State.drains (by intro s a; simp) _ s, foldl_field _ State.staging (by intro s a; simp) _ s,
      foldl_field _ State.journal (by intro s a; simp) _ s, foldl_field _ State.vats (by intro s a; simp) _ s,
      foldl_field _ State.arrivals (by intro s a; simp) _ s, foldl_field _ State.stalledArr (by intro s a; simp) _ s,
      foldl_field _ State.declared (by intro s a; simp) _ s, foldl_field _ State.lostMap (by intro s a; simp) _ s,
      foldl_field _ State.lostPairs (by intro s a; simp) _ s, foldl_field _ State.lossAdopt (by intro s a; simp) _ s,
      foldl_field _ State.visible (by intro s a; simp) _ s, foldl_field _ State.peerReqs (by intro s a; simp) _ s,
      foldl_field _ State.nextTag (by intro s a; simp) _ s, foldl_field _ State.heldPeer (by intro s a; simp) _ s,
      foldl_field _ State.work (by intro s a; simp) _ s, foldl_field _ State.chans (by intro s a; simp) _ s,
      foldl_field _ State.links (by intro s a; simp) _ s, foldl_field _ State.mods (by intro s a; simp) _ s,
      foldl_field _ State.optics (by intro s a; simp) _ s, foldl_field _ State.power (by intro s a; simp) _ s,
      foldl_field _ State.trace (by intro s a; simp) _ s, foldl_field _ State.cdc (by intro s a; simp) _ s,
      foldl_field _ State.cntCtx (by intro s a; simp) _ s, foldl_field _ State.cntTbl (by intro s a; simp) _ s,
      foldl_field _ State.cntKs (by intro s a; simp) _ s, foldl_field _ State.errs (by intro s a; simp) _ s⟩
  · simp

@[simp] theorem countMc_frame (s : State) (k i : Nat) :
    (s.countMc k i).pending = s.pending ∧ (s.countMc k i).out = s.out ∧ (s.countMc k i).msiWait = s.msiWait ∧
    (s.countMc k i).freeCtr = s.freeCtr ∧ (s.countMc k i).powered = s.powered ∧ (s.countMc k i).trip = s.trip ∧
    (s.countMc k i).boot = s.boot ∧ (s.countMc k i).half = s.half ∧ (s.countMc k i).restartQ = s.restartQ ∧
    (s.countMc k i).kTick = s.kTick ∧ (s.countMc k i).dev = s.dev ∧ (s.countMc k i).atsReqs = s.atsReqs ∧
    (s.countMc k i).lineReqs = s.lineReqs ∧ (s.countMc k i).lines = s.lines ∧ (s.countMc k i).hostWr = s.hostWr ∧
    (s.countMc k i).memHeld = s.memHeld ∧ (s.countMc k i).flushes = s.flushes ∧ (s.countMc k i).invals = s.invals ∧
    (s.countMc k i).biasReq = s.biasReq ∧ (s.countMc k i).biasWait = s.biasWait ∧ (s.countMc k i).kpr = s.kpr ∧
    (s.countMc k i).mgmtQ = s.mgmtQ ∧ (s.countMc k i).mgmtBusy = s.mgmtBusy ∧ (s.countMc k i).retirePend = s.retirePend ∧
    (s.countMc k i).ctxs = s.ctxs ∧ (s.countMc k i).sqs = s.sqs ∧ (s.countMc k i).cqs = s.cqs ∧
    (s.countMc k i).fenceQ = s.fenceQ ∧ (s.countMc k i).fw = s.fw ∧ (s.countMc k i).cmds = s.cmds ∧
    (s.countMc k i).nextCmd = s.nextCmd ∧ (s.countMc k i).plans = s.plans ∧ (s.countMc k i).tables = s.tables ∧
    (s.countMc k i).adopt = s.adopt ∧ (s.countMc k i).drains = s.drains ∧ (s.countMc k i).staging = s.staging ∧
    (s.countMc k i).journal = s.journal ∧ (s.countMc k i).vats = s.vats ∧ (s.countMc k i).arrivals = s.arrivals ∧
    (s.countMc k i).stalledArr = s.stalledArr ∧ (s.countMc k i).declared = s.declared ∧ (s.countMc k i).lostMap = s.lostMap ∧
    (s.countMc k i).lostPairs = s.lostPairs ∧ (s.countMc k i).lossAdopt = s.lossAdopt ∧ (s.countMc k i).visible = s.visible ∧
    (s.countMc k i).peerReqs = s.peerReqs ∧ (s.countMc k i).nextTag = s.nextTag ∧ (s.countMc k i).heldPeer = s.heldPeer ∧
    (s.countMc k i).work = s.work ∧ (s.countMc k i).chans = s.chans ∧ (s.countMc k i).links = s.links ∧
    (s.countMc k i).mods = s.mods ∧ (s.countMc k i).optics = s.optics ∧ (s.countMc k i).power = s.power ∧
    (s.countMc k i).trace = s.trace ∧ (s.countMc k i).cdc = s.cdc ∧ (s.countMc k i).cntCtx = s.cntCtx ∧
    (s.countMc k i).cntTbl = s.cntTbl ∧ (s.countMc k i).cntKs = s.cntKs ∧ (s.countMc k i).errs = s.errs := by
  simp [State.countMc, State.addSreg]

@[simp] theorem countBad_frame (s : State) (a n : Nat) :
    (s.countBad a n).pending = s.pending ∧ (s.countBad a n).out = s.out ∧ (s.countBad a n).msiWait = s.msiWait ∧
    (s.countBad a n).freeCtr = s.freeCtr ∧ (s.countBad a n).powered = s.powered ∧ (s.countBad a n).trip = s.trip ∧
    (s.countBad a n).boot = s.boot ∧ (s.countBad a n).half = s.half ∧ (s.countBad a n).restartQ = s.restartQ ∧
    (s.countBad a n).kTick = s.kTick ∧ (s.countBad a n).dev = s.dev ∧ (s.countBad a n).atsReqs = s.atsReqs ∧
    (s.countBad a n).lineReqs = s.lineReqs ∧ (s.countBad a n).lines = s.lines ∧ (s.countBad a n).hostWr = s.hostWr ∧
    (s.countBad a n).memHeld = s.memHeld ∧ (s.countBad a n).flushes = s.flushes ∧ (s.countBad a n).invals = s.invals ∧
    (s.countBad a n).biasReq = s.biasReq ∧ (s.countBad a n).biasWait = s.biasWait ∧ (s.countBad a n).kpr = s.kpr ∧
    (s.countBad a n).mgmtQ = s.mgmtQ ∧ (s.countBad a n).mgmtBusy = s.mgmtBusy ∧ (s.countBad a n).retirePend = s.retirePend ∧
    (s.countBad a n).ctxs = s.ctxs ∧ (s.countBad a n).sqs = s.sqs ∧ (s.countBad a n).cqs = s.cqs ∧
    (s.countBad a n).fenceQ = s.fenceQ ∧ (s.countBad a n).fw = s.fw ∧ (s.countBad a n).cmds = s.cmds ∧
    (s.countBad a n).nextCmd = s.nextCmd ∧ (s.countBad a n).plans = s.plans ∧ (s.countBad a n).tables = s.tables ∧
    (s.countBad a n).adopt = s.adopt ∧ (s.countBad a n).drains = s.drains ∧ (s.countBad a n).staging = s.staging ∧
    (s.countBad a n).journal = s.journal ∧ (s.countBad a n).vats = s.vats ∧ (s.countBad a n).arrivals = s.arrivals ∧
    (s.countBad a n).stalledArr = s.stalledArr ∧ (s.countBad a n).declared = s.declared ∧
    (s.countBad a n).lostMap = s.lostMap ∧ (s.countBad a n).lostPairs = s.lostPairs ∧
    (s.countBad a n).lossAdopt = s.lossAdopt ∧ (s.countBad a n).visible = s.visible ∧
    (s.countBad a n).peerReqs = s.peerReqs ∧ (s.countBad a n).nextTag = s.nextTag ∧ (s.countBad a n).heldPeer = s.heldPeer ∧
    (s.countBad a n).work = s.work ∧ (s.countBad a n).chans = s.chans ∧ (s.countBad a n).links = s.links ∧
    (s.countBad a n).mods = s.mods ∧ (s.countBad a n).optics = s.optics ∧ (s.countBad a n).power = s.power ∧
    (s.countBad a n).trace = s.trace ∧ (s.countBad a n).cdc = s.cdc ∧ (s.countBad a n).cntCtx = s.cntCtx ∧
    (s.countBad a n).cntTbl = s.cntTbl ∧ (s.countBad a n).cntKs = s.cntKs ∧ (s.countBad a n).errs = s.errs := by
  unfold State.countBad
  split
  · simp
  · exact ⟨foldl_field _ State.pending (by intro s a; simp) _ s, foldl_field _ State.out (by intro s a; simp) _ s,
      foldl_field _ State.msiWait (by intro s a; simp) _ s, foldl_field _ State.freeCtr (by intro s a; simp) _ s,
      foldl_field _ State.powered (by intro s a; simp) _ s, foldl_field _ State.trip (by intro s a; simp) _ s,
      foldl_field _ State.boot (by intro s a; simp) _ s, foldl_field _ State.half (by intro s a; simp) _ s,
      foldl_field _ State.restartQ (by intro s a; simp) _ s, foldl_field _ State.kTick (by intro s a; simp) _ s,
      foldl_field _ State.dev (by intro s a; simp) _ s, foldl_field _ State.atsReqs (by intro s a; simp) _ s,
      foldl_field _ State.lineReqs (by intro s a; simp) _ s, foldl_field _ State.lines (by intro s a; simp) _ s,
      foldl_field _ State.hostWr (by intro s a; simp) _ s, foldl_field _ State.memHeld (by intro s a; simp) _ s,
      foldl_field _ State.flushes (by intro s a; simp) _ s, foldl_field _ State.invals (by intro s a; simp) _ s,
      foldl_field _ State.biasReq (by intro s a; simp) _ s, foldl_field _ State.biasWait (by intro s a; simp) _ s,
      foldl_field _ State.kpr (by intro s a; simp) _ s, foldl_field _ State.mgmtQ (by intro s a; simp) _ s,
      foldl_field _ State.mgmtBusy (by intro s a; simp) _ s, foldl_field _ State.retirePend (by intro s a; simp) _ s,
      foldl_field _ State.ctxs (by intro s a; simp) _ s, foldl_field _ State.sqs (by intro s a; simp) _ s,
      foldl_field _ State.cqs (by intro s a; simp) _ s, foldl_field _ State.fenceQ (by intro s a; simp) _ s,
      foldl_field _ State.fw (by intro s a; simp) _ s, foldl_field _ State.cmds (by intro s a; simp) _ s,
      foldl_field _ State.nextCmd (by intro s a; simp) _ s, foldl_field _ State.plans (by intro s a; simp) _ s,
      foldl_field _ State.tables (by intro s a; simp) _ s, foldl_field _ State.adopt (by intro s a; simp) _ s,
      foldl_field _ State.drains (by intro s a; simp) _ s, foldl_field _ State.staging (by intro s a; simp) _ s,
      foldl_field _ State.journal (by intro s a; simp) _ s, foldl_field _ State.vats (by intro s a; simp) _ s,
      foldl_field _ State.arrivals (by intro s a; simp) _ s, foldl_field _ State.stalledArr (by intro s a; simp) _ s,
      foldl_field _ State.declared (by intro s a; simp) _ s, foldl_field _ State.lostMap (by intro s a; simp) _ s,
      foldl_field _ State.lostPairs (by intro s a; simp) _ s, foldl_field _ State.lossAdopt (by intro s a; simp) _ s,
      foldl_field _ State.visible (by intro s a; simp) _ s, foldl_field _ State.peerReqs (by intro s a; simp) _ s,
      foldl_field _ State.nextTag (by intro s a; simp) _ s, foldl_field _ State.heldPeer (by intro s a; simp) _ s,
      foldl_field _ State.work (by intro s a; simp) _ s, foldl_field _ State.chans (by intro s a; simp) _ s,
      foldl_field _ State.links (by intro s a; simp) _ s, foldl_field _ State.mods (by intro s a; simp) _ s,
      foldl_field _ State.optics (by intro s a; simp) _ s, foldl_field _ State.power (by intro s a; simp) _ s,
      foldl_field _ State.trace (by intro s a; simp) _ s, foldl_field _ State.cdc (by intro s a; simp) _ s,
      foldl_field _ State.cntCtx (by intro s a; simp) _ s, foldl_field _ State.cntTbl (by intro s a; simp) _ s,
      foldl_field _ State.cntKs (by intro s a; simp) _ s, foldl_field _ State.errs (by intro s a; simp) _ s⟩

@[simp] theorem landDevice_frame (s : State) (l : List (Nat × List PB)) :
    (s.landDevice l).pending = s.pending ∧ (s.landDevice l).out = s.out ∧ (s.landDevice l).msiWait = s.msiWait ∧
    (s.landDevice l).powered = s.powered ∧ (s.landDevice l).trip = s.trip ∧ (s.landDevice l).boot = s.boot ∧
    (s.landDevice l).half = s.half ∧ (s.landDevice l).restartQ = s.restartQ ∧ (s.landDevice l).kTick = s.kTick ∧
    (s.landDevice l).slices = s.slices ∧ (s.landDevice l).atsReqs = s.atsReqs ∧ (s.landDevice l).lineReqs = s.lineReqs ∧
    (s.landDevice l).lines = s.lines ∧ (s.landDevice l).hostWr = s.hostWr ∧ (s.landDevice l).memHeld = s.memHeld ∧
    (s.landDevice l).flushes = s.flushes ∧ (s.landDevice l).invals = s.invals ∧ (s.landDevice l).biasReq = s.biasReq ∧
    (s.landDevice l).biasWait = s.biasWait ∧ (s.landDevice l).kpr = s.kpr ∧ (s.landDevice l).mgmtQ = s.mgmtQ ∧
    (s.landDevice l).mgmtBusy = s.mgmtBusy ∧ (s.landDevice l).retirePend = s.retirePend ∧ (s.landDevice l).ctxs = s.ctxs ∧
    (s.landDevice l).sqs = s.sqs ∧ (s.landDevice l).cqs = s.cqs ∧ (s.landDevice l).fenceQ = s.fenceQ ∧
    (s.landDevice l).fw = s.fw ∧ (s.landDevice l).cmds = s.cmds ∧ (s.landDevice l).nextCmd = s.nextCmd ∧
    (s.landDevice l).plans = s.plans ∧ (s.landDevice l).tables = s.tables ∧ (s.landDevice l).adopt = s.adopt ∧
    (s.landDevice l).drains = s.drains ∧ (s.landDevice l).staging = s.staging ∧ (s.landDevice l).journal = s.journal ∧
    (s.landDevice l).vats = s.vats ∧ (s.landDevice l).arrivals = s.arrivals ∧ (s.landDevice l).stalledArr = s.stalledArr ∧
    (s.landDevice l).declared = s.declared ∧ (s.landDevice l).lostMap = s.lostMap ∧
    (s.landDevice l).lostPairs = s.lostPairs ∧ (s.landDevice l).lossAdopt = s.lossAdopt ∧
    (s.landDevice l).visible = s.visible ∧ (s.landDevice l).peerReqs = s.peerReqs ∧ (s.landDevice l).nextTag = s.nextTag ∧
    (s.landDevice l).heldPeer = s.heldPeer ∧ (s.landDevice l).work = s.work ∧ (s.landDevice l).chans = s.chans ∧
    (s.landDevice l).links = s.links ∧ (s.landDevice l).mods = s.mods ∧ (s.landDevice l).optics = s.optics ∧
    (s.landDevice l).power = s.power ∧ (s.landDevice l).trace = s.trace ∧ (s.landDevice l).cdc = s.cdc ∧
    (s.landDevice l).cntCtx = s.cntCtx ∧ (s.landDevice l).cntTbl = s.cntTbl ∧ (s.landDevice l).cntKs = s.cntKs ∧
    (s.landDevice l).errs = s.errs := by
  unfold State.landDevice
  exact ⟨foldl_field _ State.pending (by intro s a; simp) _ s, foldl_field _ State.out (by intro s a; simp) _ s,
    foldl_field _ State.msiWait (by intro s a; simp) _ s, foldl_field _ State.powered (by intro s a; simp) _ s,
    foldl_field _ State.trip (by intro s a; simp) _ s, foldl_field _ State.boot (by intro s a; simp) _ s,
    foldl_field _ State.half (by intro s a; simp) _ s, foldl_field _ State.restartQ (by intro s a; simp) _ s,
    foldl_field _ State.kTick (by intro s a; simp) _ s, foldl_field _ State.slices (by intro s a; simp) _ s,
    foldl_field _ State.atsReqs (by intro s a; simp) _ s, foldl_field _ State.lineReqs (by intro s a; simp) _ s,
    foldl_field _ State.lines (by intro s a; simp) _ s, foldl_field _ State.hostWr (by intro s a; simp) _ s,
    foldl_field _ State.memHeld (by intro s a; simp) _ s, foldl_field _ State.flushes (by intro s a; simp) _ s,
    foldl_field _ State.invals (by intro s a; simp) _ s, foldl_field _ State.biasReq (by intro s a; simp) _ s,
    foldl_field _ State.biasWait (by intro s a; simp) _ s, foldl_field _ State.kpr (by intro s a; simp) _ s,
    foldl_field _ State.mgmtQ (by intro s a; simp) _ s, foldl_field _ State.mgmtBusy (by intro s a; simp) _ s,
    foldl_field _ State.retirePend (by intro s a; simp) _ s, foldl_field _ State.ctxs (by intro s a; simp) _ s,
    foldl_field _ State.sqs (by intro s a; simp) _ s, foldl_field _ State.cqs (by intro s a; simp) _ s,
    foldl_field _ State.fenceQ (by intro s a; simp) _ s, foldl_field _ State.fw (by intro s a; simp) _ s,
    foldl_field _ State.cmds (by intro s a; simp) _ s, foldl_field _ State.nextCmd (by intro s a; simp) _ s,
    foldl_field _ State.plans (by intro s a; simp) _ s, foldl_field _ State.tables (by intro s a; simp) _ s,
    foldl_field _ State.adopt (by intro s a; simp) _ s, foldl_field _ State.drains (by intro s a; simp) _ s,
    foldl_field _ State.staging (by intro s a; simp) _ s, foldl_field _ State.journal (by intro s a; simp) _ s,
    foldl_field _ State.vats (by intro s a; simp) _ s, foldl_field _ State.arrivals (by intro s a; simp) _ s,
    foldl_field _ State.stalledArr (by intro s a; simp) _ s, foldl_field _ State.declared (by intro s a; simp) _ s,
    foldl_field _ State.lostMap (by intro s a; simp) _ s, foldl_field _ State.lostPairs (by intro s a; simp) _ s,
    foldl_field _ State.lossAdopt (by intro s a; simp) _ s, foldl_field _ State.visible (by intro s a; simp) _ s,
    foldl_field _ State.peerReqs (by intro s a; simp) _ s, foldl_field _ State.nextTag (by intro s a; simp) _ s,
    foldl_field _ State.heldPeer (by intro s a; simp) _ s, foldl_field _ State.work (by intro s a; simp) _ s,
    foldl_field _ State.chans (by intro s a; simp) _ s, foldl_field _ State.links (by intro s a; simp) _ s,
    foldl_field _ State.mods (by intro s a; simp) _ s, foldl_field _ State.optics (by intro s a; simp) _ s,
    foldl_field _ State.power (by intro s a; simp) _ s, foldl_field _ State.trace (by intro s a; simp) _ s,
    foldl_field _ State.cdc (by intro s a; simp) _ s, foldl_field _ State.cntCtx (by intro s a; simp) _ s,
    foldl_field _ State.cntTbl (by intro s a; simp) _ s, foldl_field _ State.cntKs (by intro s a; simp) _ s,
    foldl_field _ State.errs (by intro s a; simp) _ s⟩

@[simp] theorem landHost_frame (s : State) (n x h : Nat) (l : List (Nat × List PB)) :
    (s.landHost n x h l).pending = s.pending ∧ (s.landHost n x h l).out = s.out ∧ (s.landHost n x h l).msiWait = s.msiWait ∧
    (s.landHost n x h l).powered = s.powered ∧ (s.landHost n x h l).trip = s.trip ∧ (s.landHost n x h l).boot = s.boot ∧
    (s.landHost n x h l).half = s.half ∧ (s.landHost n x h l).restartQ = s.restartQ ∧ (s.landHost n x h l).kTick = s.kTick ∧
    (s.landHost n x h l).slices = s.slices ∧ (s.landHost n x h l).dev = s.dev ∧ (s.landHost n x h l).atsReqs = s.atsReqs ∧
    (s.landHost n x h l).lineReqs = s.lineReqs ∧ (s.landHost n x h l).lines = s.lines ∧
    (s.landHost n x h l).memHeld = s.memHeld ∧ (s.landHost n x h l).flushes = s.flushes ∧
    (s.landHost n x h l).invals = s.invals ∧ (s.landHost n x h l).biasReq = s.biasReq ∧
    (s.landHost n x h l).biasWait = s.biasWait ∧ (s.landHost n x h l).kpr = s.kpr ∧ (s.landHost n x h l).mgmtQ = s.mgmtQ ∧
    (s.landHost n x h l).mgmtBusy = s.mgmtBusy ∧ (s.landHost n x h l).retirePend = s.retirePend ∧
    (s.landHost n x h l).ctxs = s.ctxs ∧ (s.landHost n x h l).sqs = s.sqs ∧ (s.landHost n x h l).cqs = s.cqs ∧
    (s.landHost n x h l).fenceQ = s.fenceQ ∧ (s.landHost n x h l).fw = s.fw ∧ (s.landHost n x h l).cmds = s.cmds ∧
    (s.landHost n x h l).nextCmd = s.nextCmd ∧ (s.landHost n x h l).plans = s.plans ∧
    (s.landHost n x h l).tables = s.tables ∧ (s.landHost n x h l).adopt = s.adopt ∧ (s.landHost n x h l).drains = s.drains ∧
    (s.landHost n x h l).staging = s.staging ∧ (s.landHost n x h l).journal = s.journal ∧
    (s.landHost n x h l).vats = s.vats ∧ (s.landHost n x h l).arrivals = s.arrivals ∧
    (s.landHost n x h l).stalledArr = s.stalledArr ∧ (s.landHost n x h l).declared = s.declared ∧
    (s.landHost n x h l).lostMap = s.lostMap ∧ (s.landHost n x h l).lostPairs = s.lostPairs ∧
    (s.landHost n x h l).lossAdopt = s.lossAdopt ∧ (s.landHost n x h l).visible = s.visible ∧
    (s.landHost n x h l).peerReqs = s.peerReqs ∧ (s.landHost n x h l).nextTag = s.nextTag ∧
    (s.landHost n x h l).heldPeer = s.heldPeer ∧ (s.landHost n x h l).work = s.work ∧ (s.landHost n x h l).chans = s.chans ∧
    (s.landHost n x h l).links = s.links ∧ (s.landHost n x h l).mods = s.mods ∧ (s.landHost n x h l).optics = s.optics ∧
    (s.landHost n x h l).power = s.power ∧ (s.landHost n x h l).trace = s.trace ∧ (s.landHost n x h l).cdc = s.cdc ∧
    (s.landHost n x h l).cntCtx = s.cntCtx ∧ (s.landHost n x h l).cntTbl = s.cntTbl ∧ (s.landHost n x h l).cntKs = s.cntKs ∧
    (s.landHost n x h l).errs = s.errs := by
  unfold State.landHost
  exact ⟨foldl_field _ State.pending (by intro s a; simp) _ s, foldl_field _ State.out (by intro s a; simp) _ s,
    foldl_field _ State.msiWait (by intro s a; simp) _ s, foldl_field _ State.powered (by intro s a; simp) _ s,
    foldl_field _ State.trip (by intro s a; simp) _ s, foldl_field _ State.boot (by intro s a; simp) _ s,
    foldl_field _ State.half (by intro s a; simp) _ s, foldl_field _ State.restartQ (by intro s a; simp) _ s,
    foldl_field _ State.kTick (by intro s a; simp) _ s, foldl_field _ State.slices (by intro s a; simp) _ s,
    foldl_field _ State.dev (by intro s a; simp) _ s, foldl_field _ State.atsReqs (by intro s a; simp) _ s,
    foldl_field _ State.lineReqs (by intro s a; simp) _ s, foldl_field _ State.lines (by intro s a; simp) _ s,
    foldl_field _ State.memHeld (by intro s a; simp) _ s, foldl_field _ State.flushes (by intro s a; simp) _ s,
    foldl_field _ State.invals (by intro s a; simp) _ s, foldl_field _ State.biasReq (by intro s a; simp) _ s,
    foldl_field _ State.biasWait (by intro s a; simp) _ s, foldl_field _ State.kpr (by intro s a; simp) _ s,
    foldl_field _ State.mgmtQ (by intro s a; simp) _ s, foldl_field _ State.mgmtBusy (by intro s a; simp) _ s,
    foldl_field _ State.retirePend (by intro s a; simp) _ s, foldl_field _ State.ctxs (by intro s a; simp) _ s,
    foldl_field _ State.sqs (by intro s a; simp) _ s, foldl_field _ State.cqs (by intro s a; simp) _ s,
    foldl_field _ State.fenceQ (by intro s a; simp) _ s, foldl_field _ State.fw (by intro s a; simp) _ s,
    foldl_field _ State.cmds (by intro s a; simp) _ s, foldl_field _ State.nextCmd (by intro s a; simp) _ s,
    foldl_field _ State.plans (by intro s a; simp) _ s, foldl_field _ State.tables (by intro s a; simp) _ s,
    foldl_field _ State.adopt (by intro s a; simp) _ s, foldl_field _ State.drains (by intro s a; simp) _ s,
    foldl_field _ State.staging (by intro s a; simp) _ s, foldl_field _ State.journal (by intro s a; simp) _ s,
    foldl_field _ State.vats (by intro s a; simp) _ s, foldl_field _ State.arrivals (by intro s a; simp) _ s,
    foldl_field _ State.stalledArr (by intro s a; simp) _ s, foldl_field _ State.declared (by intro s a; simp) _ s,
    foldl_field _ State.lostMap (by intro s a; simp) _ s, foldl_field _ State.lostPairs (by intro s a; simp) _ s,
    foldl_field _ State.lossAdopt (by intro s a; simp) _ s, foldl_field _ State.visible (by intro s a; simp) _ s,
    foldl_field _ State.peerReqs (by intro s a; simp) _ s, foldl_field _ State.nextTag (by intro s a; simp) _ s,
    foldl_field _ State.heldPeer (by intro s a; simp) _ s, foldl_field _ State.work (by intro s a; simp) _ s,
    foldl_field _ State.chans (by intro s a; simp) _ s, foldl_field _ State.links (by intro s a; simp) _ s,
    foldl_field _ State.mods (by intro s a; simp) _ s, foldl_field _ State.optics (by intro s a; simp) _ s,
    foldl_field _ State.power (by intro s a; simp) _ s, foldl_field _ State.trace (by intro s a; simp) _ s,
    foldl_field _ State.cdc (by intro s a; simp) _ s, foldl_field _ State.cntCtx (by intro s a; simp) _ s,
    foldl_field _ State.cntTbl (by intro s a; simp) _ s, foldl_field _ State.cntKs (by intro s a; simp) _ s,
    foldl_field _ State.errs (by intro s a; simp) _ s⟩

@[simp] theorem landWrite_frame (s : State) (x h n : Nat) (l : List Landing) :
    (s.landWrite x h n l).pending = s.pending ∧ (s.landWrite x h n l).out = s.out ∧
    (s.landWrite x h n l).msiWait = s.msiWait ∧ (s.landWrite x h n l).powered = s.powered ∧
    (s.landWrite x h n l).trip = s.trip ∧ (s.landWrite x h n l).boot = s.boot ∧ (s.landWrite x h n l).half = s.half ∧
    (s.landWrite x h n l).restartQ = s.restartQ ∧ (s.landWrite x h n l).kTick = s.kTick ∧
    (s.landWrite x h n l).slices = s.slices ∧ (s.landWrite x h n l).atsReqs = s.atsReqs ∧
    (s.landWrite x h n l).lineReqs = s.lineReqs ∧ (s.landWrite x h n l).lines = s.lines ∧
    (s.landWrite x h n l).memHeld = s.memHeld ∧ (s.landWrite x h n l).flushes = s.flushes ∧
    (s.landWrite x h n l).invals = s.invals ∧ (s.landWrite x h n l).biasReq = s.biasReq ∧
    (s.landWrite x h n l).biasWait = s.biasWait ∧ (s.landWrite x h n l).kpr = s.kpr ∧ (s.landWrite x h n l).mgmtQ = s.mgmtQ ∧
    (s.landWrite x h n l).mgmtBusy = s.mgmtBusy ∧ (s.landWrite x h n l).retirePend = s.retirePend ∧
    (s.landWrite x h n l).ctxs = s.ctxs ∧ (s.landWrite x h n l).sqs = s.sqs ∧ (s.landWrite x h n l).cqs = s.cqs ∧
    (s.landWrite x h n l).fenceQ = s.fenceQ ∧ (s.landWrite x h n l).fw = s.fw ∧ (s.landWrite x h n l).cmds = s.cmds ∧
    (s.landWrite x h n l).nextCmd = s.nextCmd ∧ (s.landWrite x h n l).plans = s.plans ∧
    (s.landWrite x h n l).tables = s.tables ∧ (s.landWrite x h n l).adopt = s.adopt ∧
    (s.landWrite x h n l).drains = s.drains ∧ (s.landWrite x h n l).staging = s.staging ∧
    (s.landWrite x h n l).journal = s.journal ∧ (s.landWrite x h n l).vats = s.vats ∧
    (s.landWrite x h n l).arrivals = s.arrivals ∧ (s.landWrite x h n l).stalledArr = s.stalledArr ∧
    (s.landWrite x h n l).declared = s.declared ∧ (s.landWrite x h n l).lostMap = s.lostMap ∧
    (s.landWrite x h n l).lostPairs = s.lostPairs ∧ (s.landWrite x h n l).lossAdopt = s.lossAdopt ∧
    (s.landWrite x h n l).visible = s.visible ∧ (s.landWrite x h n l).peerReqs = s.peerReqs ∧
    (s.landWrite x h n l).nextTag = s.nextTag ∧ (s.landWrite x h n l).heldPeer = s.heldPeer ∧
    (s.landWrite x h n l).work = s.work ∧ (s.landWrite x h n l).chans = s.chans ∧ (s.landWrite x h n l).links = s.links ∧
    (s.landWrite x h n l).mods = s.mods ∧ (s.landWrite x h n l).optics = s.optics ∧ (s.landWrite x h n l).power = s.power ∧
    (s.landWrite x h n l).trace = s.trace ∧ (s.landWrite x h n l).cdc = s.cdc ∧ (s.landWrite x h n l).cntCtx = s.cntCtx ∧
    (s.landWrite x h n l).cntTbl = s.cntTbl ∧ (s.landWrite x h n l).cntKs = s.cntKs ∧ (s.landWrite x h n l).errs = s.errs := by
  unfold State.landWrite
  exact ⟨foldl_field _ State.pending (by intro s a; simp) _ s, foldl_field _ State.out (by intro s a; simp) _ s,
    foldl_field _ State.msiWait (by intro s a; simp) _ s, foldl_field _ State.powered (by intro s a; simp) _ s,
    foldl_field _ State.trip (by intro s a; simp) _ s, foldl_field _ State.boot (by intro s a; simp) _ s,
    foldl_field _ State.half (by intro s a; simp) _ s, foldl_field _ State.restartQ (by intro s a; simp) _ s,
    foldl_field _ State.kTick (by intro s a; simp) _ s, foldl_field _ State.slices (by intro s a; simp) _ s,
    foldl_field _ State.atsReqs (by intro s a; simp) _ s, foldl_field _ State.lineReqs (by intro s a; simp) _ s,
    foldl_field _ State.lines (by intro s a; simp) _ s, foldl_field _ State.memHeld (by intro s a; simp) _ s,
    foldl_field _ State.flushes (by intro s a; simp) _ s, foldl_field _ State.invals (by intro s a; simp) _ s,
    foldl_field _ State.biasReq (by intro s a; simp) _ s, foldl_field _ State.biasWait (by intro s a; simp) _ s,
    foldl_field _ State.kpr (by intro s a; simp) _ s, foldl_field _ State.mgmtQ (by intro s a; simp) _ s,
    foldl_field _ State.mgmtBusy (by intro s a; simp) _ s, foldl_field _ State.retirePend (by intro s a; simp) _ s,
    foldl_field _ State.ctxs (by intro s a; simp) _ s, foldl_field _ State.sqs (by intro s a; simp) _ s,
    foldl_field _ State.cqs (by intro s a; simp) _ s, foldl_field _ State.fenceQ (by intro s a; simp) _ s,
    foldl_field _ State.fw (by intro s a; simp) _ s, foldl_field _ State.cmds (by intro s a; simp) _ s,
    foldl_field _ State.nextCmd (by intro s a; simp) _ s, foldl_field _ State.plans (by intro s a; simp) _ s,
    foldl_field _ State.tables (by intro s a; simp) _ s, foldl_field _ State.adopt (by intro s a; simp) _ s,
    foldl_field _ State.drains (by intro s a; simp) _ s, foldl_field _ State.staging (by intro s a; simp) _ s,
    foldl_field _ State.journal (by intro s a; simp) _ s, foldl_field _ State.vats (by intro s a; simp) _ s,
    foldl_field _ State.arrivals (by intro s a; simp) _ s, foldl_field _ State.stalledArr (by intro s a; simp) _ s,
    foldl_field _ State.declared (by intro s a; simp) _ s, foldl_field _ State.lostMap (by intro s a; simp) _ s,
    foldl_field _ State.lostPairs (by intro s a; simp) _ s, foldl_field _ State.lossAdopt (by intro s a; simp) _ s,
    foldl_field _ State.visible (by intro s a; simp) _ s, foldl_field _ State.peerReqs (by intro s a; simp) _ s,
    foldl_field _ State.nextTag (by intro s a; simp) _ s, foldl_field _ State.heldPeer (by intro s a; simp) _ s,
    foldl_field _ State.work (by intro s a; simp) _ s, foldl_field _ State.chans (by intro s a; simp) _ s,
    foldl_field _ State.links (by intro s a; simp) _ s, foldl_field _ State.mods (by intro s a; simp) _ s,
    foldl_field _ State.optics (by intro s a; simp) _ s, foldl_field _ State.power (by intro s a; simp) _ s,
    foldl_field _ State.trace (by intro s a; simp) _ s, foldl_field _ State.cdc (by intro s a; simp) _ s,
    foldl_field _ State.cntCtx (by intro s a; simp) _ s, foldl_field _ State.cntTbl (by intro s a; simp) _ s,
    foldl_field _ State.cntKs (by intro s a; simp) _ s, foldl_field _ State.errs (by intro s a; simp) _ s⟩

@[simp] theorem landAll_frame (s : State) (x h : Nat) (l : List (OutWr × List Landing)) :
    (s.landAll x h l).pending = s.pending ∧ (s.landAll x h l).out = s.out ∧ (s.landAll x h l).msiWait = s.msiWait ∧
    (s.landAll x h l).powered = s.powered ∧ (s.landAll x h l).trip = s.trip ∧ (s.landAll x h l).boot = s.boot ∧
    (s.landAll x h l).half = s.half ∧ (s.landAll x h l).restartQ = s.restartQ ∧ (s.landAll x h l).kTick = s.kTick ∧
    (s.landAll x h l).slices = s.slices ∧ (s.landAll x h l).atsReqs = s.atsReqs ∧ (s.landAll x h l).lineReqs = s.lineReqs ∧
    (s.landAll x h l).lines = s.lines ∧ (s.landAll x h l).memHeld = s.memHeld ∧ (s.landAll x h l).flushes = s.flushes ∧
    (s.landAll x h l).invals = s.invals ∧ (s.landAll x h l).biasReq = s.biasReq ∧ (s.landAll x h l).biasWait = s.biasWait ∧
    (s.landAll x h l).kpr = s.kpr ∧ (s.landAll x h l).mgmtQ = s.mgmtQ ∧ (s.landAll x h l).mgmtBusy = s.mgmtBusy ∧
    (s.landAll x h l).retirePend = s.retirePend ∧ (s.landAll x h l).ctxs = s.ctxs ∧ (s.landAll x h l).sqs = s.sqs ∧
    (s.landAll x h l).cqs = s.cqs ∧ (s.landAll x h l).fenceQ = s.fenceQ ∧ (s.landAll x h l).fw = s.fw ∧
    (s.landAll x h l).cmds = s.cmds ∧ (s.landAll x h l).nextCmd = s.nextCmd ∧ (s.landAll x h l).plans = s.plans ∧
    (s.landAll x h l).tables = s.tables ∧ (s.landAll x h l).adopt = s.adopt ∧ (s.landAll x h l).drains = s.drains ∧
    (s.landAll x h l).staging = s.staging ∧ (s.landAll x h l).journal = s.journal ∧ (s.landAll x h l).vats = s.vats ∧
    (s.landAll x h l).arrivals = s.arrivals ∧ (s.landAll x h l).stalledArr = s.stalledArr ∧
    (s.landAll x h l).declared = s.declared ∧ (s.landAll x h l).lostMap = s.lostMap ∧
    (s.landAll x h l).lostPairs = s.lostPairs ∧ (s.landAll x h l).lossAdopt = s.lossAdopt ∧
    (s.landAll x h l).visible = s.visible ∧ (s.landAll x h l).peerReqs = s.peerReqs ∧ (s.landAll x h l).nextTag = s.nextTag ∧
    (s.landAll x h l).heldPeer = s.heldPeer ∧ (s.landAll x h l).work = s.work ∧ (s.landAll x h l).chans = s.chans ∧
    (s.landAll x h l).links = s.links ∧ (s.landAll x h l).mods = s.mods ∧ (s.landAll x h l).optics = s.optics ∧
    (s.landAll x h l).power = s.power ∧ (s.landAll x h l).trace = s.trace ∧ (s.landAll x h l).cdc = s.cdc ∧
    (s.landAll x h l).cntCtx = s.cntCtx ∧ (s.landAll x h l).cntTbl = s.cntTbl ∧ (s.landAll x h l).cntKs = s.cntKs ∧
    (s.landAll x h l).errs = s.errs := by
  unfold State.landAll
  exact ⟨foldl_field _ State.pending (by intro s a; simp) _ s, foldl_field _ State.out (by intro s a; simp) _ s,
    foldl_field _ State.msiWait (by intro s a; simp) _ s, foldl_field _ State.powered (by intro s a; simp) _ s,
    foldl_field _ State.trip (by intro s a; simp) _ s, foldl_field _ State.boot (by intro s a; simp) _ s,
    foldl_field _ State.half (by intro s a; simp) _ s, foldl_field _ State.restartQ (by intro s a; simp) _ s,
    foldl_field _ State.kTick (by intro s a; simp) _ s, foldl_field _ State.slices (by intro s a; simp) _ s,
    foldl_field _ State.atsReqs (by intro s a; simp) _ s, foldl_field _ State.lineReqs (by intro s a; simp) _ s,
    foldl_field _ State.lines (by intro s a; simp) _ s, foldl_field _ State.memHeld (by intro s a; simp) _ s,
    foldl_field _ State.flushes (by intro s a; simp) _ s, foldl_field _ State.invals (by intro s a; simp) _ s,
    foldl_field _ State.biasReq (by intro s a; simp) _ s, foldl_field _ State.biasWait (by intro s a; simp) _ s,
    foldl_field _ State.kpr (by intro s a; simp) _ s, foldl_field _ State.mgmtQ (by intro s a; simp) _ s,
    foldl_field _ State.mgmtBusy (by intro s a; simp) _ s, foldl_field _ State.retirePend (by intro s a; simp) _ s,
    foldl_field _ State.ctxs (by intro s a; simp) _ s, foldl_field _ State.sqs (by intro s a; simp) _ s,
    foldl_field _ State.cqs (by intro s a; simp) _ s, foldl_field _ State.fenceQ (by intro s a; simp) _ s,
    foldl_field _ State.fw (by intro s a; simp) _ s, foldl_field _ State.cmds (by intro s a; simp) _ s,
    foldl_field _ State.nextCmd (by intro s a; simp) _ s, foldl_field _ State.plans (by intro s a; simp) _ s,
    foldl_field _ State.tables (by intro s a; simp) _ s, foldl_field _ State.adopt (by intro s a; simp) _ s,
    foldl_field _ State.drains (by intro s a; simp) _ s, foldl_field _ State.staging (by intro s a; simp) _ s,
    foldl_field _ State.journal (by intro s a; simp) _ s, foldl_field _ State.vats (by intro s a; simp) _ s,
    foldl_field _ State.arrivals (by intro s a; simp) _ s, foldl_field _ State.stalledArr (by intro s a; simp) _ s,
    foldl_field _ State.declared (by intro s a; simp) _ s, foldl_field _ State.lostMap (by intro s a; simp) _ s,
    foldl_field _ State.lostPairs (by intro s a; simp) _ s, foldl_field _ State.lossAdopt (by intro s a; simp) _ s,
    foldl_field _ State.visible (by intro s a; simp) _ s, foldl_field _ State.peerReqs (by intro s a; simp) _ s,
    foldl_field _ State.nextTag (by intro s a; simp) _ s, foldl_field _ State.heldPeer (by intro s a; simp) _ s,
    foldl_field _ State.work (by intro s a; simp) _ s, foldl_field _ State.chans (by intro s a; simp) _ s,
    foldl_field _ State.links (by intro s a; simp) _ s, foldl_field _ State.mods (by intro s a; simp) _ s,
    foldl_field _ State.optics (by intro s a; simp) _ s, foldl_field _ State.power (by intro s a; simp) _ s,
    foldl_field _ State.trace (by intro s a; simp) _ s, foldl_field _ State.cdc (by intro s a; simp) _ s,
    foldl_field _ State.cntCtx (by intro s a; simp) _ s, foldl_field _ State.cntTbl (by intro s a; simp) _ s,
    foldl_field _ State.cntKs (by intro s a; simp) _ s, foldl_field _ State.errs (by intro s a; simp) _ s⟩

@[simp] theorem wheyAdd_frame (s : State) (l : List (Option Nat)) :
    (s.wheyAdd l).pending = s.pending ∧ (s.wheyAdd l).out = s.out ∧ (s.wheyAdd l).msiWait = s.msiWait ∧
    (s.wheyAdd l).freeCtr = s.freeCtr ∧ (s.wheyAdd l).powered = s.powered ∧ (s.wheyAdd l).trip = s.trip ∧
    (s.wheyAdd l).boot = s.boot ∧ (s.wheyAdd l).half = s.half ∧ (s.wheyAdd l).restartQ = s.restartQ ∧
    (s.wheyAdd l).kTick = s.kTick ∧ (s.wheyAdd l).slices = s.slices ∧ (s.wheyAdd l).atsReqs = s.atsReqs ∧
    (s.wheyAdd l).lineReqs = s.lineReqs ∧ (s.wheyAdd l).lines = s.lines ∧ (s.wheyAdd l).hostWr = s.hostWr ∧
    (s.wheyAdd l).memHeld = s.memHeld ∧ (s.wheyAdd l).flushes = s.flushes ∧ (s.wheyAdd l).invals = s.invals ∧
    (s.wheyAdd l).biasReq = s.biasReq ∧ (s.wheyAdd l).biasWait = s.biasWait ∧ (s.wheyAdd l).kpr = s.kpr ∧
    (s.wheyAdd l).mgmtQ = s.mgmtQ ∧ (s.wheyAdd l).mgmtBusy = s.mgmtBusy ∧ (s.wheyAdd l).retirePend = s.retirePend ∧
    (s.wheyAdd l).ctxs = s.ctxs ∧ (s.wheyAdd l).sqs = s.sqs ∧ (s.wheyAdd l).cqs = s.cqs ∧ (s.wheyAdd l).fenceQ = s.fenceQ ∧
    (s.wheyAdd l).fw = s.fw ∧ (s.wheyAdd l).cmds = s.cmds ∧ (s.wheyAdd l).nextCmd = s.nextCmd ∧
    (s.wheyAdd l).plans = s.plans ∧ (s.wheyAdd l).tables = s.tables ∧ (s.wheyAdd l).adopt = s.adopt ∧
    (s.wheyAdd l).drains = s.drains ∧ (s.wheyAdd l).staging = s.staging ∧ (s.wheyAdd l).journal = s.journal ∧
    (s.wheyAdd l).vats = s.vats ∧ (s.wheyAdd l).arrivals = s.arrivals ∧ (s.wheyAdd l).stalledArr = s.stalledArr ∧
    (s.wheyAdd l).declared = s.declared ∧ (s.wheyAdd l).lostMap = s.lostMap ∧ (s.wheyAdd l).lostPairs = s.lostPairs ∧
    (s.wheyAdd l).lossAdopt = s.lossAdopt ∧ (s.wheyAdd l).visible = s.visible ∧ (s.wheyAdd l).peerReqs = s.peerReqs ∧
    (s.wheyAdd l).nextTag = s.nextTag ∧ (s.wheyAdd l).heldPeer = s.heldPeer ∧ (s.wheyAdd l).work = s.work ∧
    (s.wheyAdd l).chans = s.chans ∧ (s.wheyAdd l).links = s.links ∧ (s.wheyAdd l).mods = s.mods ∧
    (s.wheyAdd l).optics = s.optics ∧ (s.wheyAdd l).power = s.power ∧ (s.wheyAdd l).trace = s.trace ∧
    (s.wheyAdd l).cdc = s.cdc ∧ (s.wheyAdd l).cntCtx = s.cntCtx ∧ (s.wheyAdd l).cntTbl = s.cntTbl ∧
    (s.wheyAdd l).cntKs = s.cntKs ∧ (s.wheyAdd l).errs = s.errs := by
  unfold State.wheyAdd
  exact ⟨foldl_field _ State.pending (by intro s a; cases a <;> simp) _ s,
    foldl_field _ State.out (by intro s a; cases a <;> simp) _ s,
    foldl_field _ State.msiWait (by intro s a; cases a <;> simp) _ s,
    foldl_field _ State.freeCtr (by intro s a; cases a <;> simp) _ s,
    foldl_field _ State.powered (by intro s a; cases a <;> simp) _ s,
    foldl_field _ State.trip (by intro s a; cases a <;> simp) _ s,
    foldl_field _ State.boot (by intro s a; cases a <;> simp) _ s,
    foldl_field _ State.half (by intro s a; cases a <;> simp) _ s,
    foldl_field _ State.restartQ (by intro s a; cases a <;> simp) _ s,
    foldl_field _ State.kTick (by intro s a; cases a <;> simp) _ s,
    foldl_field _ State.slices (by intro s a; cases a <;> simp) _ s,
    foldl_field _ State.atsReqs (by intro s a; cases a <;> simp) _ s,
    foldl_field _ State.lineReqs (by intro s a; cases a <;> simp) _ s,
    foldl_field _ State.lines (by intro s a; cases a <;> simp) _ s,
    foldl_field _ State.hostWr (by intro s a; cases a <;> simp) _ s,
    foldl_field _ State.memHeld (by intro s a; cases a <;> simp) _ s,
    foldl_field _ State.flushes (by intro s a; cases a <;> simp) _ s,
    foldl_field _ State.invals (by intro s a; cases a <;> simp) _ s,
    foldl_field _ State.biasReq (by intro s a; cases a <;> simp) _ s,
    foldl_field _ State.biasWait (by intro s a; cases a <;> simp) _ s,
    foldl_field _ State.kpr (by intro s a; cases a <;> simp) _ s,
    foldl_field _ State.mgmtQ (by intro s a; cases a <;> simp) _ s,
    foldl_field _ State.mgmtBusy (by intro s a; cases a <;> simp) _ s,
    foldl_field _ State.retirePend (by intro s a; cases a <;> simp) _ s,
    foldl_field _ State.ctxs (by intro s a; cases a <;> simp) _ s,
    foldl_field _ State.sqs (by intro s a; cases a <;> simp) _ s,
    foldl_field _ State.cqs (by intro s a; cases a <;> simp) _ s,
    foldl_field _ State.fenceQ (by intro s a; cases a <;> simp) _ s,
    foldl_field _ State.fw (by intro s a; cases a <;> simp) _ s,
    foldl_field _ State.cmds (by intro s a; cases a <;> simp) _ s,
    foldl_field _ State.nextCmd (by intro s a; cases a <;> simp) _ s,
    foldl_field _ State.plans (by intro s a; cases a <;> simp) _ s,
    foldl_field _ State.tables (by intro s a; cases a <;> simp) _ s,
    foldl_field _ State.adopt (by intro s a; cases a <;> simp) _ s,
    foldl_field _ State.drains (by intro s a; cases a <;> simp) _ s,
    foldl_field _ State.staging (by intro s a; cases a <;> simp) _ s,
    foldl_field _ State.journal (by intro s a; cases a <;> simp) _ s,
    foldl_field _ State.vats (by intro s a; cases a <;> simp) _ s,
    foldl_field _ State.arrivals (by intro s a; cases a <;> simp) _ s,
    foldl_field _ State.stalledArr (by intro s a; cases a <;> simp) _ s,
    foldl_field _ State.declared (by intro s a; cases a <;> simp) _ s,
    foldl_field _ State.lostMap (by intro s a; cases a <;> simp) _ s,
    foldl_field _ State.lostPairs (by intro s a; cases a <;> simp) _ s,
    foldl_field _ State.lossAdopt (by intro s a; cases a <;> simp) _ s,
    foldl_field _ State.visible (by intro s a; cases a <;> simp) _ s,
    foldl_field _ State.peerReqs (by intro s a; cases a <;> simp) _ s,
    foldl_field _ State.nextTag (by intro s a; cases a <;> simp) _ s,
    foldl_field _ State.heldPeer (by intro s a; cases a <;> simp) _ s,
    foldl_field _ State.work (by intro s a; cases a <;> simp) _ s,
    foldl_field _ State.chans (by intro s a; cases a <;> simp) _ s,
    foldl_field _ State.links (by intro s a; cases a <;> simp) _ s,
    foldl_field _ State.mods (by intro s a; cases a <;> simp) _ s,
    foldl_field _ State.optics (by intro s a; cases a <;> simp) _ s,
    foldl_field _ State.power (by intro s a; cases a <;> simp) _ s,
    foldl_field _ State.trace (by intro s a; cases a <;> simp) _ s,
    foldl_field _ State.cdc (by intro s a; cases a <;> simp) _ s,
    foldl_field _ State.cntCtx (by intro s a; cases a <;> simp) _ s,
    foldl_field _ State.cntTbl (by intro s a; cases a <;> simp) _ s,
    foldl_field _ State.cntKs (by intro s a; cases a <;> simp) _ s,
    foldl_field _ State.errs (by intro s a; cases a <;> simp) _ s⟩

@[simp] theorem writeCopies_frame (s : State) (t : Table) (l : List Loc) (b : List PB) :
    (s.writeCopies t l b).pending = s.pending ∧ (s.writeCopies t l b).out = s.out ∧
    (s.writeCopies t l b).msiWait = s.msiWait ∧ (s.writeCopies t l b).freeCtr = s.freeCtr ∧
    (s.writeCopies t l b).powered = s.powered ∧ (s.writeCopies t l b).trip = s.trip ∧ (s.writeCopies t l b).boot = s.boot ∧
    (s.writeCopies t l b).half = s.half ∧ (s.writeCopies t l b).restartQ = s.restartQ ∧
    (s.writeCopies t l b).kTick = s.kTick ∧ (s.writeCopies t l b).slices = s.slices ∧
    (s.writeCopies t l b).atsReqs = s.atsReqs ∧ (s.writeCopies t l b).lineReqs = s.lineReqs ∧
    (s.writeCopies t l b).lines = s.lines ∧ (s.writeCopies t l b).hostWr = s.hostWr ∧
    (s.writeCopies t l b).memHeld = s.memHeld ∧ (s.writeCopies t l b).flushes = s.flushes ∧
    (s.writeCopies t l b).invals = s.invals ∧ (s.writeCopies t l b).biasReq = s.biasReq ∧
    (s.writeCopies t l b).biasWait = s.biasWait ∧ (s.writeCopies t l b).kpr = s.kpr ∧ (s.writeCopies t l b).mgmtQ = s.mgmtQ ∧
    (s.writeCopies t l b).mgmtBusy = s.mgmtBusy ∧ (s.writeCopies t l b).retirePend = s.retirePend ∧
    (s.writeCopies t l b).ctxs = s.ctxs ∧ (s.writeCopies t l b).sqs = s.sqs ∧ (s.writeCopies t l b).cqs = s.cqs ∧
    (s.writeCopies t l b).fenceQ = s.fenceQ ∧ (s.writeCopies t l b).fw = s.fw ∧ (s.writeCopies t l b).cmds = s.cmds ∧
    (s.writeCopies t l b).nextCmd = s.nextCmd ∧ (s.writeCopies t l b).plans = s.plans ∧
    (s.writeCopies t l b).tables = s.tables ∧ (s.writeCopies t l b).adopt = s.adopt ∧
    (s.writeCopies t l b).drains = s.drains ∧ (s.writeCopies t l b).staging = s.staging ∧
    (s.writeCopies t l b).journal = s.journal ∧ (s.writeCopies t l b).vats = s.vats ∧
    (s.writeCopies t l b).arrivals = s.arrivals ∧ (s.writeCopies t l b).stalledArr = s.stalledArr ∧
    (s.writeCopies t l b).declared = s.declared ∧ (s.writeCopies t l b).lostMap = s.lostMap ∧
    (s.writeCopies t l b).lostPairs = s.lostPairs ∧ (s.writeCopies t l b).lossAdopt = s.lossAdopt ∧
    (s.writeCopies t l b).visible = s.visible ∧ (s.writeCopies t l b).peerReqs = s.peerReqs ∧
    (s.writeCopies t l b).nextTag = s.nextTag ∧ (s.writeCopies t l b).heldPeer = s.heldPeer ∧
    (s.writeCopies t l b).work = s.work ∧ (s.writeCopies t l b).chans = s.chans ∧ (s.writeCopies t l b).links = s.links ∧
    (s.writeCopies t l b).mods = s.mods ∧ (s.writeCopies t l b).optics = s.optics ∧ (s.writeCopies t l b).power = s.power ∧
    (s.writeCopies t l b).trace = s.trace ∧ (s.writeCopies t l b).cdc = s.cdc ∧ (s.writeCopies t l b).cntCtx = s.cntCtx ∧
    (s.writeCopies t l b).cntTbl = s.cntTbl ∧ (s.writeCopies t l b).cntKs = s.cntKs ∧ (s.writeCopies t l b).errs = s.errs := by
  unfold State.writeCopies
  exact ⟨foldl_field _ State.pending (by intro s a; simp) _ s, foldl_field _ State.out (by intro s a; simp) _ s,
    foldl_field _ State.msiWait (by intro s a; simp) _ s, foldl_field _ State.freeCtr (by intro s a; simp) _ s,
    foldl_field _ State.powered (by intro s a; simp) _ s, foldl_field _ State.trip (by intro s a; simp) _ s,
    foldl_field _ State.boot (by intro s a; simp) _ s, foldl_field _ State.half (by intro s a; simp) _ s,
    foldl_field _ State.restartQ (by intro s a; simp) _ s, foldl_field _ State.kTick (by intro s a; simp) _ s,
    foldl_field _ State.slices (by intro s a; simp) _ s, foldl_field _ State.atsReqs (by intro s a; simp) _ s,
    foldl_field _ State.lineReqs (by intro s a; simp) _ s, foldl_field _ State.lines (by intro s a; simp) _ s,
    foldl_field _ State.hostWr (by intro s a; simp) _ s, foldl_field _ State.memHeld (by intro s a; simp) _ s,
    foldl_field _ State.flushes (by intro s a; simp) _ s, foldl_field _ State.invals (by intro s a; simp) _ s,
    foldl_field _ State.biasReq (by intro s a; simp) _ s, foldl_field _ State.biasWait (by intro s a; simp) _ s,
    foldl_field _ State.kpr (by intro s a; simp) _ s, foldl_field _ State.mgmtQ (by intro s a; simp) _ s,
    foldl_field _ State.mgmtBusy (by intro s a; simp) _ s, foldl_field _ State.retirePend (by intro s a; simp) _ s,
    foldl_field _ State.ctxs (by intro s a; simp) _ s, foldl_field _ State.sqs (by intro s a; simp) _ s,
    foldl_field _ State.cqs (by intro s a; simp) _ s, foldl_field _ State.fenceQ (by intro s a; simp) _ s,
    foldl_field _ State.fw (by intro s a; simp) _ s, foldl_field _ State.cmds (by intro s a; simp) _ s,
    foldl_field _ State.nextCmd (by intro s a; simp) _ s, foldl_field _ State.plans (by intro s a; simp) _ s,
    foldl_field _ State.tables (by intro s a; simp) _ s, foldl_field _ State.adopt (by intro s a; simp) _ s,
    foldl_field _ State.drains (by intro s a; simp) _ s, foldl_field _ State.staging (by intro s a; simp) _ s,
    foldl_field _ State.journal (by intro s a; simp) _ s, foldl_field _ State.vats (by intro s a; simp) _ s,
    foldl_field _ State.arrivals (by intro s a; simp) _ s, foldl_field _ State.stalledArr (by intro s a; simp) _ s,
    foldl_field _ State.declared (by intro s a; simp) _ s, foldl_field _ State.lostMap (by intro s a; simp) _ s,
    foldl_field _ State.lostPairs (by intro s a; simp) _ s, foldl_field _ State.lossAdopt (by intro s a; simp) _ s,
    foldl_field _ State.visible (by intro s a; simp) _ s, foldl_field _ State.peerReqs (by intro s a; simp) _ s,
    foldl_field _ State.nextTag (by intro s a; simp) _ s, foldl_field _ State.heldPeer (by intro s a; simp) _ s,
    foldl_field _ State.work (by intro s a; simp) _ s, foldl_field _ State.chans (by intro s a; simp) _ s,
    foldl_field _ State.links (by intro s a; simp) _ s, foldl_field _ State.mods (by intro s a; simp) _ s,
    foldl_field _ State.optics (by intro s a; simp) _ s, foldl_field _ State.power (by intro s a; simp) _ s,
    foldl_field _ State.trace (by intro s a; simp) _ s, foldl_field _ State.cdc (by intro s a; simp) _ s,
    foldl_field _ State.cntCtx (by intro s a; simp) _ s, foldl_field _ State.cntTbl (by intro s a; simp) _ s,
    foldl_field _ State.cntKs (by intro s a; simp) _ s, foldl_field _ State.errs (by intro s a; simp) _ s⟩

@[simp] theorem writeAlternate_frame (s : State) (t : Table) (y : Layer) (l : List Loc) (b : List PB) (k : Nat) :
    (s.writeAlternate t y l b k).pending = s.pending ∧ (s.writeAlternate t y l b k).out = s.out ∧
    (s.writeAlternate t y l b k).msiWait = s.msiWait ∧ (s.writeAlternate t y l b k).freeCtr = s.freeCtr ∧
    (s.writeAlternate t y l b k).powered = s.powered ∧ (s.writeAlternate t y l b k).trip = s.trip ∧
    (s.writeAlternate t y l b k).boot = s.boot ∧ (s.writeAlternate t y l b k).half = s.half ∧
    (s.writeAlternate t y l b k).restartQ = s.restartQ ∧ (s.writeAlternate t y l b k).kTick = s.kTick ∧
    (s.writeAlternate t y l b k).slices = s.slices ∧ (s.writeAlternate t y l b k).atsReqs = s.atsReqs ∧
    (s.writeAlternate t y l b k).lineReqs = s.lineReqs ∧ (s.writeAlternate t y l b k).lines = s.lines ∧
    (s.writeAlternate t y l b k).hostWr = s.hostWr ∧ (s.writeAlternate t y l b k).memHeld = s.memHeld ∧
    (s.writeAlternate t y l b k).flushes = s.flushes ∧ (s.writeAlternate t y l b k).invals = s.invals ∧
    (s.writeAlternate t y l b k).biasReq = s.biasReq ∧ (s.writeAlternate t y l b k).biasWait = s.biasWait ∧
    (s.writeAlternate t y l b k).kpr = s.kpr ∧ (s.writeAlternate t y l b k).mgmtQ = s.mgmtQ ∧
    (s.writeAlternate t y l b k).mgmtBusy = s.mgmtBusy ∧ (s.writeAlternate t y l b k).retirePend = s.retirePend ∧
    (s.writeAlternate t y l b k).ctxs = s.ctxs ∧ (s.writeAlternate t y l b k).sqs = s.sqs ∧
    (s.writeAlternate t y l b k).cqs = s.cqs ∧ (s.writeAlternate t y l b k).fenceQ = s.fenceQ ∧
    (s.writeAlternate t y l b k).fw = s.fw ∧ (s.writeAlternate t y l b k).cmds = s.cmds ∧
    (s.writeAlternate t y l b k).nextCmd = s.nextCmd ∧ (s.writeAlternate t y l b k).plans = s.plans ∧
    (s.writeAlternate t y l b k).tables = s.tables ∧ (s.writeAlternate t y l b k).adopt = s.adopt ∧
    (s.writeAlternate t y l b k).drains = s.drains ∧ (s.writeAlternate t y l b k).staging = s.staging ∧
    (s.writeAlternate t y l b k).vats = s.vats ∧ (s.writeAlternate t y l b k).arrivals = s.arrivals ∧
    (s.writeAlternate t y l b k).stalledArr = s.stalledArr ∧ (s.writeAlternate t y l b k).declared = s.declared ∧
    (s.writeAlternate t y l b k).lostMap = s.lostMap ∧ (s.writeAlternate t y l b k).lostPairs = s.lostPairs ∧
    (s.writeAlternate t y l b k).lossAdopt = s.lossAdopt ∧ (s.writeAlternate t y l b k).visible = s.visible ∧
    (s.writeAlternate t y l b k).peerReqs = s.peerReqs ∧ (s.writeAlternate t y l b k).nextTag = s.nextTag ∧
    (s.writeAlternate t y l b k).heldPeer = s.heldPeer ∧ (s.writeAlternate t y l b k).work = s.work ∧
    (s.writeAlternate t y l b k).chans = s.chans ∧ (s.writeAlternate t y l b k).links = s.links ∧
    (s.writeAlternate t y l b k).mods = s.mods ∧ (s.writeAlternate t y l b k).optics = s.optics ∧
    (s.writeAlternate t y l b k).power = s.power ∧ (s.writeAlternate t y l b k).trace = s.trace ∧
    (s.writeAlternate t y l b k).cdc = s.cdc ∧ (s.writeAlternate t y l b k).cntCtx = s.cntCtx ∧
    (s.writeAlternate t y l b k).cntTbl = s.cntTbl ∧ (s.writeAlternate t y l b k).cntKs = s.cntKs ∧
    (s.writeAlternate t y l b k).errs = s.errs := by
  unfold State.writeAlternate
  exact ⟨foldl_field _ State.pending (by intro s a; simp) _ s, foldl_field _ State.out (by intro s a; simp) _ s,
    foldl_field _ State.msiWait (by intro s a; simp) _ s, foldl_field _ State.freeCtr (by intro s a; simp) _ s,
    foldl_field _ State.powered (by intro s a; simp) _ s, foldl_field _ State.trip (by intro s a; simp) _ s,
    foldl_field _ State.boot (by intro s a; simp) _ s, foldl_field _ State.half (by intro s a; simp) _ s,
    foldl_field _ State.restartQ (by intro s a; simp) _ s, foldl_field _ State.kTick (by intro s a; simp) _ s,
    foldl_field _ State.slices (by intro s a; simp) _ s, foldl_field _ State.atsReqs (by intro s a; simp) _ s,
    foldl_field _ State.lineReqs (by intro s a; simp) _ s, foldl_field _ State.lines (by intro s a; simp) _ s,
    foldl_field _ State.hostWr (by intro s a; simp) _ s, foldl_field _ State.memHeld (by intro s a; simp) _ s,
    foldl_field _ State.flushes (by intro s a; simp) _ s, foldl_field _ State.invals (by intro s a; simp) _ s,
    foldl_field _ State.biasReq (by intro s a; simp) _ s, foldl_field _ State.biasWait (by intro s a; simp) _ s,
    foldl_field _ State.kpr (by intro s a; simp) _ s, foldl_field _ State.mgmtQ (by intro s a; simp) _ s,
    foldl_field _ State.mgmtBusy (by intro s a; simp) _ s, foldl_field _ State.retirePend (by intro s a; simp) _ s,
    foldl_field _ State.ctxs (by intro s a; simp) _ s, foldl_field _ State.sqs (by intro s a; simp) _ s,
    foldl_field _ State.cqs (by intro s a; simp) _ s, foldl_field _ State.fenceQ (by intro s a; simp) _ s,
    foldl_field _ State.fw (by intro s a; simp) _ s, foldl_field _ State.cmds (by intro s a; simp) _ s,
    foldl_field _ State.nextCmd (by intro s a; simp) _ s, foldl_field _ State.plans (by intro s a; simp) _ s,
    foldl_field _ State.tables (by intro s a; simp) _ s, foldl_field _ State.adopt (by intro s a; simp) _ s,
    foldl_field _ State.drains (by intro s a; simp) _ s, foldl_field _ State.staging (by intro s a; simp) _ s,
    foldl_field _ State.vats (by intro s a; simp) _ s, foldl_field _ State.arrivals (by intro s a; simp) _ s,
    foldl_field _ State.stalledArr (by intro s a; simp) _ s, foldl_field _ State.declared (by intro s a; simp) _ s,
    foldl_field _ State.lostMap (by intro s a; simp) _ s, foldl_field _ State.lostPairs (by intro s a; simp) _ s,
    foldl_field _ State.lossAdopt (by intro s a; simp) _ s, foldl_field _ State.visible (by intro s a; simp) _ s,
    foldl_field _ State.peerReqs (by intro s a; simp) _ s, foldl_field _ State.nextTag (by intro s a; simp) _ s,
    foldl_field _ State.heldPeer (by intro s a; simp) _ s, foldl_field _ State.work (by intro s a; simp) _ s,
    foldl_field _ State.chans (by intro s a; simp) _ s, foldl_field _ State.links (by intro s a; simp) _ s,
    foldl_field _ State.mods (by intro s a; simp) _ s, foldl_field _ State.optics (by intro s a; simp) _ s,
    foldl_field _ State.power (by intro s a; simp) _ s, foldl_field _ State.trace (by intro s a; simp) _ s,
    foldl_field _ State.cdc (by intro s a; simp) _ s, foldl_field _ State.cntCtx (by intro s a; simp) _ s,
    foldl_field _ State.cntTbl (by intro s a; simp) _ s, foldl_field _ State.cntKs (by intro s a; simp) _ s,
    foldl_field _ State.errs (by intro s a; simp) _ s⟩

/-- A handover writes memory, counts uncorrectable sectors and sends messages to peers, nothing else. -/
theorem handover_keeps (P : State → Prop) (h1 : ∀ s a b, P s → P (s.devWrite a b)) (h2 : ∀ s e m, P s → P (s.toPeer e m))
    (h3 : ∀ s a n, P s → P (s.countBad a n)) (s : State) (n : Nat) (t : Table) (l : List Ovr) (h : P s) : P (s.handover n t l) := by
  unfold State.handover
  refine foldl_keeps _ P (fun u m hu => ?_) l s h
  have hc : ∀ (v : State) (l : List Loc) (b : List PB), P v → P (v.writeCopies t l b) := by
    intro v l b hv
    unfold State.writeCopies
    exact foldl_keeps _ P (fun s a hs => h1 s _ _ hs) _ v hv
  dsimp only
  repeat' split
  all_goals
    first
    | exact h1 _ _ _ (h3 _ _ _ (h1 _ _ _ (h3 _ _ _ hu)))
    | exact h1 _ _ _ (h3 _ _ _ hu)
    | exact foldl_keeps _ P (fun s a hs => h2 s _ _ hs) _ _ (hc _ _ _ (h1 _ _ _ (h3 _ _ _ (h1 _ _ _ (h3 _ _ _ hu)))))
    | exact foldl_keeps _ P (fun s a hs => h2 s _ _ hs) _ _ (hc _ _ _ (h1 _ _ _ (h3 _ _ _ hu)))

@[simp] theorem handover_frame (s : State) (n : Nat) (t : Table) (l : List Ovr) :
    (s.handover n t l).pending = s.pending ∧ (s.handover n t l).msiWait = s.msiWait ∧
    (s.handover n t l).freeCtr = s.freeCtr ∧ (s.handover n t l).powered = s.powered ∧ (s.handover n t l).trip = s.trip ∧
    (s.handover n t l).boot = s.boot ∧ (s.handover n t l).half = s.half ∧ (s.handover n t l).restartQ = s.restartQ ∧
    (s.handover n t l).kTick = s.kTick ∧ (s.handover n t l).atsReqs = s.atsReqs ∧ (s.handover n t l).lineReqs = s.lineReqs ∧
    (s.handover n t l).lines = s.lines ∧ (s.handover n t l).hostWr = s.hostWr ∧ (s.handover n t l).memHeld = s.memHeld ∧
    (s.handover n t l).flushes = s.flushes ∧ (s.handover n t l).invals = s.invals ∧ (s.handover n t l).biasReq = s.biasReq ∧
    (s.handover n t l).biasWait = s.biasWait ∧ (s.handover n t l).kpr = s.kpr ∧ (s.handover n t l).mgmtQ = s.mgmtQ ∧
    (s.handover n t l).mgmtBusy = s.mgmtBusy ∧ (s.handover n t l).retirePend = s.retirePend ∧
    (s.handover n t l).ctxs = s.ctxs ∧ (s.handover n t l).sqs = s.sqs ∧ (s.handover n t l).cqs = s.cqs ∧
    (s.handover n t l).fenceQ = s.fenceQ ∧ (s.handover n t l).fw = s.fw ∧ (s.handover n t l).cmds = s.cmds ∧
    (s.handover n t l).nextCmd = s.nextCmd ∧ (s.handover n t l).plans = s.plans ∧ (s.handover n t l).tables = s.tables ∧
    (s.handover n t l).adopt = s.adopt ∧ (s.handover n t l).drains = s.drains ∧ (s.handover n t l).staging = s.staging ∧
    (s.handover n t l).journal = s.journal ∧ (s.handover n t l).vats = s.vats ∧ (s.handover n t l).arrivals = s.arrivals ∧
    (s.handover n t l).stalledArr = s.stalledArr ∧ (s.handover n t l).declared = s.declared ∧
    (s.handover n t l).lostMap = s.lostMap ∧ (s.handover n t l).lostPairs = s.lostPairs ∧
    (s.handover n t l).lossAdopt = s.lossAdopt ∧ (s.handover n t l).visible = s.visible ∧
    (s.handover n t l).peerReqs = s.peerReqs ∧ (s.handover n t l).nextTag = s.nextTag ∧
    (s.handover n t l).heldPeer = s.heldPeer ∧ (s.handover n t l).work = s.work ∧ (s.handover n t l).chans = s.chans ∧
    (s.handover n t l).links = s.links ∧ (s.handover n t l).mods = s.mods ∧ (s.handover n t l).power = s.power ∧
    (s.handover n t l).trace = s.trace ∧ (s.handover n t l).cdc = s.cdc ∧ (s.handover n t l).cntCtx = s.cntCtx ∧
    (s.handover n t l).cntTbl = s.cntTbl ∧ (s.handover n t l).cntKs = s.cntKs ∧ (s.handover n t l).errs = s.errs := by
  have h := fun (P : State → Prop) h1 h2 h3 h0 => handover_keeps P h1 h2 h3 s n t l h0
  exact ⟨h (fun u => u.pending = s.pending) (fun _ _ _ h => h) (fun _ _ _ h => by simpa using h) (fun _ _ _ h => by simpa using h) rfl,
    h (fun u => u.msiWait = s.msiWait) (fun _ _ _ h => h) (fun _ _ _ h => by simpa using h) (fun _ _ _ h => by simpa using h) rfl,
    h (fun u => u.freeCtr = s.freeCtr) (fun _ _ _ h => h) (fun _ _ _ h => by simpa using h) (fun _ _ _ h => by simpa using h) rfl,
    h (fun u => u.powered = s.powered) (fun _ _ _ h => h) (fun _ _ _ h => by simpa using h) (fun _ _ _ h => by simpa using h) rfl,
    h (fun u => u.trip = s.trip) (fun _ _ _ h => h) (fun _ _ _ h => by simpa using h) (fun _ _ _ h => by simpa using h) rfl,
    h (fun u => u.boot = s.boot) (fun _ _ _ h => h) (fun _ _ _ h => by simpa using h) (fun _ _ _ h => by simpa using h) rfl,
    h (fun u => u.half = s.half) (fun _ _ _ h => h) (fun _ _ _ h => by simpa using h) (fun _ _ _ h => by simpa using h) rfl,
    h (fun u => u.restartQ = s.restartQ) (fun _ _ _ h => h) (fun _ _ _ h => by simpa using h) (fun _ _ _ h => by simpa using h) rfl,
    h (fun u => u.kTick = s.kTick) (fun _ _ _ h => h) (fun _ _ _ h => by simpa using h) (fun _ _ _ h => by simpa using h) rfl,
    h (fun u => u.atsReqs = s.atsReqs) (fun _ _ _ h => h) (fun _ _ _ h => by simpa using h) (fun _ _ _ h => by simpa using h) rfl,
    h (fun u => u.lineReqs = s.lineReqs) (fun _ _ _ h => h) (fun _ _ _ h => by simpa using h) (fun _ _ _ h => by simpa using h) rfl,
    h (fun u => u.lines = s.lines) (fun _ _ _ h => h) (fun _ _ _ h => by simpa using h) (fun _ _ _ h => by simpa using h) rfl,
    h (fun u => u.hostWr = s.hostWr) (fun _ _ _ h => h) (fun _ _ _ h => by simpa using h) (fun _ _ _ h => by simpa using h) rfl,
    h (fun u => u.memHeld = s.memHeld) (fun _ _ _ h => h) (fun _ _ _ h => by simpa using h) (fun _ _ _ h => by simpa using h) rfl,
    h (fun u => u.flushes = s.flushes) (fun _ _ _ h => h) (fun _ _ _ h => by simpa using h) (fun _ _ _ h => by simpa using h) rfl,
    h (fun u => u.invals = s.invals) (fun _ _ _ h => h) (fun _ _ _ h => by simpa using h) (fun _ _ _ h => by simpa using h) rfl,
    h (fun u => u.biasReq = s.biasReq) (fun _ _ _ h => h) (fun _ _ _ h => by simpa using h) (fun _ _ _ h => by simpa using h) rfl,
    h (fun u => u.biasWait = s.biasWait) (fun _ _ _ h => h) (fun _ _ _ h => by simpa using h) (fun _ _ _ h => by simpa using h) rfl,
    h (fun u => u.kpr = s.kpr) (fun _ _ _ h => h) (fun _ _ _ h => by simpa using h) (fun _ _ _ h => by simpa using h) rfl,
    h (fun u => u.mgmtQ = s.mgmtQ) (fun _ _ _ h => h) (fun _ _ _ h => by simpa using h) (fun _ _ _ h => by simpa using h) rfl,
    h (fun u => u.mgmtBusy = s.mgmtBusy) (fun _ _ _ h => h) (fun _ _ _ h => by simpa using h) (fun _ _ _ h => by simpa using h) rfl,
    h (fun u => u.retirePend = s.retirePend) (fun _ _ _ h => h) (fun _ _ _ h => by simpa using h) (fun _ _ _ h => by simpa using h) rfl,
    h (fun u => u.ctxs = s.ctxs) (fun _ _ _ h => h) (fun _ _ _ h => by simpa using h) (fun _ _ _ h => by simpa using h) rfl,
    h (fun u => u.sqs = s.sqs) (fun _ _ _ h => h) (fun _ _ _ h => by simpa using h) (fun _ _ _ h => by simpa using h) rfl,
    h (fun u => u.cqs = s.cqs) (fun _ _ _ h => h) (fun _ _ _ h => by simpa using h) (fun _ _ _ h => by simpa using h) rfl,
    h (fun u => u.fenceQ = s.fenceQ) (fun _ _ _ h => h) (fun _ _ _ h => by simpa using h) (fun _ _ _ h => by simpa using h) rfl,
    h (fun u => u.fw = s.fw) (fun _ _ _ h => h) (fun _ _ _ h => by simpa using h) (fun _ _ _ h => by simpa using h) rfl,
    h (fun u => u.cmds = s.cmds) (fun _ _ _ h => h) (fun _ _ _ h => by simpa using h) (fun _ _ _ h => by simpa using h) rfl,
    h (fun u => u.nextCmd = s.nextCmd) (fun _ _ _ h => h) (fun _ _ _ h => by simpa using h) (fun _ _ _ h => by simpa using h) rfl,
    h (fun u => u.plans = s.plans) (fun _ _ _ h => h) (fun _ _ _ h => by simpa using h) (fun _ _ _ h => by simpa using h) rfl,
    h (fun u => u.tables = s.tables) (fun _ _ _ h => h) (fun _ _ _ h => by simpa using h) (fun _ _ _ h => by simpa using h) rfl,
    h (fun u => u.adopt = s.adopt) (fun _ _ _ h => h) (fun _ _ _ h => by simpa using h) (fun _ _ _ h => by simpa using h) rfl,
    h (fun u => u.drains = s.drains) (fun _ _ _ h => h) (fun _ _ _ h => by simpa using h) (fun _ _ _ h => by simpa using h) rfl,
    h (fun u => u.staging = s.staging) (fun _ _ _ h => h) (fun _ _ _ h => by simpa using h) (fun _ _ _ h => by simpa using h) rfl,
    h (fun u => u.journal = s.journal) (fun _ _ _ h => h) (fun _ _ _ h => by simpa using h) (fun _ _ _ h => by simpa using h) rfl,
    h (fun u => u.vats = s.vats) (fun _ _ _ h => h) (fun _ _ _ h => by simpa using h) (fun _ _ _ h => by simpa using h) rfl,
    h (fun u => u.arrivals = s.arrivals) (fun _ _ _ h => h) (fun _ _ _ h => by simpa using h) (fun _ _ _ h => by simpa using h) rfl,
    h (fun u => u.stalledArr = s.stalledArr) (fun _ _ _ h => h) (fun _ _ _ h => by simpa using h) (fun _ _ _ h => by simpa using h) rfl,
    h (fun u => u.declared = s.declared) (fun _ _ _ h => h) (fun _ _ _ h => by simpa using h) (fun _ _ _ h => by simpa using h) rfl,
    h (fun u => u.lostMap = s.lostMap) (fun _ _ _ h => h) (fun _ _ _ h => by simpa using h) (fun _ _ _ h => by simpa using h) rfl,
    h (fun u => u.lostPairs = s.lostPairs) (fun _ _ _ h => h) (fun _ _ _ h => by simpa using h) (fun _ _ _ h => by simpa using h) rfl,
    h (fun u => u.lossAdopt = s.lossAdopt) (fun _ _ _ h => h) (fun _ _ _ h => by simpa using h) (fun _ _ _ h => by simpa using h) rfl,
    h (fun u => u.visible = s.visible) (fun _ _ _ h => h) (fun _ _ _ h => by simpa using h) (fun _ _ _ h => by simpa using h) rfl,
    h (fun u => u.peerReqs = s.peerReqs) (fun _ _ _ h => h) (fun _ _ _ h => by simpa using h) (fun _ _ _ h => by simpa using h) rfl,
    h (fun u => u.nextTag = s.nextTag) (fun _ _ _ h => h) (fun _ _ _ h => by simpa using h) (fun _ _ _ h => by simpa using h) rfl,
    h (fun u => u.heldPeer = s.heldPeer) (fun _ _ _ h => h) (fun _ _ _ h => by simpa using h) (fun _ _ _ h => by simpa using h) rfl,
    h (fun u => u.work = s.work) (fun _ _ _ h => h) (fun _ _ _ h => by simpa using h) (fun _ _ _ h => by simpa using h) rfl,
    h (fun u => u.chans = s.chans) (fun _ _ _ h => h) (fun _ _ _ h => by simpa using h) (fun _ _ _ h => by simpa using h) rfl,
    h (fun u => u.links = s.links) (fun _ _ _ h => h) (fun _ _ _ h => by simpa using h) (fun _ _ _ h => by simpa using h) rfl,
    h (fun u => u.mods = s.mods) (fun _ _ _ h => h) (fun _ _ _ h => by simpa using h) (fun _ _ _ h => by simpa using h) rfl,
    h (fun u => u.power = s.power) (fun _ _ _ h => h) (fun _ _ _ h => by simpa using h) (fun _ _ _ h => by simpa using h) rfl,
    h (fun u => u.trace = s.trace) (fun _ _ _ h => h) (fun _ _ _ h => by simpa using h) (fun _ _ _ h => by simpa using h) rfl,
    h (fun u => u.cdc = s.cdc) (fun _ _ _ h => h) (fun _ _ _ h => by simpa using h) (fun _ _ _ h => by simpa using h) rfl,
    h (fun u => u.cntCtx = s.cntCtx) (fun _ _ _ h => h) (fun _ _ _ h => by simpa using h) (fun _ _ _ h => by simpa using h) rfl,
    h (fun u => u.cntTbl = s.cntTbl) (fun _ _ _ h => h) (fun _ _ _ h => by simpa using h) (fun _ _ _ h => by simpa using h) rfl,
    h (fun u => u.cntKs = s.cntKs) (fun _ _ _ h => h) (fun _ _ _ h => by simpa using h) (fun _ _ _ h => by simpa using h) rfl,
    h (fun u => u.errs = s.errs) (fun _ _ _ h => h) (fun _ _ _ h => by simpa using h) (fun _ _ _ h => by simpa using h) rfl⟩

@[simp] theorem applySignal_frame (s : State) (f : Nat) (v : Word) :
    (s.applySignal f v).pending = s.pending ∧ (s.applySignal f v).out = s.out ∧ (s.applySignal f v).msiWait = s.msiWait ∧
    (s.applySignal f v).freeCtr = s.freeCtr ∧ (s.applySignal f v).powered = s.powered ∧ (s.applySignal f v).trip = s.trip ∧
    (s.applySignal f v).boot = s.boot ∧ (s.applySignal f v).half = s.half ∧ (s.applySignal f v).restartQ = s.restartQ ∧
    (s.applySignal f v).kTick = s.kTick ∧ (s.applySignal f v).slices = s.slices ∧ (s.applySignal f v).atsReqs = s.atsReqs ∧
    (s.applySignal f v).lineReqs = s.lineReqs ∧ (s.applySignal f v).lines = s.lines ∧ (s.applySignal f v).hostWr = s.hostWr ∧
    (s.applySignal f v).memHeld = s.memHeld ∧ (s.applySignal f v).flushes = s.flushes ∧
    (s.applySignal f v).invals = s.invals ∧ (s.applySignal f v).biasReq = s.biasReq ∧
    (s.applySignal f v).biasWait = s.biasWait ∧ (s.applySignal f v).mgmtQ = s.mgmtQ ∧
    (s.applySignal f v).mgmtBusy = s.mgmtBusy ∧ (s.applySignal f v).retirePend = s.retirePend ∧
    (s.applySignal f v).ctxs = s.ctxs ∧ (s.applySignal f v).sqs = s.sqs ∧ (s.applySignal f v).cqs = s.cqs ∧
    (s.applySignal f v).fenceQ = s.fenceQ ∧ (s.applySignal f v).fw = s.fw ∧ (s.applySignal f v).cmds = s.cmds ∧
    (s.applySignal f v).nextCmd = s.nextCmd ∧ (s.applySignal f v).plans = s.plans ∧ (s.applySignal f v).tables = s.tables ∧
    (s.applySignal f v).adopt = s.adopt ∧ (s.applySignal f v).drains = s.drains ∧ (s.applySignal f v).staging = s.staging ∧
    (s.applySignal f v).journal = s.journal ∧ (s.applySignal f v).vats = s.vats ∧ (s.applySignal f v).arrivals = s.arrivals ∧
    (s.applySignal f v).stalledArr = s.stalledArr ∧ (s.applySignal f v).declared = s.declared ∧
    (s.applySignal f v).lostMap = s.lostMap ∧ (s.applySignal f v).lostPairs = s.lostPairs ∧
    (s.applySignal f v).lossAdopt = s.lossAdopt ∧ (s.applySignal f v).visible = s.visible ∧
    (s.applySignal f v).peerReqs = s.peerReqs ∧ (s.applySignal f v).nextTag = s.nextTag ∧
    (s.applySignal f v).heldPeer = s.heldPeer ∧ (s.applySignal f v).work = s.work ∧ (s.applySignal f v).chans = s.chans ∧
    (s.applySignal f v).links = s.links ∧ (s.applySignal f v).mods = s.mods ∧ (s.applySignal f v).optics = s.optics ∧
    (s.applySignal f v).power = s.power ∧ (s.applySignal f v).cdc = s.cdc ∧ (s.applySignal f v).cntCtx = s.cntCtx ∧
    (s.applySignal f v).cntTbl = s.cntTbl ∧ (s.applySignal f v).cntKs = s.cntKs ∧ (s.applySignal f v).errs = s.errs := by
  unfold State.applySignal
  repeat' split
  all_goals simp

@[simp] theorem publish_frame (s : State) (n : Nat) (f : Layer → Layer) (m : Option Nat) :
    (s.publish n f m).pending = s.pending ∧ (s.publish n f m).out = s.out ∧ (s.publish n f m).msiWait = s.msiWait ∧
    (s.publish n f m).freeCtr = s.freeCtr ∧ (s.publish n f m).powered = s.powered ∧ (s.publish n f m).trip = s.trip ∧
    (s.publish n f m).boot = s.boot ∧ (s.publish n f m).half = s.half ∧ (s.publish n f m).restartQ = s.restartQ ∧
    (s.publish n f m).kTick = s.kTick ∧ (s.publish n f m).slices = s.slices ∧ (s.publish n f m).dev = s.dev ∧
    (s.publish n f m).atsReqs = s.atsReqs ∧ (s.publish n f m).lineReqs = s.lineReqs ∧ (s.publish n f m).lines = s.lines ∧
    (s.publish n f m).hostWr = s.hostWr ∧ (s.publish n f m).memHeld = s.memHeld ∧ (s.publish n f m).flushes = s.flushes ∧
    (s.publish n f m).invals = s.invals ∧ (s.publish n f m).biasReq = s.biasReq ∧ (s.publish n f m).biasWait = s.biasWait ∧
    (s.publish n f m).mgmtQ = s.mgmtQ ∧ (s.publish n f m).mgmtBusy = s.mgmtBusy ∧
    (s.publish n f m).retirePend = s.retirePend ∧ (s.publish n f m).ctxs = s.ctxs ∧ (s.publish n f m).sqs = s.sqs ∧
    (s.publish n f m).cqs = s.cqs ∧ (s.publish n f m).fenceQ = s.fenceQ ∧ (s.publish n f m).fw = s.fw ∧
    (s.publish n f m).cmds = s.cmds ∧ (s.publish n f m).nextCmd = s.nextCmd ∧ (s.publish n f m).plans = s.plans ∧
    (s.publish n f m).drains = s.drains ∧ (s.publish n f m).staging = s.staging ∧ (s.publish n f m).journal = s.journal ∧
    (s.publish n f m).vats = s.vats ∧ (s.publish n f m).arrivals = s.arrivals ∧ (s.publish n f m).stalledArr = s.stalledArr ∧
    (s.publish n f m).declared = s.declared ∧ (s.publish n f m).lostMap = s.lostMap ∧
    (s.publish n f m).lostPairs = s.lostPairs ∧ (s.publish n f m).lossAdopt = s.lossAdopt ∧
    (s.publish n f m).visible = s.visible ∧ (s.publish n f m).peerReqs = s.peerReqs ∧ (s.publish n f m).nextTag = s.nextTag ∧
    (s.publish n f m).heldPeer = s.heldPeer ∧ (s.publish n f m).work = s.work ∧ (s.publish n f m).chans = s.chans ∧
    (s.publish n f m).links = s.links ∧ (s.publish n f m).mods = s.mods ∧ (s.publish n f m).optics = s.optics ∧
    (s.publish n f m).power = s.power ∧ (s.publish n f m).cdc = s.cdc ∧ (s.publish n f m).cntCtx = s.cntCtx ∧
    (s.publish n f m).cntTbl = s.cntTbl ∧ (s.publish n f m).cntKs = s.cntKs ∧ (s.publish n f m).errs = s.errs := by
  unfold State.publish
  dsimp only
  repeat' split
  all_goals simp

@[simp] theorem mgmtDone_frame (s : State) (a : MgmtAct) (r : Nat) (l : List Nat) :
    (s.mgmtDone a r l).pending = s.pending ∧ (s.mgmtDone a r l).out = s.out ∧ (s.mgmtDone a r l).msiWait = s.msiWait ∧
    (s.mgmtDone a r l).freeCtr = s.freeCtr ∧ (s.mgmtDone a r l).powered = s.powered ∧ (s.mgmtDone a r l).trip = s.trip ∧
    (s.mgmtDone a r l).boot = s.boot ∧ (s.mgmtDone a r l).half = s.half ∧ (s.mgmtDone a r l).restartQ = s.restartQ ∧
    (s.mgmtDone a r l).kTick = s.kTick ∧ (s.mgmtDone a r l).slices = s.slices ∧ (s.mgmtDone a r l).dev = s.dev ∧
    (s.mgmtDone a r l).atsReqs = s.atsReqs ∧ (s.mgmtDone a r l).lineReqs = s.lineReqs ∧ (s.mgmtDone a r l).lines = s.lines ∧
    (s.mgmtDone a r l).hostWr = s.hostWr ∧ (s.mgmtDone a r l).memHeld = s.memHeld ∧ (s.mgmtDone a r l).flushes = s.flushes ∧
    (s.mgmtDone a r l).invals = s.invals ∧ (s.mgmtDone a r l).biasReq = s.biasReq ∧
    (s.mgmtDone a r l).biasWait = s.biasWait ∧ (s.mgmtDone a r l).mgmtQ = s.mgmtQ ∧
    (s.mgmtDone a r l).mgmtBusy = s.mgmtBusy ∧ (s.mgmtDone a r l).retirePend = s.retirePend ∧
    (s.mgmtDone a r l).ctxs = s.ctxs ∧ (s.mgmtDone a r l).sqs = s.sqs ∧ (s.mgmtDone a r l).cqs = s.cqs ∧
    (s.mgmtDone a r l).fenceQ = s.fenceQ ∧ (s.mgmtDone a r l).fw = s.fw ∧ (s.mgmtDone a r l).cmds = s.cmds ∧
    (s.mgmtDone a r l).nextCmd = s.nextCmd ∧ (s.mgmtDone a r l).plans = s.plans ∧ (s.mgmtDone a r l).tables = s.tables ∧
    (s.mgmtDone a r l).adopt = s.adopt ∧ (s.mgmtDone a r l).drains = s.drains ∧ (s.mgmtDone a r l).staging = s.staging ∧
    (s.mgmtDone a r l).journal = s.journal ∧ (s.mgmtDone a r l).vats = s.vats ∧ (s.mgmtDone a r l).arrivals = s.arrivals ∧
    (s.mgmtDone a r l).stalledArr = s.stalledArr ∧ (s.mgmtDone a r l).declared = s.declared ∧
    (s.mgmtDone a r l).lostMap = s.lostMap ∧ (s.mgmtDone a r l).lostPairs = s.lostPairs ∧
    (s.mgmtDone a r l).lossAdopt = s.lossAdopt ∧ (s.mgmtDone a r l).visible = s.visible ∧
    (s.mgmtDone a r l).peerReqs = s.peerReqs ∧ (s.mgmtDone a r l).nextTag = s.nextTag ∧
    (s.mgmtDone a r l).heldPeer = s.heldPeer ∧ (s.mgmtDone a r l).work = s.work ∧ (s.mgmtDone a r l).chans = s.chans ∧
    (s.mgmtDone a r l).links = s.links ∧ (s.mgmtDone a r l).mods = s.mods ∧ (s.mgmtDone a r l).optics = s.optics ∧
    (s.mgmtDone a r l).power = s.power ∧ (s.mgmtDone a r l).trace = s.trace ∧ (s.mgmtDone a r l).cdc = s.cdc ∧
    (s.mgmtDone a r l).cntCtx = s.cntCtx ∧ (s.mgmtDone a r l).cntTbl = s.cntTbl ∧ (s.mgmtDone a r l).cntKs = s.cntKs ∧
    (s.mgmtDone a r l).errs = s.errs := by
  unfold State.mgmtDone
  simp only [List.range, List.range.loop, List.foldl]
  simp

@[simp] theorem darken_frame (s : State) :
    (s.darken).pending = s.pending ∧ (s.darken).msiWait = s.msiWait ∧ (s.darken).freeCtr = s.freeCtr ∧
    (s.darken).powered = s.powered ∧ (s.darken).trip = s.trip ∧ (s.darken).boot = s.boot ∧ (s.darken).half = s.half ∧
    (s.darken).restartQ = s.restartQ ∧ (s.darken).kTick = s.kTick ∧ (s.darken).slices = s.slices ∧ (s.darken).dev = s.dev ∧
    (s.darken).atsReqs = s.atsReqs ∧ (s.darken).lineReqs = s.lineReqs ∧ (s.darken).lines = s.lines ∧
    (s.darken).hostWr = s.hostWr ∧ (s.darken).memHeld = s.memHeld ∧ (s.darken).flushes = s.flushes ∧
    (s.darken).invals = s.invals ∧ (s.darken).biasReq = s.biasReq ∧ (s.darken).biasWait = s.biasWait ∧
    (s.darken).kpr = s.kpr ∧ (s.darken).mgmtQ = s.mgmtQ ∧ (s.darken).mgmtBusy = s.mgmtBusy ∧
    (s.darken).retirePend = s.retirePend ∧ (s.darken).ctxs = s.ctxs ∧ (s.darken).sqs = s.sqs ∧ (s.darken).cqs = s.cqs ∧
    (s.darken).fenceQ = s.fenceQ ∧ (s.darken).fw = s.fw ∧ (s.darken).cmds = s.cmds ∧ (s.darken).nextCmd = s.nextCmd ∧
    (s.darken).plans = s.plans ∧ (s.darken).tables = s.tables ∧ (s.darken).adopt = s.adopt ∧ (s.darken).drains = s.drains ∧
    (s.darken).staging = s.staging ∧ (s.darken).journal = s.journal ∧ (s.darken).vats = s.vats ∧
    (s.darken).arrivals = s.arrivals ∧ (s.darken).stalledArr = s.stalledArr ∧ (s.darken).declared = s.declared ∧
    (s.darken).lostMap = s.lostMap ∧ (s.darken).lostPairs = s.lostPairs ∧ (s.darken).lossAdopt = s.lossAdopt ∧
    (s.darken).visible = s.visible ∧ (s.darken).peerReqs = s.peerReqs ∧ (s.darken).nextTag = s.nextTag ∧
    (s.darken).heldPeer = s.heldPeer ∧ (s.darken).work = s.work ∧ (s.darken).chans = s.chans ∧ (s.darken).links = s.links ∧
    (s.darken).mods = s.mods ∧ (s.darken).optics = s.optics ∧ (s.darken).power = s.power ∧ (s.darken).trace = s.trace ∧
    (s.darken).cdc = s.cdc ∧ (s.darken).cntCtx = s.cntCtx ∧ (s.darken).cntTbl = s.cntTbl ∧ (s.darken).cntKs = s.cntKs ∧
    (s.darken).errs = s.errs := by
  unfold State.darken
  split
  · simp only [List.range, List.range.loop, List.foldl]; simp
  · simp

@[simp] theorem beaconOut_frame (s : State) (p : Nat) (b : Bool) :
    (s.beaconOut p b).pending = s.pending ∧ (s.beaconOut p b).msiWait = s.msiWait ∧ (s.beaconOut p b).freeCtr = s.freeCtr ∧
    (s.beaconOut p b).powered = s.powered ∧ (s.beaconOut p b).trip = s.trip ∧ (s.beaconOut p b).boot = s.boot ∧
    (s.beaconOut p b).half = s.half ∧ (s.beaconOut p b).restartQ = s.restartQ ∧ (s.beaconOut p b).kTick = s.kTick ∧
    (s.beaconOut p b).slices = s.slices ∧ (s.beaconOut p b).dev = s.dev ∧ (s.beaconOut p b).atsReqs = s.atsReqs ∧
    (s.beaconOut p b).lineReqs = s.lineReqs ∧ (s.beaconOut p b).lines = s.lines ∧ (s.beaconOut p b).hostWr = s.hostWr ∧
    (s.beaconOut p b).memHeld = s.memHeld ∧ (s.beaconOut p b).flushes = s.flushes ∧ (s.beaconOut p b).invals = s.invals ∧
    (s.beaconOut p b).biasReq = s.biasReq ∧ (s.beaconOut p b).biasWait = s.biasWait ∧ (s.beaconOut p b).kpr = s.kpr ∧
    (s.beaconOut p b).mgmtQ = s.mgmtQ ∧ (s.beaconOut p b).mgmtBusy = s.mgmtBusy ∧
    (s.beaconOut p b).retirePend = s.retirePend ∧ (s.beaconOut p b).ctxs = s.ctxs ∧ (s.beaconOut p b).sqs = s.sqs ∧
    (s.beaconOut p b).cqs = s.cqs ∧ (s.beaconOut p b).fenceQ = s.fenceQ ∧ (s.beaconOut p b).fw = s.fw ∧
    (s.beaconOut p b).cmds = s.cmds ∧ (s.beaconOut p b).nextCmd = s.nextCmd ∧ (s.beaconOut p b).plans = s.plans ∧
    (s.beaconOut p b).tables = s.tables ∧ (s.beaconOut p b).adopt = s.adopt ∧ (s.beaconOut p b).drains = s.drains ∧
    (s.beaconOut p b).staging = s.staging ∧ (s.beaconOut p b).journal = s.journal ∧ (s.beaconOut p b).vats = s.vats ∧
    (s.beaconOut p b).arrivals = s.arrivals ∧ (s.beaconOut p b).stalledArr = s.stalledArr ∧
    (s.beaconOut p b).declared = s.declared ∧ (s.beaconOut p b).lostMap = s.lostMap ∧
    (s.beaconOut p b).lostPairs = s.lostPairs ∧ (s.beaconOut p b).lossAdopt = s.lossAdopt ∧
    (s.beaconOut p b).visible = s.visible ∧ (s.beaconOut p b).peerReqs = s.peerReqs ∧ (s.beaconOut p b).nextTag = s.nextTag ∧
    (s.beaconOut p b).heldPeer = s.heldPeer ∧ (s.beaconOut p b).work = s.work ∧ (s.beaconOut p b).chans = s.chans ∧
    (s.beaconOut p b).links = s.links ∧ (s.beaconOut p b).mods = s.mods ∧ (s.beaconOut p b).power = s.power ∧
    (s.beaconOut p b).trace = s.trace ∧ (s.beaconOut p b).cdc = s.cdc ∧ (s.beaconOut p b).cntCtx = s.cntCtx ∧
    (s.beaconOut p b).cntTbl = s.cntTbl ∧ (s.beaconOut p b).cntKs = s.cntKs ∧ (s.beaconOut p b).errs = s.errs := by
  unfold State.beaconOut
  repeat' split
  all_goals simp

@[simp] theorem linkDeal_frame (s : State) (l : Nat) :
    (s.linkDeal l).pending = s.pending ∧ (s.linkDeal l).msiWait = s.msiWait ∧ (s.linkDeal l).freeCtr = s.freeCtr ∧
    (s.linkDeal l).powered = s.powered ∧ (s.linkDeal l).trip = s.trip ∧ (s.linkDeal l).boot = s.boot ∧
    (s.linkDeal l).half = s.half ∧ (s.linkDeal l).restartQ = s.restartQ ∧ (s.linkDeal l).kTick = s.kTick ∧
    (s.linkDeal l).slices = s.slices ∧ (s.linkDeal l).dev = s.dev ∧ (s.linkDeal l).atsReqs = s.atsReqs ∧
    (s.linkDeal l).lineReqs = s.lineReqs ∧ (s.linkDeal l).lines = s.lines ∧ (s.linkDeal l).hostWr = s.hostWr ∧
    (s.linkDeal l).memHeld = s.memHeld ∧ (s.linkDeal l).flushes = s.flushes ∧ (s.linkDeal l).invals = s.invals ∧
    (s.linkDeal l).biasReq = s.biasReq ∧ (s.linkDeal l).biasWait = s.biasWait ∧ (s.linkDeal l).kpr = s.kpr ∧
    (s.linkDeal l).mgmtQ = s.mgmtQ ∧ (s.linkDeal l).mgmtBusy = s.mgmtBusy ∧ (s.linkDeal l).retirePend = s.retirePend ∧
    (s.linkDeal l).ctxs = s.ctxs ∧ (s.linkDeal l).sqs = s.sqs ∧ (s.linkDeal l).cqs = s.cqs ∧
    (s.linkDeal l).fenceQ = s.fenceQ ∧ (s.linkDeal l).fw = s.fw ∧ (s.linkDeal l).cmds = s.cmds ∧
    (s.linkDeal l).nextCmd = s.nextCmd ∧ (s.linkDeal l).plans = s.plans ∧ (s.linkDeal l).tables = s.tables ∧
    (s.linkDeal l).adopt = s.adopt ∧ (s.linkDeal l).drains = s.drains ∧ (s.linkDeal l).staging = s.staging ∧
    (s.linkDeal l).journal = s.journal ∧ (s.linkDeal l).vats = s.vats ∧ (s.linkDeal l).arrivals = s.arrivals ∧
    (s.linkDeal l).stalledArr = s.stalledArr ∧ (s.linkDeal l).declared = s.declared ∧ (s.linkDeal l).lostMap = s.lostMap ∧
    (s.linkDeal l).lostPairs = s.lostPairs ∧ (s.linkDeal l).lossAdopt = s.lossAdopt ∧ (s.linkDeal l).visible = s.visible ∧
    (s.linkDeal l).peerReqs = s.peerReqs ∧ (s.linkDeal l).nextTag = s.nextTag ∧ (s.linkDeal l).heldPeer = s.heldPeer ∧
    (s.linkDeal l).work = s.work ∧ (s.linkDeal l).chans = s.chans ∧ (s.linkDeal l).mods = s.mods ∧
    (s.linkDeal l).optics = s.optics ∧ (s.linkDeal l).power = s.power ∧ (s.linkDeal l).trace = s.trace ∧
    (s.linkDeal l).cdc = s.cdc ∧ (s.linkDeal l).cntCtx = s.cntCtx ∧ (s.linkDeal l).cntTbl = s.cntTbl ∧
    (s.linkDeal l).cntKs = s.cntKs ∧ (s.linkDeal l).errs = s.errs := by
  unfold State.linkDeal
  dsimp only
  repeat' split
  all_goals simp

@[simp] theorem linkPump_frame (s : State) (l : Nat) :
    (s.linkPump l).pending = s.pending ∧ (s.linkPump l).msiWait = s.msiWait ∧ (s.linkPump l).freeCtr = s.freeCtr ∧
    (s.linkPump l).powered = s.powered ∧ (s.linkPump l).trip = s.trip ∧ (s.linkPump l).boot = s.boot ∧
    (s.linkPump l).half = s.half ∧ (s.linkPump l).restartQ = s.restartQ ∧ (s.linkPump l).kTick = s.kTick ∧
    (s.linkPump l).slices = s.slices ∧ (s.linkPump l).dev = s.dev ∧ (s.linkPump l).atsReqs = s.atsReqs ∧
    (s.linkPump l).lineReqs = s.lineReqs ∧ (s.linkPump l).lines = s.lines ∧ (s.linkPump l).hostWr = s.hostWr ∧
    (s.linkPump l).memHeld = s.memHeld ∧ (s.linkPump l).flushes = s.flushes ∧ (s.linkPump l).invals = s.invals ∧
    (s.linkPump l).biasReq = s.biasReq ∧ (s.linkPump l).biasWait = s.biasWait ∧ (s.linkPump l).kpr = s.kpr ∧
    (s.linkPump l).mgmtQ = s.mgmtQ ∧ (s.linkPump l).mgmtBusy = s.mgmtBusy ∧ (s.linkPump l).retirePend = s.retirePend ∧
    (s.linkPump l).ctxs = s.ctxs ∧ (s.linkPump l).sqs = s.sqs ∧ (s.linkPump l).cqs = s.cqs ∧
    (s.linkPump l).fenceQ = s.fenceQ ∧ (s.linkPump l).fw = s.fw ∧ (s.linkPump l).cmds = s.cmds ∧
    (s.linkPump l).nextCmd = s.nextCmd ∧ (s.linkPump l).plans = s.plans ∧ (s.linkPump l).tables = s.tables ∧
    (s.linkPump l).adopt = s.adopt ∧ (s.linkPump l).drains = s.drains ∧ (s.linkPump l).staging = s.staging ∧
    (s.linkPump l).journal = s.journal ∧ (s.linkPump l).vats = s.vats ∧ (s.linkPump l).arrivals = s.arrivals ∧
    (s.linkPump l).stalledArr = s.stalledArr ∧ (s.linkPump l).declared = s.declared ∧ (s.linkPump l).lostMap = s.lostMap ∧
    (s.linkPump l).lostPairs = s.lostPairs ∧ (s.linkPump l).lossAdopt = s.lossAdopt ∧ (s.linkPump l).visible = s.visible ∧
    (s.linkPump l).peerReqs = s.peerReqs ∧ (s.linkPump l).nextTag = s.nextTag ∧ (s.linkPump l).heldPeer = s.heldPeer ∧
    (s.linkPump l).work = s.work ∧ (s.linkPump l).chans = s.chans ∧ (s.linkPump l).mods = s.mods ∧
    (s.linkPump l).optics = s.optics ∧ (s.linkPump l).power = s.power ∧ (s.linkPump l).trace = s.trace ∧
    (s.linkPump l).cdc = s.cdc ∧ (s.linkPump l).cntCtx = s.cntCtx ∧ (s.linkPump l).cntTbl = s.cntTbl ∧
    (s.linkPump l).cntKs = s.cntKs ∧ (s.linkPump l).errs = s.errs := by
  unfold State.linkPump
  exact ⟨foldl_field _ State.pending (by intro s a; simp) _ s, foldl_field _ State.msiWait (by intro s a; simp) _ s,
    foldl_field _ State.freeCtr (by intro s a; simp) _ s, foldl_field _ State.powered (by intro s a; simp) _ s,
    foldl_field _ State.trip (by intro s a; simp) _ s, foldl_field _ State.boot (by intro s a; simp) _ s,
    foldl_field _ State.half (by intro s a; simp) _ s, foldl_field _ State.restartQ (by intro s a; simp) _ s,
    foldl_field _ State.kTick (by intro s a; simp) _ s, foldl_field _ State.slices (by intro s a; simp) _ s,
    foldl_field _ State.dev (by intro s a; simp) _ s, foldl_field _ State.atsReqs (by intro s a; simp) _ s,
    foldl_field _ State.lineReqs (by intro s a; simp) _ s, foldl_field _ State.lines (by intro s a; simp) _ s,
    foldl_field _ State.hostWr (by intro s a; simp) _ s, foldl_field _ State.memHeld (by intro s a; simp) _ s,
    foldl_field _ State.flushes (by intro s a; simp) _ s, foldl_field _ State.invals (by intro s a; simp) _ s,
    foldl_field _ State.biasReq (by intro s a; simp) _ s, foldl_field _ State.biasWait (by intro s a; simp) _ s,
    foldl_field _ State.kpr (by intro s a; simp) _ s, foldl_field _ State.mgmtQ (by intro s a; simp) _ s,
    foldl_field _ State.mgmtBusy (by intro s a; simp) _ s, foldl_field _ State.retirePend (by intro s a; simp) _ s,
    foldl_field _ State.ctxs (by intro s a; simp) _ s, foldl_field _ State.sqs (by intro s a; simp) _ s,
    foldl_field _ State.cqs (by intro s a; simp) _ s, foldl_field _ State.fenceQ (by intro s a; simp) _ s,
    foldl_field _ State.fw (by intro s a; simp) _ s, foldl_field _ State.cmds (by intro s a; simp) _ s,
    foldl_field _ State.nextCmd (by intro s a; simp) _ s, foldl_field _ State.plans (by intro s a; simp) _ s,
    foldl_field _ State.tables (by intro s a; simp) _ s, foldl_field _ State.adopt (by intro s a; simp) _ s,
    foldl_field _ State.drains (by intro s a; simp) _ s, foldl_field _ State.staging (by intro s a; simp) _ s,
    foldl_field _ State.journal (by intro s a; simp) _ s, foldl_field _ State.vats (by intro s a; simp) _ s,
    foldl_field _ State.arrivals (by intro s a; simp) _ s, foldl_field _ State.stalledArr (by intro s a; simp) _ s,
    foldl_field _ State.declared (by intro s a; simp) _ s, foldl_field _ State.lostMap (by intro s a; simp) _ s,
    foldl_field _ State.lostPairs (by intro s a; simp) _ s, foldl_field _ State.lossAdopt (by intro s a; simp) _ s,
    foldl_field _ State.visible (by intro s a; simp) _ s, foldl_field _ State.peerReqs (by intro s a; simp) _ s,
    foldl_field _ State.nextTag (by intro s a; simp) _ s, foldl_field _ State.heldPeer (by intro s a; simp) _ s,
    foldl_field _ State.work (by intro s a; simp) _ s, foldl_field _ State.chans (by intro s a; simp) _ s,
    foldl_field _ State.mods (by intro s a; simp) _ s, foldl_field _ State.optics (by intro s a; simp) _ s,
    foldl_field _ State.power (by intro s a; simp) _ s, foldl_field _ State.trace (by intro s a; simp) _ s,
    foldl_field _ State.cdc (by intro s a; simp) _ s, foldl_field _ State.cntCtx (by intro s a; simp) _ s,
    foldl_field _ State.cntTbl (by intro s a; simp) _ s, foldl_field _ State.cntKs (by intro s a; simp) _ s,
    foldl_field _ State.errs (by intro s a; simp) _ s⟩

@[simp] theorem linkSend_frame (s : State) (l : Nat) (p : List Byte) :
    (s.linkSend l p).pending = s.pending ∧ (s.linkSend l p).msiWait = s.msiWait ∧ (s.linkSend l p).freeCtr = s.freeCtr ∧
    (s.linkSend l p).powered = s.powered ∧ (s.linkSend l p).trip = s.trip ∧ (s.linkSend l p).boot = s.boot ∧
    (s.linkSend l p).half = s.half ∧ (s.linkSend l p).restartQ = s.restartQ ∧ (s.linkSend l p).kTick = s.kTick ∧
    (s.linkSend l p).slices = s.slices ∧ (s.linkSend l p).dev = s.dev ∧ (s.linkSend l p).atsReqs = s.atsReqs ∧
    (s.linkSend l p).lineReqs = s.lineReqs ∧ (s.linkSend l p).lines = s.lines ∧ (s.linkSend l p).hostWr = s.hostWr ∧
    (s.linkSend l p).memHeld = s.memHeld ∧ (s.linkSend l p).flushes = s.flushes ∧ (s.linkSend l p).invals = s.invals ∧
    (s.linkSend l p).biasReq = s.biasReq ∧ (s.linkSend l p).biasWait = s.biasWait ∧ (s.linkSend l p).kpr = s.kpr ∧
    (s.linkSend l p).mgmtQ = s.mgmtQ ∧ (s.linkSend l p).mgmtBusy = s.mgmtBusy ∧ (s.linkSend l p).retirePend = s.retirePend ∧
    (s.linkSend l p).ctxs = s.ctxs ∧ (s.linkSend l p).sqs = s.sqs ∧ (s.linkSend l p).cqs = s.cqs ∧
    (s.linkSend l p).fenceQ = s.fenceQ ∧ (s.linkSend l p).fw = s.fw ∧ (s.linkSend l p).cmds = s.cmds ∧
    (s.linkSend l p).nextCmd = s.nextCmd ∧ (s.linkSend l p).plans = s.plans ∧ (s.linkSend l p).tables = s.tables ∧
    (s.linkSend l p).adopt = s.adopt ∧ (s.linkSend l p).drains = s.drains ∧ (s.linkSend l p).staging = s.staging ∧
    (s.linkSend l p).journal = s.journal ∧ (s.linkSend l p).vats = s.vats ∧ (s.linkSend l p).arrivals = s.arrivals ∧
    (s.linkSend l p).stalledArr = s.stalledArr ∧ (s.linkSend l p).declared = s.declared ∧
    (s.linkSend l p).lostMap = s.lostMap ∧ (s.linkSend l p).lostPairs = s.lostPairs ∧
    (s.linkSend l p).lossAdopt = s.lossAdopt ∧ (s.linkSend l p).visible = s.visible ∧
    (s.linkSend l p).peerReqs = s.peerReqs ∧ (s.linkSend l p).nextTag = s.nextTag ∧ (s.linkSend l p).heldPeer = s.heldPeer ∧
    (s.linkSend l p).work = s.work ∧ (s.linkSend l p).chans = s.chans ∧ (s.linkSend l p).mods = s.mods ∧
    (s.linkSend l p).optics = s.optics ∧ (s.linkSend l p).power = s.power ∧ (s.linkSend l p).trace = s.trace ∧
    (s.linkSend l p).cdc = s.cdc ∧ (s.linkSend l p).cntCtx = s.cntCtx ∧ (s.linkSend l p).cntTbl = s.cntTbl ∧
    (s.linkSend l p).cntKs = s.cntKs ∧ (s.linkSend l p).errs = s.errs := by
  unfold State.linkSend
  dsimp only
  repeat' split
  all_goals simp

@[simp] theorem markRow_frame (s : State) (k : Nat) (d : DRow) (u : Bool) :
    (s.markRow k d u).pending = s.pending ∧ (s.markRow k d u).out = s.out ∧ (s.markRow k d u).msiWait = s.msiWait ∧
    (s.markRow k d u).freeCtr = s.freeCtr ∧ (s.markRow k d u).powered = s.powered ∧ (s.markRow k d u).trip = s.trip ∧
    (s.markRow k d u).boot = s.boot ∧ (s.markRow k d u).half = s.half ∧ (s.markRow k d u).restartQ = s.restartQ ∧
    (s.markRow k d u).kTick = s.kTick ∧ (s.markRow k d u).slices = s.slices ∧ (s.markRow k d u).dev = s.dev ∧
    (s.markRow k d u).atsReqs = s.atsReqs ∧ (s.markRow k d u).lineReqs = s.lineReqs ∧ (s.markRow k d u).lines = s.lines ∧
    (s.markRow k d u).hostWr = s.hostWr ∧ (s.markRow k d u).memHeld = s.memHeld ∧ (s.markRow k d u).flushes = s.flushes ∧
    (s.markRow k d u).invals = s.invals ∧ (s.markRow k d u).biasReq = s.biasReq ∧ (s.markRow k d u).biasWait = s.biasWait ∧
    (s.markRow k d u).kpr = s.kpr ∧ (s.markRow k d u).mgmtQ = s.mgmtQ ∧ (s.markRow k d u).mgmtBusy = s.mgmtBusy ∧
    (s.markRow k d u).retirePend = s.retirePend ∧ (s.markRow k d u).ctxs = s.ctxs ∧ (s.markRow k d u).sqs = s.sqs ∧
    (s.markRow k d u).cqs = s.cqs ∧ (s.markRow k d u).fenceQ = s.fenceQ ∧ (s.markRow k d u).fw = s.fw ∧
    (s.markRow k d u).cmds = s.cmds ∧ (s.markRow k d u).nextCmd = s.nextCmd ∧ (s.markRow k d u).plans = s.plans ∧
    (s.markRow k d u).tables = s.tables ∧ (s.markRow k d u).adopt = s.adopt ∧ (s.markRow k d u).drains = s.drains ∧
    (s.markRow k d u).staging = s.staging ∧ (s.markRow k d u).journal = s.journal ∧ (s.markRow k d u).vats = s.vats ∧
    (s.markRow k d u).arrivals = s.arrivals ∧ (s.markRow k d u).stalledArr = s.stalledArr ∧
    (s.markRow k d u).declared = s.declared ∧ (s.markRow k d u).lostMap = s.lostMap ∧
    (s.markRow k d u).lostPairs = s.lostPairs ∧ (s.markRow k d u).lossAdopt = s.lossAdopt ∧
    (s.markRow k d u).visible = s.visible ∧ (s.markRow k d u).peerReqs = s.peerReqs ∧ (s.markRow k d u).nextTag = s.nextTag ∧
    (s.markRow k d u).heldPeer = s.heldPeer ∧ (s.markRow k d u).work = s.work ∧ (s.markRow k d u).links = s.links ∧
    (s.markRow k d u).mods = s.mods ∧ (s.markRow k d u).optics = s.optics ∧ (s.markRow k d u).power = s.power ∧
    (s.markRow k d u).trace = s.trace ∧ (s.markRow k d u).cdc = s.cdc ∧ (s.markRow k d u).cntCtx = s.cntCtx ∧
    (s.markRow k d u).cntTbl = s.cntTbl ∧ (s.markRow k d u).cntKs = s.cntKs ∧ (s.markRow k d u).errs = s.errs := by
  unfold State.markRow
  dsimp only
  repeat' split
  all_goals simp

/-! Operations that write device memory keep it canonical. -/

/-- A state whose memory is that of a state that keeps it. -/
theorem inv_of_dev (s t : State) (h : t.dev = s.dev) (hs : s.inv) : t.inv := by
  unfold State.inv at *; rw [h]; exact hs

theorem outWrite_inv (s : State) (a : Nat) (b : List PB) (h : s.inv) : (s.outWrite a b).inv := by
  unfold State.outWrite
  split
  · exact foldl_keeps _ State.inv (fun s a hs => devWrite_inv s a.1 _ hs) _ s h
  · exact devWrite_inv s a b h

theorem landDevice_inv (s : State) (l : List (Nat × List PB)) (h : s.inv) : (s.landDevice l).inv := by
  unfold State.landDevice
  exact foldl_keeps _ State.inv (fun s a hs => inv_of_dev _ _ rfl (outWrite_inv s a.1 _ hs)) l s h

theorem landWrite_inv (s : State) (x h n : Nat) (l : List Landing) (hs : s.inv) : (s.landWrite x h n l).inv := by
  unfold State.landWrite
  refine foldl_keeps _ State.inv (fun s a hs => ?_) l s hs
  exact inv_of_dev _ _ (by simp) (landDevice_inv s a.device hs)

theorem landAll_inv (s : State) (x h : Nat) (l : List (OutWr × List Landing)) (hs : s.inv) : (s.landAll x h l).inv := by
  unfold State.landAll
  exact foldl_keeps _ State.inv (fun s a hs => landWrite_inv s x h _ a.2 hs) l s hs

theorem wheyAdd_inv (s : State) (l : List (Option Nat)) (h : s.inv) : (s.wheyAdd l).inv := by
  unfold State.wheyAdd
  refine foldl_keeps _ State.inv (fun s a hs => ?_) l s h
  cases a with
  | none => exact hs
  | some d => exact devPut_inv s d _ hs

theorem writeCopies_inv (s : State) (t : Table) (l : List Loc) (b : List PB) (h : s.inv) : (s.writeCopies t l b).inv := by
  unfold State.writeCopies
  exact foldl_keeps _ State.inv (fun s a hs => devWrite_inv s _ _ hs) _ s h

theorem writeAlternate_inv (s : State) (t : Table) (y : Layer) (l : List Loc) (b : List PB) (k : Nat) (h : s.inv) :
    (s.writeAlternate t y l b k).inv := by
  unfold State.writeAlternate
  refine foldl_keeps _ State.inv (fun s a hs => ?_) _ s h
  exact devPut_inv _ _ _ (devWrite_inv s _ _ hs)

theorem applySignal_inv (s : State) (f : Nat) (v : Word) (h : s.inv) : (s.applySignal f v).inv := by
  unfold State.applySignal
  split
  · exact inv_of_dev (s.devPut (fenceAddr f) (natLE 8 v.toNat)) _ (by simp) (devPut_inv s _ _ h)
  · exact devPut_inv s _ _ h

theorem handover_inv (s : State) (n : Nat) (t : Table) (l : List Ovr) (h : s.inv) : (s.handover n t l).inv :=
  handover_keeps State.inv (fun s a b hs => devWrite_inv s a b hs) (fun _ _ _ hs => inv_of_dev _ _ (by simp) hs)
    (fun _ _ _ hs => inv_of_dev _ _ (by simp) hs) s n t l h

end Sys2Proof.Laws
end

