-- ==== Sys2Proof/Tests/Slice0.lean ====
section
/-! SUPPORT. Small tests: ill-formed commands are refused by `Instr.wf`; each statement's hypotheses are met by a concrete state, clause
by clause at a boundary; worked examples of the spec. Every test is about one step or one operation. -/

namespace Sys2Proof.Tests

open Sys2Proof Sys2Proof.Machine Sys2Proof.Claims

set_option Elab.async false

/-! Small states. -/

/-- A slice that runs. -/
def slice0 : Slice := { run := 2, tick := 1000, lastLoad := 1000 }

/-- An engine after boot: four slices run, nothing is open. -/
def up : State := { State.reset with
  boot := { step := 12, ready := true, slices := 15, lock := true }, kTick := 1000, slices := [slice0, slice0, slice0, slice0] }

/-- A translation of a page to the same device page. -/
def same (page : Nat) : Xlat := { pasid := 9, page := page, read := true, write := true, toDevice := true, target := page }

/-- Context 5 OPEN with ring 0 and queue 0 on PS0; page 0 of device memory in device bias; pages 16, 32 and 48 translated. -/
def base : State := { up with
  dev := { cells := [(Config.biasBase, 1)] }, ctxs := [(5, { state := 1, pasid := 9 })],
  cqs := [(0, { ctx := 5, idx := 0, base := 0x10000, logSize := 4 })],
  sqs := [(0, { ctx := 5, idx := 0, slice := 0, base := 0x20000, logSize := 4, cq := 0 })],
  slices := [{ slice0 with atc := [same 16, same 32, same 48] }, slice0, slice0, slice0] }

/-- A list of `n` bytes with fields given as offset, size and value. -/
def bytesOf (n : Nat) (l : List (Nat × Nat × Nat)) : List Byte := natLE n ((l.map (fun f => f.2.2 * 256 ^ f.1)).sum)

/-- A command of queue 0 with the packet fields given. -/
def cmdOf (op : Nat) (l : List (Nat × Nat × Nat)) : Cmd :=
  { slice := 0, ctx := 5, q := 0, cq := 0, seq := 0, opcode := op, pkt := bytesOf 64 l, ext := [] }

/-- The state `s` with command 1. -/
def having (s : State) (c : Cmd) : State := { s with cmds := [(1, c)], nextCmd := 2 }

/-- The next state of a command. -/
def after (i : Instr) (s : State) : Option State :=
  match exec i s with
  | .next t => some t
  | _ => none

/-- The fault of a command that stops with one. -/
def stops (i : Instr) (s : State) : Option Fault :=
  match exec i s with
  | .fault f => some f
  | _ => none

/-! The machine. -/

theorem test_step_front : step { up with pending := [.snoop 0 0, .skewMerge] } = exec (.snoop 0 0) { up with pending := [.skewMerge] } := rfl
theorem test_empty_queue : up.pending = [] ∧ up.live = true ∧ State.reset.pending = [] ∧ State.reset.live = false ∧ up.work = [] ∧ up.heldPeer = [] ∧
    up.cdc = [] ∧ (∀ p ∈ up.cmds, p.2.opcode ≠ 0xA) ∧ (∀ p ∈ up.chans, p.2.tg = none ∧ p.2.nextSplit = none) := by decide +kernel
theorem test_invariant : base.inv ∧ up.inv ∧ ∃ t, step { base with pending := [.snoop 0 0] } = .next t := by
  refine ⟨by decide +kernel, by decide +kernel, ?_⟩
  exact ⟨_, rfl⟩
theorem test_absent_address : stops (.memRead 0 (Config.devBytes - 1) 2) up = some (.noSuchAddress (Config.devBytes - 1)) ∧
    stops (.memWrite 3 Config.devBytes [1] false) up = some (.noSuchAddress Config.devBytes) := by decide +kernel
theorem test_last_address : (after (.memWrite 0 (Config.devBytes - 1) [7] false) up).map (fun t => t.dev.byte (Config.devBytes - 1)) = some 7 := by
  decide +kernel
theorem test_memory : base.dev.wf = true ∧ (base.dev.write 62 [⟨1, 0⟩, ⟨2, 0⟩, ⟨3, 0⟩]).bytes 61 5 = [0, 1, 2, 3, 0] := by decide +kernel
theorem test_sectors : ({ base.dev with bad := [1], poison := [2] } : Mem).wf = true ∧
    (({ base.dev with bad := [1], poison := [2] } : Mem).writeClean 32 (List.replicate 33 0)).sector 1 = 0 ∧
    (({ base.dev with bad := [1], poison := [2] } : Mem).writeClean 32 (List.replicate 33 0)).sector 2 = 4 := by decide +kernel

/-! The host port. -/

theorem test_mem_write : up.inv ∧ up.portUp 0 = true ∧ Config.devBytes - 64 + 64 ≤ Config.devBytes ∧ up.sliceUp (sliceOf (Config.devBytes - 64)) = true ∧
    up.repairing (Config.devBytes - 64) 64 = false ∧ (List.range 64).all (fun i => !guarded (Config.devBytes - 64 + i) && !up.inTable (Config.devBytes - 64 + i)) = true ∧
    up.boot.step ≠ 10 ∧ (Config.devBytes - 64) % 64 = 0 := by decide +kernel
/-- Boot step 10 with one entry in the row-retire list, a DRAM row of S0 at level 1: its stack is under repair. -/
def mending : State := { up with boot := { step := 10, slices := 15, lock := true }, kpr := Tab.set up.kpr 0x130 1,
                                 dev := { cells := [(retireAddr 0 + 3, 1)] } }
theorem test_mem_held : mending.inv ∧ mending.portUp 0 = true ∧ mending.hostReady = true ∧ mending.repairing 0 64 = true ∧ mending.repairing Config.stackBytes 64 = false ∧
    (after (.memWrite 0 0 [7] false) mending).map (fun t => (t.dev.byte 0, t.memHeld)) = some (0, [.memWrite 0 0 [7] false]) := by decide +kernel
theorem test_mem_poison : (after (.memWrite 0 (Config.devBytes - 1) [7] true) up).map (fun t =>
    (t.dev.sector (Config.devBytes / 32 - 2), t.dev.sector (Config.devBytes / 32 - 1), t.dev.sector (Config.devBytes / 32 - 3))) = some (4, 4, 0) := by decide +kernel
theorem test_mem_read : up.hostReady = true ∧ up.repairing (Config.devBytes - 1) 1 = false ∧ up.sliceUp 3 = true ∧ Config.devBytes - 1 + 1 ≤ Config.devBytes ∧ 64 * ((Config.devBytes - 1) / 64) = Config.devBytes - 64 ∧
    up.sliceUp (sliceOf (Config.devBytes - 64)) = true ∧ ∀ i, i < 64 → up.dev.sector ((Config.devBytes - 64 + i) / 32) = 0 := by decide +kernel
/-- Slice PS3 in reset: its lines are answered poisoned. -/
def without3 : State := { up with slices := [slice0, slice0, slice0, {}] }
theorem test_mem_read_lost : without3.portUp 0 = true ∧ without3.sliceUp (sliceOf (Config.devBytes - 64)) = false ∧ without3.sliceUp 3 = false ∧
    without3.repairing (Config.devBytes - 64) 64 = false ∧
    (without3.memLine (Config.devBytes / 64 - 1)).2 = true := by decide +kernel
theorem test_window : Window base 0 5 ∧ base.queueOf 5 0 = some (0, (Tab.getD base.sqs 0 (newSq 0 0 0 0))) ∧
    (16 + 2 ^ 32 - (Tab.getD base.sqs 0 (newSq 0 0 0 0)).fetch % 2 ^ 32) % 2 ^ 32 = 2 ^ (Tab.getD base.sqs 0 (newSq 0 0 0 0)).logSize ∧
    (Tab.getD base.sqs 0 (newSq 0 0 0 0)).slice = 0 := by decide +kernel
theorem test_doorbell : (after (.doorbell 0 5 0 16) base).map (fun t => t.sqs.map (fun p => (p.2.tail, p.2.ignored))) = some [(16, 0)] ∧
    (after (.doorbell 0 5 0 17) base).map (fun t => t.sqs.map (fun p => (p.2.tail, p.2.ignored))) = some [(0, 1)] := by decide +kernel
theorem test_release : base.ringOf 5 0 = some (0, newCq 5 (4 * 2 ^ 24) 0x10000) ∧
    (0 + 2 ^ 32 - 0xFFFFFFF0) % 2 ^ 32 = 2 ^ (newCq 5 (4 * 2 ^ 24) 0x10000).logSize ∧
    2 ^ (newCq 5 (4 * 2 ^ 24) 0x10000).logSize < (0 + 2 ^ 32 - 0xFFFFFFEF) % 2 ^ 32 := by decide +kernel
/-- Fence 3 live with value 7, of context 5; entry 1 of queue 0 selected at PS0. -/
def fenced : State := { base with
  dev := { cells := [(fenceAddr 3, 7), (fenceAddr 3 + 8, 5), (fenceAddr 3 + 0xA, 1), (Config.biasBase, 1)] },
  slices := [{ slice0 with atc := [same 16, same 32, same 48], fsel := [(5, 256)] }, slice0, slice0, slice0] }
theorem test_fence_slot : Window fenced 0 5 ∧ fenced.selectedEntry 0 5 = some (0, 1) ∧ (Tab.get? fenced.sqs 0).isSome = true ∧ fenced.inv := by decide +kernel
theorem test_fault_clear : base.portUp 1 = true ∧ (base.ctx 5).fw = false ∧ (base.ctx 6).state = 0 := by decide +kernel
/-- A host write of context 5 outstanding at PS0. -/
def writing : State := { base with hostWr := [{ slice := 0, ctx := 5, h := 1, addr := 0, bytes := [1], poisoned := false }] }
theorem test_flush : writing.portUp 0 = true ∧ (∃ w ∈ writing.hostWr, w.ctx = 5 ∧ w.slice < 4) ∧ (∀ w ∈ base.hostWr, w.ctx ≠ 5 ∨ 4 ≤ w.slice) ∧
    (writing.hostWr.find? (fun v => v.slice == 0 && v.ctx == 5)).isSome = true := by decide +kernel
theorem test_read_back : base.portUp 2 = true ∧ (0xFF8 : Nat) % 8 = 0 ∧ (0xFF8 : Nat) ≠ 0x010 := by decide +kernel
theorem test_window_write : base.inv ∧ Window base 0 5 ∧ 0x1000 ≤ 0xFFC0 ∧ 0xFFC0 + (List.replicate 64 (1 : Byte)).length ≤ 0x10000 := by decide +kernel
theorem test_command_port : (∃ s : State, s = { base with
      ctxs := [(5, { state := 1, pasid := 9, fw := true, fwPort := 7 })], fw := [(7, { list := { ctxs := [5] } })] } ∧ s.hostReady = true ∧
      s.fwForwards 7 5 = true ∧ s.sliceUp (s.ctx 5).home = true ∧ 0 < (Tab.getD s.fw 7 {}).credits ∧ (Tab.getD s.links 29 {}).down = false) ∧
    base.fwForwards 7 5 = false := ⟨⟨_, rfl, by decide +kernel⟩, by decide +kernel⟩
theorem test_invalidation : base.portUp 0 = true ∧ base.slices.length = 4 ∧ base.hostWr = [] ∧ base.lineReqs = [] := by decide +kernel
/-- A translation asked for by command 1, and a line. -/
def asking : State := { base with
  atsReqs := [{ slice := 0, who := .cmd 1, ctx := 5, page := 77, write := true, which := 3, addr := 77 * 4096, coords := [] }],
  lineReqs := [{ slice := 0, who := .cmd 1, device := false, own := false, line := 9 }] }
theorem test_translation : ∃ r ∈ asking.atsReqs, r.slice = 0 ∧ (if r.write then true else false) = true ∧
    (∀ q ∈ asking.atsReqs, q.slice = 0 ∧ q.who = r.who ∧ q.page = r.page → q = r) ∧ (150994944 - 1) * 4096 + 4096 ≤ Config.devBytes := by decide +kernel
theorem test_line : (asking.lineReqs.find? (fun q => q.slice == 0 && q.who == .cmd 1 && q.line == 9)) =
    some { slice := 0, who := .cmd 1, device := false, own := false, line := 9 } ∧ asking.asks (.cmd 1) = false ∧
    ({ asking with cmds := [(1, cmdOf 0x13 [])] } : State).asks (.cmd 1) = true := by decide +kernel

/-! Contexts and their objects. -/

/-- The keeper page's argument words set. -/
def withArgs (l : List Nat) (s : State) : State := (List.range l.length).foldl (fun acc i => acc.setKreg (0x80 + 8 * i) (l.getD i 0)) s
/-- The size of ring or queue 3 of context 5, on PS3. -/
def obj3 : Nat := 5 + 3 * 2 ^ 16 + 16 * 2 ^ 24
theorem test_ctx_open : ∃ s, s = withArgs [4095, 0xFFFFF + 2 * 2 ^ 32 + 7 * 2 ^ 40 + 3 * 2 ^ 48] base ∧ KeeperIdle s 3 ∧ arg s 0 = 4095 ∧
    arg s 1 = 0xFFFFF + 2 * 2 ^ 32 + 7 * 2 ^ 40 + 3 * 2 ^ 48 ∧ (∀ i, i < 7 → arg s (2 + i) = 0) ∧ (s.ctx 4095).state = 0 :=
  ⟨_, rfl, by decide +kernel⟩
theorem test_cq_create : ∃ s, s = withArgs [obj3, 0x7000] base ∧ KeeperIdle s 0 ∧ arg s 0 % 4096 = 5 ∧ arg s 0 &&& 0x1F3F0FFF = arg s 0 ∧
    bits (arg s 0) 28 24 = 16 ∧ arg s 1 % 4096 = 0 ∧ s.isOpen 5 = true ∧ s.ringOf 5 (bits (arg s 0) 21 16) = none ∧
    Tab.lowestFree s.cqs Config.queues = some 1 := ⟨_, rfl, by decide +kernel⟩
theorem test_cq_destroy : ∃ s : State, s = withArgs [5] { base with sqs := [] } ∧ KeeperIdle s 0 ∧ arg s 0 &&& 0x3F0FFF = arg s 0 ∧
    (s.ringOf 5 (bits (arg s 0) 21 16)).isSome = true ∧ (∀ p ∈ s.sqs, p.2.cq ≠ 0) := ⟨_, rfl, by decide +kernel⟩
theorem test_sq_create : ∃ s, s = withArgs [obj3 + 3 * 2 ^ 32, 0x7000] base ∧ KeeperIdle s 0 ∧
    arg s 0 &&& (0x1F3F0FFF + 3 * 2 ^ 32 + 0x3F * 2 ^ 40) = arg s 0 ∧ s.queueOf 5 (bits (arg s 0) 21 16) = none ∧
    (s.ringOf 5 (bits (arg s 0) 45 40)).isSome = true ∧ s.sliceUp (bits (arg s 0) 33 32) = true ∧ Tab.lowestFree s.sqs Config.queues = some 1 :=
  ⟨_, rfl, by decide +kernel⟩
theorem test_sq_destroy : ∃ s, s = withArgs [5] base ∧ (s.queueOf 5 (bits (arg s 0) 21 16)).map (fun p => (p.2.fetch % 2 ^ 32, p.2.tail, p.2.pkts.length)) =
    some (0, 0, 0) ∧ (∀ p ∈ s.cmds, p.2.q ≠ 0) := ⟨_, rfl, by decide +kernel⟩
theorem test_objects_run : (after (.cqCreate 0 9) (withArgs [obj3, 0x7000] base)).map (fun t => (t.cqs.length, t.kreg 0x50, bits (t.kreg 0x48) 47 16)) =
    some (2, 1, 5 * 256 + 9 * 65536) ∧ (after (.ctxOpen 3 0) (withArgs [4095, 0xFFFFF] base)).map (fun t => (t.ctx 4095).pasid) = some 0xFFFFF := by
  decide +kernel
theorem test_fence_alloc : ∃ s, s = withArgs [5, 77] base ∧ s.inv ∧ KeeperIdle s 0 ∧ s.sliceUp 0 = true ∧ arg s 0 < 4096 ∧ s.isOpen (arg s 0) = true ∧
    firstFrom (fun f => s.fenceState f == 0) 0 Config.fences = some 0 := ⟨_, rfl, by decide +kernel⟩
theorem test_fence_free : ∃ s, s = withArgs [3] fenced ∧ s.inv ∧ KeeperIdle s 0 ∧ arg s 0 < 2 ^ 18 ∧ s.fenceState (arg s 0) ≠ 0 ∧ s.fenceNamed (arg s 0) = false :=
  ⟨_, rfl, by decide +kernel⟩
theorem test_fence_grant : ∃ s : State, s = withArgs [3 + 4095 * 2 ^ 32 + 2 ^ 48] { fenced with ctxs := [(5, { state := 1 }), (4095, { state := 1 })] } ∧
    s.inv ∧ KeeperIdle s 0 ∧ arg s 0 = 3 + 4095 * 2 ^ 32 + (if true then 2 ^ 48 else 0) + (if false then 2 ^ 49 else 0) ∧ s.fenceState 3 = 1 ∧
    s.isOpen 4095 = true ∧ s.fenceOwner 3 ≠ 4095 ∧ s.grantOf 3 4095 = none ∧
    (List.range 7).find? (fun i => !bitAt (s.fenceGrant 3 i) 14) = some 0 := ⟨_, rfl, by decide +kernel⟩
/-- Context 6 has the wait right on fence 3. -/
def granted : State := { fenced with
  dev := { cells := [(fenceAddr 3, 7), (fenceAddr 3 + 8, 5), (fenceAddr 3 + 0xA, 1), (fenceAddr 3 + 0x10, 6), (fenceAddr 3 + 0x11, 0x50), (Config.biasBase, 1)] } }
theorem test_fence_revoke : ∃ s, s = withArgs [3 + 6 * 2 ^ 32] granted ∧ s.inv ∧ KeeperIdle s 0 ∧ arg s 0 = 3 + 6 * 2 ^ 32 ∧ s.fenceState 3 ≠ 0 ∧
    s.grantOf 3 6 = some 0 := ⟨_, rfl, by decide +kernel⟩
theorem test_fw_set : ∃ s, s = withArgs [7, Config.devBytes - 512] base ∧ KeeperIdle s 0 ∧ arg s 0 < 8 ∧ arg s 1 % 64 = 0 ∧
    arg s 1 + 512 ≤ Config.devBytes ∧ (∀ i, i < 512 → s.dev.sector ((arg s 1 + i) / 32) = 0) ∧
    fwImage (s.dev.bytes (arg s 1) 512) = some {} := ⟨_, rfl, by decide +kernel⟩
theorem test_fences_run : (after (.fenceAlloc 0 0) (withArgs [5, 77] base)).map (fun t => (t.fenceState 0, t.fenceOwner 0, t.fenceValue 0)) = some (1, 5, 77) ∧
    (after (.fenceRevoke 0 0) (withArgs [3 + 6 * 2 ^ 32] granted)).map (fun t => t.fenceGrant 3 0) = some 0 := by decide +kernel
theorem test_kill : ∃ s, s = withArgs [5] base ∧ s.isOpen 5 = true ∧ KeeperIdle s 0 ∧ arg s 0 = 5 := ⟨_, rfl, by decide +kernel⟩
theorem test_context_kill : (having base (cmdOf 0x24 [(8, 2, 5)])).running 1 0x24 = some (cmdOf 0x24 [(8, 2, 5)]) ∧
    (cmdOf 0x24 [(8, 2, 5)]).fld 8 2 % 4096 = 5 := by decide +kernel
/-- Context 5 at step `n` of its teardown. -/
def killing (n : Nat) : State := { base with ctxs := [(5, { state := 2, pasid := 9, kill := some { h := none, step := n } })] }
theorem test_kill_steps : (∀ n ∈ [1, 4, 8], ((killing n).ctx 5).kill = some { h := none, step := n } ∧ (∀ w ∈ (killing n).hostWr, w.ctx ≠ 5) ∧
    (killing n).peerReqs = []) ∧ (after (.killStepDone 5) (killing 8)).map (fun t => ((t.ctx 5).state, t.sqs.length)) = some (0, 0) := by decide +kernel
/-- Its command 1 asked engine 3, which is lost, for a row. -/
def killingLost : State := { killing 8 with
  ctxs := [(5, { state := 2, pasid := 9, kill := some { h := none, step := 8, handles := [1] } })],
  peerReqs := [{ tag := 0, h := 1, peer := 3, want := .row 0 }] }
theorem test_kill_lost_peer : (∀ r ∈ killingLost.peerReqs, r.h ∈ [1] ∧ presentIn killingLost.self killingLost.declared r.peer = false) ∧
    (after (.killStepDone 5) killingLost).map (fun t => ((t.ctx 5).state, t.peerReqs)) = some (0, []) ∧
    (after (.killStepDone 5) { killingLost with declared := 8 }).map (fun t => (t.ctx 5).state) = some 2 := by decide +kernel
theorem test_kill_begins : (after (.ctxKill 0 0) (withArgs [5] base)).map (fun t => ((t.ctx 5).state, (t.ctx 5).kill.map Kill.step, t.mgmtBusy.isSome)) =
    some (2, some 1, true) := by decide +kernel

/-! Fences. -/

theorem test_signal : fenced.inv ∧ 3 < Config.fences ∧ fenced.fenceState 3 = 1 ∧ (0 : Int) < ((8 : Word) - fenced.fenceValue 3).toInt ∧
    ((8 + 2 ^ 63 : Word) - fenced.fenceValue 3).toInt ≤ 0 ∧ fenced.fenceState 4 ≠ 1 := by decide +kernel
theorem test_signal_runs : (fenced.applySignal 3 8).fenceValue 3 = 8 ∧ (fenced.applySignal 3 7).fenceValue 3 = 7 ∧ (fenced.applySignal 3 7).fenceIgnored 3 = 1 := by
  decide +kernel
/-- FENCE_SIGNAL of 8 to fence 3; FENCE_WAIT for `v` on it, with a timeout of 900 ticks. -/
def signal8 : Cmd := cmdOf 0x10 [(0xC, 4, 3), (0x10, 8, 8)]
def waitFor (v : Nat) : Cmd := cmdOf 0x11 [(0xC, 4, 3), (0x10, 8, v), (0x18, 4, 900)]
theorem test_fence_signal : (having fenced signal8).running 1 0x10 = some signal8 ∧
    (∃ s : State, s = { having fenced { signal8 with phase := .stage 1 } with fenceQ := [{ fence := 3, value := 8, h := some 1 }] } ∧ s.sliceUp 0 = true ∧
      (after .fenceApply s).map (fun t => (t.fenceValue 3, (Tab.get? t.cmds 1).map Cmd.aux)) = some (8, some (some 8))) :=
  ⟨by decide +kernel, _, rfl, by decide +kernel⟩
/-- What PS0 has sampled of fence 3. -/
def seen (v : Word) (orphan : Bool) (c : Cmd) : State := { having fenced c with
  slices := [{ slice0 with seen := [(3, (v, orphan))] }, slice0, slice0, slice0] }
theorem test_fence_wait : (seen 7 false (waitFor 7)).running 1 0x11 = some (waitFor 7) ∧
    waitState ((seen 7 false (waitFor 7)).seenOf 0 3) 7 = 0 ∧ (seen 7 true (waitFor 8)).running 1 0x11 = some (waitFor 8) ∧
    waitState ((seen 7 true (waitFor 8)).seenOf 0 3) 8 = 1 ∧ waitState ((seen 7 false (waitFor 8)).seenOf 0 3) 8 = 2 ∧
    (waitFor 8).fld 0x18 4 ≠ 0 ∧ (waitFor 8).tick + (waitFor 8).fld 0x18 4 ≤ ((seen 7 false (waitFor 8)).slc 0).tick ∧
    waitState (fenced.fenceValue 3, fenced.fenceState 3 == 2) 7 = 0 ∧ (having fenced (waitFor 7)).cmds = [(1, waitFor 7)] := by decide +kernel
theorem test_fence_free_waited : (after (.fenceFree 0 0) (withArgs [3] (having fenced (waitFor 8)))).map (fun t => t.fenceState 3) = some 1 ∧
    (after (.fenceFree 0 0) (withArgs [3] fenced)).map (fun t => t.fenceState 3) = some 0 := by decide +kernel
theorem test_delivery : (after (.fenceValueDelivery 0 3) (having fenced (waitFor 7))).map (fun t => (Tab.get? t.cmds 1).map (fun d => (d.phase, d.status, d.aux))) =
    some (some (.done, 0, some 7)) ∧ (after (.fenceWaitTimeout 1) (seen 7 false (waitFor 8))).map (fun t => (Tab.get? t.cmds 1).map Cmd.status) = some (some 0x14) := by
  decide +kernel

/-! The sequencer. -/

/-- Bytes as cells from an address on. -/
def cellsAt (a : Nat) (l : List Byte) : List Host.Cell :=
  match l with
  | [] => []
  | b :: r => if b = 0 then cellsAt (a + 1) r else (a, b) :: cellsAt (a + 1) r
theorem cellAt_cellsAt (l : List Byte) (t : List Host.Cell) : ∀ a i, (∀ p ∈ t, a + l.length ≤ p.1) → i < l.length → cellAt (cellsAt a l ++ t) (a + i) = l.getD i 0 := by
  have low : ∀ (l : List Byte) a p, p ∈ cellsAt a l → a ≤ p.1 := by
    intro l
    induction l with
    | nil => intro a p h; cases h
    | cons b r ih =>
      intro a p h
      unfold cellsAt at h
      split at h
      · exact Nat.le_of_succ_le (ih _ _ h)
      · rcases List.mem_cons.mp h with rfl | h
        · exact Nat.le_refl _
        · exact Nat.le_of_succ_le (ih _ _ h)
  induction l with
  | nil => intro a i _ h; exact absurd h (by simp)
  | cons b r ih =>
    intro a i ht hi
    simp only [List.length_cons] at ht hi
    have next : ∀ j, j < r.length → cellAt (cellsAt (a + 1) r ++ t) (a + 1 + j) = r.getD j 0 :=
      fun j hj => ih (a + 1) j (fun p hp => by have := ht p hp; omega) hj
    unfold cellsAt
    cases i with
    | zero =>
      split
      · rename_i hb
        rw [List.getD_cons_zero, hb]
        refine Sys2Proof.Laws.cellAt_absent _ _ (fun p hp => ?_)
        rcases List.mem_append.mp hp with h | h
        · have := low _ _ _ h; omega
        · have := ht p h; omega
      · simp [cellAt]
    | succ i =>
      rw [List.getD_cons_succ, show a + (i + 1) = a + 1 + i by omega]
      split
      · exact next i (by omega)
      · rw [List.cons_append, cellAt, if_neg (by omega)]
        exact next i (by omega)

/-- A BUOY packet of context 5, sequence number 0, with the generation tag `g`. -/
def slotPkt (g : Nat) : List Byte := bytesOf 64 [(0, 1, 0x13), (1, 2, 5), (6, 1, g)]
/-- A queue of context 5 with one slot to read. -/
def sq0 (rr : Option (Nat × Nat)) : SQ := { ctx := 5, idx := 0, slice := 0, base := 0x20000, logSize := 4, cq := 0, tail := 1, reread := rr }
/-- Queue 0 with the slot written and its fetch as given. -/
def doored (g : Nat) (rr : Option (Nat × Nat)) : State := { base with
  dev := { cells := cellsAt 0x20000 (slotPkt g) ++ [(Config.biasBase, 1)] }, sqs := [(0, sq0 rr)] }
theorem test_fetch : ∀ g ∈ [1, 2], Tab.get? (doored g none).sqs 0 = some (sq0 none) ∧ (doored g none).mayFetch (sq0 none) = true ∧
    ((doored g none).slotRead 0 (sq0 none)).needs = [] ∧
    (sq0 none).readFault ((doored g none).slotRead 0 (sq0 none)).val = g - 1 := by decide +kernel
theorem test_reread : ∀ g ∈ [1, 2], ∀ n ∈ [6, 7], (doored g (some (n, 936))).mayFetch (sq0 (some (n, 936))) = true ∧
    936 + 64 ≤ ((doored g (some (n, 936))).slc 0).tick ∧ ((doored g (some (n, 936))).slotRead 0 (sq0 (some (n, 936)))).needs = [] ∧
    (sq0 (some (n, 936))).readFault ((doored g (some (n, 936))).slotRead 0 (sq0 (some (n, 936)))).val = g - 1 := by decide +kernel
theorem test_fetch_runs : (after (.packetFetch 0) (doored 1 none)).map (fun t => t.sqs.map (fun p => (p.2.fetch, p.2.seq, p.2.pkts.length))) =
    some [(1, 1, 1)] ∧
    (after (.packetReread 0) (doored 2 (some (7, 936)))).map (fun t => t.sqs.map (fun p => (p.2.fetch, p.2.stopped))) = some [(0, true)] := by decide +kernel
/-- Queue 0 with a packet that waits for its admission. -/
def waitingPkt (p : Pkt) : State := { base with
  sqs := [(0, { sq0 none with fetch := 1, seq := 1, pkts := [p] })],
  slices := [{ slice0 with atc := [same 16, same 32, same 48], seen := [(3, (6, false))] }, slice0, slice0, slice0] }
def buoyPkt : Pkt := { bytes := slotPkt 1, ext := [] }
theorem test_rejected : ∃ k p, Tab.get? (waitingPkt { buoyPkt with verdict := some (0x10, 3) }).sqs 0 = some k ∧ k.pkts = p :: [] ∧
    (waitingPkt { buoyPkt with verdict := some (0x10, 3) }).isOpen k.ctx = true ∧ (waitingPkt buoyPkt).sliceUp k.slice = true ∧
    p.verdict = some (0x10, 3) := ⟨_, _, rfl, rfl, by decide +kernel⟩
theorem test_admitted : ∃ s k, s = waitingPkt buoyPkt ∧ Tab.get? s.sqs 0 = some k ∧ k.pkts = [buoyPkt] ∧ s.cmds = [] ∧
    s.planCheck (s.fixed (k.command 0 buoyPkt)) = none ∧
    (s.paramCheck { s.fetchActor 0 k with fw := buoyPkt.fw } (s.fixed (k.command 0 buoyPkt))).needs = [] ∧
    (s.paramCheck { s.fetchActor 0 k with fw := buoyPkt.fw } (s.fixed (k.command 0 buoyPkt))).val.1 = none ∧
    reservedZero buoyPkt.bytes = true ∧ s.heldBack (s.fixed (k.command 0 buoyPkt)) = false ∧ s.ringOpen k.cq = true ∧
    (s.namesMoving { s.fetchActor 0 k with fw := buoyPkt.fw } (s.fixed (k.command 0 buoyPkt))).needs = [] ∧
    (s.namesMoving { s.fetchActor 0 k with fw := buoyPkt.fw } (s.fixed (k.command 0 buoyPkt))).val = false :=
  ⟨_, _, rfl, rfl, rfl, rfl, by decide +kernel⟩
theorem test_wait_slot : ∃ s k p w, s = waitingPkt { buoyPkt with waitCap := some { fence := 3, value := 7, timeout := 900 }, waitFrom := some 100 } ∧
    Tab.get? s.sqs 0 = some k ∧ k.pkts = [p] ∧ p.waitCap = some w ∧ p.waitFrom = some 100 ∧ s.isOpen k.ctx = true ∧ s.sliceUp k.slice = true ∧
    w.timeout ≠ 0 ∧ 100 + w.timeout ≤ (s.slc k.slice).tick ∧ waitState (s.seenOf k.slice w.fence) w.value = 2 :=
  ⟨_, _, _, _, rfl, rfl, rfl, rfl, by decide +kernel⟩
/-- A BUOY that has ended, and the states in which its ring lies in device or host memory. -/
def ended : Cmd := { cmdOf 0x13 [] with phase := .done, status := 2, c0 := 2 ^ 40 }
def ringHost : State := { having base ended with
  slices := [{ slice0 with atc := [{ same 16 with toDevice := false }] }, slice0, slice0, slice0] }
theorem test_record : ∀ s ∈ [having base ended, ringHost], s.inv ∧ Tab.get? s.cmds 1 = some ended ∧ s.recordReady 1 ended = true ∧
    s.recordTurn 1 ended = true ∧ Tab.get? s.cqs ended.cq = some { ctx := 5, idx := 0, base := 0x10000, logSize := 4 } ∧
    ringFree { ctx := 5, idx := 0, base := 0x10000, logSize := 4 } ≠ 0 ∧ 0x10000 % 4096 = 0 ∧ inRanges ended.fw 0x10000 = true := by decide +kernel
theorem test_record_place : (having base ended).translate ((having base ended).actor 1 ended) 0 16 true = .device 16 ∧
    (having base ended).devNeeds (.cmd 1) true 0x10000 32 = [] ∧ ringHost.translate (ringHost.actor 1 ended) 0 16 true = .host 16 := by decide +kernel
theorem test_record_bytes : (after (.completionRecord 1) (having base ended)).map (fun t => (t.dev.bytes 0x10000 12, t.cmds.length)) =
    some ([0, 0, 2, 0, 0x13, 1, 0, 0, 255, 255, 255, 255], 0) := by decide +kernel
theorem test_query : ∀ k ∈ [0, 1, 2], (having base (cmdOf 0x30 [(8, 2, k), (0x10, 8, 0x10000)])).running 1 0x30 =
    some (cmdOf 0x30 [(8, 2, k), (0x10, 8, 0x10000)]) ∧ (cmdOf 0x30 [(8, 2, k), (0x10, 8, 0x10000)]).fld 8 2 = k := by decide +kernel
theorem test_query_table : ((having base (cmdOf 0x30 [(8, 2, 2), (0x10, 8, 0x10000)])).outAcc
    ((having base (cmdOf 0x30 [(8, 2, 2), (0x10, 8, 0x10000)])).actor 1 (cmdOf 0x30 [(8, 2, 2), (0x10, 8, 0x10000)]))
    [OutWr.mk 0 0x10000 (cleanBytes base.capBytes) 3 [0] 1]).needs = [] := by decide +kernel
theorem test_buoy : (after (.buoy 1) (having base (cmdOf 0x13 []))).map (fun t => t.cmds.map (fun p => p.2.phase)) = some [.done] := by decide +kernel

/-! Data commands. -/

/-- Table 7: three FP32 rows of two elements in one bucket, on S0 of engine 0; row slots from 0x100000, state rows from 0x180000. -/
def table7 : Table :=
  { desc := bytesOf 128 [(0x40, 8, 0x100000), (0x58, 8, 0x180000), (0x24, 4, 4096), (0x50, 8, 0x140000), (0x2C, 4, 4)], mapId := 11, fmt := 0, dim := 2, rows := 3,
    mbits := 2, stride := 32, key := List.replicate 16 0, buckets := [0], train := true, replace := true, ripen := false, step := 5,
    layer := { num := 1 } }
/-- Table 7 open at every slice, row slot `i` holding element 0 as 1.0, 2.0, 3.0. -/
def opened : State := { base with
  dev := { cells := [(0x100002, 0x80), (0x100003, 0x3F), (0x100023, 0x40), (0x100042, 0x40), (0x100043, 0x40), (Config.biasBase, 1)] },
  tables := [(7, table7)],
  slices := [{ slice0 with atc := [same 16, same 32, same 48, same 56], layers := [(7, { num := 1 })] }, { slice0 with layers := [(7, { num := 1 })] },
    { slice0 with layers := [(7, { num := 1 })] }, { slice0 with layers := [(7, { num := 1 })] }] }
/-- Index word of row `r` of table `t`. -/
def word (t r : Nat) : Nat := 2 ^ 63 + t * 2 ^ 40 + r
/-- A command admitted under the table's first layers, with a whey area. -/
def onTable (op : Nat) (l : List (Nat × Nat × Nat)) : Cmd := { cmdOf op ((8, 2, 7) :: l) with view := some { num := 1 }, whey := 0x30000 }
def look : Cmd := onTable 1 [(0xC, 2, 2), (0x10, 8, 0x10000), (0x18, 4, 32), (0x20, 8, word 7 0), (0x28, 8, word 6 0)]
theorem test_lookup : ∃ s r w y, s = having opened look ∧ s.running 1 1 = some look ∧ r = s.lookupRun 1 look ∧
    w = s.outAcc (s.actor 1 look) (r.val.writes.map Prod.snd) ∧ y = s.wheyAll (s.actor 1 look) 0 (s.wheyBase look) r.val.idx ∧
    r.needs ++ w.needs ++ y.needs = [] ∧ droppedCount r.val.idx = 1 ∧ y.val.length = 2 ∧ s.ringsFree look = true := ⟨_, _, _, _, rfl, by decide +kernel, rfl, rfl, rfl, by decide +kernel⟩
/-- The first output row is row 0 as stored, whatever slot it has; the second is zero; the whey counters of table 6 and reason 3 are 1. -/
theorem test_lookup_runs : (after (.lookup 1) (having opened look)).map (fun t => (t.dev.bytes 0x10000 64 == t.dev.bytes (table7.addrOf (table7.bucketOwner 7 0) false) 32 ++
    List.replicate 32 0, t.dev.num 0x30030 8, t.dev.num 0x38018 8, t.cmds.map (fun p => (p.2.status, p.2.c0)))) = some (true, 1, 1, [(1, 1)]) := by decide +kernel
theorem test_lookup_row : (List.replicate 32 (⟨7, 0⟩ : PB)).length = table7.stored ∧ contentBytes 0 2 = 8 := by decide +kernel
theorem test_drop_reasons : dropReason 7 (some 3) true 0 = some 0 ∧ dropReason 7 (some 3) false 0 = some 1 ∧
    dropReason 7 (some 3) false (word 7 0 + 2 ^ 52) = some 2 ∧ dropReason 7 (some 3) false (word 6 0) = some 3 ∧ dropReason 7 none false (word 7 0) = some 4 ∧
    dropReason 7 (some 3) false (word 7 3) = some 5 ∧ dropReason 7 (some 3) false (word 7 2) = none := by decide +kernel
def pool : Cmd := onTable 2 [(0xC, 2, 1), (0xE, 2, 3), (0x10, 8, 0x10000), (0x18, 4, 32), (0x20, 8, word 7 0), (0x28, 8, word 7 1), (0x30, 8, word 7 2)]
theorem test_pool : ∃ s r w y, s = having opened pool ∧ s.running 1 2 = some pool ∧ pool.phase = .ready ∧ r = s.poolRun 1 pool ∧
    w = s.outAcc (s.actor 1 pool) (r.val.out.writes.map Prod.snd) ∧ y = s.wheyAll (s.actor 1 pool) 0 (s.wheyBase pool) r.val.out.idx ∧
    r.needs ++ w.needs ++ y.needs = [] ∧ s.vatsFree r.val.used = true ∧ s.turnsBefore 1 pool = false ∧ s.ringsFree pool = true ∧ r.val.denied = false ∧ r.val.used = [0] :=
  ⟨_, _, _, _, rfl, by decide +kernel, rfl, rfl, rfl, rfl, by decide +kernel⟩
/-- R77: 1.0 + 2.0 + 3.0 is 6.0 in accumulator row 0 of vat 0. -/
theorem test_pool_runs : (after (.lookupPool 1) (having opened pool)).map (fun t => ((Tab.getD (t.vat 0).work 0 AccRow.zero).entries, (t.vat 0).finished)) =
    some ([0x40C00000, 0], some 1) := by decide +kernel
def curd : OutWr := { slice := 0, addr := 0x10000, bytes := cleanBytes [0, 0, 0xC0, 0x40], which := 3, coords := [0, 0], unit := 4 }
/-- Vat 0 holds the finished tile of command 1. -/
def drained : Cmd := { pool with phase := .stage 1, held := [(0, [curd])] }
theorem test_drain : ∃ s w, s = { having opened drained with vats := [(0, { work := [(0, AccRow.zero)], finished := some 1 })] } ∧ (s.vat 0).finished = some 1 ∧
    Tab.get? s.cmds 1 = some drained ∧ drained.phase = .stage 1 ∧ s.isOpen drained.ctx = true ∧ w = s.outAcc (s.actor 1 drained) [curd] ∧ w.needs = [] ∧
    (after (.tileDrain 0 0) s).map (fun t => t.dev.num 0x10000 4) = some 0x40C00000 := ⟨_, _, rfl, rfl, rfl, rfl, by decide +kernel, rfl, by decide +kernel⟩
/-- A SCORE_TOPK whose one part has come. -/
def scored : Cmd := { onTable 3 [(0xA, 1, 1), (0xC, 1, 2), (0x1C, 4, 3), (0x2C, 4, 32), (0x38, 8, 0x10000)] with
  phase := .stage 1, scans := [{ num := 0, src := 0, fed := 2, masked := 1, queries := [{ top := [{ value := 0x40000000, row := 1 }], m := 0x40000000, z := 0x3F800000, poisoned := false }] }] }
theorem test_score : ∃ s w, s = having opened scored ∧ s.running 1 3 = some scored ∧ (∀ p ∈ scored.scans, p.pending = false) ∧
    w = s.outAcc (s.actor 1 scored) (scoreWrites scored 1) ∧ w.needs = [] ∧ w.val.length = 1 := ⟨_, _, rfl, by decide +kernel, by decide +kernel, rfl, by decide +kernel⟩
theorem test_score_runs : (after (.scoreTopk 1) (having opened scored)).map (fun t => (t.dev.num 0x10000 4, t.dev.num 0x10004 4, t.dev.num 0x10008 4, t.dev.num 0x1000C 4)) =
    some (0x40000000, 1, 0xFF800000, 0xFFFFFFFF) := by decide +kernel
/-- Table 7 with a second bucket on engine 3, and a SCORE_TOPK of one query that has not begun. -/
def spread : State := { opened with tables := [(7, { table7 with buckets := [0, 3] })], declared := 8,
                                    boot := { opened.boot with strapGsize := 4 } }
def scoring : Cmd := { onTable 3 [(0xA, 1, 1), (0xC, 1, 2), (0x10, 8, 0x10000), (0x1C, 4, 3), (0x18, 4, 32), (0x2C, 4, 32), (0x38, 8, 0x10000)] with present := 8 }
theorem test_score_peers : ∃ s t y, s = having spread scoring ∧ s.running 1 3 = some scoring ∧ s.viewOf scoring = some (t, y) ∧
    (s.readQueries (s.actor 1 scoring) scoring t.dim).needs = [] ∧ (s.readMask (s.actor 1 scoring) scoring).needs = [] ∧
    t.parts y = [0, 1] ∧ t.partServed y scoring s.self 0 = some s.self ∧ t.partServed y scoring s.self 1 = some 3 ∧ s.self = 0 ∧ s.ringsFree scoring = true :=
  ⟨_, _, _, rfl, by decide +kernel, rfl, by decide +kernel⟩
theorem test_topk : (∀ a ∈ ([⟨0x3F800000, 4⟩, ⟨0x40000000, 9⟩, ⟨0x80000000, 1⟩, ⟨0, 2⟩] : List ScanEntry), F32.isNaN a.value = false) ∧
    (topK 3 [⟨0x3F800000, 4⟩, ⟨0x40000000, 9⟩, ⟨0x80000000, 1⟩, ⟨0, 2⟩]).map ScanEntry.row = [9, 4, 1] := by decide +kernel

/-- One contribution to row 0 of table 7 in context memory: the index word at 0x10000, the gradient (1.0, 0) at 0x10040. -/
def wordAt (s : State) : State := { s with dev := { s.dev with cells := [(0x10005, 7), (0x10007, 0x80), (0x10042, 0x80), (0x10043, 0x3F)] ++ s.dev.cells } }
def scat : Cmd := onTable 4 [(0xA, 1, 0x10), (0xC, 2, 1), (0x10, 8, 5), (0x18, 4, 32), (0x20, 8, 0x10000), (0x28, 8, 0x10040)]
theorem test_scatter : ∃ s r w, s = having (wordAt opened) scat ∧ s.running 1 4 = some scat ∧ scat.phase = .ready ∧ s.ringsFree scat = true ∧ s.viewOf scat = some (table7, { num := 1 }) ∧
    r = s.scatterRun 1 scat 2 ∧ w = s.wheyAll (s.actor 1 scat) 0 (s.wheyBase scat) (r.val.map Prod.fst) ∧ r.needs ++ w.needs = [] ∧ s.awaitsPeer 1 = false ∧
    scat.got = [] ∧ (∀ p ∈ r.val, p.1.drop = none ∧ (table7.contribOwner { num := 1 } 7 5 (indexWord p.1.word).row).engine = s.self ∧
      s.sliceUp ((table7.contribOwner { num := 1 } 7 5 (indexWord p.1.word).row).stack / 3) = true) ∧
    table7.contribs = [] ∧ r.val.length * recordSize 2 ≤ table7.updPart ∧ r.val.length = 1 :=
  ⟨_, _, _, rfl, by decide +kernel, rfl, by decide +kernel, rfl, rfl, rfl, by decide +kernel⟩
/-- Table 7 with the contribution (1.0, 0) to row 0 for step 5 and one for step 6, its own seal held. -/
def full7 : Table := { table7 with
  contribs := [{ row := 0, engine := 0, slice := 0, batch := 0, step := 5, elems := [⟨0x3F800000, false⟩, ⟨0, false⟩], owner := 0, level := 0, arrival := 0 },
               { row := 1, engine := 0, slice := 0, batch := 1, step := 6, elems := [⟨0, false⟩, ⟨0, false⟩], owner := 0, level := 0, arrival := 1 }],
  seals := [(0, 5)] }
/-- APPLY_STEP of SGD with learning rate 0.5 that waits for seals. -/
def apply5 : Cmd := { onTable 5 [(0x10, 8, 5), (0x20, 4, 0x3F000000)] with phase := .stage 1 }
theorem test_apply : ∃ s : State, s = { having opened apply5 with tables := [(7, full7)] } ∧ s.running 1 5 = some apply5 ∧ Tab.get? s.tables apply5.table = some full7 ∧
    s.viewOf apply5 = some (full7, { num := 1 }) ∧ s.sealed apply5 full7 = true ∧ s.readersBefore 1 apply5.table = false ∧
    s.handoverHeld 1 apply5.table full7 = false ∧ s.ringsFree apply5 = true ∧ s.work = [] ∧ full7.layer.pend = [] ∧ full7.stalled = [] ∧
    s.unsealedLost apply5 full7 = [] ∧ s.applyNeeds 1 7 full7 { num := 1 } [0] = [] ∧
    (Acc.list (((full7.contribs.filter (fun k => k.step == full7.step)).filter (fun k =>
      !(s.unsealedLost apply5 full7).contains k.engine && s.reachable 7 full7 { num := 1 } k)).map (s.spillRead (.cmd 1) apply5 full7))).needs = [] ∧
    sortBy (fun a b => decide (a < b)) (nubNat ((Acc.list (((full7.contribs.filter (fun k => k.step == full7.step)).filter (fun k =>
      !(s.unsealedLost apply5 full7).contains k.engine && s.reachable 7 full7 { num := 1 } k)).map (s.spillRead (.cmd 1) apply5 full7))).val.map Contrib.row)) = [0] :=
  ⟨_, rfl, by decide +kernel⟩
/-- R156: row 0 lies in slot 1; 2.0 - 0.5 × 1.0 is 1.5, and contributions of step 6 stay. -/
theorem test_apply_runs : (after (.applyStep 1) { having opened apply5 with tables := [(7, full7)] }).map (fun t =>
    (t.dev.num 0x100020 4, (t.cmds.map (fun p => (p.2.c0, p.2.status))), t.tables.map (fun p => p.2.contribs.length))) =
    some (0x3FC00000, [(1, 0)], [1]) := by decide +kernel
theorem test_apply_empty : ∃ s : State, s = { having opened apply5 with tables := [(7, { full7 with contribs := full7.contribs.drop 1 })] } ∧
    s.running 1 5 = some apply5 ∧ s.sealed apply5 { full7 with contribs := full7.contribs.drop 1 } = true ∧ s.readersBefore 1 7 = false ∧
    s.handoverHeld 1 7 { full7 with contribs := full7.contribs.drop 1 } = false ∧ s.ringsFree apply5 = true ∧ s.work = [] ∧
    ∀ k ∈ full7.contribs.drop 1, k.step ≠ full7.step := ⟨_, rfl, by decide +kernel⟩
def rowIn : Cmd := onTable 6 [(0xA, 1, 0x11), (0xC, 2, 1), (0x10, 8, 0x10040), (0x18, 4, 32), (0x20, 8, 0x10000)]
theorem test_row_write : ∃ s r w, s = having (wordAt opened) rowIn ∧ s.running 1 6 = some rowIn ∧ rowIn.phase = .ready ∧
    s.viewOf rowIn = some (table7, { num := 1 }) ∧ ({ num := 1 } : Layer).replacing = false ∧ r = s.rowWriteRun 1 rowIn (some table7) ∧
    w = s.wheyAll (s.actor 1 rowIn) 0 (s.wheyBase rowIn) r.val.1 ∧ r.needs ++ w.needs = [] ∧ s.readersBefore 1 7 = false ∧
    (∀ x ∈ r.val.2, x.poisoned = false ∧ s.copyNeeds (.cmd 1) table7 (s.copiesHere table7 { num := 1 } 7 x.row) = []) ∧ r.val.2.length = 1 :=
  ⟨_, _, _, rfl, by decide +kernel, rfl, rfl, rfl, rfl, rfl, by decide +kernel⟩
theorem test_row_write_runs : (after (.rowWrite 1) (having (wordAt opened) rowIn)).map (fun t => t.dev.num (table7.addrOf (table7.bucketOwner 7 0) false) 4) =
    some 0x3F800000 := by decide +kernel

/-! Streams, tiles and barriers. -/

/-- A one-element descriptor of `run` bytes at `base`. -/
def oneDesc (base run : Nat) : List Byte := bytesOf 64 [(0, 8, base), (8, 4, run), (0xC, 1, 1), (0x10, 2, 1)]
def flow : Cmd := { cmdOf 9 [(0xA, 1, 0x10), (0x10, 8, 0x30000), (0x18, 8, 0x30040)] with descs := oneDesc 0x10040 32 ++ oneDesc 0x20000 32 }
theorem test_stream : ∃ s r w, s = having (wordAt opened) flow ∧ s.running 1 9 = some flow ∧
    windowPieces (flow.descs.take 64) 0 32 = [{ elem := 0, off := 0, addr := 0x10040, len := 32 }] ∧ flow.fld 0x28 8 = 0 ∧ descLen (flow.descs.take 64) = 32 ∧
    r = s.readPieces (s.actor 1 flow) 0 (flow.descs.take 64) (windowPieces (flow.descs.take 64) 0 32) ∧
    w = Acc.list ((windowPieces (flow.descs.drop 64) 0 32).map (fun p => s.writePiece (s.actor 1 flow) 0 (flow.descs.drop 64) p
      (openBytes s.freeCtr (windowPieces (flow.descs.take 64) 0 32) (windowPieces (flow.descs.drop 64) 0 32) p ((r.val.flatten.drop (p.off - 0)).take p.len)))) ∧
    r.needs ++ w.needs = [] ∧ s.ringsFree flow = true := ⟨_, _, _, rfl, by decide +kernel, by decide +kernel, by decide +kernel, by decide +kernel, rfl, rfl, by decide +kernel⟩
theorem test_stream_runs : (after (.stream 1) (having (wordAt opened) flow)).map (fun t => (t.dev.num 0x20000 4, t.cmds.map (fun p => (p.2.phase, p.2.status)))) =
    some (0x3F800000, [(.done, 0)]) := by decide +kernel
/-- What is not zero of a plan image that passes every check: table 7 bound, schedules for STREAM and MULTICAST, one tree of a ring and slot 0. -/
def plan : List Byte := bytesOf 0x264 [
    (0x0, 4, 0x4C505A45), (0x4, 2, 0x1), (0x6, 1, 0x2), (0x7, 1, 0x1), (0x8, 4, 0x1000), (0xC, 2, 0x6), (0xE, 1, 0x1), (0x18, 4, 0xF193C),
    (0x40, 2, 0x1), (0x44, 4, 0xC0), (0x48, 4, 0x8), (0x4C, 4, 0x1), (0x50, 2, 0x2), (0x54, 4, 0x100), (0x58, 4, 0x40), (0x5C, 4, 0x2),
    (0x60, 2, 0x3), (0x64, 4, 0x140), (0x68, 4, 0x40), (0x6C, 4, 0x1), (0x70, 2, 0x4), (0x74, 4, 0x180), (0x78, 4, 0x30), (0x7C, 4, 0x2),
    (0x80, 2, 0x5), (0x84, 4, 0x1C0), (0x88, 4, 0x18), (0x8C, 4, 0x1), (0x90, 2, 0x7), (0x94, 4, 0x200), (0x98, 4, 0x60), (0x9C, 4, 0x1),
    (0xC0, 8, 0xB00000007), (0x100, 1, 0x9), (0x106, 2, 0xFFFF), (0x120, 1, 0xA), (0x124, 2, 0x1), (0x180, 2, 0x1), (0x189, 1, 0x3), (0x18A, 2, 0x1),
    (0x18C, 1, 0x4), (0x198, 2, 0x1), (0x1A1, 1, 0x3), (0x1A2, 2, 0x1), (0x1A4, 1, 0x5), (0x1C2, 2, 0x2), (0x1CA, 2, 0xFFFF), (0x1D0, 2, 0x8000),
    (0x220, 64, 0xFFFFFFFFFFFFFFFFFFFFFFFFFFFFFFFFFFFFFFFFFFFFFFFFFFFFFFFFFFFFFFFFFFFFFFFFFFFFFFFFFFFF00010000FFFFFFFFFFFFFFFFFFFFFFFFFFFFFFFFFFFF), (0x260, 4, 0x62C966DA), (0x1C, 4, 0xFFFFFFFF)]
/-- A MULTICAST of 32 bytes from 0x10040 to slot 0 at 0x20000. -/
def fan : Cmd := { cmdOf 0xA [(0xA, 1, 0x10), (0xC, 4, 900)] with image := plan, descs := oneDesc 0x10040 32 ++ bytesOf 512 [(0, 8, 0x20000)] }
theorem test_multicast : (having (wordAt opened) fan).running 1 0xA = some fan ∧ fan.phase = .ready ∧ (having (wordAt opened) fan).ringsFree fan = true ∧
    multicastTree fan = some 0 ∧ (treeSpan fan.image 0).2 = 2 ∧ nodeIsSlot (treeNode fan.image 0 0) = false ∧ nodeIsSlot (treeNode fan.image 0 1) = true := by decide +kernel
/-- The MULTICAST once it has begun. -/
def fanning : Option State := after (.multicast 1) (having (wordAt opened) fan)
theorem test_multicast_begins : fanning.map (fun t => (Tab.get? t.cmds 1).map (fun d => (d.phase, d.nodes.map (fun n => n.ring.slots)))) =
    some (some (.stage 1, [3, 0])) := by decide +kernel
/-- Its nodes when every slot holds the stream, or none does; a host write of its slot outstanding or not. -/
def fanned (n : Nat) : Cmd := { fan with phase := .stage 1, begun := true, data := List.replicate n ⟨1, 0⟩, nodes := [{ got := n }, { got := n, put := n, since := some 50 }] }
theorem test_multicast_ends : (having opened (fanned 32)).running 1 0xA = some (fanned 32) ∧ multicastTree (fanned 32) = some 0 ∧ (fanned 32).mcDone 0 = true ∧
    (fanned 0).mcDone 0 = false ∧ (∀ v ∈ (having opened (fanned 32)).hostWr, v.h ≠ 1) ∧ (fanned 0).fld 0xC 4 ≠ 0 ∧ (having opened (fanned 0)).detaches (fanned 0) 0 = [1] := by decide +kernel
def tile (op : Nat) : Cmd := cmdOf op [(9, 1, 2), (0xB, 1, 63), (0xC, 1, 1), (0x10, 8, 0x10000)]
/-- Row 63 of vat 2 as written by context 6. -/
def tiled (c : Cmd) : State := { having opened c with vats := [(2, { work := [(63, { AccRow.zero with writer := some 6 })] })] }
theorem test_tile_read : ∃ s w, s = tiled (tile 0xB) ∧ s.running 1 0xB = some (tile 0xB) ∧ s.tileHeld 1 (tile 0xB).tileVat = false ∧ s.ringsFree (tile 0xB) = true ∧
    w = s.outAcc (s.actor 1 (tile 0xB)) [OutWr.mk 0 0x10000 (rowRecord AccRow.zero) 9 [63, 0] 1] ∧ w.needs = [] ∧
    writtenAway (Tab.getD (s.vat 2).work 63 AccRow.zero) 5 = true := ⟨_, _, rfl, by decide +kernel, by decide +kernel, by decide +kernel, rfl, by decide +kernel⟩
theorem test_tile_write : ∃ s r, s = tiled (tile 0xC) ∧ s.running 1 0xC = some (tile 0xC) ∧ s.tileHeld 1 (tile 0xC).tileVat = false ∧ s.ringsFree (tile 0xC) = true ∧
    r = Acc.list ((List.range 1).map (fun i => (s.ctxRead (s.actor 1 (tile 0xC)) 0 9 [63 + i, 0] (0x10000 + 1088 * i) 1088).recoord
      (fun x => [63 + i, x - (0x10000 + 1088 * i)]))) ∧ r.needs = [] ∧ (∀ l ∈ r.val, reservedSet l = false) ∧ armedAway (s.vat 2) 5 63 1 = false :=
  ⟨_, _, rfl, by decide +kernel, by decide +kernel, by decide +kernel, rfl, by decide +kernel⟩
/-- A plan image whose peer list is engine 3. -/
def peerImage : List Byte := bytesOf 0x58 [(0xC, 2, 1), (0x40, 2, 6), (0x44, 4, 0x50), (0x48, 4, 1), (0x4C, 4, 1), (0x50, 1, 3)]
def meet : Cmd := { cmdOf 0x12 [(0xA, 1, 1), (0xC, 4, 900), (0x10, 8, 77)] with image := peerImage, present := 8 }
theorem test_barrier : (having up (cmdOf 0x12 [])).running 1 0x12 = none ∧ (having base (cmdOf 0x12 [])).running 1 0x12 = some (cmdOf 0x12 []) ∧
    (having base (cmdOf 0x12 [])).earlierBusy 1 (cmdOf 0x12 []) = false ∧ bitAt ((cmdOf 0x12 []).fld 0xA 1) 0 = false ∧
    (having base meet).running 1 0x12 = some meet ∧ (having base meet).earlierBusy 1 meet = false ∧ bitAt (meet.fld 0xA 1) 0 = true ∧
    ((having base meet).barrierLost meet).length + ((having base meet).barrierHeld meet).length < (peersOf meet.image).length := by decide +kernel
/-- The group BARRIER reached locally, with engine 3's arrival held or not. -/
def met : Cmd := { meet with phase := .stage 1, since := 100 }
def arrived : State := { having base met with arrivals := [(3, 77)] }
theorem test_barrier_ends : arrived.running 1 0x12 = some met ∧ (peersOf met.image).length ≤ (arrived.barrierLost met).length + (arrived.barrierHeld met).length ∧
    arrived.stalledArr = [] ∧ (having base met).running 1 0x12 = some met ∧ met.fld 0xC 4 ≠ 0 ∧ met.since + met.fld 0xC 4 ≤ ((having base met).slc 0).tick ∧
    ((having base met).barrierLost met).length + ((having base met).barrierIn met).length < (peersOf met.image).length := by decide +kernel
theorem test_arrival : ∃ s : State, s = { base with declared := 8 } ∧ presentIn s.self s.declared 3 = true ∧ s.cmds = [] ∧ s.earlyTags.length < 256 := ⟨_, rfl, by decide +kernel⟩


/-! Plans. -/

/-- The whole image: `plan`, whose last four bytes bring the CRC register to 0, and zero bytes to 4,096. -/
def image : List Byte := plan ++ List.replicate 3484 0
/-- A PLAN_BIND of function `fn` on slot 1. -/
def bind (fn : Nat) (l : List (Nat × Nat × Nat)) : Cmd := cmdOf 0x20 ([(2, 1, 0x10), (8, 2, 5), (0xA, 1, fn)] ++ l)
/-- PLAN_LOAD of 4,096 bytes at 0x40000, where the image stands. -/
def load : Cmd := bind 0 [(0xC, 4, 4096), (0x10, 8, 0x40000)]
def stored : State := { having base load with dev := { cells := cellsAt 0x40000 plan ++ [(Config.biasBase, 1)] } }
theorem foldl_crc_zero (n : Nat) : (List.replicate n (0 : Byte)).foldl (crcByte 0xEDB88320) 0 = 0 := by
  induction n with
  | zero => rfl
  | succ n ih => rw [List.replicate_succ, List.foldl_cons, show crcByte 0xEDB88320 0 0 = 0 by decide +kernel]; exact ih
theorem plan_length : plan.length = 612 := by decide +kernel
theorem crc_pieces (l : List Byte) (v : Nat → Nat) (n : Nat)
    (h : ∀ k, k < n → ((l.drop (102 * k)).take 102).foldl (crcByte 0xEDB88320) (v k) = v (k + 1)) :
    l.foldl (crcByte 0xEDB88320) (v 0) = (l.drop (102 * n)).foldl (crcByte 0xEDB88320) (v n) := by
  induction n with
  | zero => rfl
  | succ n ih =>
    rw [ih (fun k hk => h k (by omega)), ← List.take_append_drop 102 (l.drop (102 * n)), List.foldl_append, h n (by omega), List.drop_drop]
    rfl
/-- The CRC register after each 102 bytes of `plan`. -/
def planRegs : List Nat := [0xFFFFFFFF, 0xCECD5F20, 0x402CA2AC, 0xA57636E2, 0x5B9C3FC7, 0x4F6AC6BF, 0x0]
theorem image_crc : crc32 (image.take 0x1C ++ natLE 4 0 ++ image.drop 0x20) = field image 0x1C 4 := by
  have h1 : image.take 0x1C = plan.take 0x1C := by rw [image, List.take_append_of_le_length (by rw [plan_length]; decide)]
  have h2 : image.drop 0x20 = plan.drop 0x20 ++ List.replicate 3484 0 := by rw [image, List.drop_append_of_le_length (by rw [plan_length]; decide)]
  have h3 : (plan.take 0x1C ++ natLE 4 0 ++ plan.drop 0x20).foldl (crcByte 0xEDB88320) 0xFFFFFFFF = 0 := by
    have hc : ∀ k, k < 6 → (((plan.take 0x1C ++ natLE 4 0 ++ plan.drop 0x20).drop (102 * k)).take 102).foldl (crcByte 0xEDB88320) (planRegs.getD k 0) =
        planRegs.getD (k + 1) 0 := by decide +kernel
    have h := crc_pieces (plan.take 0x1C ++ natLE 4 0 ++ plan.drop 0x20) (fun k => planRegs.getD k 0) 6 hc
    have hl : (plan.take 0x1C ++ natLE 4 0 ++ plan.drop 0x20).drop (102 * 6) = [] := by decide +kernel
    rw [hl] at h
    exact h
  have h4 : field image 0x1C 4 = 0xFFFFFFFF := by decide +kernel
  rw [h1, h2, h4, crc32, crcWith, ← List.append_assoc, List.foldl_append, h3, foldl_crc_zero]; decide
theorem image_passes : stored.checkImage image false 4096 1 = none := by
  unfold State.checkImage
  rw [image_crc]
  decide +kernel
theorem image_read : dataOf (stored.dev.read 0x40000 4096) = image := by
  have h : ∀ i, i < 612 → stored.dev.byte (0x40000 + i) = plan.getD i 0 := fun i hi =>
    cellAt_cellsAt plan [(Config.biasBase, 1)] 0x40000 i (fun p hp => by rw [List.mem_singleton.mp hp, plan_length]; decide) (by rw [plan_length]; exact hi)
  have h0 : ∀ p ∈ stored.dev.cells, p.1 < 0x40000 + 612 ∨ 0x41000 ≤ p.1 := by decide +kernel
  apply List.ext_getElem
  · rw [show (dataOf (stored.dev.read 0x40000 4096)).length = 4096 by simp [dataOf, Mem.read], image, List.length_append, plan_length, List.length_replicate]
  · intro i hi hj
    simp only [dataOf, Mem.read, List.getElem_map, List.getElem_range]
    simp only [dataOf, Mem.read, List.length_map, List.length_range] at hi
    by_cases hp : i < 612
    · rw [h i hp]; simp only [image]; rw [List.getElem_append_left (by rw [plan_length]; exact hp)]
      rw [List.getD_eq_getElem _ _ (by rw [plan_length]; exact hp)]
    · simp only [image]; rw [List.getElem_append_right (by rw [plan_length]; omega), List.getElem_replicate]
      exact Sys2Proof.Laws.cellAt_absent _ _ (fun p hm => by have := h0 p hm; omega)
theorem image_clean : anyPoison (stored.dev.read 0x40000 4096) = false := by
  simp [anyPoison, Mem.read, Mem.sector, stored, having, base]
theorem devBytes_within (s : State) (a n : Nat) (h : a + n ≤ Config.devBytes) : s.devBytes a n = s.dev.read a n := by
  unfold State.devBytes
  apply List.ext_getElem
  · simp
  · intro i hi hj
    have hn : i < n := by simpa [Mem.read] using hj
    simp only [List.getElem_map, List.getElem_zipIdx, Nat.zero_add]
    rw [if_pos (by omega)]
theorem image_at (w : Actor) (sl a n : Nat) (ha : a = 0x40000) (hn : n = 4096) :
    dataOf (stored.devRead w sl 4 [] a n).val = image ∧ anyPoison (stored.devRead w sl 4 [] a n).val = false := by
  have hv : (stored.devRead w sl 4 [] a n).val = stored.dev.read a n := devBytes_within stored a n (by rw [ha, hn]; decide)
  rw [hv, ha, hn]
  exact And.intro image_read image_clean
theorem test_plan_load : ∃ s r, s = stored ∧ s.bindRunning 1 0 = some load ∧ s.sliceUp 0 = true ∧ Tab.get? s.plans load.planSlot = none ∧
    r = s.devRead (s.actor 1 load) load.slice 4 [] (load.fld 0x10 8) (load.fld 0xC 4) ∧ r.needs = [] ∧
    s.checkImage (dataOf r.val) (anyPoison r.val) (load.fld 0xC 4) load.planSlot = none := by
  refine ⟨_, _, rfl, by decide +kernel, by decide +kernel, rfl, rfl, by decide +kernel, ?_⟩
  have e1 : load.fld 0x10 8 = 0x40000 := by decide +kernel
  have e3 : load.fld 0xC 4 = 4096 := by decide +kernel
  have e4 : load.planSlot = 1 := by decide +kernel
  have key : ∀ (x : List PB) (l p : Nat), dataOf x = image → anyPoison x = false → l = 4096 → p = 1 → stored.checkImage (dataOf x) (anyPoison x) l p = none := by
    intro x l p h1 h2 h3 h4
    rw [h1, h2, h3, h4]
    exact image_passes
  have hr := image_at (stored.actor 1 load) load.slice _ _ e1 e3
  exact key _ _ _ hr.1 hr.2 e3 e4
/-- Slot 1 loaded, and bound to contexts 5 and 6 or to neither. -/
def loaded (l : List Nat) (fn : Nat) : State := { having base (bind fn []) with
  plans := [(1, { image := [] })], ctxs := [(5, { state := 1, pasid := 9, bindings := l }), (6, { state := 1, bindings := l })] }
theorem test_plan_bind : (loaded (List.range' 2 63) 1).bindRunning 1 1 = some (bind 1 []) ∧ (loaded (List.range' 2 63) 1).isOpen 5 = true ∧
    (bind 1 []).fld 8 2 % 4096 = 5 ∧ (bind 1 []).planSlot = 1 ∧ 1 ∉ ((loaded (List.range' 2 63) 1).ctx 5).bindings ∧
    ((loaded (List.range' 2 63) 1).ctx 5).bindings.length < 64 ∧ (loaded [1] 2).bindRunning 1 2 = some (bind 2 []) ∧
    (loaded [1] 3).bindRunning 1 3 = some (bind 3 []) ∧ Tab.get? (loaded [1] 3).plans 1 = some { image := [] } := by decide +kernel
/-- Slot 1 retires already, used by a command that has not ended. -/
def retiringPlan : State := { loaded [1] 3 with plans := [(1, { image := [], retiring := true })], cmds := [(1, bind 3 []), (2, { look with plan := 1 })] }
theorem test_plan_retiring : retiringPlan.bindRunning 1 3 = some (bind 3 []) ∧ Tab.get? retiringPlan.plans (bind 3 []).planSlot = some { image := [], retiring := true } ∧
    ∃ p ∈ retiringPlan.cmds, p.2.plan = (bind 3 []).planSlot ∧ p.2.phase ≠ .done := by decide +kernel
theorem test_plan_unload : (after (.planUnload 1) (loaded [1] 3)).map (fun t => (t.plans.length, t.ctxs.map (fun p => p.2.bindings))) = some (0, [[], []]) := by
  decide +kernel

/-! Table life. -/

/-- Table 8: three FP32 rows of eight elements in one bucket on S0, its descriptor and its map. -/
def desc8 : List Byte := bytesOf 832 [(0, 4, 0x44545A45), (4, 2, 1), (6, 2, 8), (8, 4, 11), (0xE, 2, 8), (0x10, 8, 0x40400), (0x40, 8, 0x80000)]
def map8 : List Byte := bytesOf 72 [(0, 4, 0x4D535A45), (4, 2, 1), (6, 2, 8), (8, 4, 11), (0xC, 1, 2), (0x10, 8, 3), (0x18, 4, 1), (0x1C, 4, 32), (0x3C, 4, 0x23C42139)]
def open8 : Cmd := cmdOf 0x21 [(8, 2, 8), (0x10, 8, 0x40000)]
def described : State := { having base open8 with dev := { cells := cellsAt 0x40000 desc8 ++ cellsAt 0x40400 map8 ++ [(Config.biasBase, 1)] } }
theorem test_table_open : described.openRunning 1 0 = some open8 ∧ open8.phase = .ready ∧ (described.checkOpen (described.actor 1 open8) 0 open8).needs = [] ∧
    (described.checkOpen (described.actor 1 open8) 0 open8).val = none := by decide +kernel
/-- Command `c` on table 7 past its first step, no publication in progress. -/
def later (c : Cmd) (k : Nat) : State := having opened { c with phase := .stage k }
def open7 (fn : Nat) : Cmd := onTable 0x21 [(0xA, 1, fn)]
theorem test_open_ends : (later (open7 0) 1).openRunning 1 0 = some { open7 0 with phase := .stage 1 } ∧ (later (open7 0) 1).pubDone 7 0 = true := by decide +kernel
def pub7 (n : Nat) : Pub := { table := 7, layer := { num := 2, hots := [[1], [], [], [2]] }, next := n }
theorem test_adopt : ∀ n ∈ [0, 3], ({ opened with adopt := [pub7 n] } : State).slices.length = 4 ∧
    ({ opened with adopt := [pub7 n] } : State).adopt.find? (fun a => a.table == 7) = some (pub7 n) ∧ (pub7 n).next = n := by decide +kernel
theorem test_drain_complete : ∃ (s : State) (d : Drain), s = { having opened { look with phase := .done } with drains := [d] } ∧ d = { table := 7, num := 2, waits := [1, 9] } ∧
    s.drains.find? (fun d => d.table == 7) = some d ∧ (∀ h ∈ d.waits, ((Tab.get? s.cmds h).all (fun c => c.phase == .done)) = true) ∧
    s.heldPeer = [] ∧ table7.stalled = [] ∧ s.tables = [(7, table7)] :=
  ⟨_, _, rfl, rfl, by decide +kernel⟩
def close7 : Cmd := onTable 0x22 []
theorem test_table_close : (having opened close7).running 1 0x22 = some close7 ∧ Tab.get? (having opened close7).tables close7.table = some table7 ∧
    close7.phase = .ready ∧ (later close7 1).running 1 0x22 = some { close7 with phase := .stage 1 } ∧ (later close7 1).settled 7 = true ∧
    (later close7 1).cmds = [(1, { close7 with phase := .stage 1 })] := by decide +kernel
theorem test_table_close_runs : (after (.tableClose 1) (later close7 1)).map (fun t => (t.tables.length, t.slices.map (fun l => l.layers.length))) =
    some (0, [0, 0, 0, 0]) := by decide +kernel
def hot7 (mode : Nat) : Cmd := onTable 0x23 [(0xA, 1, mode), (0xC, 4, 1), (0x10, 8, 0x10000)]
theorem test_hot_load : ∀ m ∈ [0, 2], ∃ r w, (having (wordAt opened) (hot7 m)).running 1 0x23 = some (hot7 m) ∧
    (having (wordAt opened) (hot7 m)).viewOf (hot7 m) = some (table7, { num := 1 }) ∧
    r = Acc.list ((List.range 1).map (fun i => ((having (wordAt opened) (hot7 m)).devRead ((having (wordAt opened) (hot7 m)).actor 1 (hot7 m)) 0 0 [i] (0x10000 + 8 * i) 8).map
      (fun l => ({ word := leNat (dataOf l), poisoned := anyPoison l, drop := dropReason 7 (some 3) (anyPoison l) (leNat (dataOf l)) } : Idx)))) ∧
    w = (having (wordAt opened) (hot7 m)).wheyAll ((having (wordAt opened) (hot7 m)).actor 1 (hot7 m)) 0 ((having (wordAt opened) (hot7 m)).wheyBase (hot7 m)) r.val ∧
    r.needs ++ w.needs = [] ∧ (having (wordAt opened) (hot7 m)).hotListed (hot7 m) table7 { num := 1 } r.val = [(0, 0)] ∧
    (having (wordAt opened) (hot7 m)).devNeeds (.cmd 1) false (table7.addrOf (table7.owner { num := 1 } 7 0) false) table7.stored = [] := by
  intro m hm
  refine ⟨_, _, ?_, ?_, rfl, rfl, ?_⟩ <;> revert m <;> decide +kernel
theorem test_hot_runs : (after (.hotLoad 1) (having (wordAt opened) (hot7 0))).map (fun t => (t.tables.map (fun p => p.2.layer.hots), t.adopt.length)) =
    some ([[[0], [], [], []]], 1) ∧ (later (hot7 0) 1).running 1 0x23 = some { hot7 0 with phase := .stage 1 } ∧ (later (hot7 0) 1).drainDone 7 0 = true := by decide +kernel
/-- MIGRATE of row 0 to override slot 3 of S0. -/
def move7 (mode : Nat) : Cmd := { onTable 7 [(0xA, 1, mode), (0xC, 2, 1), (0x10, 8, 6)] with moves := [{ row := 0, owner := 0, slot := 3 }] }
theorem test_migrate : (∀ m ∈ [0, 1], (having opened (move7 m)).running 1 7 = some (move7 m) ∧ (move7 m).phase = .ready ∧ (move7 m).fld 0xA 1 % 2 = m ∧
    (later (move7 m) 1).running 1 7 = some { move7 m with phase := .stage 1 } ∧ (later (move7 m) 1).pubDone 7 0 = true) ∧
    Tab.get? (having opened (move7 1)).tables 7 = some table7 ∧ (having opened (move7 1)).writesBefore 1 7 = false ∧
    (having opened (move7 1)).adopting 7 = false ∧ (having opened (move7 1)).slotHeld 7 (move7 1).moves = false ∧
    (having opened (move7 1)).moveNeeds (.cmd 1) 7 table7 (move7 1).moves = [] := by decide +kernel
/-- R187: row 0, 2.0 in its bucket slot, is copied to override slot 3 at 0x140060. -/
theorem test_migrate_runs : (after (.migrate 1) (having opened (move7 1))).map (fun t => (t.dev.num 0x140060 4, t.tables.map (fun p => p.2.layer.ovr.length))) =
    some (0x40000000, [1]) := by decide +kernel
def rep7 : Cmd := onTable 8 [(0xC, 4, 8)]
theorem test_replicate : (having opened rep7).running 1 8 = some rep7 ∧ (having opened rep7).viewOf rep7 = some (table7, { num := 1 }) ∧ rep7.phase = .ready ∧
    table7.fills { num := 1 } (having opened rep7).self = [] ∧ (later rep7 1).running 1 8 = some { rep7 with phase := .stage 1 } ∧ (later rep7 1).drainDone 7 0 = true := by decide +kernel
theorem test_replace : (having opened (open7 1)).openRunning 1 1 = some (open7 1) ∧ (open7 1).phase = .ready ∧ (having opened (open7 1)).staging = 0 ∧
    (having opened (open7 1)).stampNeeds 1 table7 = [] ∧ ({ having opened (open7 1) with staging := 1 } : State).openRunning 1 1 = some (open7 1) ∧
    ({ having opened (open7 1) with staging := 1 } : State).staged.staging ≠ 0 ∧ Tab.get? (having opened (open7 1)).tables (open7 1).table = some table7 ∧
    (later (open7 1) 1).openRunning 1 1 = some { open7 1 with phase := .stage 1 } ∧ (later (open7 1) 1).pubDone 7 0 = true ∧
    (having opened (open7 2)).openRunning 1 2 = some (open7 2) ∧ (having opened (open7 2)).adopting 7 = false ∧
    (∀ p ∈ (having opened (open7 2)).cmds, p.2.opcode = 6 → p.2.table = 7 → p.2.phase ≠ .ready) ∧
    (later (open7 2) 2).openRunning 1 2 = some { open7 2 with phase := .stage 2 } ∧ (later (open7 2) 2).drainDone 7 0 = true := by decide +kernel
/-- Table 7 replacing with a write unpublished, at keeper tick `k`. -/
def replacing (k : Nat) : State := { opened with kTick := k, tables := [(7, { table7 with layer := { num := 1, replacing := true }, unpublished := true })] }
theorem test_version : (replacing 10000).adopting 7 = false ∧ 0 + 10000 ≤ (replacing 10000).kTick ∧
    (after (.versionPublication 7) (replacing 10000)).map (fun t => t.adopt.length) = some 1 ∧
    (after (.versionPublication 7) (replacing 9999)).map (fun t => t.adopt.length) = some 0 := by decide +kernel

/-! Bias. -/

/-- Page 0 in device bias, page 1 pinned, page 2 in device bias for context 9. -/
def biased : State := { base with dev := { cells := [(Config.biasBase, 1), (Config.biasBase + 4, 2), (Config.biasBase + 8, 1), (Config.biasBase + 10, 9), (Config.biasBase + 11, 0x80)] } }
theorem test_bias : biased.inv ∧ (∀ p ∈ [0, 1, 2, 3], biased.portUp p = true) ∧ biased.biasReq = none ∧ biased.biasWait = [] ∧ biased.sliceUp 0 = true := by decide +kernel
theorem may_flip_one (s : State) (f o : Nat) : MayFlip s f 1 o ↔ (bitAt (s.biasEntry f) 1 = false ∧ bitAt (s.biasEntry f) 2 = false ∧
    (bitAt (s.biasEntry f) 0 = true → bitAt (s.biasEntry f) 31 = true → bits (s.biasEntry f) 27 16 = o)) := by
  constructor
  · exact fun h => h 0 (by decide)
  · intro h i hi
    obtain rfl : i = 0 := by omega
    exact h
theorem test_may_flip : ¬ MayFlip biased 1 1 5 ∧ ¬ MayFlip biased 2 1 5 ∧ MayFlip biased 2 1 9 ∧ MayFlip biased 0 1 5 ∧ MayFlip biased 294911 1 5 ∧
    bitAt (biased.biasEntry 0) 0 = true ∧ bitAt (biased.biasEntry 294911) 0 = false := by
  simp only [may_flip_one]
  decide +kernel

/-! Reset, boot and restart. -/

theorem test_reset : State.reset.powered = true ∧ State.reset.trip = false ∧ State.reset.boot.step = 0 ∧ ({ State.reset with powered := false } : State).powered = false ∧
    up.boot.step ≠ 0 := by decide +kernel
/-- An engine in boot step `n`, its slices out of reset. -/
def booting (n : Nat) : State := { up with boot := { step := n, lock := true } }
theorem test_boot : (∀ n ∈ [1, 2, 3, 4, 5, 6, 7, 8, 9, 10, 11], (booting n).live = true ∧ (booting n).boot.halted = false ∧ (booting n).boot.step = n) ∧
    (booting 7).sliceUp 0 = true ∧ (booting 6).slices.length = 4 ∧ (booting 6).sliceUp 3 = true ∧ (booting 9).portUp 0 = true ∧ (booting 8).boot.step ≠ 9 ∧
    ({ booting 7 with slices := [{}, slice0, slice0, slice0] } : State).sliceUp 0 = false ∧
    (∀ n, n < 4 → ∀ l ∈ spokeLinks n, ∀ m, m < modulesOf l → ((booting 3).linkMod l m).state = 0 ∧ ((booting 3).linkMod l m).bad = [] ∧
      ((booting 3).linkMod l m).half = none) := by decide +kernel
/-- Boot step 2 ends with the slices out of reset, and a slice that fails at step 4 goes back into it. -/
theorem test_boot_runs : (after (.bootStepDone 0) { booting 2 with slices := [{}, {}, {}, {}] }).map (fun t => (t.boot.step, t.slices.map Slice.run)) = some (3, [2, 2, 2, 2]) ∧
    (after (.bootStepDone 4) (booting 4)).map (fun t => (t.boot.step, t.boot.failed, t.slices.map Slice.run)) = some (5, true, [2, 2, 0, 2]) := by decide +kernel
/-- Slice 1 restarting, in step `k`. -/
def restarting (k : Nat) : State := { up with slices := [slice0, { slice0 with run := 1, rstep := k }, slice0, slice0] }
theorem test_restart : up.live = true ∧ up.slices.length = 4 ∧ up.hostReady = true ∧ up.sliceUp 3 = true ∧ up.restartQ = [] ∧ (∀ l ∈ up.slices, l.run ≠ 1) ∧
    (restarting 1).sliceUp 3 = true ∧ (restarting 1).restartQ = [] ∧ (∃ l ∈ (restarting 1).slices, l.run = 1) ∧ (restarting 1).sliceUp 1 = false := by decide +kernel
theorem test_restart_steps : ∀ k ∈ [1, 2, 3, 4, 5, 6, 7, 8], (restarting k).live = true ∧ ((restarting k).slc 1).run = 1 ∧ ((restarting k).slc 1).rstep = k ∧
    (∀ l ∈ spokeLinks 1, ∀ m, m < modulesOf l → ((restarting k).linkMod l m).state = 0 ∧ ((restarting k).linkMod l m).bad = [] ∧ ((restarting k).linkMod l m).half = none) ∧
    (restarting k).restartQ = [] ∧ (restarting k).mgmtQ = [] ∧ (restarting k).biasWait = [] ∧ (restarting k).biasReq = none ∧ (restarting k).retirePend = [] := by
  decide +kernel
/-- R363, R357: the loaded value is ahead of the keeper's by a 999th of the ticks since the last load, rounded up. -/
theorem test_restart_load : (after (.restartStepDone 1 0) { restarting 4 with kTick := 11000 }).map (fun t => (t.slc 1).tick) = some 11011 := by decide +kernel

/-! Optical ports and links. -/

/-- The keeper's registers for port 2: engine 3 may send classes 0 and 1; `enable` and `up` as given; group 9. -/
def lit (en : Nat) : State := ((up.setKreg 0x800 (en + 9 * 2 ^ 16)).setKreg 0x8C8 3).setKreg 0x8D0 8
theorem test_optical : (lit 0).portUp 0 = true ∧ (lit 0).live = true ∧ bitAt ((lit 0).kreg 0x800) 0 = false ∧ bitAt ((lit 3).kreg 0x800) 0 = true ∧
    bitAt ((lit 3).kreg 0x800) 1 = true ∧ bitAt ((lit 1).kreg 0x800) 1 = false ∧ (lit 3).lit = true ∧ (lit 3).attached 2 = true ∧
    ((lit 3).optic 2).nextBeacon ≤ (lit 3).kTick ∧ ((lit 3).optic 2).replay.length < 640 ∧
    (lit 3).kTick < (({ lit 3 with optics := [(2, { nextBeacon := 1001 })] } : State).optic 2).nextBeacon := by decide +kernel
def heardBeacon : Beacon := { engine := 3, group := 9, admitNo := 1, inc := 1, bseq := 2 ^ 32 - 1, state := 1, presence := 1 }
/-- Port 2 with engine 3 as its partner, two UP beacons heard, present or not. -/
def port2 (present : Bool) : OptPort :=
  { lock := true, lambda := 8, partner := some 3, beacon := some heardBeacon, run := 2, present := present, heard := 1000, rxSeq := 65535 }
def paired (present : Bool) : State := { lit 3 with optics := [(2, port2 present)], lostPairs := [(3, (1, 0))], kTick := 5000 }
/-- The next beacon, with `admit` 1, of group `g`. -/
def nextBeacon (g : Nat) : Beacon := { heardBeacon with bseq := 0, group := g }
theorem test_beacons : (paired false).live = true ∧ (paired false).attached 2 = true ∧ (paired false).admits 2 0 3 = true ∧
    (nextBeacon 9).group = bits ((paired false).kreg 0x800) 31 16 ∧ (nextBeacon 8).group ≠ bits ((paired false).kreg 0x800) 31 16 ∧
    ((paired false).optic 2).partner = some 3 ∧ ((paired false).optic 2).beacon = some heardBeacon ∧ ((paired false).optic 2).run = 2 ∧
    ((paired false).optic 2).present = false ∧ bitAt heardBeacon.state 0 = true ∧ (nextBeacon 9).bseq = (heardBeacon.bseq + 1) % 2 ^ 32 ∧
    bitAt (nextBeacon 9).presence (paired false).self = true := by decide +kernel
theorem test_beacon_pair : Tab.get? (paired false).lostPairs 3 ≠ some (1, 1) ∧ (paired false).portFit 2 = true ∧ (paired false).admits 2 0 4 = false ∧
    ((paired true).optic 2).present = true ∧ ((paired true).optic 2).heard + 4000 ≤ (paired true).kTick ∧ ((paired true).optic 2).lock = true ∧
    ((paired true).optic 2).lambda ≠ 7 ∧ (lit 3).kTick < (({ lit 3 with optics := [(2, port2 true)] } : State).optic 2).heard + 4000 := by decide +kernel
/-- R331, R333: the third UP beacon makes engine 3 present, and with a route on its port it is published. -/
theorem test_third_beacon : (after (.beaconReceive 2 (nextBeacon 9)) (paired false)).map (fun t => ((t.optic 2).present, t.declared)) = some (true, 0) ∧
    (after (.beaconReceive 2 (nextBeacon 9)) ((paired false).setKreg 0xA00 0x7777777772777777)).map (fun t => (t.declared, t.lossAdopt.length)) = some (8, 1) := by
  decide +kernel
theorem test_dark : ∃ s : State, s = { paired true with optics := [(2, { port2 true with los := true, losSince := 4900 })] } ∧ (s.optic 2).los = true ∧
    (s.optic 2).losSince + 100 ≤ s.kTick ∧ (s.optic 2).present = true := ⟨_, rfl, by decide +kernel⟩
theorem test_loss_adopt : ∀ n ∈ [0, 3], ∃ s p, s = ({ up with lossAdopt := [p] } : State) ∧ p = { map := 8, next := n, changes := [(3, true, 0)] } ∧ s.slices.length = 4 ∧
    s.lossAdopt.find? (fun q => q.next == n) = some p ∧ s.cmds = [] := by
  intro n hn
  refine ⟨_, _, rfl, rfl, ?_⟩
  revert n
  decide +kernel
/-- A frame of class 1 from engine 3 with four bytes of payload and `seq` `q`. -/
def frame (q crc : Nat) : List Byte := bytesOf 256 [(1, 1, 3), (2, 2, 65), (4, 2, q), (8, 4, 0x04030201), (252, 4, crc)]
theorem test_frame : (paired true).attached 2 = true ∧ (frame 65535 0x4E83BED2).length = 256 ∧ crc32c ((frame 65535 0x4E83BED2).take 252) = field (frame 65535 0x4E83BED2) 252 4 ∧
    field (frame 65535 0x4E83BED2) 4 2 = ((paired true).optic 2).rxSeq ∧ field (frame 65535 0x4E83BED2) 2 2 % 16 = 1 ∧ field (frame 65535 0x4E83BED2) 0 1 = (paired true).self ∧
    (paired true).admits 2 1 3 = true ∧ (paired true).tracked 3 = true ∧ field (frame 0 0) 2 1 % 16 ≠ 15 ∧ field (frame 0 0) 4 2 ≠ ((paired true).optic 2).rxSeq := by
  decide +kernel
/-- The same frame for engine 5, whose route is port 2 again, and the states of that route: usable, and with 640 frames unacknowledged or waiting. -/
def transit : List Byte := bytesOf 256 [(0, 1, 5), (1, 1, 3), (2, 2, 65), (4, 2, 65535), (8, 4, 0x04030201), (252, 4, 0x0A3FB693)]
def routed : State := ((paired true).setKreg 0xA00 0x7777727272777777)
theorem test_transit : crc32c (transit.take 252) = field transit 252 4 ∧ field transit 4 2 = (routed.optic 2).rxSeq ∧ field transit 0 1 ≠ routed.self ∧
    routed.attached 2 = true ∧ routed.passes 2 transit = true ∧ routed.routePort (field transit 0 1) = some 2 ∧ (routed.optic 2).replay.length < 640 ∧
    (after (.frameReceive 2 transit) routed).map (fun t => (t.optic 2).replay.length) = some 1 := by decide +kernel
/-- R331: port 7 is no port, and port 1 has no partner: the alternate port of engine 3 is taken; engine 6 has neither. -/
def detour : State := { (paired true).setKreg 0xA00 0x7777777721777777 with declared := 0x58 }
theorem test_route : routed.usable (routed.routeEntry 5).1 = true ∧ detour.usable (detour.routeEntry 3).1 = false ∧ detour.usable (detour.routeEntry 3).2 = true ∧
    detour.routePort 3 = some 2 ∧ detour.usable (detour.routeEntry 6).1 = false ∧ detour.usable (detour.routeEntry 6).2 = false ∧
    presentIn detour.self detour.declared 3 = true ∧ presentIn detour.self detour.declared 6 = true ∧ presentIn detour.self detour.declared 5 = false ∧
    (detour.toPeer 3 (.arrival 7)).out = detour.out ++ [.toPeer 2 0 3 (.arrival 7)] ∧
    (({ routed with optics := [(2, { port2 true with replay := List.replicate 640 (0, .bytes [], 1) })] } : State).optic 2).replay.length = 640 := by decide +kernel
/-- A link-control frame from engine `src`: an ack of `seq`, or a nak. -/
def ctlFrame (src ack nak crc : Nat) : List Byte := bytesOf 256 [(1, 1, src), (2, 2, 0x3F), (8, 2, ack), (10, 1, nak), (252, 4, crc)]
/-- Port 2 with frames 65,535 and 0 unacknowledged, its partner allowed to send link control. -/
def replaying : State := { (paired true).setKreg 0x8C8 0x8003 with
  optics := [(2, { port2 true with txSeq := 1, replay := [(65535, .bytes [], 1), (0, .peer 3 (.arrival 7), 15)] })] }
theorem test_frame_control : (∀ f ∈ [ctlFrame 3 0 0 0x97003B41, ctlFrame 3 0 1 0x4A050372, ctlFrame 3 2 0 0x0FCAA172, ctlFrame 4 0 0 0x9DF5289C],
      crc32c (f.take 252) = field f 252 4 ∧ field f 2 1 % 16 = 15) ∧ replaying.attached 2 = true ∧
    replaying.passes 2 (ctlFrame 3 0 0 0x97003B41) = true ∧ replaying.passes 2 (ctlFrame 3 0 1 0x4A050372) = true ∧ replaying.passes 2 (ctlFrame 3 2 0 0x0FCAA172) = true ∧
    replaying.passes 2 (ctlFrame 4 0 0 0x9DF5289C) = false ∧ bitAt (field (ctlFrame 3 0 1 0x4A050372) 10 1) 0 = true ∧ field (ctlFrame 3 2 0 0x0FCAA172) 8 2 = 2 ∧
    ackedBefore 0 (replaying.optic 2).txSeq (replaying.optic 2).replay = some [(0, .peer 3 (.arrival 7), 15)] ∧
    ackedBefore 1 (replaying.optic 2).txSeq (replaying.optic 2).replay = some [] ∧
    ackedBefore 2 (replaying.optic 2).txSeq (replaying.optic 2).replay = none ∧ (replaying.optic 2).waiting = [] := by decide +kernel
/-- Direction 16 in use: it expects `seq` 4,095, and has flits 7 and 8 unacknowledged. -/
def linked : State := { up with links := [(16, { expected := 4095, next := 9, replay := [(7, []), (8, [])] })], mods := [(129, { state := 2 })] }
def flit (q crc : Nat) : List Byte := bytesOf 256 [(0, 2, q), (2, 4, 0x04030201), (252, 4, crc)]
theorem test_flit : linked.receives 16 1 = true ∧ (flit 4095 0xC24C087D).length = 256 ∧ crc32c ((flit 4095 0xC24C087D).take 252) = field (flit 4095 0xC24C087D) 252 4 ∧
    field (flit 4095 0xC24C087D) 0 2 / 16384 = 0 ∧ field (flit 4095 0xC24C087D) 0 2 % 4096 = (linked.link 16).expected ∧
    crc32c ((flit 4095 0).take 252) ≠ field (flit 4095 0) 252 4 ∧ field (flit 4095 0xC24C087D) 0 2 % 4096 ≠ (({ linked with links := [] } : State).link 16).expected := by decide +kernel
/-- A control flit: an ack of 7, or a nak. -/
def ctlFlit (nak crc : Nat) : List Byte := bytesOf 256 [(0, 2, 0x8000), (2, 2, 7 + nak * 0x8000), (252, 4, crc)]
theorem test_control_flit : (∀ f ∈ [ctlFlit 0 0xA3D2CFAC, ctlFlit 1 0xFF22DA6F], f.length = 256 ∧ crc32c (f.take 252) = field f 252 4 ∧ field f 0 2 / 16384 = 2 ∧
    freeBefore (field f 2 2 % 4096) (linked.link 16).next (linked.link 16).replay = some [(7, []), (8, [])]) ∧ (linked.link 16).waiting = [] ∧
    linkBack 16 = 16 ∧ (linked.linkMod 16 1).fails = [] ∧ (linked.link 16).unsent = 0 ∧ (∃ m, m < modulesOf 16 ∧ linked.carries 16 m = true) := by decide +kernel
/-- The spoke out of PS0 in use, none of the modules of the way back carrying flits; the flits that a nak asks for wait. -/
def spoke : State := { up with links := [(12, { next := 9, replay := [(7, []), (8, [])] })], mods := [(16, { state := 1 })] }
theorem test_control_flit_waits : spoke.receives 2 0 = true ∧ linkBack 2 = 12 ∧ (∀ m, m < modulesOf 12 → spoke.carries 12 m = false) ∧ (spoke.link 12).waiting = [] ∧
    (after (.linkControlFlit 2 0 (ctlFlit 1 0xFF22DA6F)) spoke).map (fun t => (t.link 12).unsent) = some 2 := by decide +kernel
theorem test_retrain : ∃ s : State, s = { linked with mods := [(129, {})] } ∧ 1 < modulesOf 16 ∧ s.endUp 16 = true ∧ (s.link 16).down = false ∧ (s.linkMod 16 1).state = 0 ∧ s.training 16 = false ∧
    ({ s with boot := { step := 3, lock := true } } : State).training 2 = true ∧ ({ s with boot := { step := 3, lock := true } } : State).endUp 2 = true :=
  ⟨_, rfl, by decide +kernel⟩
/-- R322: two bad lanes leave a module FULL, three make it HALF, nineteen put it down. -/
theorem test_retrain_states : ∀ p ∈ [(2, 1), (3, 2), (18, 2), (19, 3)],
    (after (.retrainComplete 16 1 (BitVec.ofNat 34 (2 ^ p.1 - 1)) (BitVec.ofNat 34 (2 ^ p.1 - 1))) { linked with mods := [(129, {})] }).map (fun t => (t.linkMod 16 1).state) =
      some p.2 := by decide +kernel

/-! Groups of engines. -/

/-- Table 7 open in a group of four; engine 3 present, also at the slices. -/
def grouped : State := { opened with
  declared := 8, boot := { opened.boot with strapGsize := 3 },
  slices := opened.slices.map (fun l => { l with loss := 8 }) }
def seal7 : Cmd := { onTable 5 [(0x10, 8, 5), (0xC, 4, 900)] with image := peerImage }
theorem test_seal : Tab.get? (having grouped seal7).tables seal7.table = some table7 ∧ (having grouped seal7).running 1 5 = some seal7 ∧ seal7.phase = .ready ∧
    (∀ p ∈ (having grouped seal7).cmds, p.2.opcode ≠ 4) ∧ peersOf seal7.image = [3] ∧ 3 ≠ (having grouped seal7).self ∧ 3 ∉ seal7.lost ∧
    presentIn (having grouped seal7).self ((having grouped seal7).slc 0).loss 3 = true ∧ (3, table7.step) ∉ table7.seals ∧ (3, table7.step) ∉ table7.dropped ∧
    (having grouped seal7).sealed seal7 table7 = false ∧ seal7.fld 0xC 4 ≠ 0 ∧ seal7.tick + seal7.fld 0xC 4 ≤ ((having grouped seal7).slc 0).tick ∧
    seal7.opcode = 5 := by decide +kernel
theorem test_seal_arrival : presentIn grouped.self grouped.declared 3 = true ∧ grouped.cmds = [] ∧
    (after (.sealArrival 3 7 5) grouped).map (fun t => t.tables.map (fun p => p.2.seals)) = some [[(3, 5)]] := by decide +kernel
/-- Row 0 asked of engine 3 by command 1, and a part of its scan. -/
def asked (w : Want) : State := { having grouped { scored with scans := [{ num := 0, src := 3, pending := true }, { num := 4, src := 3, pending := true }] } with
  peerReqs := [{ tag := 6, h := 1, peer := 3, want := w }] }
theorem test_reply : (asked (.row 0)).peerReqs.find? (fun q => q.tag == 6 && q.peer == 3) = some { tag := 6, h := 1, peer := 3, want := .row 0 } ∧
    (∀ q ∈ (asked (.row 0)).peerReqs, q.tag ≠ 7 ∨ q.peer ≠ 3) ∧
    (asked (.scan 0)).peerReqs.find? (fun q => q.tag == 6 && q.peer == 3 && q.want == .scan 0) = some { tag := 6, h := 1, peer := 3, want := .scan 0 } ∧
    ((Tab.get? (asked (.scan 0)).cmds 1).map (fun c => (c.phase, c.scans.any (fun p => p.num != 0 && p.pending)))) = some (.stage 1, true) := by decide +kernel
/-- Table 7 without room for a record in any level. -/
def tiny7 : Table := { table7 with desc := bytesOf 128 [(0x40, 8, 0x100000)] }
theorem test_contribution : grouped.refuses 7 11 5 0 2 = false ∧ grouped.refuses 7 11 6 2 2 = false ∧ grouped.refuses 7 11 7 0 2 = true ∧ grouped.refuses 7 11 5 3 2 = true ∧
    Tab.get? grouped.tables 7 = some table7 ∧ Tab.get? (grouped.slc 3).layers 7 = some { num := 1 } ∧
    grouped.sliceUp ((table7.contribOwner { num := 1 } 7 5 0).stack / 3) = true ∧ table7.hasRoom ((table7.contribOwner { num := 1 } 7 5 0).stack / 3) 0 = true ∧
    grouped.ownerDown 7 5 0 = false ∧ (table7.contribOwner { num := 1 } 7 5 0).stack / 3 = 0 ∧ tiny7.nextLevel 0 = none ∧
    ({ grouped with slices := grouped.slices.set 0 {} } : State).ownerDown 7 5 0 = true := by decide +kernel
/-- R81, R83: row 0 is served as stored; a row of another map and one of a closing table are absent. -/
theorem test_peer_row : (grouped.peerCopy 7 11 0 { num := 1 }).map (fun p => p.1 == table7) = some true ∧ grouped.peerCopy 7 12 0 { num := 1 } = none ∧
    grouped.peerCopy 7 11 0 { num := 1, closing := true } = none ∧
    (grouped.peerCopy 7 11 0 { num := 1 }).map (fun p => (grouped.copyBytes { who := .engine, ctx := 0, pasid := 0, fw := none } (p.2.stack / 3) [] p.1 { num := 1 } 0 p.2)
      |>.map dataOf |> fun b => (b.needs.isEmpty, b.val)) = some (true, [0, 0, 0, 0x40] ++ List.replicate 28 0) := by decide +kernel
/-- The same with the rows' page in host bias: the request is held for its lines. -/
def hostBias : State := { grouped with
  dev := { cells := [(0x100002, 0x80), (0x100003, 0x3F), (0x100023, 0x40), (0x100042, 0x40), (0x100043, 0x40)] } }
theorem test_peer_row_held : (after (.peerRowRequest 3 7 11 0 9) hostBias).map (fun t => (t.heldPeer.length, t.lineReqs.length)) = some (1, 1) := by decide +kernel
/-- A layer whose bucket has a replica on S1 of this engine. -/
def replayer : Layer := { num := 1, reps := [1], sets := [[1024, 0xFFFFFFFF, 0xFFFFFFFF, 0xFFFFFFFF]] }
def replicated : State := { grouped with slices := (opened.slices.map (fun l => { l with layers := [(7, replayer)] })) }
theorem test_replica_write : Tab.get? replicated.tables 7 = some table7 ∧ Tab.get? (replicated.slc 3).layers 7 = some replayer ∧ table7.mapId = 11 ∧ 2 < table7.rows ∧
    (table7.owner replayer 7 2).region ≠ 2 ∧ replayer.replacing = false ∧ replayer.closing = false ∧ replicated.inv ∧
    replicated.readersBefore replicated.nextCmd 7 = false ∧ replicated.writeHeld replicated.nextCmd 7 2 = false ∧ replicated.rowNeeds .engine 7 table7 replayer 2 = [] ∧
    (grouped.copiesHere table7 { num := 1 } 7 2).length = 1 ∧ grouped.rowNeeds .engine 7 table7 { num := 1 } 2 = [] ∧ (replicated.copiesHere table7 replayer 7 2).length = 2 ∧
    ((table7.replicas replayer.reps replayer.sets 7 2) ++ (table7.replicas table7.newReps table7.newSets 7 2)).map Loc.stack = [1] := by decide +kernel

/-! Power, temperature and the channels. -/

theorem test_power : up.live = true ∧ up.portUp 0 = true ∧ (∀ v ∈ [92, 95, 97, 100, 102, 105, 109, 110], hottestOf [none, some 40, some v] = some v) ∧
    up.sliceUp 3 = true ∧ up.power.slew.length = 4 := by decide +kernel
theorem test_power_window : ∀ w ∈ [260000001, 260000000, 250000000, 249999999], ({ up with power := { samples := 1, sum := w } } : State).power.samples ≠ 0 ∧
    ({ up with power := { samples := 1, sum := w } } : State).windowCap = 260 ∧ up.kreg 0x240 = 260 ∧ ({ up with power := { samples := 1, sum := w } } : State).live = true ∧
    ({ up with power := { capAt := some (1000, 150) } } : State).windowCap = 150 ∧ ({ up with power := { capAt := some (999, 150) } } : State).windowCap = 260 := by decide +kernel
/-- R367 at the cap of 260 W: above it a sixteenth more, from 250 W nothing, below 250 W a sixteenth less. -/
theorem test_cap : capStep 3 260000001 260 = 4 ∧ capStep 3 260000000 260 = 3 ∧ capStep 3 250000000 260 = 3 ∧ capStep 3 249999999 260 = 2 ∧ capStep 15 300000000 260 = 15 := by
  decide +kernel
theorem test_thermal : up.sliceUp (11 / 3) = true ∧ (up.chan 11).badReads = 0 ∧ 3 ≤ (({ up with chans := [(11, { badReads := 3 })] } : State).chan 11).badReads ∧
    (up.chan 11).thermal ≤ 3 := by decide +kernel
/-- Table 13-3 at its thresholds. -/
theorem test_thermal_states : [thermalNext 0 84, thermalNext 0 85, thermalNext 0 95, thermalNext 0 100, thermalNext 1 83, thermalNext 1 82, thermalNext 2 93, thermalNext 2 92,
    thermalNext 3 99, thermalNext 3 94] = [0, 1, 2, 3, 1, 0, 2, 1, 3, 2] := by decide +kernel
theorem test_split : ([7, 1, 9].min? = some 1) ∧ Tab.get? (loaded [1] 1).plans 1 = some { image := [] } ∧ (loaded [1] 1).sliceUp 0 = true := by decide +kernel
theorem test_sector : base.inv ∧ base.sliceUp (11 / 3) = true ∧ Config.stackBytes - 1 < Config.stackBytes ∧ base.boot.ready = true ∧ (base.chan 11).state ≠ 3 ∧
    (({ base with chans := [(11, { thermal := 3, badReads := 2 })] } : State).chan 11).state = 3 ∧ (base.chan 11).late = false ∧
    (base.chan 11).passStart + 43200000000000 ≤ (({ base with slices := [slice0, slice0, slice0, { slice0 with tick := 43200000000000 }] } : State).slc 3).tick ∧
    (placeOf (Config.stackBytes - 1)).1 ∉ (base.chan 11).retired ∧
    base.dev.sector (Config.devBytes / 32 - 1) = 0 ∧ ({ base.dev with poison := [2] } : Mem).sector 2 = 4 ∧ ({ base.dev with bad := [2] } : Mem).sector 2 = 2 := by decide +kernel
/-- R305: a correctable error in a poisoned sector reads uncorrectable. -/
theorem test_poisoned_corrected : (after (.sectorRead 0 64 .corrected false) { base with dev := { base.dev with poison := [2] } }).map (fun t => t.dev.sector 2) = some 2 ∧
    (after (.sectorRead 0 64 .corrected false) base).map (fun t => t.dev.sector 2) = some 0 := by decide +kernel
/-- The DRAM row that holds the row slots of table 7, marked for repair or retired on S0. -/
def hurt : DRow := (placeOf 0x100020).1
def marked (used : Nat) : State := { opened with chans := [(0, { marks := [(hurt, true)], used := [(hurt.pc * 16 + hurt.bank / 4, used)] })] }
theorem test_repair : (marked 0).inv ∧ (marked 0).sliceUp 0 = true ∧ ((marked 0).chan 0).marks = [(hurt, true)] ∧ (marked 0).retirePend = [] ∧ (marked 0).retireCount < 4096 ∧
    (marked 0).retireFind 0 hurt = none := by decide +kernel
theorem test_repair_free : (marked 0).repairFree 0 hurt = true ∧ (marked (2 + Config.repairSpare 0 (hurt.pc * 16 + hurt.bank / 4))).repairFree 0 hurt = false := by
  constructor <;> simp [State.repairFree, State.chan, marked, Tab.getD, Tab.get?]
def retiring : State := { opened with chans := [(0, { retired := [hurt] })] }
theorem test_retire : (retiring.chan 0).retired = [hurt] ∧ retiring.tables = [(7, table7)] ∧ (retiring.retireMoves 7 table7 0 hurt []).length = 3 ∧ retiring.moveHeld 7 table7 = false ∧
    table7.shift = [] ∧ retiring.writesBefore retiring.nextCmd 7 = false ∧ retiring.moveNeeds .engine 7 table7 (retiring.retireMoves 7 table7 0 hurt []) = [] ∧
    (having retiring rowIn).writesBefore (having retiring rowIn).nextCmd 7 = true ∧
    (up.chan 0).retired = [] ∧ (up.chan 0).marks = [] := by decide +kernel
/-- Channel 0 of PS0 set up for the generator with the checker, from 0 to `hi`, running or not. -/
def tgSet (hi busy : Nat) : State := (((up.setSreg 0 0x1000 (2 ^ 42 + 2 ^ 33 + 1 + busy)).setSreg 0 0x1008 0).setSreg 0 0x1010 hi).setSreg 0 0x1018 77
theorem test_generator : (tgSet 64 0).inv ∧ (tgSet 64 0).portUp 0 = true ∧ (tgSet 64 0).slices.length = 4 ∧ bitAt ((tgSet 64 0).sreg 0 (tgReg 0 0)) 62 = false ∧
    bitAt (0 : Word).toNat 61 = false ∧ (tgSet 64 0).tgAllowed 0 0 = true ∧ (tgSet 0 0).tgAllowed 0 0 = false ∧ bitAt ((tgSet 64 0).sreg 0 (tgReg 0 0)) 33 = true ∧
    bitAt ((tgSet 64 (2 ^ 62)).sreg 0 (tgReg 0 0)) 62 = true := by decide +kernel

/-- A run of the generator with the checker on channel 0 over the first 96 bytes, two sectors an access, its fill pass at `o`. -/
def filling (o : Nat) : TgRun := { lo := 0, hi := 96, check := true, rdPct := 100, size := 2, pattern := 0, seed := 0x55, left := none, fill := o, pos := 0 }
def tgAt (o : Nat) : State := { up with chans := [(0, { tg := some (filling o) })] }
theorem test_tg_fill : ∀ o ∈ [0, 64], (tgAt o).inv ∧ (tgAt o).sliceUp (0 / 3) = true ∧ ((tgAt o).chan 0).state ≠ 3 ∧ ((tgAt o).chan 0).tg = some (filling o) ∧
    (filling o).fill < (filling o).hi ∧ (filling o).hi ≤ Config.stackBytes ∧ (((tgAt o).tgCycle 0).chan 0).tg = some (filling (o + 64)) := by decide +kernel
/-- R315: word 1 of the fill is its seed and its offset, exclusive or; a sector that holds it passes the checker, one of zeros does not. -/
theorem test_tg_check : ((tgAt 0).tgCycle 0).dev.num 8 8 = 0x5D ∧ ((tgAt 0).tgCycle 0).dev.num 64 8 = 0 ∧ (tgAt 0).slices.length = 4 ∧ (filling 0).check = true ∧
    (∀ w, w < 4 → ((tgAt 0).tgCycle 0).dev.num (0 + 8 * w) 8 = (filling 0).seed ^^^ (0 + 8 * w)) ∧ (∀ w, w < 4 → up.dev.num (0 + 8 * w) 8 ≠ (filling 0).seed ^^^ (0 + 8 * w)) ∧
    ((tgAt 0).tgRead 0 (filling 0) 0).sreg 0 (tgReg 0 0x20) = 4 ∧ (((tgAt 0).tgCycle 0).tgRead 0 (filling 0) 0).sreg 0 (tgReg 0 0x20) = 0 := by decide +kernel

/-! Observation, skew and the crossing queues. -/

def aRecord : TraceRec := { tick := 5, source := 4, kind := 9, tseq := 0, context := 0, queue := 0, seq := 0, opcode := 0, status := 0, payload := [1] }
def traced (run : Nat) (holder : Nat) : State := { up.setKreg 0x8000 (run * 2 ^ 63 + 2 ^ 9) with staging := holder, trace := { recs := [aRecord] } }
theorem test_trace : ∀ h ∈ [0, 1, 2], (traced 0 h).inv ∧ (traced 0 h).portUp 0 = true ∧ (traced 0 h).live = true ∧ bitAt ((traced 0 h).kreg 0x8000) 63 = false ∧
    (traced 0 h).staging = h ∧ 0x40 + 32 * (traced 0 h).trace.recs.length ≤ Config.devBytes ∧ bitAt ((traced 1 h).kreg 0x8000) 63 = true ∧
    bitAt ((traced 1 h).kreg 0x8000) 9 = true ∧ (traced 1 h).trace.recs.length < 262144 ∧ bitAt ((traced 0 h).kreg 0x8000) 9 = true ∧
    (traced 0 h).claimComes = false ∧ (traced 0 h).dumping = false ∧ (0 : Word).toNat % 64 = 0 := by decide +kernel
/-- The dump awaits the lines of a page in host bias, or none of one in device bias; a claim that comes in the same cycle; a dump under way. -/
def aDump (a : Nat) : EngWr := { act := .dump, addr := a, bytes := (traced 0 0).trace.recs.flatMap traceBytes }
theorem test_trace_waits : (traced 0 0).workNeeds (aDump 0) ≠ [] ∧ ({ traced 0 0 with dev := { cells := [(Config.biasBase, 1)] } } : State).workNeeds (aDump 0) = [] ∧
    ({ having opened (open7 1) with pending := [.replaceBegin 1] } : State).claimComes = true ∧ ({ traced 0 0 with work := [aDump 0] } : State).dumping = true ∧
    (up.kreg 0x8000 &&& 2 ^ 63 = 0) := by decide +kernel
theorem test_forward : ∃ s : State, s = { up with slices := [{ slice0 with incCtx := [(47, 3)], incTbl := [(28, 1)] }, slice0, slice0, slice0], cntCtx := [(47, 2 ^ 64 - 1)] } ∧
    s.sliceUp 0 = true ∧ s.slices.length = 4 ∧ ((s.slc 0).incCtx.map Prod.fst).Nodup ∧ ((s.slc 0).incTbl.map Prod.fst).Nodup ∧
    (after (.counterForward 0) s).map (fun t => (t.cntCtx, t.cntTbl)) = some ([(47, 2)], [(28, 1)]) := ⟨_, rfl, by decide +kernel⟩
/-- R180: an even spread is 256, all on one stack is twelve times that, and too few accesses give 0. -/
theorem test_skew_index : skewIndex (65536 :: List.replicate 11 0) = 3072 ∧ skewIndex (List.replicate 12 5462) = 256 ∧ skewIndex (65535 :: List.replicate 11 0) = 0 ∧
    (65536 :: List.replicate 11 0).length = 12 := by decide +kernel
/-- The skew ring of 2^4 records at 0x60000, its head at `head`. -/
def ring (head : Nat) : State := (((up.setKreg 0x180 0x60000).setKreg 0x188 260).setKreg 0x190 head).setKreg 0x198 0
theorem test_skew_ring : up.inv ∧ up.portUp 0 = true ∧ bitAt (up.kreg 0x188) 8 = false ∧ up.kreg 0x180 = 0 ∧ (ring 0).inv ∧ (ring 0).portUp 0 = true ∧
    bitAt ((ring 0).kreg 0x188) 8 = true ∧ ((ring 16).kreg 0x190 + 2 ^ 32 - (ring 16).kreg 0x198) % 2 ^ 32 = 2 ^ ((ring 16).kreg 0x188 % 32) ∧
    ((ring 15).kreg 0x190 + 2 ^ 32 - (ring 15).kreg 0x198) % 2 ^ 32 ≠ 2 ^ ((ring 15).kreg 0x188 % 32) ∧
    (ring 15).kreg 0x180 + 256 * ((ring 15).kreg 0x190 % 2 ^ ((ring 15).kreg 0x188 % 32)) + 256 ≤ Config.devBytes := by decide +kernel
theorem test_skew_slot : (ring 15).pending = [] ∧ (List.replicate 256 (7 : Byte)).length = 256 ∧ (ring 15).skewSlot + 256 ≤ Config.devBytes ∧
    ((ring 15).workLand { act := .skew, addr := 0, bytes := List.replicate 256 7 }).kreg 0x190 = 16 ∧
    ((ring 16).workLand { act := .skew, addr := 0, bytes := List.replicate 256 7 }).kreg 0x1A0 = 1 := by decide +kernel
theorem test_skew_control : bitAt (260 : Word).toNat 8 = true ∧ (4 : Nat) ≤ (260 : Word).toNat % 32 ∧ (260 : Word).toNat % 32 ≤ 16 ∧ (259 : Word).toNat % 32 < 4 ∧
    (up.setKreg 0x180 0x60000).kreg 0x180 ≠ 0 ∧ bitAt ((up.setKreg 0x180 0x60000).kreg 0x188) 8 = false ∧
    ((ring 5).kreg 0x190 + 2 ^ 32 - 5) % 2 ^ 32 ≤ 2 ^ ((ring 5).kreg 0x188 % 32) ∧ 2 ^ ((ring 5).kreg 0x188 % 32) < ((ring 5).kreg 0x190 + 2 ^ 32 - 6) % 2 ^ 32 := by decide +kernel
theorem test_skew_window : ∃ s : State, s = { up with slices := List.replicate 4 { slice0 with tick := 100000000 } } ∧ s.sliceUp 3 = true ∧ s.slices.length = 4 ∧
    (s.slc 3).window < (s.slc 3).tick / 100000000 ∧ (up.slc 3).tick / 100000000 ≤ (up.slc 3).window ∧
    ({ up with slices := List.replicate 4 { slice0 with window := 1, ended := [{ num := 0, counts := [], warm := [] }] } } : State).mergeDue = some 0 ∧ up.work = [] := ⟨_, rfl, by decide +kernel⟩
/-- Queue 0 with the pointers given, and their Gray codes as they have come over. -/
def queued (w r ws rs : Nat) (inPkt : Bool) : State := { up with
  cdc := [(0, { wptr := w, rptr := r, wGray := gray w, rGray := gray r, wSync := (gray ws, gray ws), rSync := (gray rs, gray rs), inPkt := inPkt })] }
theorem test_queue : (queued 511 256 511 256 false).writerUp 0 = true ∧ (queued 511 256 511 256 false).readerUp 0 = true ∧ (queued 511 256 511 256 false).slices.length = 4 ∧
    (cdcShape (0 % 16)).1 = (cdcShape (0 % 16)).2.1 ∧ ((queued 0 256 0 256 false).queue 0).held = [] ∧
    ((queued 511 256 511 256 false).queue 0).full 0 = false ∧ ((queued 0 256 0 256 false).queue 0).full 0 = true ∧ ((queued 0 256 0 256 false).queue 0).pack = [] ∧
    ((queued 0 256 0 256 false).queue 0).dropping = false ∧ ((queued 0 256 0 256 false).queue 0).empty = false ∧
    ((queued 5 5 5 5 false).queue 0).empty = true ∧ ((queued 5 5 5 5 false).queue 0).inPkt = false ∧
    ((queued 5 5 5 5 true).queue 0).inPkt = true ∧ ((queued 5 5 5 5 true).queue 0).empty = true ∧ ((queued 6 5 6 5 true).queue 0).empty = false := by decide +kernel
/-- The ends of the queues of Table 15-2: the last one of PS3 exists, and the number after it does not. -/
theorem test_queue_numbers : up.writerUp 61 = true ∧ up.readerUp 61 = true ∧ up.writerUp 62 = false ∧ up.writerUp 64 = false := by decide +kernel
/-- R345, R346: a word written is not seen until two read edges have passed. -/
theorem test_crossing : (after (.queueWrite 0 (List.replicate 64 7) 64 0 true) (queued 5 5 5 5 false)).map (fun t => ((t.queue 0).wptr, (t.queue 0).empty,
    ((t.cdcCycle 0).queue 0).empty, (((t.cdcCycle 0).cdcCycle 0).queue 0).empty)) = some (6, true, true, false) := by decide +kernel
/-- R344: the Gray code of a pointer differs from the next one's in one bit. -/
theorem test_gray : [0, 1, 2, 3, 4, 511].map gray = [0, 1, 3, 2, 6, 256] := by decide
/-- R202: a ring of four slots, three of them filled, of which it may fill at most two ahead, or the fourth where `ahead` is 0. -/
theorem test_ring : (∀ a ∈ [0, 2], ({ slots := 4, size := 64, ahead := a, head := 6, tail := 1 } : Ring).filled = 3) ∧
    ({ slots := 4, size := 64, ahead := 2, head := 6, tail := 1 } : Ring).mayFill = false ∧ ({ slots := 4, size := 64, head := 6, tail := 1 } : Ring).mayFill = true ∧
    ({ slots := 4, size := 64, head := 6, tail := 2 } : Ring).isFull = true ∧ ({ slots := 4, size := 64, head := 6, tail := 6 } : Ring).isEmpty = true := by decide

/-- A command whose one ring, on vat 0, has 255 slots of `size` granules of 32 bytes: of 64 granules it fits in the stream SRAM, of 65 not. -/
def ringed (op size : Nat) : Cmd := { cmdOf op [] with image := bytesOf 0x120 [(0xC, 2, 3), (0x40, 2, 2), (0x44, 4, 0x80), (0x48, 4, 0x20), (0x4C, 4, 1),
  (0x50, 2, 4), (0x54, 4, 0xA0), (0x58, 4, 0x18), (0x5C, 4, 1), (0x60, 2, 7), (0x64, 4, 0xC0), (0x68, 4, 0x60), (0x6C, 4, 1),
  (0xA0, 2, 1), (0xA9, 1, 255), (0xAA, 2, size)] }
theorem test_rings : ∀ op ∈ [1, 3, 4], (having base (ringed op 65)).running 1 op = some (ringed op 65) ∧ (ringed op 65).phase = .ready ∧
    (having base (ringed op 65)).ringsFree (ringed op 65) = false ∧ (having base (ringed op 64)).ringsFree (ringed op 64) = true := by decide +kernel

/-! Which commands can arrive (`Instr.wf`): one ill-formed command for each check, and well-formed ones at the boundaries. -/

theorem test_wf_pages : Instr.wf (.biasToDevice 0 (2 ^ 19) 1 5 true) = false ∧ Instr.wf (.biasToDevice 0 (2 ^ 19 - 1) (2 ^ 13 - 1) 5 true) = true ∧
    Instr.wf (.biasToHost 0 0 (2 ^ 13) 5 false) = false ∧ Instr.wf (.biasToHost 0 0 1 5 false) = true := by decide
theorem test_wf_register : Instr.wf (.registerWrite 0 (2 ^ 29) 8 1 false) = false ∧ Instr.wf (.registerWrite 0 0 3 1 false) = false ∧
    Instr.wf (.registerWrite 0 0 16 1 false) = false ∧ Instr.wf (.registerWrite 0 0 4 1 false) = true ∧
    Instr.wf (.registerRead 0 0 5) = false ∧ Instr.wf (.registerRead 0 (2 ^ 29) 8) = false ∧ Instr.wf (.registerRead 0 0 64) = true := by decide
theorem test_wf_window : Instr.wf (.windowWrite 0 5 65536 [1] [true] false) = false ∧ Instr.wf (.windowWrite 0 5 0 [1, 2, 3] [true, true, true] false) = false ∧
    Instr.wf (.windowWrite 0 5 0 [1, 2] [true] false) = false ∧ Instr.wf (.windowWrite 0 5 65535 [1] [true] false) = true := by decide
theorem test_wf_memory : Instr.wf (.memWrite 0 0 [] false) = false ∧ Instr.wf (.memWrite 0 (2 ^ 52) [1] false) = false ∧ Instr.wf (.memWrite 0 (2 ^ 52 - 1) [1] false) = true ∧
    Instr.wf (.memRead 0 0 0) = false ∧ Instr.wf (.memRead 0 (2 ^ 52) 1) = false ∧ Instr.wf (.memRead 0 0 1) = true ∧
    Instr.wf (.snoop 0 (2 ^ 52)) = false ∧ Instr.wf (.snoop 0 0) = true := by decide
theorem test_wf_ats : Instr.wf (.atsInvalidation 0 9 (2 ^ 52) 1) = false ∧ Instr.wf (.atsInvalidation 0 9 (2 ^ 52 - 1) 1) = true ∧
    Instr.wf (.atsResponse 0 .bias (2 ^ 52) true true false 0) = false ∧ Instr.wf (.atsResponse 0 .bias 0 true true false (2 ^ 52)) = false ∧
    Instr.wf (.atsResponse 0 .bias 0 true true false 0) = true ∧
    Instr.wf (.h2dResponse 0 .bias 0 [1] false) = false ∧ Instr.wf (.h2dResponse 0 .bias 0 (List.replicate 64 0) false) = true := by decide
theorem test_wf_command_port : Instr.wf (.commandPortTransaction 0 true 4096 0 [1] false) = false ∧
    Instr.wf (.commandPortTransaction 0 true 5 65536 [1] false) = false ∧ Instr.wf (.commandPortTransaction 0 true 5 0 [] false) = false ∧
    Instr.wf (.commandPortTransaction 0 true 5 0 (List.replicate 65 1) false) = false ∧
    Instr.wf (.commandPortTransaction 0 true 4095 65535 [1] false) = true := by decide
theorem test_wf_queues : [Instr.packetFetch 16384, .packetReread 16384, .admission 16384, .waitSlotTimeout 16384, .fenceValueDelivery 0 Config.fences].all (fun i => !i.wf) = true ∧
    [Instr.packetFetch 16383, .packetReread 16383, .admission 16383, .waitSlotTimeout 16383, .fenceValueDelivery 0 (Config.fences - 1)].all Instr.wf = true := by decide +kernel
theorem test_wf_tables : [Instr.sealArrival 256 7 0, .sealArrival 0 4096 0, .barrierArrival 256 0, .epochAdopt 0 4096, .drainComplete 4096, .versionPublication 4096].all (fun i => !i.wf) = true ∧
    [Instr.sealArrival 255 4095 0, .barrierArrival 255 0, .epochAdopt 0 4095, .drainComplete 4095, .versionPublication 4095].all Instr.wf = true := by decide +kernel
theorem test_wf_links : [Instr.flitReceive 30 0 (List.replicate 256 0), .flitReceive 29 8 (List.replicate 256 0), .flitReceive 29 7 [0],
    .linkControlFlit 0 0 [], .moduleLockLoss 30 0, .retrainComplete 0 8 0 0, .frameReceive 0 [], .linkControlFrame 0 [] [], .linkControlFrame 0 [] (List.replicate 256 0)].all (fun i => !i.wf) = true ∧
    [Instr.flitReceive 29 7 (List.replicate 256 0), .linkControlFlit 0 0 (List.replicate 256 0), .moduleLockLoss 29 7, .retrainComplete 0 7 0 0,
      .frameReceive 0 (List.replicate 256 0), .linkControlFrame 0 (List.replicate 8 0) (List.replicate 248 0)].all Instr.wf = true := by decide +kernel
/-- A beacon of engine 255 with every field at its largest value. -/
def full : Beacon := { engine := 255, group := 65535, admitNo := 65535, inc := 2 ^ 32 - 1, bseq := 2 ^ 32 - 1, state := 255, presence := 2 ^ 256 - 1 }
theorem test_wf_beacon : [{ full with engine := 256 }, { full with group := 65536 }, { full with admitNo := 65536 }, { full with inc := 2 ^ 32 }, { full with bseq := 2 ^ 32 },
    { full with state := 256 }, { full with presence := 2 ^ 256 }].all (fun b => !(Instr.beaconReceive 0 b).wf) = true ∧ (Instr.beaconReceive 0 full).wf = true := by decide +kernel
theorem test_wf_peers : [Instr.peerRowRequest 256 7 0 0 0, .peerRowRequest 1 4096 0 0 0, .peerRowRequest 1 7 (2 ^ 32) 0 0, .peerRowRequest 1 7 0 (2 ^ 40) 0,
    .rowReply 256 0 .absent, .contributionArrival 1 0 7 0 0 0 (2 ^ 32) [] 0, .contributionArrival 1 0 7 0 0 0 0 (List.replicate 4097 (0, false)) 0,
    .scanRequest 1 7 0 0 [] [] 0 [] [] [], .scanRequest 1 7 0 0 (List.replicate 64 0) [] 0 (List.replicate 65 []) [] [], .scanPartial 256 0 0 0 0 0 ⟨[0, 0, 0, 0], []⟩, .scanPartial 1 0 0 0 0 0 ⟨[0], []⟩,
    .scanPartial 1 0 0 0 0 0 ⟨[0, 0, 0, 0], List.replicate 65 { top := [], m := 0, z := 0, poisoned := false }⟩, .replicaWrite 1 7 0 (2 ^ 40) [] [] 0].all (fun i => !i.wf) = true ∧
    [Instr.peerRowRequest 255 4095 (2 ^ 32 - 1) (2 ^ 40 - 1) 0, .rowReply 255 0 .absent, .contributionArrival 255 3 7 0 0 0 0 [] 0,
      .scanRequest 1 7 0 0 (List.replicate 64 0) [] 0 (List.replicate 64 []) [] [], .scanPartial 1 0 0 0 0 0 ⟨[0, 0, 0, 0], []⟩, .replicaWrite 1 7 0 0 [] [] 0].all Instr.wf = true := by decide +kernel
theorem test_wf_samples : [Instr.powerSample [] (List.replicate 10 none), .powerSample (List.replicate 18 (0, 0)) [], .sectorRead 0 (2 ^ 60) .clean false, .sectorRead 0 31 .clean false].all (fun i => !i.wf) = true ∧
    [Instr.powerSample (List.replicate 18 (0, 0)) (List.replicate 10 none), .sectorRead 0 32 .clean false].all Instr.wf = true := by decide +kernel
theorem test_wf_crossing : [Instr.queueWrite 64 [] 0 0 false, .queueRead 14, .queueDrop 79, .bootStepDone (2 ^ 4096), .restartStepDone 0 16].all (fun i => !i.wf) = true ∧
    [Instr.queueWrite 61 [] 0 0 false, .queueRead 13, .queueDrop 48, .bootStepDone 0, .restartStepDone 0 15, .lookup 0].all Instr.wf = true := by decide +kernel

/-! Published check values of the named algorithms: the CRC check string "123456789" and the SipHash-2-4 paper's key. -/

/-- The characters 1 to 9, over which a CRC's published check value is taken. -/
def digits : List Byte := [0x31, 0x32, 0x33, 0x34, 0x35, 0x36, 0x37, 0x38, 0x39]
theorem test_crc32_check : crc32 digits = 0xCBF43926 := by decide +kernel
theorem test_crc32c_check : crc32c digits = 0xE3069283 := by decide +kernel
/-- The reference vector of SipHash-2-4 for the 16-byte message 00 to 0f under the key 00 to 0f. -/
theorem test_siphash_check : siphash24 ((List.range 16).map (BitVec.ofNat 8)) ((List.range 16).map (BitVec.ofNat 8)) = 0x3f2acc7f57c29bdb := by decide +kernel

end Sys2Proof.Tests
end

section
/-! The skew index and its record (O57, R180): what an index can be, where a record keeps it, and what an access adds to the
stack counts. -/

namespace Sys2Proof.Proofs.Skew

open Sys2Proof Sys2Proof.Machine Sys2Proof.Claims Sys2Proof.Laws

/-! Saturation, and little-endian fields of a byte list. -/

theorem satTo_eq_min (m a : Nat) : satTo m a = min m a := by
  unfold satTo
  split <;> omega

@[simp] theorem natLE_length (n x : Nat) : (natLE n x).length = n := by
  induction n generalizing x with
  | zero => rfl
  | succ n ih => simp [natLE, ih]

theorem leNat_natLE (n x : Nat) : leNat (natLE n x) = x % 256 ^ n := by
  induction n generalizing x with
  | zero => simp [natLE, leNat, Nat.mod_one]
  | succ n ih => simp [natLE, leNat, ih, Nat.pow_succ', Nat.mod_mul]

/-- A number laid out behind `pre` is the field at the offset that `pre` ends at. -/
theorem field_natLE (pre post : List Byte) (o n x : Nat) (h : pre.length = o) :
    field (pre ++ (natLE n x ++ post)) o n = x % 256 ^ n := by
  subst h
  have hslice : slice (pre ++ (natLE n x ++ post)) pre.length n = natLE n x := by
    simp [slice, padTo]
  rw [field, hslice, leNat_natLE]

/-! The index. -/

theorem skewIndex_of_sum_lt (l : List Nat) (h : l.sum < 65536) : skewIndex l = 0 := if_pos h

theorem skewIndex_of_le_sum (l : List Nat) (h : 65536 ≤ l.sum) :
    skewIndex l = min 65535 (256 * 12 * l.foldl max 0 / l.sum) := by
  rw [skewIndex, if_neg (by omega), satTo_eq_min]

theorem skewIndex_le (l : List Nat) : skewIndex l ≤ 65535 := by
  rcases Nat.lt_or_ge l.sum 65536 with h | h
  · simp [skewIndex_of_sum_lt l h]
  · exact skewIndex_of_le_sum l h ▸ Nat.min_le_left ..

/-- An even spread of enough accesses gives 256. -/
theorem skewIndex_replicate (n : Nat) (h : 65536 ≤ 12 * n) : skewIndex (List.replicate 12 n) = 256 := by
  have hsum : (List.replicate 12 n).sum = 12 * n := by rw [List.sum_replicate, smul_eq_mul]
  have hmax : (List.replicate 12 n).foldl max 0 = n := by simp [List.replicate]
  rw [skewIndex_of_le_sum _ (hsum ▸ h), hsum, hmax, Nat.mul_assoc, Nat.mul_div_cancel _ (by omega)]
  rfl

/-! The record (Table 8-5). -/

/-- The flags byte of a record of index `x`. -/
def skewFlags (x : Nat) (warm : Bool) : Nat :=
  (if 768 ≤ x then 1 else 0) + (if 1536 ≤ x then 2 else 0) + (if warm then 4 else 0)

theorem skewFlags_lt (x : Nat) (warm : Bool) : skewFlags x warm < 256 := by
  unfold skewFlags
  split <;> split <;> split <;> omega

/-- SKEW, bit 0, is set from an index of 3.0 on, and ADVERSE, bit 1, from 6.0 on. -/
theorem bitAt_skewFlags (x : Nat) (warm : Bool) :
    bitAt (skewFlags x warm) 0 = decide (768 ≤ x) ∧ bitAt (skewFlags x warm) 1 = decide (1536 ≤ x) := by
  by_cases hskew : 768 ≤ x
  · by_cases hadv : 1536 ≤ x <;> cases warm <;> simp [skewFlags, bitAt, hskew, hadv]
  · have hadv : ¬ 1536 ≤ x := by omega
    cases warm <;> simp [skewFlags, bitAt, hskew, hadv]

theorem field_skewRecord_index (num t : Nat) (k : SkewSum) (warm : Bool) :
    field (skewRecord num t k warm) 10 2 = skewIndex k.counts12 := by
  have hle := skewIndex_le k.counts12
  simp only [skewRecord, List.append_assoc]
  rw [← List.append_assoc (natLE 8 num), field_natLE _ _ 10 2 _ (by simp)]
  exact Nat.mod_eq_of_lt (by omega)

theorem field_skewRecord_flags (num t : Nat) (k : SkewSum) (warm : Bool) :
    field (skewRecord num t k warm) 12 1 = skewFlags (skewIndex k.counts12) warm := by
  simp only [skewRecord, List.append_assoc]
  rw [← List.append_assoc (natLE 2 t), ← List.append_assoc (natLE 8 num), field_natLE _ _ 12 1 _ (by simp)]
  exact Nat.mod_eq_of_lt (skewFlags_lt _ warm)

/-! What an access adds to the stack counts (R178). -/

@[simp] theorem rollWindow_slices_length (s : State) (n : Nat) : (s.rollWindow n).slices.length = s.slices.length := by
  unfold State.rollWindow
  split
  · rfl
  · simp [State.modSlice]

/-- An access counts once at its stack, unless a hot store served it. -/
theorem near_skewAccess (s : State) (num stack bucket row : Nat) (hot peer : Bool) (h : stack / 3 < s.slices.length) :
    (Tab.getD ((s.skewAccess num stack bucket row hot peer).slc (stack / 3)).skew num {}).near =
      let near := (Tab.getD ((s.rollWindow (stack / 3)).slc (stack / 3)).skew num {}).near
      if hot then near else near.set (stack % 3) (near.getD (stack % 3) 0 + 1) := by
  unfold State.skewAccess
  rw [slc_modSlice _ _ _ _ (by simpa using h), if_pos rfl]
  dsimp only
  rw [tab_getD_set_self]
  -- every sixteenth access is sampled too, which leaves the stack counts alone
  split <;> rfl

/-- Settles O57: each clause is a fact above about the index, the record's fields or the access. -/
theorem skewIndexFollowsTheStacks : Obligations.SkewIndexFollowsTheStacks := by
  unfold Obligations.SkewIndexFollowsTheStacks
  refine ⟨fun l _ h => skewIndex_of_le_sum l h, skewIndex_of_sum_lt, skewIndex_replicate, ?_, ?_⟩
  · intro num t k warm
    rw [field_skewRecord_index, field_skewRecord_flags]
    exact ⟨rfl, bitAt_skewFlags _ warm⟩
  · intro s num stack bucket row peer hstack hslices
    exact near_skewAccess s num stack bucket row true peer (by omega)

end Sys2Proof.Proofs.Skew
end

section
/-! A stack's temperature samples (O52, R301, R303): what a sample does to its channel and to the error record, and what follows
for reads that fail in a row. -/

namespace Sys2Proof.Proofs.Thermal

open Sys2Proof Sys2Proof.Machine Sys2Proof.Claims Sys2Proof.Laws

/-! The channel after a sample, and the state in force (Table 13-3, R303). -/

/-- The channel after a sample that read `value`, or that failed. -/
def sampled (c : Chan) : Option Nat → Chan
  | some v => { c with thermal := thermalNext c.thermal v, badReads := 0 }
  | none => { c with badReads := c.badReads + 1 }

@[simp] theorem sampled_none_badReads (c : Chan) : (sampled c none).badReads = c.badReads + 1 := rfl
@[simp] theorem sampled_none_thermal (c : Chan) : (sampled c none).thermal = c.thermal := rfl
@[simp] theorem sampled_some_badReads (c : Chan) (v : Nat) : (sampled c (some v)).badReads = 0 := rfl

theorem chan_state_of_three_le (c : Chan) (h : 3 ≤ c.badReads) : c.state = 2 := if_pos h

theorem chan_state_of_lt_three (c : Chan) (h : c.badReads < 3) : c.state = c.thermal := if_neg (by omega)

/-- A failed read that is not yet the third leaves the state in force as it was. -/
theorem chan_state_sampled_none (c : Chan) (h : c.badReads + 1 < 3) : (sampled c none).state = c.state := by
  rw [chan_state_of_lt_three _ h, chan_state_of_lt_three c (by omega), sampled_none_thermal]

/-! Updates of the state that a sample makes. -/

@[simp] theorem chan_modChan_self (s : State) (k : Nat) (f : Chan → Chan) : (s.modChan k f).chan k = f (s.chan k) :=
  tab_getD_set_self ..

/-- An entry adds one to the number of entries ever made (R413). -/
@[simp] theorem errEntry_errs_total (s : State) (a c r : Nat) (d : List Byte) :
    (s.errEntry a c r d).errs.total = s.errs.total + 1 := by
  simp [State.errEntry]

theorem lt_slices_length_of_sliceUp (s : State) (n : Nat) (h : s.sliceUp n = true) : n < s.slices.length := by
  by_contra hn
  have hdefault : s.slc n = {} := List.getD_eq_default _ _ (by omega)
  simp [State.sliceUp, hdefault] at h

/-- Marking a stack warm leaves its slice running. -/
theorem sliceUp_warm (s : State) (n j : Nat) (h : s.sliceUp n = true) :
    (s.modSlice n (fun l => { l with warm := insNat l.warm j })).sliceUp n = true := by
  rw [State.sliceUp, slc_modSlice _ _ _ _ (lt_slices_length_of_sliceUp s n h), if_pos rfl]
  exact h

/-! The sample. -/

/-- What a sample that makes channel `k` of `s` into `c` leaves, while the slice of the channel runs: the slice goes on running, and
the error record takes an entry exactly with the third failed read in a row. -/
structure TakesSample (s : State) (k : Nat) (c : Chan) (t : State) : Prop where
  chan : t.chan k = c
  running : t.sliceUp (k / 3) = true
  errs_eq : c.badReads ≠ 3 → t.errs = s.errs
  errs_total : c.badReads = 3 → t.errs.total = s.errs.total + 1

section
variable {s t : State} {k : Nat} {c : Chan}

theorem takesSample_modChan (hup : s.sliceUp (k / 3) = true) (h : c.badReads ≠ 3) : TakesSample s k c (s.modChan k fun _ => c) where
  chan := chan_modChan_self ..
  running := hup
  errs_eq _ := rfl
  errs_total h3 := absurd h3 h

theorem takesSample_errEntry (hup : s.sliceUp (k / 3) = true) (h : c.badReads = 3) (n code r : Nat) (d : List Byte) :
    TakesSample s k c ((s.modChan k fun _ => c).errEntry n code r d) where
  chan := by simp [State.chan, State.modChan]
  running := by simpa [State.sliceUp, State.slc] using hup
  errs_eq h3 := absurd h h3
  errs_total _ := errEntry_errs_total ..

theorem TakesSample.traceRec (h : TakesSample s k c t) (a i x q n o st : Nat) (p : List Byte) :
    TakesSample s k c (t.traceRec a i x q n o st p) where
  chan := by simpa [State.chan] using h.chan
  running := by simpa [State.sliceUp, State.slc] using h.running
  errs_eq := by simpa using h.errs_eq
  errs_total := by simpa using h.errs_total

theorem TakesSample.warm (h : TakesSample s k c t) (j : Nat) :
    TakesSample s k c (t.modSlice (k / 3) fun l => { l with warm := insNat l.warm j }) where
  chan := h.chan
  running := sliceUp_warm t _ j h.running
  errs_eq := h.errs_eq
  errs_total := h.errs_total

end

/-- The stages of a sample in turn: its channel and the entry, the trace record of a changed state, the warm mark from T1 on. -/
theorem thermalSample_takesSample (s : State) (k : Fin 12) (value : Option Nat) (hup : s.sliceUp (k.val / 3) = true) :
    Completes (.thermalSample k value) s (TakesSample s k.val (sampled (s.chan k.val) value)) := by
  have hexec : exec (.thermalSample k value) s = execThermalSample k value s := rfl
  rw [Completes, hexec]
  unfold execThermalSample
  lift_lets
  extract_lets k' c c1 s1 s2 s3
  have hc1 : c1 = sampled c value := by cases value <;> rfl
  rw [← hc1]
  have hentry : TakesSample s k' c1 s2 := by
    by_cases hthird : c1.badReads = 3
    · simpa only [s2, if_pos hthird] using takesSample_errEntry hup hthird ..
    · simpa only [s2, if_neg hthird] using takesSample_modChan hup hthird
  have htrace : TakesSample s k' c1 s3 := by
    by_cases hsame : c1.state = c.state
    · simpa only [s3, if_pos hsame] using hentry
    · simpa only [s3, if_neg hsame] using hentry.traceRec ..
  rw [if_neg (by simp [k', hup])]
  by_cases hnormal : c1.state = 0
  · exact ⟨s3, if_pos hnormal, htrace⟩
  · exact ⟨_, if_neg hnormal, htrace.warm _⟩

/-! Reads that fail in a row. -/

section
variable {s t : State} {k : Nat}

/-- A failed read before the third changes neither the state in force nor the error record, and is counted. -/
theorem TakesSample.before_third (h : TakesSample s k (sampled (s.chan k) none) t) (hlt : (s.chan k).badReads < 2) :
    (t.chan k).state = (s.chan k).state ∧ t.errs = s.errs ∧ (t.chan k).badReads = (s.chan k).badReads + 1 := by
  rw [h.chan]
  exact ⟨chan_state_sampled_none _ (by omega), h.errs_eq (by rw [sampled_none_badReads]; omega), rfl⟩

/-- The third failed read puts the stack into T2 and makes an entry. -/
theorem TakesSample.third (h : TakesSample s k (sampled (s.chan k) none) t) (h2 : (s.chan k).badReads = 2) :
    (t.chan k).state = 2 ∧ t.errs.total = s.errs.total + 1 ∧ 3 ≤ (t.chan k).badReads := by
  have hbad : (sampled (s.chan k) none).badReads = 3 := by rw [sampled_none_badReads, h2]
  rw [h.chan]
  exact ⟨chan_state_of_three_le _ hbad.ge, h.errs_total hbad, hbad.ge⟩

/-- A failed read after the third leaves the stack in T2, with no further entry. -/
theorem TakesSample.after_third (h : TakesSample s k (sampled (s.chan k) none) t) (h3 : 3 ≤ (s.chan k).badReads) :
    (t.chan k).state = 2 ∧ 3 ≤ (t.chan k).badReads ∧ t.errs = s.errs := by
  have hbad : 3 < (sampled (s.chan k) none).badReads := Nat.lt_succ_of_le h3
  rw [h.chan]
  exact ⟨chan_state_of_three_le _ hbad.le, hbad.le, h.errs_eq hbad.ne'⟩

/-- A read that succeeds ends the row of failures; the state in force is the one it leads to. -/
theorem TakesSample.good_read {v : Nat} (h : TakesSample s k (sampled (s.chan k) (some v)) t) :
    (t.chan k).badReads = 0 ∧ (t.chan k).state = thermalNext (s.chan k).thermal v := by
  rw [h.chan]
  exact ⟨rfl, chan_state_of_lt_three _ (by simp)⟩

end

/-- Settles O52: every sample leaves what `TakesSample` says, which the failed reads before, at and after the third and the good read
each specialise. -/
theorem failedTemperatureReadsMeanT2 : Obligations.FailedTemperatureReadsMeanT2 := by
  unfold Obligations.FailedTemperatureReadsMeanT2
  intro s k hup
  refine ⟨fun h0 => ?_, fun h3 => ⟨chan_state_of_three_le _ h3, ?_⟩, fun v => ?_⟩
  · obtain ⟨a, hexecA, ha⟩ := thermalSample_takesSample s k none hup
    obtain ⟨hstA, herrsA, hbadA⟩ := ha.before_third (by omega)
    obtain ⟨b, hexecB, hb⟩ := thermalSample_takesSample a k none ha.running
    obtain ⟨hstB, herrsB, hbadB⟩ := hb.before_third (by omega)
    obtain ⟨c, hexecC, hc⟩ := thermalSample_takesSample b k none hb.running
    obtain ⟨hstC, htotC, hbadC⟩ := hc.third (by omega)
    have herrs : b.errs = s.errs := herrsB.trans herrsA
    exact ⟨a, hexecA, hstA, herrsA, b, hexecB, hstB.trans hstA, herrs, c, hexecC, hstC, herrs ▸ htotC, hbadC⟩
  · obtain ⟨a, hexec, ha⟩ := thermalSample_takesSample s k none hup
    exact ⟨a, hexec, ha.after_third h3⟩
  · obtain ⟨a, hexec, ha⟩ := thermalSample_takesSample s k (some v) hup
    exact ⟨a, hexec, ha.good_read⟩

end Sys2Proof.Proofs.Thermal
end

section
/-! The machine as a whole and its device memory (O1, O2, O3, O5, O7). -/

namespace Sys2Proof.Proofs.Basic

open Sys2Proof Sys2Proof.Machine Sys2Proof.Claims Sys2Proof.Laws

/-! Things held by number. -/

theorem mem_of_tab_get? {α : Type} {t : Tab α} {k : Nat} {a : α} (h : Tab.get? t k = some a) : (k, a) ∈ t := by
  induction t with
  | nil => simp [Tab.get?] at h
  | cons p r ih =>
    obtain ⟨j, b⟩ := p
    by_cases hj : j = k
    · simp_all [Tab.get?]
    · exact List.mem_cons_of_mem _ (ih (by simpa [Tab.get?, hj] using h))

/-- What holds of every entry, and of the default, holds of the entry read. -/
theorem tab_getD_of_forall {α : Type} {t : Tab α} {d : α} {P : α → Prop} (hd : P d) (h : ∀ p ∈ t, P p.2) (k : Nat) :
    P (Tab.getD t k d) := by
  unfold Tab.getD
  cases hk : Tab.get? t k with
  | none => exact hd
  | some a => exact h (k, a) (mem_of_tab_get? hk)

/-! One step. -/

/-- Settles O1: it is the second branch of `step`. -/
theorem stepRunsFrontCommand : Obligations.StepRunsFrontCommand := by
  unfold Obligations.StepRunsFrontCommand
  intro s c r h
  rw [step, h]

/-! A cycle in which nothing waits. -/

theorem workRetry_of_work_nil {s : State} (h : s.work = []) : s.workRetry = s := by
  unfold State.workRetry
  rw [h, List.foldl_nil, ← h]

theorem serveAll_of_heldPeer_nil {s : State} (h : s.heldPeer = []) : s.serveAll = s := by
  rw [State.serveAll, h, List.foldl_nil]

theorem ownWork_of_nil {s : State} (hwork : s.work = []) (hheld : s.heldPeer = []) : s.ownWork = s.release .engine := by
  simp [State.ownWork, workRetry_of_work_nil hwork, serveAll_of_heldPeer_nil hheld, hwork, hheld]

theorem frames_of_nextSplit_none {s : State} (h : ∀ p ∈ s.chans, p.2.nextSplit = none) : s.frames = s := by
  have hid : s.frames.chans = s.chans := by
    rw [State.frames, List.map_congr_left (g := id) fun p hp => by rw [h p hp]; rfl, List.map_id]
  calc s.frames = { s with chans := s.frames.chans } := rfl
    _ = s := by rw [hid]

theorem tgCycle_of_tg_none {s : State} (h : ∀ p ∈ s.chans, p.2.tg = none) (k : Nat) : s.tgCycle k = s := by
  have hk : (s.chan k).tg = none := tab_getD_of_forall (P := fun c : Chan => c.tg = none) rfl h k
  rw [State.tgCycle, hk]

theorem foldl_tgCycle_of_tg_none {s : State} (h : ∀ p ∈ s.chans, p.2.tg = none) (l : List Nat) : l.foldl State.tgCycle s = s := by
  induction l with
  | nil => rfl
  | cons k r ih => rw [List.foldl_cons, tgCycle_of_tg_none h, ih]

/-- Settles O2: with nothing waiting, each part of the cycle after the ticks leaves the state as it is. -/
theorem emptyQueueStepIsOneCycle : Obligations.EmptyQueueStepIsOneCycle := by
  unfold Obligations.EmptyQueueStepIsOneCycle
  intro s hpend
  have hstep : step s = .next s.idle := by rw [step, hpend]
  refine ⟨fun hdead => ?_, fun hlive hwork hheld hcdc hcmds hchans => ?_⟩
  · rw [hstep, State.idle, hdead]; rfl
  · have htg : ∀ l (t : State), t.chans = s.chans → List.foldl State.tgCycle t l = t := by
      intro l
      induction l with
      | nil => intros; rfl
      | cons k r ih =>
        intro t ht
        rw [List.foldl_cons, tgCycle_of_tg_none (by rw [ht]; exact fun p hp => (hchans p hp).1), ih t ht]
    have hfilter : s.cmds.filter (fun p => p.2.opcode == 0xA) = [] := by
      simpa [List.filter_eq_nil_iff] using hcmds
    have hframes : (s.tickAll.release .engine).frames = s.tickAll.release .engine :=
      frames_of_nextSplit_none (fun p hp => (hchans p hp).2)
    rw [hstep, State.idle, hlive]
    simp only [Bool.not_true, Bool.false_eq_true, if_false]
    rw [ownWork_of_nil (s := s.tickAll) hwork hheld]
    rw [show (s.tickAll.release .engine).cmds = s.cmds from rfl, hfilter, List.map_nil, List.foldl_nil, hframes]
    rw [foldl_tgCycle_of_tg_none (s := s.tickAll.release .engine) (fun p hp => (hchans p hp).1),
      show (s.tickAll.release .engine).cdc = [] from hcdc]
    rfl

/-! The reset state. -/

/-- Settles O5: an empty memory is canonical. -/
theorem resetMemoryIsCanonical : Obligations.ResetMemoryIsCanonical := empty_wf

/-- Settles O3: the registers are looked up in their reset table, everything else stands in `State.reset`. -/
theorem resetValues : Obligations.ResetValues := by
  unfold Obligations.ResetValues
  refine ⟨rfl, rfl, ?_, rfl, rfl, fun _ => rfl, rfl, rfl, rfl, rfl, rfl, by decide, by decide, by decide, fun _ => rfl⟩
  intro l hl
  have h : l = {} := by simpa [State.reset] using hl
  subst h
  exact ⟨rfl, rfl⟩

/-! Device memory after a write. -/

/-- The state a sector is left with: uncorrectable never, poisoned as told. -/
theorem sector_mark (m : Mem) (k j : Nat) (p : Bool) :
    (m.mark k p).sector j = if j = k then (if p then 4 else 0) else m.sector j := by
  by_cases hj : j = k
  · subst hj
    cases p <;> simp [Mem.mark, Mem.sector, delNat]
  · cases p <;> simp [Mem.mark, Mem.sector, delNat, hj]

theorem sector_foldl_markWrite_not_mem (ks : List Nat) (m : Mem) (a : Nat) (bs : List PB) (k : Nat) (h : k ∉ ks) :
    (ks.foldl (fun acc k => acc.markWrite a bs k) m).sector k = m.sector k := by
  induction ks generalizing m with
  | nil => rfl
  | cons j r ih =>
    obtain ⟨hne, hr⟩ := not_or.mp (mt List.mem_cons.mpr h)
    rw [List.foldl_cons, ih _ hr, Mem.markWrite, sector_mark, if_neg hne]

theorem sector_foldl_markWrite_mem (ks : List Nat) (m : Mem) (a : Nat) (bs : List PB) (k : Nat) (hn : ks.Nodup) (h : k ∈ ks) :
    (ks.foldl (fun acc k => acc.markWrite a bs k) m).sector k = (m.markWrite a bs k).sector k := by
  induction ks generalizing m with
  | nil => simp at h
  | cons j r ih =>
    obtain ⟨hj, hr⟩ := List.nodup_cons.mp hn
    rw [List.foldl_cons]
    by_cases hk : k = j
    · subst hk
      exact sector_foldl_markWrite_not_mem r _ a bs k hj
    · rw [ih _ hr ((List.mem_cons.mp h).resolve_left hk)]
      simp only [Mem.markWrite, sector_mark, if_true]
      simp [hk]

/-- What a sector reads as after a write: unchanged outside it, else as `Mem.markWrite` leaves it. -/
theorem sector_write (m : Mem) (a : Nat) (bs : List PB) (h : bs ≠ []) (k : Nat) :
    (m.write a bs).sector k = if k < a / 32 ∨ (a + bs.length - 1) / 32 < k then m.sector k else (m.markWrite a bs k).sector k := by
  have hlen : 0 < bs.length := List.length_pos_of_ne_nil h
  have hdef : ∀ ks, ks = (List.range ((a + bs.length - 1) / 32 + 1 - a / 32)).map (fun i => a / 32 + i) →
      (m.write a bs).sector k = (ks.foldl (fun acc k => acc.markWrite a bs k) m).sector k := by
    intro ks hks
    subst hks
    unfold Mem.write
    split
    · contradiction
    · rfl
  rw [hdef _ rfl]
  split
  · rename_i hout
    refine sector_foldl_markWrite_not_mem _ m a bs k ?_
    simp only [List.mem_map, List.mem_range, not_exists, not_and]
    omega
  · rename_i hin
    refine sector_foldl_markWrite_mem _ m a bs k (List.Nodup.map (fun x y hxy => by simpa using hxy) List.nodup_range) ?_
    simp only [List.mem_map, List.mem_range]
    exact ⟨k - a / 32, by omega, by omega⟩

theorem anyPoison_cleanBytes_part (bs : List Byte) (i j : Nat) : anyPoison (((cleanBytes bs).drop i).take j) = false := by
  rw [anyPoison, List.any_eq_false]
  intro p hp
  have hmem := List.mem_of_mem_drop (List.mem_of_mem_take hp)
  obtain ⟨b, -, rfl⟩ := List.mem_map.mp hmem
  simp

@[simp] theorem cleanBytes_length (bs : List Byte) : (cleanBytes bs).length = bs.length := List.length_map ..

@[simp] theorem dataOf_cleanBytes (bs : List Byte) : dataOf (cleanBytes bs) = bs := by
  simp [dataOf, cleanBytes, Function.comp_def]

theorem getD_dataOf (bs : List PB) (i : Nat) : (dataOf bs).getD i 0 = (bs.getD i ⟨0, 0⟩).b := by
  simp only [dataOf, List.getD_eq_getElem?_getD, List.getElem?_map]
  cases bs[i]? <;> rfl

theorem deviceReadAfterWrite : Claims.DeviceReadAfterWrite := by
  intro m a bs hm
  refine ⟨fun i hi => ?_, fun x hx => byte_write_off m a x bs hm hx⟩
  rw [byte_write m a _ bs hm, if_pos (by omega), Nat.add_sub_cancel_left, getD_dataOf]

theorem sectorStateAfterWrite : Claims.SectorStateAfterWrite := by
  intro m a bs hbs k
  have hne : cleanBytes bs ≠ [] := by simpa [cleanBytes] using hbs
  rw [Mem.writeClean, sector_write m a _ hne, cleanBytes_length]
  split
  · rfl
  · rw [Mem.markWrite, sector_mark, if_pos rfl, anyPoison_cleanBytes_part, cleanBytes_length]
    by_cases hwhole : a ≤ 32 * k ∧ 32 * k + 32 ≤ a + bs.length
    · simp [hwhole]
    · by_cases hclean : m.sector k = 0 <;> simp [hwhole, hclean]

/-- Settles O7: bytes are those of the cells written, sectors those that `Mem.markWrite` marks. -/
theorem deviceMemoryAfterWrite : Obligations.DeviceMemoryAfterWrite := ⟨deviceReadAfterWrite, sectorStateAfterWrite⟩

end Sys2Proof.Proofs.Basic
end

section
/-! The layer that the statements about commands share: equality of states field by field, what writes of device memory leave alone,
and what the end of a command leaves. -/

namespace Sys2Proof.Proofs.Layer

open Sys2Proof Sys2Proof.Machine Sys2Proof.Claims Sys2Proof.Laws Sys2Proof.Proofs.Basic

/-- Two states are equal if every field is: with the frame lemmas, `simp` then leaves the fields that an operation changes. -/
theorem state_eq_iff (s t : State) : s = t ↔
    s.pending = t.pending ∧ s.out = t.out ∧ s.msiWait = t.msiWait ∧ s.freeCtr = t.freeCtr ∧ s.powered = t.powered ∧
     s.trip = t.trip ∧ s.boot = t.boot ∧ s.half = t.half ∧ s.restartQ = t.restartQ ∧ s.kTick = t.kTick ∧ s.slices = t.slices ∧
     s.dev = t.dev ∧ s.atsReqs = t.atsReqs ∧ s.lineReqs = t.lineReqs ∧ s.lines = t.lines ∧ s.hostWr = t.hostWr ∧
     s.memHeld = t.memHeld ∧ s.flushes = t.flushes ∧ s.invals = t.invals ∧ s.biasReq = t.biasReq ∧ s.biasWait = t.biasWait ∧
     s.kpr = t.kpr ∧ s.mgmtQ = t.mgmtQ ∧ s.mgmtBusy = t.mgmtBusy ∧ s.retirePend = t.retirePend ∧ s.ctxs = t.ctxs ∧ s.sqs = t.sqs ∧
     s.cqs = t.cqs ∧ s.fenceQ = t.fenceQ ∧ s.fw = t.fw ∧ s.cmds = t.cmds ∧ s.nextCmd = t.nextCmd ∧ s.plans = t.plans ∧
     s.tables = t.tables ∧ s.adopt = t.adopt ∧ s.drains = t.drains ∧ s.staging = t.staging ∧ s.journal = t.journal ∧
     s.vats = t.vats ∧ s.arrivals = t.arrivals ∧ s.stalledArr = t.stalledArr ∧ s.declared = t.declared ∧ s.lostMap = t.lostMap ∧
     s.lostPairs = t.lostPairs ∧ s.lossAdopt = t.lossAdopt ∧ s.visible = t.visible ∧ s.peerReqs = t.peerReqs ∧
     s.nextTag = t.nextTag ∧ s.heldPeer = t.heldPeer ∧ s.work = t.work ∧ s.chans = t.chans ∧ s.links = t.links ∧ s.mods = t.mods ∧
     s.optics = t.optics ∧ s.power = t.power ∧ s.trace = t.trace ∧ s.cdc = t.cdc ∧ s.cntCtx = t.cntCtx ∧ s.cntTbl = t.cntTbl ∧
     s.cntKs = t.cntKs ∧ s.errs = t.errs := by
  rw [← State.mk.injEq]

/-! Writes of device memory: a byte that is not written reads as before, whatever form the memory has. -/

theorem cellAt_putCell_of_ne (l : List Host.Cell) (a x : Nat) (b : Byte) (h : x ≠ a) : cellAt (putCell l a b) x = cellAt l x := by
  induction l with
  | nil =>
    rw [putCell]
    split
    · rfl
    · simp [cellAt, Ne.symm h]
  | cons q r ih =>
    obtain ⟨k, c⟩ := q
    rw [putCell]
    split
    · split
      · rfl
      · simp [cellAt, Ne.symm h]
    · split
      · rename_i hk
        subst hk
        split <;> simp [cellAt, Ne.symm h]
      · simp [cellAt, ih]

theorem cellAt_putCells_off (l : List Host.Cell) (a x : Nat) (bs : List Byte) (h : off a bs.length x) :
    cellAt (putCells l a bs) x = cellAt l x := by
  induction bs generalizing l a with
  | nil => rfl
  | cons b r ih =>
    unfold off at *
    rw [List.length_cons] at h
    rw [putCells, ih _ _ (by omega), cellAt_putCell_of_ne _ _ _ _ (by omega)]

theorem byte_write_of_off (m : Mem) (a x : Nat) (bs : List PB) (h : off a bs.length x) : (m.write a bs).byte x = m.byte x := by
  unfold Mem.write Mem.byte
  split
  · rfl
  · simp only [foldl_markWrite_cells]
    exact cellAt_putCells_off _ _ _ _ (by simpa [dataOf] using h)

theorem byte_devWrite_of_off (s : State) (a x : Nat) (bs : List PB) (h : off a bs.length x) :
    (s.devWrite a bs).dev.byte x = s.dev.byte x := byte_write_of_off _ _ _ _ h

theorem byte_devPut_of_off (s : State) (a x : Nat) (bs : List Byte) (h : off a bs.length x) :
    (s.devPut a bs).dev.byte x = s.dev.byte x := byte_write_of_off _ _ _ _ (by simpa using h)

/-- Every byte of device memory that a fold's steps leave alone, the fold leaves alone. -/
theorem foldl_byte {α : Type} (f : State → α → State) (x : Nat) (l : List α) (s : State)
    (h : ∀ a ∈ l, ∀ s, (f s a).dev.byte x = s.dev.byte x) : (l.foldl f s).dev.byte x = s.dev.byte x := by
  induction l generalizing s with
  | nil => rfl
  | cons a r ih =>
    rw [List.foldl_cons, ih _ (fun b hb => h b (List.mem_cons_of_mem _ hb)), h a List.mem_cons_self]

/-! The writes of a command and of the host: guarded bytes stay. -/

/-- The runs of a write lie within it, and hold no guarded byte. -/
theorem mem_openRuns {a : Nat} {bs : List PB} {p : Nat × List PB} (h : p ∈ openRuns a bs) :
    a ≤ p.1 ∧ p.1 + p.2.length ≤ a + bs.length ∧ (∀ i, i < p.2.length → guarded (p.1 + i) = false) := by
  induction bs generalizing a p with
  | nil => simp [openRuns] at h
  | cons b r ih =>
    have hcons : ∀ {q : Nat × List PB}, q ∈ openRuns (a + 1) r → a ≤ q.1 ∧ q.1 + q.2.length ≤ a + (b :: r).length ∧
        (∀ i, i < q.2.length → guarded (q.1 + i) = false) := fun hq => by
      obtain ⟨h1, h2, h3⟩ := ih hq
      exact ⟨by omega, by rw [List.length_cons]; omega, h3⟩
    rw [openRuns] at h
    split at h
    · exact hcons h
    · rename_i hg
      have hg : guarded a = false := by simpa using hg
      have hsingle : ∀ i, i < [b].length → guarded (a + i) = false := fun i hi => by
        obtain rfl : i = 0 := by simpa using hi
        exact hg
      split at h
      · rename_i k l t heq
        have hkl := hcons (heq ▸ List.mem_cons_self : (k, l) ∈ openRuns (a + 1) r)
        have ht : ∀ q ∈ t, q ∈ openRuns (a + 1) r := fun q hq => heq ▸ List.mem_cons_of_mem _ hq
        split at h
        · rename_i hk
          rcases List.mem_cons.mp h with rfl | h
          · refine ⟨le_rfl, by simp only [List.length_cons] at *; omega, fun i hi => ?_⟩
            cases i with
            | zero => exact hg
            | succ i =>
              have := hkl.2.2 i (by simpa using hi)
              rwa [show a + (i + 1) = k + i by omega]
          · exact hcons (ht _ h)
        · rcases List.mem_cons.mp h with rfl | h
          · exact ⟨le_rfl, by simp, hsingle⟩
          · rcases List.mem_cons.mp h with rfl | h
            · exact hkl
            · exact hcons (ht _ h)
      · obtain rfl := List.mem_singleton.mp h
        exact ⟨le_rfl, by simp, hsingle⟩

theorem byte_outWrite_of_off (s : State) (a x : Nat) (bs : List PB) (h : off a bs.length x) :
    (s.outWrite a bs).dev.byte x = s.dev.byte x := by
  unfold State.outWrite
  split
  · refine foldl_byte _ x _ s (fun p hp t => byte_devWrite_of_off t p.1 x p.2 ?_)
    have := mem_openRuns hp
    unfold off at *
    omega
  · exact byte_devWrite_of_off s a x bs h

@[simp] theorem freeData_length (ctr : Nat) (bs : List PB) : (freeData ctr bs).length = bs.length := by
  simp [freeData]

theorem byte_landDevice_of_off (s : State) (l : List (Nat × List PB)) (x : Nat) (h : ∀ d ∈ l, off d.1 d.2.length x) :
    (s.landDevice l).dev.byte x = s.dev.byte x :=
  foldl_byte _ x l s (fun d hd t => byte_outWrite_of_off t d.1 x _ (by simpa using h d hd))

theorem byte_landWrite_of_off (s : State) (x h n : Nat) (l : List Landing) (a : Nat)
    (hoff : ∀ y ∈ l, ∀ d ∈ y.device, off d.1 d.2.length a) : (s.landWrite x h n l).dev.byte a = s.dev.byte a := by
  refine foldl_byte _ a l s (fun y hy t => ?_)
  have hhost : ((t.landDevice y.device).landHost n x h y.host).dev = (t.landDevice y.device).dev := by simp
  rw [hhost]
  exact byte_landDevice_of_off t _ a (hoff y hy)

/-- Landing a command's writes changes memory only where they land. -/
theorem byte_landAll_of_off (s : State) (x h : Nat) (l : List (OutWr × List Landing)) (a : Nat) (hoff : offWrites l a) :
    (s.landAll x h l).dev.byte a = s.dev.byte a :=
  foldl_byte _ a l s (fun p hp t => byte_landWrite_of_off t x h _ _ a (fun y hy d hd => hoff p hp y hy d hd))

/-- Counting dropped words changes memory only at their counters. -/
theorem byte_wheyAdd_of_off (s : State) (l : List (Option Nat)) (a : Nat) (h : offWhey l a) :
    (s.wheyAdd l).dev.byte a = s.dev.byte a := by
  refine foldl_byte _ a l s (fun d hd t => ?_)
  cases d with
  | none => rfl
  | some d => exact byte_devPut_of_off t d a _ (by simpa [off] using h d hd)

/-! Operations that change one part of the state. -/

/-- A relation that holds of every step of a fold holds of the fold. -/
theorem foldl_rel {σ α : Type} (R : σ → σ → Prop) (hrefl : ∀ s, R s s) (htrans : ∀ {s t u}, R s t → R t u → R s u) (f : σ → α → σ)
    (h : ∀ s a, R s (f s a)) (l : List α) (s : σ) : R s (l.foldl f s) := by
  induction l generalizing s with
  | nil => exact hrefl s
  | cons a r ih => exact htrans (h s a) (ih _)

/-- Nothing but the pool slices differs. -/
def SlicesOnly (s t : State) : Prop := t = { s with slices := t.slices }

theorem SlicesOnly.refl (s : State) : SlicesOnly s s := rfl

theorem SlicesOnly.trans {s t u : State} (h1 : SlicesOnly s t) (h2 : SlicesOnly t u) : SlicesOnly s u := by
  unfold SlicesOnly at *
  rw [h2, h1]

theorem skewAccess_slicesOnly (s : State) (n k b r : Nat) (hot peer : Bool) : SlicesOnly s (s.skewAccess n k b r hot peer) := by
  rw [SlicesOnly, state_eq_iff]
  simp

theorem skewReads_slicesOnly (s : State) (c : Cmd) (rows : List Nat) : SlicesOnly s (s.skewReads c rows) := by
  unfold State.skewReads
  split
  · exact .refl s
  · refine foldl_rel SlicesOnly .refl .trans _ (fun s r => ?_) rows s
    split
    · split
      · exact skewAccess_slicesOnly ..
      · exact .refl s
    · exact .refl s

theorem countConv_slicesOnly (s : State) (n x : Nat) (v : Conv) : SlicesOnly s (s.countConv n x v) := by
  rw [SlicesOnly, state_eq_iff]
  simp

theorem countPress_slicesOnly (s : State) (n x : Nat) (e : Ev) : SlicesOnly s (s.countPress n x e) := by
  rw [SlicesOnly, state_eq_iff]
  simp

/-- Recording faults touches fault records, registers, trace and messages only. -/
theorem faults_eq (s : State) (c : Cmd) (l : List FaultEv) : ∃ m o x k r, s.faults c l = { s with
    msiWait := m, out := o, ctxs := x, kpr := k, trace := r } :=
  ⟨_, _, _, _, _, by rw [state_eq_iff]; simp; exact ⟨rfl, rfl, rfl, rfl, rfl⟩⟩

@[simp] theorem samePlaces_modCmd (s t : State) (h : Nat) (f : Cmd → Cmd) : SamePlaces s (t.modCmd h f) ↔ SamePlaces s t := Iff.rfl
@[simp] theorem samePlaces_endCmd (s t : State) (h : Nat) (f : Cmd → Cmd) : SamePlaces s (t.endCmd h f) ↔ SamePlaces s t := Iff.rfl
@[simp] theorem samePlaces_release (s t : State) (w : Who) : SamePlaces s (t.release w) ↔ SamePlaces s t := Iff.rfl
@[simp] theorem samePlaces_vats (s t : State) (v : Tab Vat) : SamePlaces s { t with vats := v } ↔ SamePlaces s t := Iff.rfl

/-- What a command's books and landings leave alone: `SamePlaces`, tables, vats and commands. -/
def SameBooks (s t : State) : Prop := SamePlaces s t ∧ t.tables = s.tables ∧ t.vats = s.vats ∧ t.cmds = s.cmds

theorem SameBooks.cmds {s t : State} (h : SameBooks s t) : t.cmds = s.cmds := h.2.2.2

theorem SameBooks.trans {s t u : State} (h1 : SameBooks s t) (h2 : SameBooks t u) : SameBooks s u := by
  unfold SameBooks SamePlaces SameInside at *
  simp_all

theorem SlicesOnly.sameBooks {s t : State} (h : SlicesOnly s t) : SameBooks s t := by
  rw [SlicesOnly] at h
  rw [h]
  simp [SameBooks, SamePlaces, SameInside]

theorem faults_sameBooks (s : State) (c : Cmd) (l : List FaultEv) : SameBooks s (s.faults c l) := by
  simp [SameBooks, SamePlaces, SameInside]

theorem wheyAdd_sameBooks (s : State) (l : List (Option Nat)) : SameBooks s (s.wheyAdd l) := by
  simp [SameBooks, SamePlaces, SameInside]

theorem landAll_sameBooks (s : State) (x h : Nat) (l : List (OutWr × List Landing)) : SameBooks s (s.landAll x h l) := by
  simp [SameBooks, SamePlaces, SameInside]

theorem SlicesOnly.dev {s t : State} (h : SlicesOnly s t) : t.dev = s.dev := by
  rw [SlicesOnly] at h
  rw [h]

/-- A gathering command's books: memory changes only at the whey counters. -/
theorem gatherBooks_sameBooks (s : State) (c : Cmd) (o : GatherOut) (evs : List FaultEv) (y : List (Option Nat)) :
    SameBooks s (s.gatherBooks c o evs y) :=
  (faults_sameBooks s c evs).trans ((wheyAdd_sameBooks _ y).trans ((countConv_slicesOnly ..).trans
    ((countPress_slicesOnly ..).trans (skewReads_slicesOnly ..))).sameBooks)

theorem gatherBooks_dev (s : State) (c : Cmd) (o : GatherOut) (evs : List FaultEv) (y : List (Option Nat)) :
    (s.gatherBooks c o evs y).dev = ((s.faults c evs).wheyAdd y).dev :=
  ((countConv_slicesOnly ..).trans ((countPress_slicesOnly ..).trans (skewReads_slicesOnly ..))).dev

theorem byte_gatherBooks_of_off (s : State) (c : Cmd) (o : GatherOut) (evs : List FaultEv) (y : List (Option Nat)) (a : Nat)
    (h : offWhey y a) : (s.gatherBooks c o evs y).dev.byte a = s.dev.byte a := by
  have hfaults : (s.faults c evs).dev = s.dev := by simp
  rw [gatherBooks_dev, byte_wheyAdd_of_off _ y a h, hfaults]

/-- The end of a command keeps everything that its books keep, but the commands. -/
theorem SameBooks.endCmd_release {s t : State} (h : SameBooks s t) (n : Nat) (f : Cmd → Cmd) (w : Who) :
    SamePlaces s ((t.endCmd n f).release w) ∧ ((t.endCmd n f).release w).tables = s.tables ∧
      ((t.endCmd n f).release w).vats = s.vats := by
  unfold SameBooks SamePlaces SameInside at *
  simp_all

/-- The next state of a command, and what holds of it. -/
theorem completes_of_exec {i : Instr} {s t : State} {P : State → Prop} (h : exec i s = .next t) (ht : P t) : Completes i s P := ⟨t, h, ht⟩

/-! Commands: what `running` says of a command, and what its end leaves. -/

theorem running_eq_some {s : State} {h op : Nat} {c : Cmd} (hr : s.running h op = some c) :
    Tab.get? s.cmds h = some c ∧ c.opcode = op ∧ c.ended = false ∧ s.mayRun c = true ∧ (s.slc c.slice).run = 2 ∧ s.mayRead h c = true := by
  unfold State.running at hr
  split at hr
  · rename_i d hd
    split at hr
    · rename_i hc
      obtain rfl := Option.some.inj hr
      obtain ⟨hop, hend, hmay, hrun, hread⟩ := hc
      exact ⟨hd, hop, by simpa using hend, hmay, hrun, hread⟩
    · contradiction
  · contradiction

theorem get?_modCmd (s : State) (h j : Nat) (f : Cmd → Cmd) :
    Tab.get? (s.modCmd h f).cmds j = if j = h then (Tab.get? s.cmds h).map f else Tab.get? s.cmds j := tab_get?_modify ..

theorem get?_modCmd_self {s : State} {h : Nat} {c : Cmd} (f : Cmd → Cmd) (hc : Tab.get? s.cmds h = some c) :
    Tab.get? (s.modCmd h f).cmds h = some (f c) := by
  rw [get?_modCmd, if_pos rfl, hc]; rfl

/-- A command that ends waits for its completion record with what `f` gave it. -/
theorem done_endCmd {s : State} {h : Nat} {c : Cmd} (f : Cmd → Cmd) (hc : Tab.get? s.cmds h = some c) :
    Done (s.endCmd h f) h { f c with phase := .done, doneAt := s.nextCmd } :=
  ⟨get?_modCmd_self _ hc, rfl⟩

theorem vat_modCmd (s : State) (h v : Nat) (f : Cmd → Cmd) : (s.modCmd h f).vat v = s.vat v := rfl

theorem vat_endCmd_release (s : State) (h v : Nat) (f : Cmd → Cmd) (w : Who) : ((s.endCmd h f).release w).vat v = s.vat v := rfl

theorem done_endCmd_release {s : State} {h : Nat} {c : Cmd} (f : Cmd → Cmd) (w : Who) (hc : Tab.get? s.cmds h = some c) :
    Done ((s.endCmd h f).release w) h { f c with phase := .done, doneAt := s.nextCmd } := done_endCmd f hc

end Sys2Proof.Proofs.Layer
end

section
/-! The gathering commands (O25, O26, O27). -/

namespace Sys2Proof.Proofs.Gather

open Sys2Proof Sys2Proof.Machine Sys2Proof.Claims Sys2Proof.Laws Sys2Proof.Proofs.Layer

/-! LOOKUP. -/

/-- A LOOKUP's run counts the words it drops, and no length word ends it. -/
theorem lookupRun_counts (s : State) (h : Nat) (c : Cmd) :
    (s.lookupRun h c).val.dropped = droppedCount (s.lookupRun h c).val.idx ∧ (s.lookupRun h c).val.lengthEnd = none := by
  unfold State.lookupRun Acc.bindReady
  dsimp only
  split
  · simp only [Acc.bind]
    split
    · exact ⟨rfl, rfl⟩
    · exact ⟨rfl, rfl⟩
  · exact ⟨rfl, rfl⟩

/-- Needs of which none is left, in the order in which a gathering command asks for them. -/
theorem needs_nil {a b c : List Need} (h : a ++ b ++ c = []) : (if a.isEmpty then b ++ c else a) = [] := by
  obtain ⟨rfl, rfl, rfl⟩ := by simpa using h
  rfl

section
variable {s : State} {h : Nat} {c : Cmd} {r : Acc GatherOut} {w : Acc (List (OutWr × List Landing))} {y : Acc (List (Option Nat))}

/-- A LOOKUP with room for its rings that awaits nothing keeps its books, lands its rows and ends. -/
theorem exec_lookup_ready (hrun : s.running h 1 = some c) (hrings : s.ringsFree c = true) (hr : r = s.lookupRun h c)
    (hw : w = s.outAcc (s.actor h c) (r.val.writes.map Prod.snd))
    (hy : y = s.wheyAll (s.actor h c) c.slice (s.wheyBase c) r.val.idx) (hneeds : r.needs ++ w.needs ++ y.needs = []) :
    exec (.lookup h) s = .next ((((s.gatherBooks c r.val (r.evs ++ w.evs ++ y.evs) y.val).landAll c.ctx h w.val).endCmd h
      (fun d => d.gathered r.val (anySuppressed w.val))).release (.cmd h)) := by
  rw [show exec (.lookup h) s = execLookup h s from rfl, execLookup, hrun]
  dsimp only
  rw [← hr, ← hw, ← hy, needs_nil hneeds, if_neg (by simpa using hrings)]
  rfl

end

/-- Settles O25: what a LOOKUP's end leaves is what its books, its landing and its end leave. -/
theorem lookupCompletes : Obligations.LookupCompletes := by
  unfold Obligations.LookupCompletes
  intro s h c r w y hrun hrings hr hw hy hneeds
  obtain ⟨hdropped, hlength⟩ := lookupRun_counts s h c
  rw [← hr] at hdropped hlength
  refine completes_of_exec (exec_lookup_ready hrun hrings hr hw hy hneeds) ?_
  have hbooks := (gatherBooks_sameBooks s c r.val (r.evs ++ w.evs ++ y.evs) y.val).trans (landAll_sameBooks _ c.ctx h w.val)
  have hget : Tab.get? _ h = some c := hbooks.cmds ▸ (running_eq_some hrun).1
  obtain ⟨hplaces, htables, hvats⟩ := hbooks.endCmd_release h (fun d => d.gathered r.val (anySuppressed w.val)) (.cmd h)
  refine ⟨hplaces, htables, hvats, fun a hoffW hoffY => ?_, _, done_endCmd_release _ _ hget, hdropped, rfl, rfl, ?_⟩
  · exact (byte_landAll_of_off _ _ _ _ a hoffW).trans (byte_gatherBooks_of_off s c _ _ _ a hoffY)
  · rw [← hdropped, ← hlength]
    rfl

/-! Index words and raw rows. -/

theorem dropReasonsInOrder : Claims.DropReasonsInOrder := by
  intro table w rows p
  refine ⟨fun hp => ?_, fun hp hv => ?_, fun hp hv hr => ?_, fun hp hv hr ht => ?_, fun hp hv hr ht hrows => ?_,
    fun n hp hv hr ht hrows => ?_⟩
  all_goals unfold dropReason; dsimp only
  · rw [if_pos hp]
  · simp [hp, hv]
  · simp [hp, hv, hr]
  · simp [hp, hv, hr, ht]
  · simp [hp, hv, hr, ht, hrows]
  · by_cases hrow : (indexWord w).row < n
    · simp [hp, hv, hr, ht, hrows, hrow]
    · simp [hp, hv, hr, ht, hrows, hrow, not_lt.mp hrow]

theorem padTo_length {α : Type} (n : Nat) (d : α) (l : List α) : (padTo n d l).length = n := by
  simp only [padTo, List.length_append, List.length_take, List.length_replicate]
  omega

/-- An entry of a list filled up with the default of the read. -/
theorem getD_padTo {α : Type} (n : Nat) (d : α) (l : List α) (i : Nat) : (padTo n d l).getD i d = if i < n then l.getD i d else d := by
  simp only [padTo, List.getD_eq_getElem?_getD, List.getElem?_append, List.getElem?_take, List.length_take, List.getElem?_replicate]
  split
  · split
    · rfl
    · omega
  · have hrest : (if i - min n l.length < n - l.length then some d else none).getD d = d := by split <;> rfl
    rw [hrest]
    split
    · rw [List.getElem?_eq_none (by omega)]
      rfl
    · rfl

theorem getD_take {α : Type} (n : Nat) (d : α) (l : List α) (i : Nat) : (l.take n).getD i d = if i < n then l.getD i d else d := by
  simp only [List.getD_eq_getElem?_getD, List.getElem?_take]
  split <;> rfl

theorem rawLookupRow : Claims.RawLookupRow := by
  intro fmt t x l hlen
  have hrow : (lookupRow true fmt t x (some l)).1 = padTo t.stored ⟨0, 0⟩ (l.take (contentBytes t.fmt t.dim)) := rfl
  have hnone : (lookupRow true fmt t x none).1 = List.replicate t.stored ⟨0, if x.drop == some 0 then markedData else 0⟩ := rfl
  rw [hrow, hnone]
  refine ⟨padTo_length .., fun i hi => ?_, fun i hi => ?_, fun b hb => ?_, List.length_replicate⟩
  · rw [getD_padTo, getD_take, if_pos hi]
    split
    · rfl
    · rw [List.getD_eq_default _ _ (by omega)]
  · rw [getD_padTo, getD_take, if_neg (not_lt.mpr hi), ite_self]
  · rw [List.eq_of_mem_replicate hb]

/-- Settles O26: the tests of `dropReason` in their order, and the bytes of a raw row one by one. -/
theorem lookupRowRules : Obligations.LookupRowRules := ⟨dropReasonsInOrder, rawLookupRow⟩

/-! LOOKUP_POOL. -/

/-- The vats that a LOOKUP_POOL used hold their last tile finished, and the others are as before. -/
theorem getD_finishVats (vats : Tab Vat) (h : Nat) (used : List Nat) (v : Nat) :
    Tab.getD (finishVats vats h used) v {} =
      if v ∈ used then { (Tab.getD vats v {}) with finished := some h } else Tab.getD vats v {} := by
  unfold finishVats
  induction used generalizing vats with
  | nil => rfl
  | cons u r ih =>
    rw [List.foldl_cons, ih]
    by_cases hv : v = u
    · subst hv
      simp
    · simp [hv, tab_getD_set_other _ _ _ _ _ hv]

/-- The landings that a LOOKUP_POOL makes before its drains: those of all tiles but the last of each vat. -/
def landsNow (o : GatherOut) (l : List (OutWr × List Landing)) : List (OutWr × List Landing) :=
  ((List.zip o.writes l).filter (fun p => p.1.1.isNone)).map Prod.snd

theorem offWrites_landsNow {o : GatherOut} {l : List (OutWr × List Landing)} {a : Nat} (h : offWrites l a) : offWrites (landsNow o l) a := by
  intro p hp
  obtain ⟨q, hq, rfl⟩ := List.mem_map.mp hp
  exact h _ (List.of_mem_zip (List.mem_of_mem_filter hq)).2

/-- What a LOOKUP_POOL holds for the drains of its vats. -/
def heldFor (o : GatherOut) (used : List Nat) : List (Nat × List OutWr) :=
  used.map (fun v => (v, (o.writes.filter (fun p => p.1 == some v)).map Prod.snd))

/-- The state of a LOOKUP_POOL whose results are counted and whose earlier tiles have landed. -/
def pooled (s : State) (h : Nat) (c : Cmd) (r : Acc PoolRun) (w : Acc (List (OutWr × List Landing))) (y : Acc (List (Option Nat))) : State :=
  ((s.gatherBooks c r.val.out (r.evs ++ w.evs ++ y.evs) y.val).landAll c.ctx h (landsNow r.val.out w.val)).modCmd h
    (fun d => d.gathered r.val.out (anySuppressed w.val))

section
variable {s : State} {h : Nat} {c : Cmd} {r : Acc PoolRun} {w : Acc (List (OutWr × List Landing))} {y : Acc (List (Option Nat))}

/-- A LOOKUP_POOL whose turn it is, with room and free vats, that awaits nothing and is denied nothing. -/
theorem exec_lookupPool_ready (hrun : s.running h 2 = some c) (hphase : c.phase = .ready) (hr : r = s.poolRun h c)
    (hw : w = s.outAcc (s.actor h c) (r.val.out.writes.map Prod.snd))
    (hy : y = s.wheyAll (s.actor h c) c.slice (s.wheyBase c) r.val.out.idx) (hneeds : r.needs ++ w.needs ++ y.needs = [])
    (hvats : s.vatsFree r.val.used = true) (hturns : s.turnsBefore h c = false) (hrings : s.ringsFree c = true)
    (hdenied : r.val.denied = false) :
    exec (.lookupPool h) s = .next (if r.val.used = [] then ((pooled s h c r w y).endCmd h id).release (.cmd h) else
      { (pooled s h c r w y).modCmd h (fun d => { d with
          phase := .stage 1, begun := true, held := heldFor r.val.out r.val.used, noted := d.noted ++ sitesOf (r.evs ++ w.evs ++ y.evs) }) with
        vats := finishVats r.val.vats h r.val.used }) := by
  have hguard : (c.phase ≠ .ready || s.turnsBefore h c || !s.ringsFree c) = false := by simp [hphase, hturns, hrings]
  rw [show exec (.lookupPool h) s = execLookupPool h s from rfl, execLookupPool, hrun]
  dsimp only
  rw [← hr, ← hw, ← hy, needs_nil hneeds, hguard, hvats, hdenied]
  cases hused : r.val.used with
  | nil => rfl
  | cons v l => rfl

/-- What the counting and the landings of a LOOKUP_POOL leave. -/
theorem pooled_places : SamePlaces s (pooled s h c r w y) ∧ (pooled s h c r w y).tables = s.tables := by
  have hbooks := (gatherBooks_sameBooks s c r.val.out (r.evs ++ w.evs ++ y.evs) y.val).trans
    (landAll_sameBooks _ c.ctx h (landsNow r.val.out w.val))
  exact ⟨hbooks.1, hbooks.2.1⟩

theorem get?_pooled (hget : Tab.get? s.cmds h = some c) :
    Tab.get? (pooled s h c r w y).cmds h = some (c.gathered r.val.out (anySuppressed w.val)) := by
  have hbooks := (gatherBooks_sameBooks s c r.val.out (r.evs ++ w.evs ++ y.evs) y.val).trans
    (landAll_sameBooks _ c.ctx h (landsNow r.val.out w.val))
  exact get?_modCmd_self _ (hbooks.cmds ▸ hget)

theorem byte_pooled {a : Nat} (hoffW : offWrites w.val a) (hoffY : offWhey y.val a) :
    (pooled s h c r w y).dev.byte a = s.dev.byte a :=
  (byte_landAll_of_off _ _ _ _ a (offWrites_landsNow hoffW)).trans (byte_gatherBooks_of_off s c _ _ _ a hoffY)

end

theorem lookupPoolFinishesTiles : Claims.LookupPoolFinishesTiles := by
  intro s h c r w y hrun hphase hr hw hy hneeds hvats hturns hrings hdenied
  refine completes_of_exec (exec_lookupPool_ready hrun hphase hr hw hy hneeds hvats hturns hrings hdenied) ?_
  obtain ⟨hplaces, htables⟩ := pooled_places (s := s) (h := h) (c := c) (r := r) (w := w) (y := y)
  have hget := get?_pooled (r := r) (w := w) (y := y) (running_eq_some hrun).1
  have hbytes := fun a hoffW hoffY => byte_pooled (s := s) (h := h) (c := c) (r := r) (w := w) (y := y) (a := a) hoffW hoffY
  generalize pooled s h c r w y = p at *
  by_cases hused : r.val.used = []
  · rw [if_pos hused]
    exact ⟨hplaces, htables, hbytes, by simp [hused], _,
      (done_endCmd_release id _ hget).1, rfl, rfl, rfl, by rw [if_pos hused], by rw [if_pos hused]; rfl⟩
  · rw [if_neg hused]
    refine ⟨hplaces, htables, hbytes, fun v hv => ?_, _, get?_modCmd_self _ hget,
      rfl, rfl, rfl, by rw [if_neg hused], ?_⟩
    · rw [State.vat, getD_finishVats, if_pos hv]
      exact ⟨rfl, rfl⟩
    · rw [if_neg hused]
      simp [heldFor, Function.comp_def]

/-! TILE_DRAIN. -/

/-- Vat `v` with its finished tile moved into the shadow set (R113). -/
def drained (s : State) (v : Nat) : State :=
  { s with vats := Tab.set s.vats v { (s.vat v) with shadow := (s.vat v).work, finished := none } }

@[simp] theorem samePlaces_drained (s t : State) (v : Nat) : SamePlaces (drained s v) t ↔ SamePlaces s t := Iff.rfl

theorem vat_drained (s : State) (v u : Nat) :
    (drained s v).vat u = if u = v then { (s.vat v) with shadow := (s.vat v).work, finished := none } else s.vat u := by
  unfold drained State.vat
  split
  · subst_vars
    exact tab_getD_set_self ..
  · exact tab_getD_set_other _ _ _ _ _ ‹_›

/-- A command after the drain of its last vat: whether a page of the results was refused late, and the places noted. -/
def afterDrain (late : Bool) (sites : List Nat) (d : Cmd) : Cmd :=
  { d with held := [], status := if late then 0x16 else d.status, noted := d.noted ++ sites }

/-- The drain of the last vat that an open context's command holds results for. -/
theorem exec_tileDrain_last {s : State} {n : Fin 4} {u : Fin 16} {v h : Nat} {c : Cmd} {ws : List OutWr}
    {w : Acc (List (OutWr × List Landing))} (hv : v = 16 * n.val + u.val) (hfin : (s.vat v).finished = some h)
    (hget : Tab.get? s.cmds h = some c) (hphase : c.phase = .stage 1) (hopen : s.isOpen c.ctx = true) (hheld : c.held = [(v, ws)])
    (hw : w = s.outAcc (s.actor h c) ws) (hneeds : w.needs = []) :
    exec (.tileDrain n u) s = .next ((((((drained s v).faults c (w.evs.filter (fun e => e.site.isSome))).landAll c.ctx h w.val).modCmd h
      (afterDrain (anySuppressed w.val && c.status != 0x18) (sitesOf (w.evs.filter (fun e => e.site.isSome))))).endCmd h id).release
      (.cmd h)) := by
  have hended : (c.ended || !s.isOpen c.ctx) = false := by simp [Cmd.ended, hphase, hopen]
  rw [show exec (.tileDrain n u) s = execTileDrain n u s from rfl, execTileDrain, ← hv, hfin]
  dsimp only
  rw [hget]
  dsimp only
  rw [hheld, hended]
  simp only [List.find?_cons, beq_self_eq_true, Option.map_some, Option.getD_some, ← hw, hneeds, List.filter_cons, bne_self_eq_false]
  rfl

theorem tileDrainEndsPooling : Claims.TileDrainEndsPooling := by
  intro s n u h c ws w hfin hget hphase hopen hheld hw hneeds
  refine completes_of_exec (exec_tileDrain_last rfl hfin hget hphase hopen hheld hw hneeds) ?_
  generalize 16 * n.val + u.val = v at *
  have hbooks : SameBooks (drained s v) _ :=
    (faults_sameBooks (drained s v) c (w.evs.filter (fun e => e.site.isSome))).trans (landAll_sameBooks _ c.ctx h w.val)
  have hbytes : sameBytes (offWrites w.val) s _ := fun a ha =>
    (byte_landAll_of_off ((drained s v).faults c (w.evs.filter (fun e => e.site.isSome))) c.ctx h _ a ha).trans (by simp [drained])
  generalize ((drained s v).faults c (w.evs.filter (fun e => e.site.isSome))).landAll c.ctx h w.val = t at *
  obtain ⟨hplaces, -, hvats, hcmds⟩ := hbooks
  have hvat : ∀ x, t.vat x = (drained s v).vat x := fun x => by rw [State.vat, State.vat, hvats]
  have hcmd : Tab.get? t.cmds h = some c := by rw [hcmds]; exact hget
  generalize sitesOf (w.evs.filter (fun e => e.site.isSome)) = sites
  have hdone := done_endCmd_release id (.cmd h)
    (get?_modCmd_self (afterDrain (anySuppressed w.val && c.status != 0x18) sites) hcmd)
  refine ⟨by simpa using hplaces, ?_, ?_, fun x hx => ?_, hbytes, _, hdone, rfl, rfl, rfl, rfl⟩
  · rw [vat_endCmd_release, vat_modCmd, hvat, vat_drained, if_pos rfl]
  · rw [vat_endCmd_release, vat_modCmd, hvat, vat_drained, if_pos rfl]
  · rw [vat_endCmd_release, vat_modCmd, hvat, vat_drained, if_neg hx]

/-- Settles O27: the pooling leaves its last tiles finished, and the last drain lands what was held and ends the command. -/
theorem poolingEndsInTiles : Obligations.PoolingEndsInTiles := ⟨lookupPoolFinishesTiles, tileDrainEndsPooling⟩

end Sys2Proof.Proofs.Gather
end

section
/-! CXL.mem at a host port (O8, O9): writes with their guarded bytes and poison, reads line by line. -/

namespace Sys2Proof.Proofs.HostMem

open Sys2Proof Sys2Proof.Machine Sys2Proof.Claims Sys2Proof.Laws Sys2Proof.Proofs.Basic Sys2Proof.Proofs.Layer

/-! What a write of the host leaves, byte by byte. -/

/-- The runs of a write carry its bytes to their places. -/
theorem getD_openRuns {a : Nat} {bs : List PB} {p : Nat × List PB} (h : p ∈ openRuns a bs) (d : PB) (i : Nat) (hi : i < p.2.length) :
    p.2.getD i d = bs.getD (p.1 + i - a) d := by
  induction bs generalizing a p i with
  | nil => simp [openRuns] at h
  | cons b r ih =>
    have hcons : ∀ {q : Nat × List PB} {i}, q ∈ openRuns (a + 1) r → i < q.2.length → q.2.getD i d = (b :: r).getD (q.1 + i - a) d := by
      intro q i hq hi
      obtain ⟨hle, -, -⟩ := mem_openRuns hq
      rw [ih hq i hi, show q.1 + i - a = (q.1 + i - (a + 1)) + 1 by omega, List.getD_cons_succ]
    rw [openRuns] at h
    split at h
    · exact hcons h hi
    · split at h
      · rename_i k l t heq
        split at h
        · rename_i hk
          rcases List.mem_cons.mp h with rfl | h
          · cases i with
            | zero => simp
            | succ i =>
              have := hcons (q := (k, l)) (i := i) (heq ▸ List.mem_cons_self) (by simpa using hi)
              rw [List.getD_cons_succ, this]
              simp only
              rw [show k + i - a = a + (i + 1) - a by omega]
          · exact hcons (heq ▸ List.mem_cons_of_mem _ h) hi
        · rcases List.mem_cons.mp h with rfl | h
          · obtain rfl : i = 0 := by simpa using hi
            simp
          · exact hcons (heq ▸ h) hi
      · obtain rfl := List.mem_singleton.mp h
        obtain rfl : i = 0 := by simpa using hi
        simp

/-- Every byte of a write that is not guarded lies in a run. -/
theorem exists_openRun {a : Nat} {bs : List PB} {x : Nat} (hx : a ≤ x ∧ x < a + bs.length) (hg : guarded x = false) :
    ∃ p ∈ openRuns a bs, p.1 ≤ x ∧ x < p.1 + p.2.length := by
  induction bs generalizing a with
  | nil => simp at hx; omega
  | cons b r ih =>
    rw [List.length_cons] at hx
    rw [openRuns]
    by_cases hax : a = x
    · subst hax
      rw [if_neg (by simp [hg])]
      split
      · split
        · exact ⟨_, List.mem_cons_self, le_rfl, by simp⟩
        · exact ⟨_, List.mem_cons_self, le_rfl, by simp⟩
      · exact ⟨_, List.mem_cons_self, le_rfl, by simp⟩
    · obtain ⟨p, hp, hlo, hhi⟩ := ih (a := a + 1) (by omega)
      split
      · exact ⟨p, hp, hlo, hhi⟩
      · split
        · rename_i k l t heq
          rw [heq] at hp
          split
          · rename_i hk
            rcases List.mem_cons.mp hp with rfl | hp
            · exact ⟨_, List.mem_cons_self, by simp only at *; omega, by simp only [List.length_cons] at *; omega⟩
            · exact ⟨p, List.mem_cons_of_mem _ hp, hlo, hhi⟩
          · exact ⟨p, List.mem_cons_of_mem _ hp, hlo, hhi⟩
        · rename_i heq
          simp [heq] at hp

/-- Runs whose bytes all come from `g` leave `g` where they lie. -/
theorem byte_foldl_devWrite (g : Nat → Byte) (l : List (Nat × List PB)) (s : State) (hs : s.inv) (x : Nat)
    (hg : ∀ p ∈ l, ∀ i, i < p.2.length → (p.2.getD i ⟨0, 0⟩).b = g (p.1 + i)) :
    ((∃ p ∈ l, p.1 ≤ x ∧ x < p.1 + p.2.length) → (l.foldl (fun acc p => acc.devWrite p.1 p.2) s).dev.byte x = g x) ∧
    ((∀ p ∈ l, off p.1 p.2.length x) → (l.foldl (fun acc p => acc.devWrite p.1 p.2) s).dev.byte x = s.dev.byte x) := by
  refine ⟨?_, fun h => foldl_byte _ x l s (fun p hp t => byte_devWrite_of_off t p.1 x p.2 (h p hp))⟩
  induction l generalizing s with
  | nil => rintro ⟨p, hp, -⟩; simp at hp
  | cons p r ih =>
    rintro ⟨q, hq, hlo, hhi⟩
    have hr := fun p hp => hg p (List.mem_cons_of_mem _ hp)
    rw [List.foldl_cons]
    by_cases hin : ∃ p ∈ r, p.1 ≤ x ∧ x < p.1 + p.2.length
    · exact ih _ (devWrite_inv s _ _ hs) hr hin
    · obtain rfl : q = p := by
        rcases List.mem_cons.mp hq with h | h
        · exact h
        · exact absurd ⟨q, h, hlo, hhi⟩ hin
      rw [foldl_byte (fun (acc : State) (p : Nat × List PB) => acc.devWrite p.1 p.2) x r _ (fun p hp t => byte_devWrite_of_off t p.1 x p.2 ?_)]
      · have hbyte : (s.devWrite q.1 q.2).dev.byte x = (dataOf q.2).getD (x - q.1) 0 :=
          (byte_write s.dev q.1 x q.2 hs).trans (if_pos ⟨hlo, hhi⟩)
        rw [hbyte, getD_dataOf, hg q List.mem_cons_self _ (by omega), Nat.add_sub_cancel' hlo]
      · unfold off
        by_contra hoff
        exact hin ⟨p, hp, by omega, by omega⟩

/-- A byte that is not guarded takes what the host writes; a guarded one stays. -/
theorem byte_outWrite (s : State) (hs : s.inv) (a x : Nat) (bs : List PB) (hx : a ≤ x ∧ x < a + bs.length) :
    (s.outWrite a bs).dev.byte x = if guarded x then s.dev.byte x else (bs.getD (x - a) ⟨0, 0⟩).b := by
  unfold State.outWrite
  split
  · obtain ⟨hin, hout⟩ := byte_foldl_devWrite (fun x => (bs.getD (x - a) ⟨0, 0⟩).b) (openRuns a bs) s hs x
      (fun p hp i hi => congrArg PB.b (getD_openRuns hp ⟨0, 0⟩ i hi))
    by_cases hg : guarded x = true
    · rw [if_pos hg, hout]
      intro p hp
      obtain ⟨-, -, hopen⟩ := mem_openRuns hp
      unfold off
      by_contra hoff
      have := hopen (x - p.1) (by omega)
      rw [Nat.add_sub_cancel' (by omega), hg] at this
      contradiction
    · rw [if_neg hg, hin (exists_openRun hx (by simpa using hg))]
  · rename_i hnone
    have hg : guarded x = false := by
      by_contra hg
      refine hnone (List.any_eq_true.mpr ⟨(bs[x - a], x - a), ?_, ?_⟩)
      · exact List.mk_mem_zipIdx_iff_getElem?.mpr (List.getElem?_eq_getElem _)
      · rw [Nat.add_sub_cancel' hx.1]; simpa using hg
    have hbyte : (s.devWrite a bs).dev.byte x = (dataOf bs).getD (x - a) 0 := (byte_write s.dev a x bs hs).trans (if_pos hx)
    rw [hbyte, getD_dataOf, hg]
    rfl

/-! Poisoned lines. -/

theorem sector_foldl_mark (ks : List Nat) (m : Mem) (j : Nat) :
    (ks.foldl (fun m k => m.mark k true) m).sector j = if j ∈ ks then 4 else m.sector j := by
  induction ks generalizing m with
  | nil => rfl
  | cons k r ih =>
    rw [List.foldl_cons, ih, sector_mark]
    by_cases hr : j ∈ r
    · simp [hr]
    · by_cases hk : j = k <;> simp [hr, hk]

theorem byte_foldl_mark (ks : List Nat) (m : Mem) (x : Nat) : (ks.foldl (fun m k => m.mark k true) m).byte x = m.byte x := by
  induction ks generalizing m with
  | nil => rfl
  | cons k r ih => rw [List.foldl_cons, ih]; rfl

theorem byte_poisonLines (s : State) (a n x : Nat) : (s.poisonLines a n).dev.byte x = s.dev.byte x := by
  unfold State.poisonLines
  split
  · rfl
  · exact byte_foldl_mark ..

theorem sector_poisonLines (s : State) (a n k : Nat) (hn : n ≠ 0) (hlo : 2 * (a / 64) ≤ k) (hhi : k ≤ 2 * ((a + n - 1) / 64) + 1) :
    (s.poisonLines a n).dev.sector k = 4 := by
  rw [State.poisonLines, if_neg hn]
  simp only [sector_foldl_mark]
  refine if_pos (List.mem_map.mpr ⟨k - 2 * (a / 64), List.mem_range.mpr ?_, by omega⟩)
  omega

theorem poisonLines_eq (s : State) (a n : Nat) : s.poisonLines a n = { s with dev := (s.poisonLines a n).dev } := by
  unfold State.poisonLines
  split <;> rfl

/-! MEM_WRITE. -/

/-- The bytes that a host write stores: those of a region of an open table are free (R169). -/
def hostBytes (s : State) (addr : Nat) (bytes : List Byte) (poisoned : Bool) : List PB :=
  (List.range bytes.length).map (fun i =>
    { b := if s.inTable (addr + i) then Config.freeByte (s.freeCtr + i) else bytes.getD i 0, p := if poisoned then 4 else 0 })

@[simp] theorem hostBytes_length (s : State) (addr : Nat) (bytes : List Byte) (p : Bool) : (hostBytes s addr bytes p).length = bytes.length := by
  simp [hostBytes]

theorem getD_hostBytes (s : State) (addr : Nat) (bytes : List Byte) (p : Bool) (i : Nat) (hi : i < bytes.length) :
    ((hostBytes s addr bytes p).getD i ⟨0, 0⟩).b = if s.inTable (addr + i) then Config.freeByte (s.freeCtr + i) else bytes.getD i 0 := by
  simp [hostBytes, List.getD_eq_getElem?_getD, hi]

theorem memStore_eq (s : State) (addr : Nat) (bytes : List Byte) (poisoned : Bool) (hup : s.sliceUp (sliceOf addr) = true) :
    s.memStore addr bytes poisoned =
      { (if poisoned && !(List.range bytes.length).any (fun i => guarded (addr + i))
          then (s.outWrite addr (hostBytes s addr bytes poisoned)).poisonLines addr bytes.length
          else s.outWrite addr (hostBytes s addr bytes poisoned)) with freeCtr := s.freeCtr + bytes.length } := by
  rw [State.memStore, hup]
  rfl

/-- Memory after a host write: the bytes as `outWrite` leaves them, poison or not. -/
theorem byte_memStore (s : State) (addr : Nat) (bytes : List Byte) (poisoned : Bool) (hup : s.sliceUp (sliceOf addr) = true) (x : Nat) :
    (s.memStore addr bytes poisoned).dev.byte x = (s.outWrite addr (hostBytes s addr bytes poisoned)).dev.byte x := by
  rw [memStore_eq s addr bytes poisoned hup]
  dsimp only
  split
  · exact byte_poisonLines ..
  · rfl

theorem memStore_frame (s : State) (addr : Nat) (bytes : List Byte) (poisoned : Bool) (hup : s.sliceUp (sliceOf addr) = true) :
    s.memStore addr bytes poisoned =
      { s with dev := (s.memStore addr bytes poisoned).dev, freeCtr := s.freeCtr + bytes.length } := by
  rw [memStore_eq s addr bytes poisoned hup]
  split
  · rw [poisonLines_eq, state_eq_iff]
    simp
  · rw [state_eq_iff]
    simp

theorem exec_memWrite (s : State) (port : Fin 4) (addr : Nat) (bytes : List Byte) (poisoned : Bool) (hup : s.portUp port.val = true)
    (hin : addr + bytes.length ≤ Config.devBytes) :
    exec (.memWrite port addr bytes poisoned) s = .next (if s.repairing addr bytes.length
      then { s with memHeld := s.memHeld ++ [.memWrite port addr bytes poisoned] } else s.memStore addr bytes poisoned) := by
  rw [show exec (.memWrite port addr bytes poisoned) s = execMemWrite port addr bytes poisoned s from rfl, execMemWrite, hup, inDevice,
    decide_eq_true hin]
  cases s.repairing addr bytes.length <;> rfl

/-- Settles O8: the bytes are those of `outWrite`, the sectors those that `poisonLines` marks. -/
theorem memWriteStores : Obligations.MemWriteStores := by
  unfold Obligations.MemWriteStores
  intro s port addr bytes poisoned hinv hport hin
  refine ⟨fun hrep hup => ⟨s.memStore addr bytes poisoned, ?_, fun i hi => ?_, fun hp hopen hne k hlo hhi => ?_, fun x hx => ?_,
    memStore_frame s addr bytes poisoned hup⟩, fun hrep hdown => ?_, fun hrep => ?_⟩
  · rw [exec_memWrite s port addr bytes poisoned hport hin, hrep]; rfl
  · rw [byte_memStore s addr bytes poisoned hup, byte_outWrite s hinv _ _ _ (by simpa using hi), Nat.add_sub_cancel_left,
      getD_hostBytes s addr bytes poisoned i hi]
  · have hany : (List.range bytes.length).any (fun i => guarded (addr + i)) = false := by
      simpa [List.any_eq_false] using hopen
    rw [memStore_eq s addr bytes poisoned hup, hp, hany]
    exact sector_poisonLines _ addr bytes.length k (by simpa using hne) hlo hhi
  · rw [byte_memStore s addr bytes poisoned hup, byte_outWrite_of_off _ _ _ _ (by simpa using hx)]
  · rw [Gives, exec_memWrite s port addr bytes poisoned hport hin, hrep, State.memStore, hdown]; rfl
  · rw [Gives, exec_memWrite s port addr bytes poisoned hport hin, hrep]; rfl

/-! MEM_READ. -/

theorem anyPoison_read (m : Mem) (a n : Nat) : anyPoison (m.read a n) = true ↔ ∃ j, j < n ∧ m.sector ((a + j) / 32) ≠ 0 := by
  simp [anyPoison, Mem.read]

theorem dataOf_read (m : Mem) (a n : Nat) : dataOf (m.read a n) = m.bytes a n := by
  simp [dataOf, Mem.read, Mem.bytes, Function.comp_def]

/-- The line that a read finds: through the port of a running slice what memory gives, else free values with poison. -/
def lineRead (s : State) (up : Bool) (line : Nat) : List Byte × Bool := if up then s.memLine line else (s.freeBytes 64, true)

/-- A read of clean memory through running slices delivers its bytes; every other line is poisoned. -/
theorem lineRead_clean (s : State) (up : Bool) (line : Nat) (hport : up = true) (hup : s.sliceUp (sliceOf (64 * line)) = true)
    (hclean : ∀ j, j < 64 → s.dev.sector ((64 * line + j) / 32) = 0) : lineRead s up line = (s.dev.bytes (64 * line) 64, false) := by
  have hno : anyPoison (s.dev.read (64 * line) 64) = false := by
    by_contra h
    obtain ⟨j, hj, hs⟩ := (anyPoison_read _ _ _).mp (by simpa using h)
    exact hs (hclean j hj)
  simp [lineRead, State.memLine, hport, hup, hno, dataOf_read]

theorem lineRead_poisoned (s : State) (up : Bool) (line : Nat) (h : up = false ∨ s.sliceUp (sliceOf (64 * line)) = false ∨
    ∃ j, j < 64 ∧ s.dev.sector ((64 * line + j) / 32) ≠ 0) : (lineRead s up line).2 = true := by
  unfold lineRead State.memLine
  split
  · rename_i hport
    have hbad : (!s.sliceUp (sliceOf (64 * line)) || anyPoison (s.dev.read (64 * line) 64)) = true := by
      rcases h with h | h | h
      · simp [h] at hport
      · simp [h]
      · simp [(anyPoison_read _ _ _).mpr h]
    rw [if_pos hbad]
  · rfl

/-- The answer to a read of line `line`, after `k` free values have been taken. -/
def lineMsg (s : State) (port : Nat) (up : Bool) (line k : Nat) : Msg :=
  .readData port (lineRead { s with freeCtr := s.freeCtr + k } up line).1 (lineRead { s with freeCtr := s.freeCtr + k } up line).2

/-- The answers of a read up to line `n`: each line as the memory and the slices give it. -/
theorem foldl_lineRead (s : State) (port : Nat) (up : Bool) (first n : Nat) :
    (List.range n).foldl (fun acc i =>
        let l := if up then acc.memLine (first + i) else (acc.freeBytes 64, true)
        { acc.send (.readData port l.1 l.2) with freeCtr := acc.freeCtr + 64 }) s =
      { s with
        out := s.out ++ (List.range n).map (fun i => lineMsg s port up (first + i) (64 * i)), freeCtr := s.freeCtr + 64 * n } := by
  induction n with
  | zero => simp
  | succ n ih =>
    rw [List.range_succ, List.foldl_append, ih, List.map_append, ← List.append_assoc]
    rfl

/-- What a host read leaves: one answer for each line, and the free values of lines that have no data of their own. -/
theorem memLoad_eq (s : State) (port addr count : Nat) (hcount : 0 < count) :
    s.memLoad port addr count = { s with
      out := s.out ++ (List.range ((addr + count - 1) / 64 + 1 - addr / 64)).map (fun i =>
        lineMsg s port (s.sliceUp port) (addr / 64 + i) (64 * i)),
      freeCtr := s.freeCtr + 64 * ((addr + count - 1) / 64 + 1 - addr / 64) } := by
  rw [State.memLoad, if_neg (by omega)]
  exact foldl_lineRead s port (s.sliceUp port) _ _

theorem exec_memRead (s : State) (port : Fin 4) (addr count : Nat) (hready : s.hostReady = true) (hin : addr + count ≤ Config.devBytes) :
    exec (.memRead port addr count) s = .next (if s.repairing addr count
      then { s with memHeld := s.memHeld ++ [.memRead port addr count] } else s.memLoad port.val addr count) := by
  rw [show exec (.memRead port addr count) s = execMemRead port addr count s from rfl, execMemRead, hready, inDevice, decide_eq_true hin]
  cases s.repairing addr count <;> rfl

theorem memReadAnswers : Claims.MemReadAnswers := by
  intro s port addr count hready hin
  refine ⟨fun hrep hcount => ?_, fun hrep => ?_⟩
  · refine ⟨s.memLoad port.val addr count, ?_, ?_⟩
    · rw [exec_memRead s port addr count hready hin, hrep]; rfl
    · rw [memLoad_eq s port.val addr count hcount]
      refine ⟨_, rfl, by simp, ?_⟩
      rintro i a hi rfl
      rw [List.length_map, List.length_range] at hi
      rw [List.getElem?_map, List.getElem?_range hi, Option.map_some, lineMsg]
      refine ⟨fun hport hup hclean => ?_, fun hbad =>
        ⟨(lineRead { s with freeCtr := s.freeCtr + 64 * i } (s.sliceUp port.val) (addr / 64 + i)).1, ?_⟩⟩
      · rw [lineRead_clean { s with freeCtr := s.freeCtr + 64 * i } _ _ hport hup hclean]
      · rw [lineRead_poisoned { s with freeCtr := s.freeCtr + 64 * i } _ _ hbad]
  · rw [Gives, exec_memRead s port addr count hready hin, hrep]; rfl

/-! A line written and read back. -/

theorem hostReady_of_portUp {s : State} {n : Nat} (h : s.portUp n = true) : s.hostReady = true := by
  simp only [State.portUp, Bool.and_eq_true] at h
  exact h.1

theorem sliceUp_of_portUp {s : State} {n : Nat} (h : s.portUp n = true) : s.sliceUp n = true := by
  simp only [State.portUp, Bool.and_eq_true] at h
  exact h.2

theorem repairing_of_step_ne {s : State} (h : s.boot.step ≠ 10) (a n : Nat) : s.repairing a n = false := by
  simp [State.repairing, h]

theorem hostBytes_of_open (s : State) (addr : Nat) (bytes : List Byte) (h : ∀ i, i < bytes.length → s.inTable (addr + i) = false) :
    hostBytes s addr bytes false = cleanBytes bytes := by
  refine List.ext_getElem (by simp) fun i hi hi' => ?_
  have hlt : i < bytes.length := by simpa using hi
  simp [hostBytes, cleanBytes, h i hlt, hlt]

theorem outWrite_of_open (s : State) (a : Nat) (bs : List PB) (h : ∀ i, i < bs.length → guarded (a + i) = false) :
    s.outWrite a bs = s.devWrite a bs := by
  rw [State.outWrite, if_neg]
  simp only [List.any_eq_true, Prod.exists, not_exists, not_and, Bool.not_eq_true]
  intro b i hmem
  exact h i (by have := List.snd_lt_of_mem_zipIdx hmem; simpa using this)

theorem bytes_writeClean (m : Mem) (hm : m.wf = true) (a : Nat) (bs : List Byte) : (m.writeClean a bs).bytes a bs.length = bs := by
  refine List.ext_getElem (by simp [Mem.bytes]) fun i hi hi' => ?_
  simp only [Mem.bytes, List.getElem_map, List.getElem_range, Mem.writeClean]
  rw [byte_write _ _ _ _ hm, if_pos (by simpa using hi'), Nat.add_sub_cancel_left, dataOf_cleanBytes, List.getD_eq_getElem _ _ hi']

/-- A clean write of a whole line leaves both its sectors clean. -/
theorem sector_writeClean_line (m : Mem) (a : Nat) (bs : List Byte) (ha : a % 64 = 0) (hbs : bs.length = 64) (j : Nat) (hj : j < 64) :
    (m.writeClean a bs).sector ((a + j) / 32) = 0 := by
  rw [sectorStateAfterWrite m a bs (by rintro rfl; simp at hbs), if_neg (by omega), if_pos (by omega)]

/-- A read of one clean line outside the repairs of boot. -/
theorem exec_memRead_clean_line (s : State) (port : Fin 4) (addr : Nat) (hport : s.portUp port.val = true) (hstep : s.boot.step ≠ 10)
    (halign : addr % 64 = 0) (hin : addr + 64 ≤ Config.devBytes) (hup : s.sliceUp (sliceOf addr) = true)
    (hclean : ∀ j, j < 64 → s.dev.sector ((addr + j) / 32) = 0) :
    exec (.memRead port addr 64) s =
      .next { s with out := s.out ++ [.readData port.val (s.dev.bytes addr 64) false], freeCtr := s.freeCtr + 64 } := by
  have hone : (addr + 64 - 1) / 64 + 1 - addr / 64 = 1 := by omega
  have haddr : 64 * (addr / 64 + 0) = addr := by omega
  have hline : lineRead { s with freeCtr := s.freeCtr + 64 * 0 } (s.sliceUp port.val) (addr / 64 + 0) = (s.dev.bytes addr 64, false) := by
    rw [lineRead_clean _ _ _ (sliceUp_of_portUp hport) (by rw [haddr]; exact hup) (by rw [haddr]; exact hclean), haddr]
  rw [exec_memRead s port addr 64 (hostReady_of_portUp hport) hin, repairing_of_step_ne hstep, if_neg Bool.false_ne_true,
    memLoad_eq _ _ _ _ (by omega), hone, List.range_one, List.map_cons, List.map_nil, lineMsg, hline]

theorem hostWriteReadsBack : Claims.HostWriteReadsBack := by
  intro s port addr bytes hinv hport hstep halign hlen hin hup hopen
  have hstore : s.memStore addr bytes false = { s with dev := s.dev.writeClean addr bytes, freeCtr := s.freeCtr + bytes.length } := by
    rw [memStore_eq s addr bytes false hup, hostBytes_of_open s addr bytes (fun i hi => (hopen i (by omega)).2),
      outWrite_of_open s addr _ (fun i hi => (hopen i (by simpa [hlen] using hi)).1)]
    rfl
  refine ⟨{ s with dev := s.dev.writeClean addr bytes, freeCtr := s.freeCtr + bytes.length }, ?_, ?_⟩
  · rw [exec_memWrite s port addr bytes false hport (by omega), repairing_of_step_ne hstep, ← hstore]; rfl
  · refine (exec_memRead_clean_line { s with dev := s.dev.writeClean addr bytes, freeCtr := s.freeCtr + bytes.length }
      port addr hport hstep halign hin hup (sector_writeClean_line s.dev addr bytes halign hlen)).trans ?_
    have hbytes : (s.dev.writeClean addr bytes).bytes addr 64 = bytes := hlen ▸ bytes_writeClean s.dev hinv addr bytes
    dsimp only
    rw [hbytes]

/-! Addresses that no memory answers, and snoops. -/

theorem absentAddressFaults : Claims.AbsentAddressFaults := by
  intro s port addr count bytes poisoned hport
  refine ⟨fun hout => ?_, fun hout => ?_⟩
  · rw [show exec (.memRead port addr count) s = execMemRead port addr count s from rfl, execMemRead, hostReady_of_portUp hport,
      inDevice, decide_eq_false (by omega)]
    rfl
  · rw [show exec (.memWrite port addr bytes poisoned) s = execMemWrite port addr bytes poisoned s from rfl, execMemWrite, hport,
      inDevice, decide_eq_false (by omega)]
    rfl

theorem snoopMisses : Claims.SnoopMisses := by
  intro s port addr hport
  exact (if_pos hport : execSnoop port addr s = _)

/-- Settles O9: reads answer line by line, a line just written reads back, absent addresses fault, snoops miss. -/
theorem hostMemoryIsRead : Obligations.HostMemoryIsRead := ⟨memReadAnswers, hostWriteReadsBack, absentAddressFaults, snoopMisses⟩

end Sys2Proof.Proofs.HostMem
end

section
/-! Windows, control pages and the host's answers (O10 to O15). -/

namespace Sys2Proof.Proofs.Window

open Sys2Proof Sys2Proof.Machine Sys2Proof.Claims Sys2Proof.Laws Sys2Proof.Proofs.Basic Sys2Proof.Proofs.Layer Sys2Proof.Proofs.HostMem

/-! Doorbells and releases (R249 to R251). -/

/-- A control-page write of an open context that is not firewall-bound acts. -/
theorem windowBlocked_of_window {s : State} {port x : Nat} (h : Window s port x) : s.windowBlocked port x = none := by
  obtain ⟨hport, hopen, hfw⟩ := h
  simp [State.windowBlocked, hport, hopen, hfw]

theorem modSq_of_get? {s : State} {q : Nat} {k : SQ} (f : SQ → SQ) (h : Tab.get? s.sqs q = some k) :
    s.modSq q f = { s with sqs := Tab.set s.sqs q (f k) } := by
  rw [State.modSq, Tab.modify, h]

theorem doorbellTakesTail : Claims.DoorbellTakesTail := by
  intro s port x n tail q k hwin hqueue hget
  have hexec : exec (.doorbell port x n tail) s = .next (s.ringDoorbell port.val x.val n.val tail.toNat) := by
    rw [show exec (.doorbell port x n tail) s = execDoorbell port x n tail s from rfl, execDoorbell, windowBlocked_of_window hwin]
  refine ⟨fun ⟨hslice, htail⟩ => ?_, fun hnot => ?_⟩
  · rw [Gives, hexec, State.ringDoorbell, hqueue]
    dsimp only
    rw [if_neg (by omega), modSq_of_get? _ hget]
  · rw [Gives, hexec, State.ringDoorbell, hqueue]
    dsimp only
    rw [if_pos (by omega), modSq_of_get? _ hget]

theorem releaseTakesCount : Claims.ReleaseTakesCount := by
  intro s port x n rel r k hwin hring
  have hexec : exec (.completionRelease port x n rel) s = .next (s.ringRelease x.val n.val rel.toNat) := by
    rw [show exec (.completionRelease port x n rel) s = execCompletionRelease port x n rel s from rfl, execCompletionRelease,
      windowBlocked_of_window hwin]
  refine ⟨fun hle => ?_, fun hlt => ?_⟩
  · rw [Gives, hexec, State.ringRelease, hring]
    exact congrArg _ (if_neg (by omega))
  · rw [Gives, hexec, State.ringRelease, hring]
    exact congrArg _ (if_pos hlt)

/-- Settles O10: the tests of R250 and R251 decide between the two branches. -/
theorem queueCountersFollowWrites : Obligations.QueueCountersFollowWrites := ⟨doorbellTakesTail, releaseTakesCount⟩

/-! Fence slot commits and fault clears. -/

theorem fenceSlotCommitConfigures : Claims.FenceSlotCommitConfigures := by
  intro s port x data q e k hwin hsel hget
  have hexec : exec (.fenceSlotCommit port x data) s = .next (s.fslotCommit port.val x.val data.toNat) := by
    rw [show exec (.fenceSlotCommit port x data) s = execFenceSlotCommit port x data s from rfl, execFenceSlotCommit,
      windowBlocked_of_window hwin]
  rw [State.fslotCommit, hsel] at hexec
  dsimp only at hexec
  rw [modSq_of_get? _ hget] at hexec
  exact completes_of_exec hexec ⟨_, _, rfl, rfl, rfl, rfl, rfl, rfl, rfl, rfl⟩

theorem faultClearEmptiesRecord : Claims.FaultClearEmptiesRecord := by
  intro s port x hport hfw
  refine ⟨s.clearFault x.val, ?_, rfl, fun y hy => ?_, ?_⟩
  · have hpass : ((s.ctx x.val).fw && (s.ctx x.val).state != 0) = false := by
      rcases hfw with h | h <;> simp [h]
    rw [show exec (.faultClear port x) s = execFaultClear port x s from rfl, execFaultClear, hport, hpass]
    rfl
  · rw [State.clearFault, ctx_modCtx, if_neg hy]
  · rw [State.clearFault, ctx_modCtx, if_pos rfl]

/-- Settles O11: the commit's fields are read off its update, the clear's off the fault record. -/
theorem controlPageWritesAct : Obligations.ControlPageWritesAct := ⟨fenceSlotCommitConfigures, faultClearEmptiesRecord⟩

/-! Reading registers back (O12). -/

theorem readBackAnswers : Claims.ReadBackAnswers := by
  intro s port x o hport halign hflush
  rw [Gives, show exec (.readBack port x o) s = execReadBack port x o s from rfl, execReadBack, if_neg (by simp [hflush]), State.readBack,
    hostReady_of_portUp hport, sliceUp_of_portUp hport, State.windowLoad]
  simp only [Bool.not_true, Bool.false_eq_true, if_false]
  rw [if_pos o.isLt, if_pos ⟨halign, trivial⟩]
  rfl

theorem regIn_arg (i : Fin 16) : regIn (0x80 + 8 * i.val) 0x80 16 = true := by
  rw [regIn, decide_eq_true_eq]
  omega

theorem keeperReg_arg (i : Fin 16) : keeperReg (0x80 + 8 * i.val) = true := by
  simp only [keeperReg, regIn_arg, Bool.or_true, Bool.true_or]

/-- No offset from 0x1000 on, to 0x4000, holds a register of the keeper page. -/
theorem keeperReg_gap (i : Fin 16) : keeperReg (0x1000 + 8 * i.val) = false := by
  revert i
  decide

theorem keeperWrite_arg (s : State) (port : Nat) (i : Fin 16) (data : Nat) :
    s.keeperWrite port (0x80 + 8 * i.val) data = s.setKreg (0x80 + 8 * i.val) data := by
  rw [State.keeperWrite, keeperReg_arg, regIn_arg]
  simp (disch := omega) only [Bool.not_true, Bool.false_eq_true, if_false, if_true, if_neg]

theorem regIn_false {off base n : Nat} (h : off < base) : regIn off base n = false := by
  rw [regIn, decide_eq_false_iff_not]
  omega

theorem keeperRead_arg (s : State) (i : Fin 16) : s.keeperRead (0x80 + 8 * i.val) = (s, s.kreg (0x80 + 8 * i.val)) := by
  rw [State.keeperRead, keeperReg_arg]
  simp (disch := omega) only [Bool.not_true, Bool.false_eq_true, if_false, if_neg, regIn_false, Bool.false_and, Bool.or_self]

theorem spaceWrite_keeper {s : State} {port : Nat} (hport : s.portUp port = true) (off data : Nat) (hoff : off < 0x10000)
    (halign : off % 8 = 0) : s.spaceWrite port ((0x10000000 + off) % 0x20000000) 8 data false = s.keeperWrite port off data := by
  have hmod : (0x10000000 + off) % 0x20000000 = 0x10000000 + off := Nat.mod_eq_of_lt (by omega)
  have hgood : (8 == 8 && (0x10000000 + off) % 8 == 0 && !false) = true := by simp; omega
  rw [hmod, State.spaceWrite, hport, hgood]
  simp (disch := omega) only [Bool.not_true, Bool.false_eq_true, if_false, if_true, if_neg, if_pos]
  rw [show (0x10000000 + off) % 0x10000 = off by omega]

theorem spaceRead_keeper {s : State} {port : Nat} (hport : s.portUp port = true) (off : Nat) (hoff : off < 0x10000) (halign : off % 8 = 0) :
    s.spaceRead port ((0x10000000 + off) % 0x20000000) 8 =
      (s.keeperRead off).1.send (.readData port (natLE 8 (s.keeperRead off).2) false) := by
  have hmod : (0x10000000 + off) % 0x20000000 = 0x10000000 + off := Nat.mod_eq_of_lt (by omega)
  rw [hmod, State.spaceRead, hostReady_of_portUp hport, sliceUp_of_portUp hport]
  simp (disch := omega) only [Bool.not_true, Bool.false_eq_true, if_false, if_neg, if_pos]
  rw [show (0x10000000 + off) % 0x10000 = off by omega]

theorem keeperRegisterReadsBack : Claims.KeeperRegisterReadsBack := by
  intro s port i data hport
  have hwrite : ∀ o, exec (.registerWrite port o 8 data false) s = .next (s.spaceWrite port.val (o % 0x20000000) 8 data.toNat false) :=
    fun _ => rfl
  have hread : ∀ o, exec (.registerRead port o 8) s = .next (s.spaceRead port.val (o % 0x20000000) 8) := fun _ => rfl
  refine ⟨?_, ?_, ?_, ?_⟩
  · rw [Gives, hwrite, Nat.add_assoc 0x10000000 0x80, spaceWrite_keeper hport _ _ (by omega) (by omega), keeperWrite_arg]
  · rw [kreg_setKreg, if_pos rfl]
    exact Nat.mod_eq_of_lt data.isLt
  · rw [Gives, hread, Nat.add_assoc 0x10000000 0x80, spaceRead_keeper hport _ (by omega) (by omega), keeperRead_arg]
    rfl
  · rw [Gives, hwrite, Nat.add_assoc 0x10000000 0x1000, spaceWrite_keeper hport _ _ (by omega) (by omega), State.keeperWrite,
      keeperReg_gap]
    rfl

/-- Settles O12: aligned read-backs answer, and the keeper page's argument registers keep what is written. -/
theorem registersReadBack : Obligations.RegistersReadBack := ⟨readBackAnswers, keeperRegisterReadsBack⟩

/-! FLUSH and GO (O13). -/

theorem flushWaits_eq_nil {s : State} {x : Nat} (h : ∀ w ∈ s.hostWr, w.ctx ≠ x ∨ 4 ≤ w.slice) : s.flushWaits x = [] := by
  unfold State.flushWaits
  rw [List.filterMap_eq_nil_iff]
  intro n hn
  rw [List.mem_range] at hn
  have hnone : s.hostWr.filter (fun w => w.slice == n && w.ctx == x) = [] := by
    rw [List.filter_eq_nil_iff]
    intro w hw
    have := h w hw
    simp only [Bool.and_eq_true, beq_iff_eq]
    omega
  rw [hnone]
  rfl

theorem mem_flushWaits (s : State) (x n k : Nat) :
    (n, k) ∈ s.flushWaits x ↔ n < 4 ∧ 0 < k ∧ k = (s.hostWr.filter (fun w => w.slice == n && w.ctx == x)).length := by
  simp only [State.flushWaits, List.mem_filterMap, List.mem_range]
  constructor
  · rintro ⟨m, hm, heq⟩
    split at heq
    · contradiction
    · obtain ⟨rfl, rfl⟩ := by simpa using heq
      exact ⟨hm, by omega, rfl⟩
  · rintro ⟨hn, hk, rfl⟩
    exact ⟨n, hn, if_neg (by omega)⟩

theorem exec_flush {s : State} {port : Fin 4} (x : Fin 4096) (hport : s.portUp port.val = true) :
    exec (.flush port x) s = .next (s.flushBegin port.val none x.val) := by
  rw [show exec (.flush port x) s = execFlush port x s from rfl, execFlush, hostReady_of_portUp hport, sliceUp_of_portUp hport]
  rfl

theorem flushWaitsForWrites : Claims.FlushWaitsForWrites := by
  intro s port x hport
  refine ⟨fun hnone => ?_, fun ⟨w, hw, hctx, hslice⟩ => ?_⟩
  · have hlt : port.val < 4 := port.isLt
    rw [Gives, exec_flush x hport, State.flushBegin]
    dsimp only
    rw [flushWaits_eq_nil hnone]
    simp [State.flushDone, State.flushAnswer, State.answer, State.fwReturn, State.creditBack, State.flushSlice, State.ctlRead, State.send,
      hlt, Nat.not_le.mpr hlt]
  · have hmem : (w.slice, (s.hostWr.filter (fun v => v.slice == w.slice && v.ctx == x.val)).length) ∈ s.flushWaits x.val :=
      (mem_flushWaits ..).mpr ⟨hslice, List.length_pos_of_mem (List.mem_filter.mpr ⟨hw, by simp [hctx]⟩), rfl⟩
    have hne : (s.flushWaits x.val).isEmpty = false := by
      cases hl : s.flushWaits x.val with
      | nil => simp [hl] at hmem
      | cons => rfl
    refine ⟨_, exec_flush x hport, { port := port.val, tag := none, ctx := x.val, waits := s.flushWaits x.val }, ?_, rfl, rfl,
      fun n k => mem_flushWaits s x.val n k⟩
    rw [State.flushBegin]
    dsimp only
    rw [hne]
    rfl

/-- Nothing but what leaves at the ports, the links and the credits differs. -/
def PortsOnly (s t : State) : Prop := t = { s with out := t.out, links := t.links, fw := t.fw }

theorem PortsOnly.refl (s : State) : PortsOnly s s := rfl

theorem PortsOnly.trans {s t u : State} (h1 : PortsOnly s t) (h2 : PortsOnly t u) : PortsOnly s u := by
  unfold PortsOnly at *
  rw [h2, h1]

theorem send_portsOnly (s : State) (m : Msg) : PortsOnly s (s.send m) := rfl

theorem linkSend_portsOnly (s : State) (l : Nat) (p : List Byte) : PortsOnly s (s.linkSend l p) := by
  rw [PortsOnly, state_eq_iff]
  simp

theorem modFw_portsOnly (s : State) (p : Nat) (f : FwPort → FwPort) : PortsOnly s (s.modFw p f) := rfl

theorem linkControl_portsOnly (s : State) (l : Nat) (nak : Bool) : PortsOnly s (s.linkControl l nak) := by
  unfold State.linkControl
  dsimp only
  split
  · exact .refl s
  · generalize (if 22 ≤ l then (s.fwp (l - 22)).owed else 0) = back
    split <;> rfl

theorem fwReturn_portsOnly (s : State) (p : Nat) (read : Bool) : PortsOnly s (s.fwReturn p read) := by
  unfold State.fwReturn
  split
  · exact .refl s
  · exact modFw_portsOnly ..

theorem creditBack_portsOnly (s : State) (p : Nat) : PortsOnly s (s.creditBack p) := by
  unfold State.creditBack
  split
  · exact .refl s
  · exact linkControl_portsOnly ..

theorem answer_portsOnly (s : State) (port : Nat) (tag : Option Nat) (x off : Nat) (data : List Byte) (p : Bool) :
    PortsOnly s (s.answer port tag x off data p) := by
  unfold State.answer
  split
  · exact .refl s
  · cases tag with
    | none => exact send_portsOnly ..
    | some t => exact (send_portsOnly s _).trans (linkSend_portsOnly ..)

theorem flushDone_portsOnly (s : State) (f : FlushWait) : PortsOnly s (s.flushDone f) :=
  (answer_portsOnly s ..).trans ((fwReturn_portsOnly ..).trans (creditBack_portsOnly ..))

/-- Answering what waits for nothing more touches the ports and what waits. -/
theorem flushSettle_eq (s : State) : ∃ o l f w, s.flushSettle = { s with out := o, links := l, fw := f, flushes := w } := by
  have h := foldl_rel PortsOnly .refl .trans State.flushDone flushDone_portsOnly (s.flushes.filter (fun f => f.waits.isEmpty))
    { s with flushes := s.flushes.filter (fun f => !f.waits.isEmpty) }
  exact ⟨_, _, _, _, h⟩

theorem invalSettle_eq (s : State) : ∃ o v, s.invalSettle = { s with out := o, invals := v } := by
  have h := foldl_rel (fun s t : State => t = { s with out := t.out }) (fun _ => rfl) (fun h1 h2 => by rw [h2, h1])
    (fun (acc : State) (v : Inval) => acc.send (.invalDone v.port)) (fun _ _ => rfl)
    (s.invals.filter (fun v => v.waits.isEmpty && v.reads.isEmpty))
    { s with invals := s.invals.filter (fun v => !(v.waits.isEmpty && v.reads.isEmpty)) }
  exact ⟨_, _, h⟩

theorem settle_eq (s : State) :
    ∃ o l f w v, s.flushSettle.invalSettle = { s with out := o, links := l, fw := f, flushes := w, invals := v } := by
  obtain ⟨o, l, f, w, h⟩ := flushSettle_eq s
  obtain ⟨o', v, h'⟩ := invalSettle_eq s.flushSettle
  exact ⟨o', l, f, w, v, h'.trans (by rw [h])⟩

theorem countDown_eq (s : State) (n x : Nat) :
    ∃ o l f w v, s.countDown n x = { s with out := o, links := l, fw := f, flushes := w, invals := v } := by
  unfold State.countDown
  exact settle_eq _

theorem goEndsOldestWrite : Claims.GoEndsOldestWrite := by
  intro s port x w hfind
  have hexec : exec (.goResponse port x) s = .next (({ s with hostWr := s.hostWr.erase w } : State).countDown port.val x.val) := by
    rw [show exec (.goResponse port x) s = execGoResponse port x s from rfl, execGoResponse, hfind]
  obtain ⟨o, l, f, fl, v, h⟩ := countDown_eq { s with hostWr := s.hostWr.erase w } port.val x.val
  rw [h] at hexec
  exact completes_of_exec hexec ⟨rfl, rfl, rfl, rfl, rfl⟩

/-- Settles O13: a FLUSH waits exactly for the writes that `flushWaits` lists, and a GO takes the oldest write off. -/
theorem flushesFollowWrites : Obligations.FlushesFollowWrites := ⟨flushWaitsForWrites, goEndsOldestWrite⟩

end Sys2Proof.Proofs.Window
end

section
/-! What the host answers: invalidations, translations and lines (O14). -/

namespace Sys2Proof.Proofs.HostAnswer

open Sys2Proof Sys2Proof.Machine Sys2Proof.Claims Sys2Proof.Laws Sys2Proof.Proofs.Basic Sys2Proof.Proofs.Layer Sys2Proof.Proofs.HostMem
  Sys2Proof.Proofs.Window

/-! Invalidations (R286). -/

theorem exec_atsInvalidation {s : State} {port : Fin 4} {pasid : BitVec 20} {first pages : Nat} (hport : s.portUp port.val = true) :
    ∃ o v, exec (.atsInvalidation port pasid first pages) s = .next { (s.modSlice port.val (fun l => { l with atc := l.atc.filter (fun x =>
      !(x.pasid == pasid.toNat && decide (first ≤ x.page ∧ x.page < first + pages))) })) with out := o, invals := v } ∧
      (s.hostWr = [] → s.lineReqs = [] → o = s.out ++ [.invalDone port.val] ∧ v = s.invals) := by
  rw [show exec (.atsInvalidation port pasid first pages) s = execAtsInvalidation port pasid first pages s from rfl,
    execAtsInvalidation, hport]
  simp only [Bool.not_true, Bool.false_eq_true, if_false]
  split
  · exact ⟨_, _, rfl, fun _ _ => ⟨rfl, rfl⟩⟩
  · rename_i hbusy
    refine ⟨_, _, rfl, fun hwr hreq => absurd ?_ hbusy⟩
    simp [hwr, hreq]

theorem invalidationDropsTranslations : Claims.InvalidationDropsTranslations := by
  intro s port pasid first pages hport hlen
  obtain ⟨o, v, hexec, hdone⟩ := exec_atsInvalidation (pasid := pasid) (first := first) (pages := pages) hport
  have hslc := slc_modSlice s port.val port.val (fun l => { l with atc := l.atc.filter (fun x =>
    !(x.pasid == pasid.toNat && decide (first ≤ x.page ∧ x.page < first + pages))) }) (by omega)
  rw [if_pos rfl] at hslc
  refine completes_of_exec hexec ⟨fun y hy => ?_, fun y hy hkeep => ?_, hdone, rfl⟩
  · have hy' := congrArg Slice.atc hslc ▸ hy
    obtain ⟨-, hout⟩ := List.mem_filter.mp hy'
    simp only [Bool.not_eq_true', Bool.and_eq_false_imp, beq_iff_eq, decide_eq_false_iff_not] at hout
    exact fun ⟨hp, hr⟩ => hout hp hr
  · have hmem : y ∈ (s.slc port.val).atc.filter (fun x =>
        !(x.pasid == pasid.toNat && decide (first ≤ x.page ∧ x.page < first + pages))) :=
      List.mem_filter.mpr ⟨hy, by
        simp only [Bool.not_eq_true', Bool.and_eq_false_imp, beq_iff_eq, decide_eq_false_iff_not]
        exact fun hp hr => hkeep ⟨hp, hr⟩⟩
    exact congrArg Slice.atc hslc ▸ hmem

/-! Translations (R284). -/

/-- The request of an asker for a page at a slice. -/
def reqsFor (s : State) (n : Nat) (who : Who) (page : Nat) : List AtsReq :=
  s.atsReqs.filter (fun r => r.slice == n && r.who == who && r.page == page)

theorem slc_keepXlat (s : State) (n : Nat) (x : Xlat) (h : n < s.slices.length) :
    x ∈ ((s.keepXlat n x).slc n).atc ∧ ((s.keepXlat n x).slc n).atc.length ≤ Config.atcEntries := by
  rw [State.keepXlat, slc_modSlice _ _ _ _ h, if_pos rfl]
  dsimp only
  generalize (s.slc n).atc.filter _ = l
  constructor
  · rw [List.drop_append_of_le_length (by simp [Config.atcEntries])]
    simp
  · rw [List.length_drop]
    omega

theorem translationIsKept : Claims.TranslationIsKept := by
  intro s port r read write toDevice target hport hlen hmem hslice hgrant honly hdev
  have hmine : ∀ q ∈ reqsFor s port.val r.who r.page, q = r := by
    intro q hq
    obtain ⟨hq, hmatch⟩ := List.mem_filter.mp hq
    obtain ⟨⟨hs, hw⟩, hp⟩ := by simpa using hmatch
    exact honly q hq ⟨hs, hw, hp⟩
  have hrmem : r ∈ reqsFor s port.val r.who r.page := List.mem_filter.mpr ⟨hmem, by simp [hslice]⟩
  obtain ⟨q, rest, hreqs⟩ := List.exists_cons_of_ne_nil (List.ne_nil_of_mem hrmem)
  obtain rfl : q = r := hmine q (hreqs ▸ List.mem_cons_self)
  have hblock : (!s.portUp port.val || (toDevice && !inDevice (target * 4096) 4096)) = false := by
    cases toDevice with
    | false => simp [hport]
    | true => simp [hport, inDevice, hdev rfl]
  have hany : (read || write) = true := by
    revert hgrant
    cases read <;> cases write <;> simp
  have hrefused : (reqsFor s port.val q.who q.page).filter (fun q => !(if q.write then write else read)) = [] := by
    rw [List.filter_eq_nil_iff]
    intro p hp
    rw [hmine p hp, hgrant]
    simp
  have hexec : exec (.atsResponse port q.who q.page read write toDevice target) s =
      .next (({ s with atsReqs := s.atsReqs.filter (fun p => !(reqsFor s port.val q.who q.page).contains p) } : State).keepXlat port.val
        { pasid := (s.ctx q.ctx).pasid, page := q.page, read := read, write := write, toDevice := toDevice, target := target }) := by
    rw [show exec (.atsResponse port q.who q.page read write toDevice target) s =
      execAtsResponse port q.who q.page read write toDevice target s from rfl, execAtsResponse]
    dsimp only
    rw [← reqsFor, hrefused, hblock, hany, hreqs]
    rfl
  obtain ⟨hkept, hbound⟩ := slc_keepXlat { s with atsReqs := s.atsReqs.filter (fun p => !(reqsFor s port.val q.who q.page).contains p) } port.val
    { pasid := (s.ctx q.ctx).pasid, page := q.page, read := read, write := write, toDevice := toDevice, target := target }
    (by dsimp only; omega)
  refine completes_of_exec hexec ⟨hkept, fun h => ?_, hbound, rfl⟩
  simpa [hrmem] using (List.mem_filter.mp h).2

/-! Lines (R277, R287). -/

theorem lineIsDelivered : Claims.LineIsDelivered := by
  intro s port r h data poisoned hport hfind
  obtain ⟨o, v, hret⟩ := invalSettle_eq { s with
    lineReqs := s.lineReqs.erase r, invals := s.invals.map (fun v => { v with reads := v.reads.filter (fun q => q != r) }) }
  have hret' : ({ s with lineReqs := s.lineReqs.erase r } : State).readReturned r = { s with
    lineReqs := s.lineReqs.erase r, out := o, invals := v } := hret
  have hexec : exec (.h2dResponse port (.cmd h) r.line data poisoned) s = .next (if s.asks (.cmd h) then
      { s with lineReqs := s.lineReqs.erase r, out := o, invals := v, lines := s.lines ++
        [{ who := .cmd h, device := r.device, own := r.own, line := r.line, data := data, poisoned := poisoned }] }
      else { s with lineReqs := s.lineReqs.erase r, out := o, invals := v }) := by
    rw [show exec (.h2dResponse port (.cmd h) r.line data poisoned) s = execH2dResponse port (.cmd h) r.line data poisoned s from rfl,
      execH2dResponse, hfind]
    dsimp only
    rw [hport, hret']
    cases s.asks (.cmd h) <;> rfl
  cases hasks : s.asks (.cmd h) with
  | true =>
    rw [hasks] at hexec
    exact completes_of_exec hexec ⟨fun _ => rfl, by simp, rfl, rfl, rfl⟩
  | false =>
    rw [hasks] at hexec
    exact completes_of_exec hexec ⟨by simp, fun _ => rfl, rfl, rfl, rfl⟩

/-- Settles O14: what each answer of the host takes off, keeps and delivers. -/
theorem hostAnswersAreTaken : Obligations.HostAnswersAreTaken := ⟨invalidationDropsTranslations, translationIsKept, lineIsDelivered⟩

end Sys2Proof.Proofs.HostAnswer
end

section
/-! Window writes through host ports and through command ports (O15). -/

namespace Sys2Proof.Proofs.WindowWrite

open Sys2Proof Sys2Proof.Machine Sys2Proof.Claims Sys2Proof.Laws Sys2Proof.Proofs.Basic Sys2Proof.Proofs.Layer Sys2Proof.Proofs.HostMem
  Sys2Proof.Proofs.Window

/-! Writes of the staging area. -/

/-- The runs of a write hold only its enabled bytes, at their places. -/
theorem mem_enabledRuns {bs : List Byte} {es : List Bool} {i : Nat} {p : Nat × List Byte} (h : p ∈ enabledRuns bs es i) :
    i ≤ p.1 ∧ p.1 + p.2.length ≤ i + bs.length ∧
      ∀ j, j < p.2.length → es.getD (p.1 + j - i) false = true ∧ p.2.getD j 0 = bs.getD (p.1 + j - i) 0 := by
  induction bs generalizing es i p with
  | nil => simp [enabledRuns] at h
  | cons b r ih =>
    cases es with
    | nil => simp [enabledRuns] at h
    | cons e es =>
      have hcons : ∀ {q : Nat × List Byte}, q ∈ enabledRuns r es (i + 1) → i + 1 ≤ q.1 ∧ q.1 + q.2.length ≤ i + (b :: r).length ∧
          ∀ j, j < q.2.length → (e :: es).getD (q.1 + j - i) false = true ∧ q.2.getD j 0 = (b :: r).getD (q.1 + j - i) 0 := fun {q} hq => by
        obtain ⟨hlo, hhi, hin⟩ := ih hq
        refine ⟨hlo, by rw [List.length_cons]; omega, fun j hj => ?_⟩
        rw [show q.1 + j - i = (q.1 + j - (i + 1)) + 1 by omega, List.getD_cons_succ, List.getD_cons_succ]
        exact hin j hj
      have hone : e = true → i ≤ i ∧ i + [b].length ≤ i + (b :: r).length ∧ ∀ j, j < [b].length →
          (e :: es).getD (i + j - i) false = true ∧ [b].getD j 0 = (b :: r).getD (i + j - i) 0 := fun he => by
        refine ⟨le_rfl, by simp, fun j hj => ?_⟩
        obtain rfl : j = 0 := by simpa using hj
        simpa using he
      have hmem : ∀ {q : Nat × List Byte}, q ∈ enabledRuns r es (i + 1) → i ≤ q.1 ∧ q.1 + q.2.length ≤ i + (b :: r).length ∧
          ∀ j, j < q.2.length → (e :: es).getD (q.1 + j - i) false = true ∧ q.2.getD j 0 = (b :: r).getD (q.1 + j - i) 0 := fun hq =>
        ⟨by have := (hcons hq).1; omega, (hcons hq).2⟩
      rw [enabledRuns] at h
      split at h
      · exact hmem h
      · rename_i he
        have he : e = true := by simpa using he
        split at h
        · rename_i k l t heq
          have hhead := hcons (q := (k, l)) (heq ▸ List.mem_cons_self)
          obtain ⟨hlo, hhi, hin⟩ := hhead
          split at h
          · rename_i hk
            rcases List.mem_cons.mp h with rfl | h
            · refine ⟨le_rfl, by simp only [List.length_cons] at *; omega, fun j hj => ?_⟩
              cases j with
              | zero => simpa using he
              | succ j =>
                have := hin j (by simpa using hj)
                rw [List.getD_cons_succ, show i + (j + 1) - i = k + j - i by omega]
                exact this
            · exact hmem (heq ▸ List.mem_cons_of_mem _ h)
          · rcases List.mem_cons.mp h with rfl | h
            · exact hone he
            · exact hmem (heq ▸ h)
        · obtain rfl := List.mem_singleton.mp h
          exact hone he

/-- Every enabled byte lies in a run. -/
theorem exists_enabledRun {bs : List Byte} {es : List Bool} {i k : Nat} (hk : k < bs.length) (he : es.getD k false = true) :
    ∃ p ∈ enabledRuns bs es i, p.1 ≤ i + k ∧ i + k < p.1 + p.2.length := by
  induction bs generalizing es i k with
  | nil => simp at hk
  | cons b r ih =>
    cases es with
    | nil => simp at he
    | cons e es =>
      rw [enabledRuns]
      cases k with
      | zero =>
        rw [List.getD_cons_zero] at he
        rw [if_neg (by simp [he])]
        split
        · split
          · exact ⟨_, List.mem_cons_self, le_rfl, by simp⟩
          · exact ⟨_, List.mem_cons_self, le_rfl, by simp⟩
        · exact ⟨_, List.mem_cons_self, le_rfl, by simp⟩
      | succ k =>
        rw [List.getD_cons_succ] at he
        obtain ⟨p, hp, hlo, hhi⟩ := ih (i := i + 1) (by simpa using hk) he
        split
        · exact ⟨p, hp, by omega, by omega⟩
        · split
          · rename_i j l t heq
            rw [heq] at hp
            split
            · rename_i hj
              rcases List.mem_cons.mp hp with rfl | hp
              · exact ⟨_, List.mem_cons_self, by simp only at *; omega, by simp only [List.length_cons] at *; omega⟩
              · exact ⟨p, List.mem_cons_of_mem _ hp, by omega, by omega⟩
            · exact ⟨p, List.mem_cons_of_mem _ hp, by omega, by omega⟩
          · rename_i heq
            simp [heq] at hp

/-- The writes of memory that a write of a staging area makes. -/
def stageWrites (base : Nat) (bytes : List Byte) (enables : List Bool) (poisoned : Bool) : List (Nat × List PB) :=
  (enabledRuns bytes enables 0).map (fun r => (base + r.1, r.2.map (fun b => { b := b, p := if poisoned then 4 else 0 })))

/-- The state after writes of device memory. -/
def stored (s : State) (l : List (Nat × List PB)) : State := l.foldl (fun acc p => acc.devWrite p.1 p.2) s

theorem stored_eq (s : State) (l : List (Nat × List PB)) : stored s l = { s with dev := (stored s l).dev } :=
  foldl_rel (fun s t : State => t = { s with dev := t.dev }) (fun _ => rfl) (fun h1 h2 => by rw [h2, h1])
    (fun (acc : State) (p : Nat × List PB) => acc.devWrite p.1 p.2) (fun _ _ => rfl) l s

theorem mem_stageWrites {base : Nat} {bytes : List Byte} {enables : List Bool} {poisoned : Bool} {p : Nat × List PB}
    (h : p ∈ stageWrites base bytes enables poisoned) : base ≤ p.1 ∧ p.1 + p.2.length ≤ base + bytes.length ∧
      ∀ j, j < p.2.length → enables.getD (p.1 + j - base) false = true ∧ (p.2.getD j ⟨0, 0⟩).b = bytes.getD (p.1 + j - base) 0 := by
  obtain ⟨r, hr, rfl⟩ := List.mem_map.mp h
  obtain ⟨hlo, hhi, hin⟩ := mem_enabledRuns hr
  refine ⟨Nat.le_add_right .., by simp only [List.length_map]; omega, fun j hj => ?_⟩
  rw [List.length_map] at hj
  have := hin j hj
  simp only [Nat.sub_zero] at this
  rw [Nat.add_assoc, Nat.add_sub_cancel_left]
  refine ⟨this.1, ?_⟩
  rw [← this.2]
  simp [List.getD_eq_getElem?_getD, hj]

theorem byte_stored (s : State) (hs : s.inv) (base : Nat) (bytes : List Byte) (enables : List Bool) (poisoned : Bool) (i : Nat)
    (hi : i < bytes.length) : (stored s (stageWrites base bytes enables poisoned)).dev.byte (base + i) =
      if enables.getD i false then bytes.getD i 0 else s.dev.byte (base + i) := by
  obtain ⟨hin, hout⟩ := byte_foldl_devWrite (fun x => bytes.getD (x - base) 0) (stageWrites base bytes enables poisoned) s hs (base + i)
    (fun p hp j hj => ((mem_stageWrites hp).2.2 j hj).2)
  cases he : enables.getD i false with
  | true =>
    obtain ⟨r, hr, hlo, hhi⟩ := exists_enabledRun (i := 0) hi he
    rw [stored, hin ⟨_, List.mem_map_of_mem hr, by simp only; omega, by simp only [List.length_map]; omega⟩, Nat.add_sub_cancel_left]
    rfl
  | false =>
    refine hout fun p hp => ?_
    obtain ⟨hlo, hhi, hen⟩ := mem_stageWrites hp
    unfold off
    by_contra hoff
    have := (hen (base + i - p.1) (by omega)).1
    rw [Nat.add_sub_cancel' (by omega), Nat.add_sub_cancel_left, he] at this
    contradiction

theorem byte_stored_of_off (s : State) (base : Nat) (bytes : List Byte) (enables : List Bool) (poisoned : Bool) (x : Nat)
    (hx : off base bytes.length x) : (stored s (stageWrites base bytes enables poisoned)).dev.byte x = s.dev.byte x :=
  foldl_byte _ x _ s (fun p hp t => byte_devWrite_of_off t p.1 x p.2 (by
    obtain ⟨hlo, hhi, -⟩ := mem_stageWrites hp
    unfold off at *
    omega))

theorem windowStore_stage (s : State) (n x o : Nat) (bytes : List Byte) (enables : List Bool) (poisoned : Bool)
    (hopen : s.isOpen x = true) (hlo : 0x1000 ≤ o) (hhi : o + bytes.length ≤ 0x10000) (hlen : bytes.length ≤ 64) (hne : bytes ≠ []) :
    s.windowStore n x o bytes enables poisoned =
      stored s (stageWrites (Config.stageBase n + x * 0x10000 + o) bytes enables poisoned) := by
  have : bytes.length ≠ 0 := by simpa using hne
  rw [State.windowStore, hopen, if_neg (by simp), if_neg (by omega), if_neg (by omega), stored, stageWrites, List.foldl_map]

theorem windowWriteStores : Claims.WindowWriteStores := by
  intro s port x o bytes enables poisoned hinv ⟨hport, hopen, hfw⟩ hlo hhi hlen hne _
  have hexec : exec (.windowWrite port x o bytes enables poisoned) s =
      .next (stored s (stageWrites (Config.stageBase port.val + x.val * 0x10000 + o) bytes enables poisoned)) := by
    rw [← windowStore_stage s port.val x.val o bytes enables poisoned hopen hlo hhi hlen hne,
      show exec (.windowWrite port x o bytes enables poisoned) s = execWindowWrite port x o bytes enables poisoned s from rfl,
      execWindowWrite, hport, hfw]
    rfl
  exact completes_of_exec hexec ⟨stored_eq .., fun i hi => byte_stored s hinv _ bytes enables poisoned i hi,
    fun y hy => byte_stored_of_off s _ bytes enables poisoned y hy⟩

/-! Command ports: what a write into a window does does not depend on the firewall ports, nor touch them or the links. -/

/-- An operation that a change of the firewall ports passes through, and that touches neither them nor the links and their modules. -/
def FwFree (op : State → State) : Prop := ∀ (s : State) (f : Tab FwPort), op { s with fw := f } =
  { op s with fw := f, links := s.links, mods := s.mods }

theorem fslotCommit_fwFree (n x data : Nat) : FwFree (fun s => s.fslotCommit n x data) := by
  intro s f
  dsimp only
  rw [State.fslotCommit, State.fslotCommit, show ({ s with fw := f } : State).selectedEntry n x = s.selectedEntry n x from rfl]
  cases s.selectedEntry n x <;> rfl

theorem ringDoorbell_fwFree (n x i tail : Nat) : FwFree (fun s => s.ringDoorbell n x i tail) := by
  intro s f
  dsimp only
  rw [State.ringDoorbell, State.ringDoorbell, show ({ s with fw := f } : State).queueOf x i = s.queueOf x i from rfl]
  cases s.queueOf x i with
  | none => rfl
  | some p =>
    dsimp only
    split <;> rfl

theorem ringRelease_fwFree (x i released : Nat) : FwFree (fun s => s.ringRelease x i released) := by
  intro s f
  dsimp only
  rw [State.ringRelease, State.ringRelease, show ({ s with fw := f } : State).ringOf x i = s.ringOf x i from rfl]
  cases s.ringOf x i with
  | none => rfl
  | some p =>
    dsimp only
    split <;> rfl

theorem ctlWrite_fwFree (n x off data : Nat) : FwFree (fun s => s.ctlWrite n x off data) := by
  intro s f
  dsimp only
  unfold State.ctlWrite
  by_cases hwhey : off = 0x008
  · rw [if_pos hwhey, if_pos hwhey]; rfl
  rw [if_neg hwhey, if_neg hwhey]
  by_cases hsel : off = 0x018
  · rw [if_pos hsel, if_pos hsel]; rfl
  rw [if_neg hsel, if_neg hsel]
  by_cases hvalue : off = 0x020
  · rw [if_pos hvalue, if_pos hvalue]
    rw [show ({ s with fw := f } : State).selectedEntry n x = s.selectedEntry n x from rfl]
    cases s.selectedEntry n x <;> rfl
  rw [if_neg hvalue, if_neg hvalue]
  by_cases hcommit : off = 0x028
  · rw [if_pos hcommit, if_pos hcommit]
    exact fslotCommit_fwFree n x data s f
  rw [if_neg hcommit, if_neg hcommit]
  by_cases hfault : off = 0x080
  · rw [if_pos hfault, if_pos hfault]
    split <;> rfl
  rw [if_neg hfault, if_neg hfault]
  by_cases hbell : 0x200 ≤ off ∧ off < 0x400
  · rw [if_pos hbell, if_pos hbell]
    exact ringDoorbell_fwFree n x _ _ s f
  rw [if_neg hbell, if_neg hbell]
  by_cases hrel : 0x400 ≤ off ∧ off < 0x600
  · rw [if_pos hrel, if_pos hrel]
    exact ringRelease_fwFree x _ _ s f
  rw [if_neg hrel, if_neg hrel]

theorem stored_fwFree (l : List (Nat × List PB)) : FwFree (fun s => stored s l) := by
  induction l with
  | nil => exact fun _ _ => rfl
  | cons p r ih => exact fun s f => ih (s.devWrite p.1 p.2) f

theorem windowStore_fwFree (n x o : Nat) (bytes : List Byte) (enables : List Bool) (poisoned : Bool) :
    FwFree (fun s => s.windowStore n x o bytes enables poisoned) := by
  intro s f
  dsimp only
  unfold State.windowStore
  rw [show ({ s with fw := f } : State).isOpen x = s.isOpen x from rfl]
  by_cases hclosed : (!s.isOpen x && !(o == 0x080 && bytes.length == 8)) = true
  · rw [if_pos hclosed, if_pos hclosed]; rfl
  rw [if_neg hclosed, if_neg hclosed]
  by_cases hctl : o < 0x1000
  · rw [if_pos hctl, if_pos hctl]
    by_cases hshape : o % 8 ≠ 0 ∨ bytes.length ≠ 8 ∨ enables.any (fun e => !e) = true
    · rw [if_pos hshape, if_pos hshape]; rfl
    rw [if_neg hshape, if_neg hshape]
    cases poisoned with
    | true => rfl
    | false => exact ctlWrite_fwFree n x o _ s f
  rw [if_neg hctl, if_neg hctl]
  by_cases hlen : bytes.length = 0 ∨ 64 < bytes.length ∨ 0x10000 < o + bytes.length
  · rw [if_pos hlen, if_pos hlen]; rfl
  rw [if_neg hlen, if_neg hlen]
  have h := stored_fwFree (stageWrites (Config.stageBase n + x * 0x10000 + o) bytes enables poisoned) s f
  simp only [stored, stageWrites, List.foldl_map] at h
  exact h

/-- A command port whose credits are owed returns them with a control flit, if a module of its link carries flits. -/
theorem fwp_creditBack (s : State) (p : Nat) (hp : p < 8) (howed : (s.fwp p).owed ≠ 0) (hlink : (s.link (22 + p)).down = false) (q : Nat) :
    (s.creditBack (4 + p)).fwp q = if q = p ∧ s.carries (22 + p) 0 = true
      then { s.fwp p with credits := satTo 64 ((s.fwp p).credits + (s.fwp p).owed), owed := 0 } else s.fwp q := by
  have hback : linkBack (22 + p) = 22 + p := by rw [linkBack, if_neg (by omega), if_neg (by omega)]
  have hmods : modulesOf (22 + p) = 1 := by rw [modulesOf, if_neg (by omega), if_neg (by omega)]
  rw [State.creditBack, Nat.add_sub_cancel_left, show 18 + (4 + p) = 22 + p by omega, hlink, if_neg (by simp [howed]),
    State.linkControl, hback, hmods, List.range_one]
  cases hc : s.carries (22 + p) 0 with
  | false => simp [hc]
  | true =>
    have hfind : [0].find? (s.carries (22 + p)) = some 0 := by simp [hc]
    rw [hfind, if_pos (by omega), Nat.add_sub_cancel_left]
    dsimp only
    rw [if_neg howed]
    by_cases hq : q = p
    · rw [if_pos (⟨hq, rfl⟩ : q = p ∧ true = true), hq]
      exact tab_getD_set_self ..
    · rw [if_neg (fun h : q = p ∧ true = true => hq h.1)]
      exact tab_getD_set_other _ _ _ _ _ hq

/-- A port after a request has taken a credit; one that owes it; one whose request was dropped. -/
def spend (f : FwPort) : FwPort := { f with credits := f.credits - 1 }

def owe (f : FwPort) : FwPort := { f with owed := f.owed + 1 }

def dropOne (f : FwPort) : FwPort := { f with dropped := f.dropped + 1 }

/-- A request at a command port that is allowed to send: it takes a credit, is served, and credits that are owed go back. -/
theorem exec_commandPortWrite (s : State) (p : Fin 8) (x : Fin 4096) (o : Nat) (bytes : List Byte) (poisoned : Bool) (hready : s.hostReady = true)
    (hlink : (s.link (22 + p.val)).down = false) (hcredit : 0 < (s.fwp p.val).credits) (ho : o < 0x10000) :
    exec (.commandPortTransaction p true x.val o bytes poisoned) s =
      .next (((s.modFw p.val spend).fwServe p.val true x.val o bytes poisoned none).creditBack (4 + p.val)) := by
  rw [show exec (.commandPortTransaction p true x.val o bytes poisoned) s = execCommandPortTransaction p true x.val o bytes poisoned s from rfl,
    execCommandPortTransaction, Nat.mod_eq_of_lt x.isLt, Nat.mod_eq_of_lt ho, State.commandPort, hready, hlink,
    if_neg (by simp), if_neg (by simpa using hcredit.ne'), State.fwTake, if_neg (by omega), Nat.add_sub_cancel_left]
  rfl

theorem fwReturn_write (s : State) (p : Nat) : s.fwReturn (4 + p) false = s.modFw p owe := by
  rw [State.fwReturn, if_neg (by omega), Nat.add_sub_cancel_left]
  rfl

theorem fwServe_forward (s : State) (p x o : Nat) (bytes : List Byte) (poisoned : Bool) (hfwd : s.fwForwards p x = true)
    (hup : s.sliceUp (s.ctx x).home = true) : s.fwServe p true x o bytes poisoned none =
      (s.windowStore (s.ctx x).home x o bytes (bytes.map (fun _ => true)) poisoned).modFw p owe := by
  rw [State.fwServe, hfwd, hup, fwReturn_write]
  rfl

theorem fwServe_drop (s : State) (p x o : Nat) (bytes : List Byte) (poisoned : Bool) (hfwd : s.fwForwards p x = false) :
    s.fwServe p true x o bytes poisoned none =
      ({ s.modFw p dropOne with cntKs := Tab.set s.cntKs p (Tab.getD s.cntKs p 0 + 1) } : State).modFw p owe := by
  rw [State.fwServe, hfwd]
  exact fwReturn_write _ p

theorem fwForwards_modFw (s : State) (p x : Nat) (g : FwPort → FwPort) (hg : ∀ f, (g f).list = f.list) :
    (s.modFw p g).fwForwards p x = s.fwForwards p x := by
  have hlist : ((s.modFw p g).fwp p).list = (s.fwp p).list := (congrArg FwPort.list (tab_getD_set_self ..)).trans (hg _)
  unfold State.fwForwards
  rw [hlist]
  rfl

/-- The firewall port after a request that leaves it `g`: its credit is owed, and goes back if a module carries flits. -/
theorem fwp_served (s u : State) (p : Nat) (hp : p < 8) (g : FwPort → FwPort)
    (hg : ∀ f, (g f).owed = f.owed ∧ (g f).credits = f.credits) (hspend : ∀ f, g (spend f) = spend (g f))
    (hself : u.fwp p = owe (g (spend (s.fwp p))))
    (hother : ∀ q, q ≠ p → u.fwp q = s.fwp q) (hlinks : u.links = s.links) (hmods : u.mods = s.mods) (hlink : (s.link (22 + p)).down = false) (q : Nat) :
    (u.creditBack (4 + p)).fwp q = if q = p then creditsAfter s p (g (s.fwp p)) else s.fwp q := by
  have hcarries : u.carries (22 + p) 0 = s.carries (22 + p) 0 := by rw [State.carries, State.linkMod, hmods]; rfl
  rw [hspend] at hself
  obtain ⟨howed, hcredits⟩ := hg (s.fwp p)
  rw [fwp_creditBack u p hp (by rw [hself]; simp [owe]) (by rw [State.link, hlinks]; exact hlink), hcarries, hself, creditsAfter]
  by_cases hq : q = p
  · subst hq
    cases s.carries (22 + q) 0 <;> simp [hself, owe, spend]
  · rw [if_neg (fun h => hq h.1), if_neg hq, hother q hq]

theorem fwp_modFw (s : State) (p q : Nat) (f : FwPort → FwPort) : (s.modFw p f).fwp q = if q = p then f (s.fwp p) else s.fwp q := by
  by_cases hq : q = p
  · rw [if_pos hq, hq]
    exact tab_getD_set_self ..
  · rw [if_neg hq]
    exact tab_getD_set_other _ _ _ _ _ hq

theorem fwp_modFw_modFw (s : State) (p q : Nat) (f g : FwPort → FwPort) :
    ((s.modFw p f).modFw p g).fwp q = if q = p then g (f (s.fwp p)) else s.fwp q := by
  by_cases hq : q = p
  · rw [fwp_modFw, fwp_modFw, if_pos hq, if_pos rfl, if_pos hq]
  · rw [fwp_modFw, if_neg hq, fwp_modFw, if_neg hq, if_neg hq]

theorem fwp_of_fw {s t : State} (h : s.fw = t.fw) (q : Nat) : s.fwp q = t.fwp q := by rw [State.fwp, h]; rfl

/-- The state in which a forwarded write leaves the engine, before credits go back. -/
theorem forwarded_eq (s : State) (p x o : Nat) (bytes : List Byte) (poisoned : Bool) :
    (((s.modFw p spend).windowStore (s.ctx x).home x o bytes (bytes.map (fun _ => true)) poisoned).modFw p owe) =
      { s.windowStore (s.ctx x).home x o bytes (bytes.map (fun _ => true)) poisoned with
        fw := ((s.modFw p spend).modFw p owe).fw, links := s.links, mods := s.mods } := by
  have h := windowStore_fwFree (s.ctx x).home x o bytes (bytes.map (fun _ => true)) poisoned s (s.modFw p spend).fw
  dsimp only at h
  rw [show s.modFw p spend = { s with fw := (s.modFw p spend).fw } from rfl, h]
  rfl

theorem windowStore_mods (s : State) (n x o : Nat) (bytes : List Byte) (enables : List Bool) (poisoned : Bool) :
    (s.windowStore n x o bytes enables poisoned).mods = s.mods := by
  have h := windowStore_fwFree n x o bytes enables poisoned s s.fw
  dsimp only at h
  rw [h]

theorem commandPortForwards : Claims.CommandPortForwards := by
  intro s p x o bytes poisoned hready hlink hcredit ho
  have hexec := exec_commandPortWrite s p x o bytes poisoned hready hlink hcredit ho
  have hlist : (s.modFw p.val spend).fwForwards p.val x.val = s.fwForwards p.val x.val := fwForwards_modFw s p.val x.val spend (fun _ => rfl)
  refine ⟨fun hfwd hup => ?_, fun hfwd => ?_⟩
  · rw [fwServe_forward _ _ _ _ _ _ (hlist.trans hfwd) hup] at hexec
    have hstate := forwarded_eq s p.val x.val o bytes poisoned
    generalize hu : ((s.modFw p.val spend).windowStore ((s.modFw p.val spend).ctx x.val).home x.val o bytes (bytes.map (fun _ => true))
      poisoned).modFw p.val owe = u at hexec
    replace hstate := hu.symm.trans hstate
    have hfwp : ∀ q, u.fwp q = ((s.modFw p.val spend).modFw p.val owe).fwp q := fwp_of_fw (by rw [hstate])
    have hcredits := fwp_served s u p.val p.isLt id (fun _ => ⟨rfl, rfl⟩) (fun _ => rfl)
      (by rw [hfwp, fwp_modFw_modFw, if_pos rfl]; rfl) (fun q hq => by rw [hfwp, fwp_modFw_modFw, if_neg hq])
      (by rw [hstate]) (by rw [hstate]) hlink
    refine completes_of_exec hexec ⟨?_, (hcredits p.val).trans (if_pos rfl), fun q hq => (hcredits q).trans (if_neg hq)⟩
    rw [creditBack_portsOnly u (4 + p.val), hstate, ← windowStore_mods s (s.ctx x.val).home x.val o bytes (bytes.map (fun _ => true)) poisoned]
  · rw [fwServe_drop _ _ _ _ _ _ (hlist.trans hfwd)] at hexec
    generalize hu : ({ (s.modFw p.val spend).modFw p.val dropOne with
      cntKs := Tab.set (s.modFw p.val spend).cntKs p.val (Tab.getD (s.modFw p.val spend).cntKs p.val 0 + 1) } : State).modFw p.val owe = u at hexec
    have hfwp : ∀ q, u.fwp q = if q = p.val then owe (dropOne (spend (s.fwp p.val))) else s.fwp q := fun q => by
      have hdropped : ∀ q, ({ (s.modFw p.val spend).modFw p.val dropOne with
          cntKs := Tab.set (s.modFw p.val spend).cntKs p.val (Tab.getD (s.modFw p.val spend).cntKs p.val 0 + 1) } : State).fwp q =
          if q = p.val then dropOne (spend (s.fwp p.val)) else s.fwp q :=
        fun q => fwp_modFw_modFw s p.val q spend dropOne
      rw [← hu, fwp_modFw, hdropped, hdropped, if_pos rfl]
      split <;> rfl
    have hcredits := fwp_served s u p.val p.isLt dropOne (fun _ => ⟨rfl, rfl⟩) (fun _ => rfl)
      (by rw [hfwp, if_pos rfl]) (fun q hq => by rw [hfwp, if_neg hq]) (by rw [← hu]; rfl) (by rw [← hu]; rfl) hlink
    refine completes_of_exec hexec ⟨?_, (hcredits p.val).trans (if_pos rfl), fun q hq => (hcredits q).trans (if_neg hq)⟩
    rw [creditBack_portsOnly u (4 + p.val), ← hu]
    rfl

/-- Settles O15: runs of enabled bytes are stored; a command port's write is forwarded or dropped, and takes a credit. -/
theorem windowsAreWritten : Obligations.WindowsAreWritten := ⟨windowWriteStores, commandPortForwards⟩

end Sys2Proof.Proofs.WindowWrite
end

section
/-! Fences: signals, FENCE_SIGNAL and FENCE_WAIT (O19, O20). -/

namespace Sys2Proof.Proofs.Fences

open Sys2Proof Sys2Proof.Machine Sys2Proof.Claims Sys2Proof.Laws Sys2Proof.Proofs.Basic Sys2Proof.Proofs.Layer Sys2Proof.Proofs.HostMem
  Sys2Proof.Proofs.Skew

/-! Numbers in device memory. -/

theorem num_congr {m m' : Mem} {a n : Nat} (h : ∀ i, i < n → m.byte (a + i) = m'.byte (a + i)) : m.num a n = m'.num a n := by
  unfold Mem.num Mem.bytes
  congr 1
  exact List.map_congr_left fun i hi => h i (List.mem_range.mp hi)

/-- A number is read back as written, and another place keeps its number. -/
theorem num_devPut_self (s : State) (hs : s.inv) (a n x : Nat) : (s.devPut a (natLE n x)).dev.num a n = x % 256 ^ n := by
  have h := bytes_writeClean s.dev hs a (natLE n x)
  rw [natLE_length] at h
  rw [State.devPut, Mem.num]
  dsimp only
  rw [h, leNat_natLE]

theorem num_devPut_off (s : State) (a b n : Nat) (bs : List Byte) (h : b + n ≤ a ∨ a + bs.length ≤ b) :
    (s.devPut a bs).dev.num b n = s.dev.num b n :=
  num_congr fun i hi => byte_devPut_of_off s a (b + i) bs (by unfold off; omega)

/-! Signals. -/

theorem applySignal_taken {s : State} {f : Nat} {v : Word} (hlive : s.fenceState f = 1) (hahead : 0 < (v - s.fenceValue f).toInt) :
    (s.applySignal f v).dev = (s.devPut (fenceAddr f) (natLE 8 v.toNat)).dev := by
  rw [State.applySignal, if_pos ⟨hlive, by simpa [ahead] using hahead⟩]
  simp

theorem applySignal_ignored {s : State} {f : Nat} {v : Word} (h : s.fenceState f ≠ 1 ∨ (v - s.fenceValue f).toInt ≤ 0) :
    s.applySignal f v = s.devPut (fenceAddr f + 0xC) (natLE 4 (satTo 0xFFFFFFFF (s.fenceIgnored f + 1))) := by
  rw [State.applySignal, if_neg]
  rintro ⟨hlive, hahead⟩
  rcases h with h | h
  · exact h hlive
  · exact absurd h (by simpa [ahead] using hahead)

theorem ignored_of_not_taken {a : Nat} {b : Int} (h : ¬ (a = 1 ∧ 0 < b)) : a ≠ 1 ∨ b ≤ 0 := by omega

theorem byte_applySignal_of_off (s : State) (f : Nat) (v : Word) (x : Nat) (hx : off (fenceAddr f) 64 x) :
    (s.applySignal f v).dev.byte x = s.dev.byte x := by
  unfold off at hx
  by_cases h : s.fenceState f = 1 ∧ 0 < (v - s.fenceValue f).toInt
  · rw [applySignal_taken h.1 h.2]
    exact byte_devPut_of_off _ _ _ _ (by unfold off; rw [natLE_length]; omega)
  · rw [applySignal_ignored (ignored_of_not_taken h)]
    exact byte_devPut_of_off _ _ _ _ (by unfold off; rw [natLE_length]; omega)

theorem waitState_eq_zero (value v : Word) (orphan : Bool) : waitState (value, orphan) v = 0 ↔ 0 ≤ (value - v).toInt := by
  unfold waitState notBehind
  cases orphan <;> simp

/-- Settles O19: the two branches of `applySignal`, read back from the fence's record. -/
theorem signalComparesModulo : Obligations.SignalComparesModulo := by
  unfold Obligations.SignalComparesModulo
  intro s f v hinv _
  refine ⟨fun hlive hahead => ⟨?_, ?_⟩, fun h => ⟨?_, ?_⟩, waitState_eq_zero _ v false, byte_applySignal_of_off s f v⟩
  · rw [State.fenceValue, applySignal_taken hlive hahead, num_devPut_self s hinv]
    exact BitVec.eq_of_toNat_eq (by rw [BitVec.toNat_ofNat]; have := v.isLt; omega)
  · rw [State.fenceIgnored, applySignal_taken hlive hahead]
    exact num_devPut_off _ _ _ _ _ (by rw [natLE_length]; omega)
  · rw [State.fenceValue, applySignal_ignored h, num_devPut_off _ _ _ _ _ (by omega)]
    rfl
  · rw [State.fenceIgnored, applySignal_ignored h, num_devPut_self s hinv, satTo_eq_min]
    omega

/-! FENCE_SIGNAL and FENCE_APPLY. -/

/-- What a signal writes depends on memory only. -/
theorem applySignal_dev_congr {s t : State} (h : t.dev = s.dev) (f : Nat) (v : Word) : (t.applySignal f v).dev = (s.applySignal f v).dev := by
  have hstate : t.fenceState f = s.fenceState f := by rw [State.fenceState, h]; rfl
  have hvalue : t.fenceValue f = s.fenceValue f := by rw [State.fenceValue, h]; rfl
  have hignored : t.fenceIgnored f = s.fenceIgnored f := by rw [State.fenceIgnored, h]; rfl
  have hput : ∀ a bs, (t.devPut a bs).dev = (s.devPut a bs).dev := fun a bs => by rw [State.devPut, h]; rfl
  by_cases hs : s.fenceState f = 1 ∧ 0 < (v - s.fenceValue f).toInt
  · have ht : t.fenceState f = 1 ∧ 0 < (v - t.fenceValue f).toInt := by rw [hstate, hvalue]; exact hs
    rw [applySignal_taken hs.1 hs.2, applySignal_taken ht.1 ht.2, hput]
  · have ht : ¬ (t.fenceState f = 1 ∧ 0 < (v - t.fenceValue f).toInt) := by rw [hstate, hvalue]; exact hs
    rw [applySignal_ignored (ignored_of_not_taken hs), applySignal_ignored (ignored_of_not_taken ht), hignored, hput]

theorem fenceSignalCompletes : Claims.FenceSignalCompletes := by
  intro s h c
  refine ⟨fun hrun hready => ?_, fun g r hqueue hup hg hc hphase => ?_⟩
  · rw [Gives, show exec (.fenceSignal h) s = execFenceSignal h s from rfl, execFenceSignal, hrun]
    dsimp only
    rw [if_neg (by simpa using hready), State.modCmd, Tab.modify, (running_eq_some hrun).1]
  · have hcmds : (({ s with fenceQ := r } : State).applySignal g.fence g.value).cmds = s.cmds := by
      unfold State.applySignal
      split <;> simp
    have hqueue' : (({ s with fenceQ := r } : State).applySignal g.fence g.value).fenceQ = r := by
      unfold State.applySignal
      split <;> simp
    have hdev := applySignal_dev_congr (s := s) (t := { s with fenceQ := r }) rfl g.fence g.value
    have hexec : exec .fenceApply s = .next ((({ s with fenceQ := r } : State).applySignal g.fence g.value).endCmd h (fun d =>
        { d with c0 := if s.signalIgnored g.fence g.value then 1 else 0,
                 aux := some ((({ s with fenceQ := r } : State).applySignal g.fence g.value).fenceValue g.fence) })) := by
      rw [show exec .fenceApply s = execFenceApply s from rfl, execFenceApply, hqueue]
      dsimp only
      rw [hup, hg]
      dsimp only
      rw [hcmds, hc, if_neg (by simp), if_neg (by simpa [Cmd.ended] using hphase)]
    have hend : ∀ (t : State) (e : Cmd → Cmd), (t.endCmd h e).fenceQ = t.fenceQ ∧ (t.endCmd h e).dev = t.dev ∧
        (t.endCmd h e).fenceValue g.fence = t.fenceValue g.fence := fun _ _ => ⟨rfl, rfl, rfl⟩
    obtain ⟨hendQ, hendDev, hendValue⟩ := hend (({ s with fenceQ := r } : State).applySignal g.fence g.value) (fun d =>
      { d with c0 := if s.signalIgnored g.fence g.value then 1 else 0,
               aux := some ((({ s with fenceQ := r } : State).applySignal g.fence g.value).fenceValue g.fence) })
    exact completes_of_exec hexec ⟨hendQ.trans hqueue', hendDev.trans hdev, _, done_endCmd _ (by rw [hcmds]; exact hc), rfl, rfl,
      congrArg some hendValue.symm⟩

/-! FENCE_WAIT. -/

theorem exec_fenceWait (s : State) (h : Nat) : exec (.fenceWait h) s = .next (s.fenceWaitTry h) := rfl

theorem fenceWaitTry_satisfied {s : State} {h : Nat} {c : Cmd} (hrun : s.running h 0x11 = some c)
    (hwait : waitState (s.seenOf c.slice c.fence) c.fenceVal = 0) :
    s.fenceWaitTry h = s.endCmd h (fun d => { d with aux := some (s.seenOf c.slice c.fence).1 }) := by
  rw [State.fenceWaitTry, hrun]
  dsimp only
  rw [hwait]
  rfl

theorem fenceWaitTry_orphaned {s : State} {h : Nat} {c : Cmd} (hrun : s.running h 0x11 = some c)
    (hwait : waitState (s.seenOf c.slice c.fence) c.fenceVal = 1) :
    s.fenceWaitTry h = s.endCmd h (fun d => { d with status := 0x13, aux := some (s.seenOf c.slice c.fence).1 }) := by
  rw [State.fenceWaitTry, hrun]
  dsimp only
  rw [hwait]
  rfl

theorem running_fenceWait {s : State} {h : Nat} {c : Cmd} (hc : Tab.get? s.cmds h = some c) (hop : c.opcode = 0x11) (hend : c.ended = false)
    (hmay : s.mayRun c = true) (hslice : (s.slc c.slice).run = 2) : s.running h 0x11 = some c := by
  rw [State.running, hc]
  dsimp only
  rw [if_pos ⟨hop, by simp [hend], hmay, hslice, by simp [State.mayRead, hop]⟩]

/-- A delivery to the slice of the only command, a wait for the fence, ends that wait when the value satisfies it. -/
theorem deliverFence_one {s : State} {n h : Nat} {c : Cmd} (hn : n < s.slices.length) (hrun : s.running h 0x11 = some c) (hslice : c.slice = n)
    (hwait : waitState (s.fenceValue c.fence, s.fenceState c.fence == 2) c.fenceVal = 0) (hcmds : s.cmds = [(h, c)]) :
    (s.sampleFence n c.fence).seenOf n c.fence = (s.fenceValue c.fence, s.fenceState c.fence == 2) ∧
    s.deliverFence n c.fence = (s.sampleFence n c.fence).endCmd h (fun d => { d with aux := some (s.fenceValue c.fence) }) := by
  obtain ⟨hc, hop, hend, hmay, hrunning, -⟩ := running_eq_some hrun
  have hslc := slc_modSlice s n n (fun l => { l with seen := Tab.set l.seen c.fence (s.fenceValue c.fence, s.fenceState c.fence == 2) }) hn
  rw [if_pos rfl] at hslc
  have hseen : (s.sampleFence n c.fence).seenOf n c.fence = (s.fenceValue c.fence, s.fenceState c.fence == 2) := by
    rw [State.seenOf, State.sampleFence, hslc]
    exact tab_getD_set_self ..
  have hrun' : (s.sampleFence n c.fence).running h 0x11 = some c := by
    refine running_fenceWait hc hop hend hmay ?_
    rw [hslice] at hrunning ⊢
    rw [State.sampleFence, hslc]
    exact hrunning
  refine ⟨hseen, ?_⟩
  have hfilter : (s.sampleFence n c.fence).cmds.filter (fun p => p.2.opcode == 0x11 && p.2.slice == n && p.2.fence == c.fence && !p.2.ended) =
      [(h, c)] := by
    rw [show (s.sampleFence n c.fence).cmds = [(h, c)] from hcmds]
    simp [hop, hslice, hend]
  rw [State.deliverFence, hfilter, List.foldl_cons, List.foldl_nil, fenceWaitTry_satisfied hrun' (by rw [hslice, hseen]; exact hwait), hslice, hseen]

theorem fenceWaitCompletes : Claims.FenceWaitCompletes := by
  intro s h c hrun
  have hc := (running_eq_some hrun).1
  refine ⟨fun hwait => ?_, fun hwait => ?_, fun hwait hset hpast => ?_, fun n hup hslice hfence hlen hwait hcmds => ?_⟩
  · exact completes_of_exec ((exec_fenceWait s h).trans (congrArg _ (fenceWaitTry_satisfied hrun hwait))) ⟨_, done_endCmd _ hc, rfl, rfl, rfl⟩
  · exact completes_of_exec ((exec_fenceWait s h).trans (congrArg _ (fenceWaitTry_orphaned hrun hwait))) ⟨_, done_endCmd _ hc, rfl, rfl⟩
  · have hexec : exec (.fenceWaitTimeout h) s =
        .next (s.endCmd h (fun d => { d with status := 0x14, aux := some (s.seenOf c.slice c.fence).1 })) := by
      rw [show exec (.fenceWaitTimeout h) s = execFenceWaitTimeout h s from rfl, execFenceWaitTimeout, hrun]
      exact if_pos ⟨hset, hpast, hwait⟩
    exact completes_of_exec hexec ⟨_, done_endCmd _ hc, rfl, rfl⟩
  · obtain ⟨hseen, hdeliver⟩ := deliverFence_one (n := n.val) (by omega) hrun hslice hwait hcmds
    have hexec : exec (.fenceValueDelivery n c.fence) s = .next (s.deliverFence n.val c.fence) := if_pos ⟨hfence, hup⟩
    rw [hdeliver] at hexec
    exact completes_of_exec hexec ⟨hseen, rfl, _, done_endCmd (s := s.sampleFence n.val c.fence) _ hc, rfl, rfl⟩

/-- Settles O20: the oldest signal is applied with its command's end; a wait ends by what its slice has sampled. -/
theorem fenceCommandsComplete : Obligations.FenceCommandsComplete := ⟨fenceSignalCompletes, fenceWaitCompletes⟩

end Sys2Proof.Proofs.Fences
end

section
/-! Result lists (O29), slot rings (O60), BUOY and QUERY (O24). -/

namespace Sys2Proof.Proofs.Order

open Sys2Proof Sys2Proof.Machine Sys2Proof.Claims Sys2Proof.Laws Sys2Proof.Proofs.Basic Sys2Proof.Proofs.Layer Sys2Proof.Proofs.Gather

/-! The order of results (R129). -/

/-- The model's sort is insertion sort by "does not come after". -/
theorem sortBy_eq_insertionSort {α : Type} (lt : α → α → Bool) (l : List α) :
    sortBy lt l = l.insertionSort (fun a b => lt b a = false) := by
  have hinsert : ∀ a (r : List α), insertBy lt a r = r.orderedInsert (fun a b => lt b a = false) a := by
    intro a r
    induction r with
    | nil => rfl
    | cons b r ih =>
      rw [insertBy, List.orderedInsert_cons, ih]
      cases lt b a <;> rfl
  induction l with
  | nil => rfl
  | cons a r ih => rw [List.insertionSort_cons, ← ih, ← hinsert]; rfl

theorem entryBefore_total : Std.Total (fun a b : ScanEntry => entryBefore b a = false) := by
  refine ⟨fun a b => ?_⟩
  simp only [entryBefore, Bool.or_eq_false_iff, Bool.and_eq_false_iff, decide_eq_false_iff_not, beq_eq_false_iff_ne]
  omega

theorem entryBefore_trans : IsTrans ScanEntry (fun a b => entryBefore b a = false) := by
  refine ⟨fun a b c => ?_⟩
  simp only [entryBefore, Bool.or_eq_false_iff, Bool.and_eq_false_iff, decide_eq_false_iff_not, beq_eq_false_iff_ne]
  omega

/-- Settles O29: the list sorted by R129 splits into what is taken and what is left out. -/
theorem topKIsSortedAndBest : Obligations.TopKIsSortedAndBest := by
  unfold Obligations.TopKIsSortedAndBest
  intro k l _
  have hsort := sortBy_eq_insertionSort entryBefore l
  have hperm : (sortBy entryBefore l).Perm l := hsort ▸ List.perm_insertionSort _ l
  have hpair : (sortBy entryBefore l).Pairwise (fun a b => entryBefore b a = false) := by
    have := entryBefore_total
    have := entryBefore_trans
    exact hsort ▸ List.pairwise_insertionSort _ l
  have hsplit := List.take_append_drop k (sortBy entryBefore l)
  refine ⟨by rw [topK, List.length_take, hperm.length_eq], hpair.sublist (List.take_sublist ..), (sortBy entryBefore l).drop k, ?_, ?_⟩
  · rw [topK, hsplit]
    exact hperm
  · rw [← hsplit] at hpair
    exact (List.pairwise_append.mp hpair).2.2

/-! Slot rings (R202). -/

/-- The filled slots of a ring whose counters lie within twice its slots. -/
theorem filled_eq {r : Ring} (hhead : r.head < 2 * r.slots) (htail : r.tail < 2 * r.slots) :
    r.filled = if r.head ≤ r.tail then r.tail - r.head else r.tail + 2 * r.slots - r.head := by
  unfold Ring.filled
  split
  · rw [show r.tail + 2 * r.slots - r.head = r.tail - r.head + 2 * r.slots by omega, Nat.add_mod_right, Nat.mod_eq_of_lt (by omega)]
  · exact Nat.mod_eq_of_lt (by omega)

/-- A counter of a ring goes on by one. -/
theorem succ_mod_eq {n m : Nat} (h : n < m) : (n + 1) % m = if n + 1 = m then 0 else n + 1 := by
  split
  · rename_i h
    rw [h, Nat.mod_self]
  · exact Nat.mod_eq_of_lt (by omega)

theorem mayFill_iff (r : Ring) (hle : r.filled ≤ r.slots) :
    r.mayFill = true ↔ r.filled < r.slots ∧ (r.ahead = 0 ∨ r.filled < r.ahead) := by
  simp only [Ring.mayFill, Ring.isFull, Bool.and_eq_true, Bool.not_eq_true', beq_eq_false_iff_ne, decide_eq_true_eq]
  split <;> omega

theorem ring_counters (r : Ring) (hslots : 0 < r.slots) (hhead : r.head < 2 * r.slots) (htail : r.tail < 2 * r.slots) (hle : r.filled ≤ r.slots) :
    (r.isEmpty = true ↔ r.filled = 0) ∧ (r.isFull = true ↔ r.filled = r.slots) ∧
    (r.mayFill = true ↔ r.filled < r.slots ∧ (r.ahead = 0 ∨ r.filled < r.ahead)) ∧
    (r.mayFill = true → r.fill.filled = r.filled + 1 ∧ r.fill.filled ≤ r.slots ∧ r.fill.tail < 2 * r.slots) ∧
    (r.isEmpty = false → r.take.filled = r.filled - 1 ∧ r.take.head < 2 * r.slots) := by
  have hfilled := filled_eq hhead htail
  have hfill : r.fill.tail = if r.tail + 1 = 2 * r.slots then 0 else r.tail + 1 := succ_mod_eq htail
  have htake : r.take.head = if r.head + 1 = 2 * r.slots then 0 else r.head + 1 := succ_mod_eq hhead
  have hfillTail : r.fill.tail < 2 * r.slots := by rw [hfill]; split <;> omega
  have htakeHead : r.take.head < 2 * r.slots := by rw [htake]; split <;> omega
  have hempty : r.isEmpty = true ↔ r.head = r.tail := beq_iff_eq
  refine ⟨?_, beq_iff_eq, mayFill_iff r hle, fun hmay => ?_, fun hne => ?_⟩
  · rw [hempty, hfilled]
    split <;> omega
  · have hroom := ((mayFill_iff r hle).mp hmay).1
    have hafter : r.fill.filled = r.filled + 1 := by
      rw [filled_eq (r := r.fill) hhead hfillTail, hfill, hfilled]
      rw [hfilled] at hroom
      simp only [Ring.fill]
      split at hroom <;> split_ifs <;> omega
    exact ⟨hafter, by omega, hfillTail⟩
  · have hne' : r.head ≠ r.tail := fun h => by simp [hempty.mpr h] at hne
    refine ⟨?_, htakeHead⟩
    rw [filled_eq (r := r.take) htakeHead htail, htake, hfilled]
    simp only [Ring.take]
    split_ifs <;> omega

theorem ringsFree_eq_false {s : State} {c : Cmd} (h : s.ringsFree c = false) :
    c.begun = false ∧ ∃ v r, (v, r) ∈ c.rings ∧ Config.streamSram < ringBytes s.rings v + ringBytes c.rings v := by
  rw [State.ringsFree, Bool.or_eq_false_iff, State.ringsFit, List.all_eq_false] at h
  obtain ⟨hbegun, ⟨v, r⟩, hmem, hover⟩ := h
  exact ⟨hbegun, v, r, hmem, by simpa using hover⟩

/-- A command that waits for room takes no step of its own. -/
theorem ringlessCommandWaits (s : State) (h : Nat) (c : Cmd) (hready : c.phase = .ready) (hrings : s.ringsFree c = false) :
    (s.running h 1 = some c → Gives (.lookup h) s s) ∧ (s.running h 3 = some c → Gives (.scoreTopk h) s s) ∧
    (s.running h 4 = some c → Gives (.scatterGrad h) s s) := by
  refine ⟨fun hrun => ?_, fun hrun => ?_, fun hrun => ?_⟩
  · rw [Gives, show exec (.lookup h) s = execLookup h s from rfl, execLookup, hrun]
    exact if_pos (by simp [hrings])
  · rw [Gives, show exec (.scoreTopk h) s = execScoreTopk h s from rfl, execScoreTopk, hrun]
    exact (if_neg (by simp [hready])).trans (if_pos (by simp [hrings]))
  · rw [Gives, show exec (.scatterGrad h) s = execScatterGrad h s from rfl, execScatterGrad, hrun]
    exact (if_neg (by simp [hready])).trans (if_pos (by simp [hrings]))

/-- Settles O60: the counters of one ring, and a command that finds no room for its rings. -/
theorem ringsBoundWhatIsFetched : Obligations.RingsBoundWhatIsFetched := by
  refine ⟨ring_counters, fun s h c hready hrings => ?_⟩
  obtain ⟨hbegun, hroom⟩ := ringsFree_eq_false hrings
  exact ⟨hbegun, hroom, ringlessCommandWaits s h c hready hrings⟩

/-! BUOY and QUERY. -/

theorem buoyEnds (s : State) (h : Nat) (c : Cmd) (hrun : s.running h 0x13 = some c) :
    Completes (.buoy h) s (fun t => SamePlaces s t ∧ t.dev = s.dev ∧ t.tables = s.tables ∧ ∃ d, Done t h d ∧ d.status = 0 ∧ d.detail = 0) := by
  have hexec : exec (.buoy h) s = .next ((s.endWith h 0 0).release (.cmd h)) := by
    rw [show exec (.buoy h) s = execBuoy h s from rfl, execBuoy, hrun]
  refine completes_of_exec hexec ⟨?_, rfl, rfl, _, done_endCmd_release _ _ (running_eq_some hrun).1, rfl, rfl⟩
  rw [State.endWith, samePlaces_release, samePlaces_endCmd]
  exact ⟨by simp [SameInside], rfl⟩

section
variable {s : State} {h : Nat} {c : Cmd} (hrun : s.running h 0x30 = some c)
include hrun

theorem exec_query_word0 (hkind : c.fld 8 2 = 0) :
    exec (.query h) s = .next (s.endCmd h (fun d => { d with aux := some (BitVec.ofNat 64 (s.capWord (c.fld 0xC 4))) })) := by
  rw [show exec (.query h) s = execQuery h s from rfl, execQuery, hrun]
  dsimp only
  rw [hkind]
  rfl

theorem exec_query_word1 (hkind : c.fld 8 2 = 1) :
    exec (.query h) s = .next (s.endCmd h (fun d => { d with aux := some (BitVec.ofNat 64 (s.ctxWord (c.fld 0xC 4))) })) := by
  rw [show exec (.query h) s = execQuery h s from rfl, execQuery, hrun]
  dsimp only
  rw [hkind]
  rfl

theorem exec_query_table {w : OutWr} {r : Acc (List (OutWr × List Landing))} (hkind : 2 ≤ c.fld 8 2)
    (hw : w = OutWr.mk c.slice (c.fld 0x10 8) (cleanBytes s.capBytes) 3 [0] 1) (hr : r = s.outAcc (s.actor h c) [w]) (hneeds : r.needs = []) :
    exec (.query h) s = .next ((((s.faults c r.evs).landAll c.ctx h r.val).endCmd h (fun d => { d with
      c0 := (r.val.flatMap (fun p => p.2.map Landing.count)).sum, status := firstStatus [(anySuppressed r.val, 0x16)] })).release (.cmd h)) := by
  rw [show exec (.query h) s = execQuery h s from rfl, execQuery, hrun]
  dsimp only
  rw [← hw, ← hr, hneeds]
  split
  · omega
  · omega
  · rfl

end

/-- Settles O24: each kind of QUERY and the BUOY run to their end, and the table lands as output bytes do. -/
theorem buoyAndQueryEnd : Obligations.BuoyAndQueryEnd := by
  unfold Obligations.BuoyAndQueryEnd
  refine fun s h c => ⟨buoyEnds s h c, fun hrun => ⟨fun hkind => ?_, fun hkind => ?_, fun w r hkind hw hr hneeds => ?_⟩⟩
  · exact completes_of_exec (exec_query_word0 hrun hkind) ⟨_, done_endCmd _ (running_eq_some hrun).1, rfl, rfl⟩
  · exact completes_of_exec (exec_query_word1 hrun hkind) ⟨_, done_endCmd _ (running_eq_some hrun).1, rfl, rfl⟩
  · refine completes_of_exec (exec_query_table hrun hkind hw hr hneeds) ?_
    have hbooks := (faults_sameBooks s c r.evs).trans (landAll_sameBooks _ c.ctx h r.val)
    have hget : Tab.get? _ h = some c := hbooks.cmds ▸ (running_eq_some hrun).1
    obtain ⟨hplaces, htables, -⟩ := hbooks.endCmd_release h (fun d => { d with
      c0 := (r.val.flatMap (fun p => p.2.map Landing.count)).sum, status := firstStatus [(anySuppressed r.val, 0x16)] }) (.cmd h)
    refine ⟨hplaces, fun a ha => (byte_landAll_of_off _ _ _ _ a ha).trans (by simp), htables, _, done_endCmd_release _ _ hget, ?_⟩
    cases anySuppressed r.val <;> rfl

end Sys2Proof.Proofs.Order
end

section
/-! Management actions: what every one of them leaves (R395), and the contexts, rings and queues that they make and free (O16). -/

namespace Sys2Proof.Proofs.Manage

open Sys2Proof Sys2Proof.Machine Sys2Proof.Claims Sys2Proof.Laws Sys2Proof.Proofs.Basic Sys2Proof.Proofs.Layer Sys2Proof.Proofs.Skew

/-! The completion of an action. -/

/-- The action that a write of KPR_MGMT_CMD captures. -/
def captured (s : State) (action tag : Nat) : MgmtAct :=
  { action := action, tag := tag, args := (List.range 16).map (fun i => s.kreg (0x80 + 8 * i)) }

theorem captured_arg (s : State) (action tag i : Nat) (h : i < 16) : (captured s action tag).args.getD i 0 = arg s i := by
  simp [captured, arg, List.getD_eq_getElem?_getD, h]

/-- The state after the result words. -/
def withResults (s : State) (res : List Nat) : State := (List.range 4).foldl (fun acc i => acc.setKreg (0x50 + 8 * i) (res.getD i 0)) s

theorem kreg_withResults (s : State) (res : List Nat) (o : Nat) : (withResults s res).kreg o =
    if o = 0x68 then res.getD 3 0 % 2 ^ 64 else if o = 0x60 then res.getD 2 0 % 2 ^ 64 else if o = 0x58 then res.getD 1 0 % 2 ^ 64
    else if o = 0x50 then res.getD 0 0 % 2 ^ 64 else s.kreg o := by
  rw [withResults, show List.range 4 = [0, 1, 2, 3] from rfl]
  simp only [List.foldl_cons, List.foldl_nil, kreg_setKreg]

/-- The word that an action leaves in KPR_MGMT_STATUS. -/
def statusWord (old : Nat) (a : MgmtAct) (result : Nat) : Nat :=
  (old % 65536 + 1) % 65536 + result * 2 ^ 16 + a.action * 2 ^ 24 + a.tag * 2 ^ 32 + (if bitAt old 62 then 2 ^ 62 else 0)

theorem mgmtDone_eq (s : State) (a : MgmtAct) (result : Nat) (res : List Nat) :
    s.mgmtDone a result res = (withResults s res).setKreg 0x48 (statusWord ((withResults s res).kreg 0x48) a result) := by
  rw [State.mgmtDone, statusWord, withResults]

/-- Only the keeper page changes. -/
theorem withResults_kprOnly (s : State) (res : List Nat) : withResults s res = { s with kpr := (withResults s res).kpr } :=
  foldl_rel (fun s t : State => t = { s with kpr := t.kpr }) (fun _ => rfl) (fun h1 h2 => by rw [h2, h1])
    (fun (acc : State) i => acc.setKreg (0x50 + 8 * i) (res.getD i 0)) (fun _ _ => rfl) (List.range 4) s

theorem mgmtDone_kprOnly (s : State) (a : MgmtAct) (result : Nat) (res : List Nat) :
    s.mgmtDone a result res = { s with kpr := (s.mgmtDone a result res).kpr } := by
  rw [mgmtDone_eq, State.setKreg, withResults_kprOnly]

theorem statusWord_bits (old : Nat) (a : MgmtAct) (result : Nat) (hresult : result < 256) (haction : a.action < 256) (htag : a.tag < 65536) :
    statusWord old a result < 2 ^ 64 ∧ bits (statusWord old a result) 23 16 = result ∧ bits (statusWord old a result) 31 24 = a.action ∧
      bits (statusWord old a result) 47 32 = a.tag := by
  unfold statusWord bits
  split <;> omega

/-- An action that has run on a state whose keeper page is that of `s` has completed. -/
theorem acted_mgmtDone {s u : State} (hkpr : u.kpr = s.kpr) (action result : Nat) (res : List Nat) (tag : BitVec 16) (hres : res.getD 0 0 < 2 ^ 64)
    (haction : action < 256) (hresult : result < 256) :
    Acted s (u.mgmtDone (captured s action tag.toNat) result res) action result (res.getD 0 0) tag := by
  obtain ⟨hlt, hbits, hact, htag⟩ := statusWord_bits ((withResults u res).kreg 0x48) (captured s action tag.toNat) result hresult haction tag.isLt
  have hkreg : ∀ o, u.kreg o = s.kreg o := fun o => by rw [State.kreg, hkpr]; rfl
  have hstatus : (u.mgmtDone (captured s action tag.toNat) result res).kreg 0x48 =
      statusWord ((withResults u res).kreg 0x48) (captured s action tag.toNat) result := by
    rw [mgmtDone_eq, kreg_setKreg, if_pos rfl, Nat.mod_eq_of_lt hlt]
  refine ⟨hstatus ▸ hbits, hstatus ▸ hact, hstatus ▸ htag, ?_, fun o hne hoff => ?_⟩
  · rw [mgmtDone_eq, kreg_setKreg, if_neg (by omega), kreg_withResults]
    exact Nat.mod_eq_of_lt hres
  · unfold off at hoff
    rw [mgmtDone_eq, kreg_setKreg, if_neg hne, kreg_withResults, if_neg (by omega), if_neg (by omega), if_neg (by omega), if_neg (by omega), hkreg]

/-! One action at an idle keeper. -/

theorem mgmtDrain_idle (s : State) (fuel : Nat) (h : s.mgmtQ = []) : s.mgmtDrain fuel = s := by
  cases fuel with
  | zero => rfl
  | succ n =>
    rw [State.mgmtDrain, h]
    cases s.mgmtBusy <;> rfl

/-- The only queued action of an idle keeper runs, and completes. -/
theorem mgmtDrain_one {t s : State} {a : MgmtAct} {n : Nat} (hq : t.mgmtQ = [a]) (hbusy : t.mgmtBusy = none) (hs : { t with mgmtQ := [], mgmtBusy := none } = s)
    (hheld : s.mgmtHeld a = false) (hkill : a.action ≠ 2) (hqueue : (s.mgmtRun a).s.mgmtQ = []) :
    t.mgmtDrain (n + 1) = (s.mgmtRun a).s.mgmtDone a (s.mgmtRun a).result (s.mgmtRun a).res := by
  have hheld' : ¬ t.mgmtHeld a = true := by
    rw [show t.mgmtHeld a = s.mgmtHeld a by rw [← hs]; rfl, hheld]
    simp
  rw [State.mgmtDrain, hq, hbusy]
  dsimp only
  rw [if_neg hheld', hs, if_neg (fun h => hkill h.1)]
  exact mgmtDrain_idle _ _ (by rw [mgmtDone_kprOnly]; exact hqueue)

/-- A write of KPR_MGMT_CMD at an idle keeper runs its action and completes it. -/
theorem mgmtWrite_idle {s : State} {port : Nat} (h : KeeperIdle s port) (action tag : Nat) (hkill : action ≠ 2)
    (hheld : s.mgmtHeld (captured s action tag) = false) (hqueue : (s.mgmtRun (captured s action tag)).s.mgmtQ = []) :
    s.mgmtWrite port action tag = (s.mgmtRun (captured s action tag)).s.mgmtDone (captured s action tag)
      (s.mgmtRun (captured s action tag)).result (s.mgmtRun (captured s action tag)).res := by
  obtain ⟨hport, hready, hq, hbusy⟩ := h
  rw [State.mgmtWrite, hport, hready, if_neg (by simp), hq, hbusy, if_neg (by simp)]
  have hself : ({ s with mgmtQ := [], mgmtBusy := none } : State) = s := by rw [← hq, ← hbusy]
  exact mgmtDrain_one rfl rfl hself hheld hkill hqueue

/-- An action whose arguments have only named bits, and that succeeds with the state `u`, completes with that state and its result words. -/
theorem completes_action {i : Instr} {s u : State} {port : Nat} {P : State → Prop} (hidle : KeeperIdle s port) (action : Nat) (tag : BitVec 16)
    (res : List Nat) (hexec : exec i s = .next (s.mgmtWrite port action tag.toNat)) (hkill : action ≠ 2) (haction : action < 256)
    (hheld : s.mgmtHeld (captured s action tag.toNat) = false) (hrun : s.mgmtRun (captured s action tag.toNat) = { s := u, res := res })
    (hqueue : u.mgmtQ = s.mgmtQ) (hkpr : u.kpr = s.kpr) (hres : res.getD 0 0 < 2 ^ 64)
    (hP : ∀ k, Acted s { u with kpr := k } action 0 (res.getD 0 0) tag → P { u with kpr := k }) : Completes i s P := by
  rw [mgmtWrite_idle hidle action tag.toNat hkill hheld (by rw [hrun, hqueue]; exact hidle.2.2.1), hrun, mgmtDone_kprOnly] at hexec
  refine completes_of_exec hexec (hP _ ?_)
  rw [← mgmtDone_kprOnly]
  exact acted_mgmtDone hkpr action 0 res tag hres haction (by omega)

end Sys2Proof.Proofs.Manage
end

section
/-! Contexts, rings and queues are made and freed (O16). -/

namespace Sys2Proof.Proofs.Objects

open Sys2Proof Sys2Proof.Machine Sys2Proof.Claims Sys2Proof.Laws Sys2Proof.Proofs.Basic Sys2Proof.Proofs.Layer Sys2Proof.Proofs.Skew
  Sys2Proof.Proofs.Manage

theorem lt_of_firstFrom {p : Nat → Bool} {i n f : Nat} (h : firstFrom p i n = some f) : p f = true ∧ i ≤ f ∧ f < i + n := by
  induction n generalizing i with
  | zero => simp [firstFrom] at h
  | succ n ih =>
    rw [firstFrom] at h
    split at h
    · cases h
      exact ⟨‹_›, le_rfl, by omega⟩
    · obtain ⟨hp, hlo, hhi⟩ := ih h
      exact ⟨hp, by omega, by omega⟩

theorem lowestFree_lt {α : Type} {t : Tab α} {n k : Nat} (h : Tab.lowestFree t n = some k) : k < n := by
  obtain ⟨-, -, hlt⟩ := lt_of_firstFrom h
  omega

/-- What an action's run is once its argument word has only named bits. -/
theorem mgmtRun_captured (s : State) (action tag : Nat) (hmask : arg s 0 &&& argMask action = arg s 0) :
    s.mgmtRun (captured s action tag) = match (generalizing := false) action with
      | 1 => s.actCtxOpen (arg s 0) ((List.range 8).flatMap (fun i => natLE 8 (arg s (1 + i))))
      | 3 => s.actSqCreate (arg s 0) (arg s 1)
      | 4 => s.actSqDestroy (arg s 0)
      | 5 => s.actCqCreate (arg s 0) (arg s 1)
      | 6 => s.actCqDestroy (arg s 0)
      | 7 => s.actFenceAlloc (arg s 0) (arg s 1)
      | 8 => s.actFenceFree (arg s 0)
      | 9 => s.actFenceGrant (arg s 0)
      | 0xA => s.actFenceRevoke (arg s 0)
      | 0xB => s.actFwSet (arg s 0) (arg s 1)
      | _ => { s := s, result := 1 } := by
  have hdesc : (List.range 8).flatMap (fun i => natLE 8 ((captured s action tag).args.getD (1 + i) 0)) =
      (List.range 8).flatMap (fun i => natLE 8 (arg s (1 + i))) := by
    rw [List.flatMap_congr]
    intro i hi
    rw [captured_arg s action tag (1 + i) (by have := List.mem_range.mp hi; omega)]
  rw [State.mgmtRun, captured_arg s action tag 0 (by omega), captured_arg s action tag 1 (by omega), hdesc]
  exact if_neg (not_not.mpr hmask)

theorem cqCreate_run {s : State} {x r : Nat} (tag : Nat) (hx : arg s 0 % 4096 = x) (hmask : arg s 0 &&& 0x1F3F0FFF = arg s 0)
    (hlo : 4 ≤ bits (arg s 0) 28 24) (hhi : bits (arg s 0) 28 24 ≤ 16) (hbase : arg s 1 % 4096 = 0) (hopen : s.isOpen x = true)
    (hring : s.ringOf x (bits (arg s 0) 21 16) = none) (hfree : Tab.lowestFree s.cqs Config.queues = some r) :
    s.mgmtRun (captured s 5 tag) = { s := { s with cqs := Tab.set s.cqs r (newCq x (arg s 0) (arg s 1)) }, res := [r] } := by
  rw [show s.mgmtRun (captured s 5 tag) = s.actCqCreate (arg s 0) (arg s 1) from mgmtRun_captured s 5 tag hmask,
    State.actCqCreate, hx, if_neg (by omega), hopen, hring, hfree]
  rfl

theorem cqDestroy_run {s : State} {x r : Nat} {k : CQ} (tag : Nat) (hx : arg s 0 % 4096 = x) (hmask : arg s 0 &&& 0x3F0FFF = arg s 0)
    (hring : s.ringOf x (bits (arg s 0) 21 16) = some (r, k)) (hfree : ∀ p ∈ s.sqs, p.2.cq ≠ r) :
    s.mgmtRun (captured s 6 tag) = { s := { s with cqs := Tab.erase s.cqs r } } := by
  rw [show s.mgmtRun (captured s 6 tag) = s.actCqDestroy (arg s 0) from mgmtRun_captured s 6 tag hmask,
    State.actCqDestroy, hx, hring]
  exact if_neg (by simpa using hfree)

theorem sqCreate_run {s : State} {x q r : Nat} {k : CQ} (tag : Nat) (hx : arg s 0 % 4096 = x)
    (hmask : arg s 0 &&& (0x1F3F0FFF + 3 * 2 ^ 32 + 0x3F * 2 ^ 40) = arg s 0)
    (hlo : 4 ≤ bits (arg s 0) 28 24) (hhi : bits (arg s 0) 28 24 ≤ 16) (hbase : arg s 1 % 4096 = 0) (hopen : s.isOpen x = true)
    (hhome : (s.ctx x).fw = true → (s.ctx x).home = bits (arg s 0) 33 32) (hqueue : s.queueOf x (bits (arg s 0) 21 16) = none)
    (hring : s.ringOf x (bits (arg s 0) 45 40) = some (r, k)) (hup : s.sliceUp (bits (arg s 0) 33 32) = true)
    (hfree : Tab.lowestFree s.sqs Config.queues = some q) :
    s.mgmtRun (captured s 3 tag) = { s := { s with sqs := Tab.set s.sqs q (newSq x (arg s 0) (arg s 1) r) }, res := [q] } := by
  have hbound : ¬ (bits (arg s 0) 28 24 < 4 ∨ 16 < bits (arg s 0) 28 24 ∨ arg s 1 % 4096 ≠ 0 ∨
      ((s.ctx x).fw && (s.ctx x).home != bits (arg s 0) 33 32) = true) := by
    rintro (h | h | h | h)
    · omega
    · omega
    · exact h hbase
    · obtain ⟨hfw, hne⟩ := by simpa using h
      exact hne (hhome hfw)
  rw [show s.mgmtRun (captured s 3 tag) = s.actSqCreate (arg s 0) (arg s 1) from mgmtRun_captured s 3 tag hmask,
    State.actSqCreate, hx, if_neg hbound, hopen, hqueue, hring, hup, hfree]
  rfl

theorem sqDestroy_run {s : State} {x q : Nat} {k : SQ} (tag : Nat) (hx : arg s 0 % 4096 = x) (hmask : arg s 0 &&& 0x3F0FFF = arg s 0)
    (hqueue : s.queueOf x (bits (arg s 0) 21 16) = some (q, k)) (hempty : k.fetch % 2 ^ 32 = k.tail) (hpkts : k.pkts = [])
    (hcmds : ∀ p ∈ s.cmds, p.2.q ≠ q) : s.mgmtRun (captured s 4 tag) = { s := { s with sqs := Tab.erase s.sqs q } } := by
  rw [show s.mgmtRun (captured s 4 tag) = s.actSqDestroy (arg s 0) from mgmtRun_captured s 4 tag hmask,
    State.actSqDestroy, hx, hqueue]
  refine if_neg ?_
  rintro (h | h | h)
  · exact h hempty
  · simp [hpkts] at h
  · obtain ⟨p, hp, hq⟩ := List.any_eq_true.mp h
    exact hcmds p hp (by simpa using hq)

/-! CTX_OPEN. -/

theorem natLE_add (m n x : Nat) : natLE (m + n) x = natLE m x ++ natLE n (x / 256 ^ m) := by
  induction m generalizing x with
  | zero => simp [natLE]
  | succ m ih => rw [Nat.succ_add, natLE, ih, natLE, List.cons_append, Nat.div_div_eq_div_mul, Nat.pow_succ']

/-- A context descriptor in its argument word: four fields and zeros. -/
theorem descriptor_split {a : Nat} (rest : List Byte) (ha : a < 2 ^ 56) : natLE 8 a ++ rest =
    natLE 4 a ++ (natLE 1 (a / 2 ^ 32) ++ (natLE 1 (a / 2 ^ 40) ++ (natLE 1 (a / 2 ^ 48) ++ (0 :: rest)))) := by
  have h4 : natLE 8 a = natLE 4 a ++ natLE 4 (a / 2 ^ 32) := natLE_add 4 4 a
  have h5 : natLE 4 (a / 2 ^ 32) = natLE 1 (a / 2 ^ 32) ++ natLE 3 (a / 2 ^ 32 / 256 ^ 1) := natLE_add 1 3 _
  have h6 : natLE 3 (a / 2 ^ 40) = natLE 1 (a / 2 ^ 40) ++ natLE 2 (a / 2 ^ 40 / 256 ^ 1) := natLE_add 1 2 _
  have h7 : natLE 2 (a / 2 ^ 48) = natLE 1 (a / 2 ^ 48) ++ natLE 1 (a / 2 ^ 48 / 256 ^ 1) := natLE_add 1 1 _
  rw [h4, h5, show a / 2 ^ 32 / 256 ^ 1 = a / 2 ^ 40 by omega, h6, show a / 2 ^ 40 / 256 ^ 1 = a / 2 ^ 48 by omega, h7,
    show a / 2 ^ 48 / 256 ^ 1 = 0 by omega]
  simp [natLE]

theorem descriptor_fields {a : Nat} (rest : List Byte) {pasid rights fwp home : Nat} (hpasid : pasid < 1048576) (hrights : rights < 256)
    (hfwp : fwp < 256) (hhome : home < 256) (ha : a = pasid + rights * 2 ^ 32 + fwp * 2 ^ 40 + home * 2 ^ 48) :
    field (natLE 8 a ++ rest) 0 4 = pasid ∧ field (natLE 8 a ++ rest) 4 1 = rights ∧ field (natLE 8 a ++ rest) 5 1 = fwp ∧
      field (natLE 8 a ++ rest) 6 1 = home ∧ (natLE 8 a ++ rest).drop 7 = 0 :: rest := by
  rw [descriptor_split rest (by omega)]
  refine ⟨?_, ?_, ?_, ?_, ?_⟩
  · exact (field_natLE [] _ 0 4 a rfl).trans (by omega)
  · exact (field_natLE (natLE 4 a) _ 4 1 _ (natLE_length ..)).trans (by omega)
  · have h := field_natLE (natLE 4 a ++ natLE 1 (a / 2 ^ 32)) (natLE 1 (a / 2 ^ 48) ++ (0 :: rest)) 5 1 (a / 2 ^ 40) (by simp)
    rw [List.append_assoc] at h
    exact h.trans (by omega)
  · have h := field_natLE (natLE 4 a ++ (natLE 1 (a / 2 ^ 32) ++ natLE 1 (a / 2 ^ 40))) (0 :: rest) 6 1 (a / 2 ^ 48) (by simp)
    rw [List.append_assoc, List.append_assoc] at h
    exact h.trans (by omega)
  · simp [natLE]

/-- The state that opens a context: its descriptor's values, and counters and selectors of the context cleared. -/
def opened (s : State) (x pasid rights fwp home : Nat) : State :=
  { s with
    ctxs := Tab.set s.ctxs x { state := 1, pasid := pasid, mgmt := rights == 1, fw := rights == 2, fwPort := fwp, home := home },
    cntCtx := s.cntCtx.filter (fun p => p.1 / 8 != x),
    slices := s.slices.map (fun l => { l with incCtx := l.incCtx.filter (fun p => p.1 / 8 != x), fsel := Tab.erase l.fsel x }) }

theorem ctxOpen_run {s : State} {x pasid rights fwp home : Nat} (tag : Nat) (hx : x < 4096) (hpasid : pasid < 1048576) (hrights : rights < 3)
    (hfwp : fwp < 8) (hhome : home < 4) (harg : arg s 0 = x) (hport : rights = 2 ∨ fwp = 0)
    (hdesc : arg s 1 = pasid + rights * 2 ^ 32 + fwp * 2 ^ 40 + home * 2 ^ 48) (hzero : ∀ i, i < 7 → arg s (2 + i) = 0)
    (hstate : (s.ctx x).state = 0) : s.mgmtRun (captured s 1 tag) = { s := opened s x pasid rights fwp home } := by
  have hmask : arg s 0 &&& argMask 1 = arg s 0 := by
    rw [harg, show argMask 1 = 2 ^ 12 - 1 from rfl, Nat.and_two_pow_sub_one_eq_mod, Nat.mod_eq_of_lt hx]
  have hrest : (List.range 7).flatMap (fun i => natLE 8 (arg s (2 + i))) = List.replicate 56 0 := by
    rw [List.flatMap_congr (g := fun _ => natLE 8 0) fun i hi => by rw [hzero i (List.mem_range.mp hi)]]
    rfl
  have hbytes : (List.range 8).flatMap (fun i => natLE 8 (arg s (1 + i))) = natLE 8 (arg s 1) ++ List.replicate 56 0 := by
    rw [← hrest, show List.range 8 = 0 :: (List.range 7).map (· + 1) from rfl, List.flatMap_cons, List.flatMap_map]
    refine congrArg (natLE 8 (arg s 1) ++ ·) (List.flatMap_congr fun i _ => ?_)
    rw [show 1 + (i + 1) = 2 + i by omega]
  obtain ⟨hf0, hf4, hf5, hf6, hdrop⟩ := descriptor_fields (List.replicate 56 0) hpasid (by omega) (by omega) (by omega) hdesc
  have hgood : (decide (2 ^ 20 ≤ pasid) || decide (3 ≤ rights) || (if rights = 2 then decide (7 < fwp) else fwp != 0) || decide (3 < home) ||
      (0 :: List.replicate 56 (0 : Byte)).any (fun b => b != 0)) = false := by
    rw [decide_eq_false (by omega), decide_eq_false (by omega), decide_eq_false (by omega)]
    split
    · simp [show home ≤ 3 by omega]
    · simp [show fwp = 0 by omega, show home ≤ 3 by omega]
  rw [show s.mgmtRun (captured s 1 tag) = s.actCtxOpen (arg s 0) ((List.range 8).flatMap (fun i => natLE 8 (arg s (1 + i)))) from
    mgmtRun_captured s 1 tag hmask, hbytes, State.actCtxOpen, harg, Nat.mod_eq_of_lt hx, hf0, hf4, hf5, hf6, hdrop, hgood]
  exact if_neg (not_not.mpr hstate)

/-- Actions other than those of fences never wait for PS0. -/
theorem notHeld (s : State) (action tag : Nat) (h : action < 7 ∨ 0xA < action) : s.mgmtHeld (captured s action tag) = false := by
  rw [State.mgmtHeld, decide_eq_false (by simp only [captured]; omega), Bool.false_and]

/-- Settles O16: the run of each action, completed at an idle keeper. -/
theorem objectsAreMadeAndFreed : Obligations.ObjectsAreMadeAndFreed := by
  unfold Obligations.ObjectsAreMadeAndFreed
  intro s port tag x hidle hx
  refine ⟨fun pasid rights fwp home harg hport hdesc hzero hstate => ?_, fun r hmask hlo hhi hbase hopen hring hfree => ?_,
    fun r k hmask hring hfree => ?_, fun q r k hmask hlo hhi hbase hopen hhome hqueue hring hup hfree => ?_,
    fun q k hmask hqueue hempty hpkts hcmds => ?_⟩
  · refine completes_action hidle 1 tag [] rfl (by omega) (by omega) (notHeld s 1 _ (by omega))
      (ctxOpen_run tag.toNat x.isLt pasid.isLt rights.isLt fwp.isLt home.isLt harg hport hdesc hzero hstate) rfl rfl (by simp)
      fun k hacted => ⟨hacted, tab_getD_set_self .., fun y hy => tab_getD_set_other _ _ _ _ _ hy, rfl⟩
  · have hlt := lowestFree_lt hfree
    refine completes_action hidle 5 tag [r] rfl (by omega) (by omega) (notHeld s 5 _ (by omega))
      (cqCreate_run tag.toNat hx hmask hlo hhi hbase hopen hring hfree) rfl rfl (by simp [Config.queues] at *; omega)
      fun k hacted => ⟨hacted, rfl⟩
  · exact completes_action hidle 6 tag [] rfl (by omega) (by omega) (notHeld s 6 _ (by omega)) (cqDestroy_run tag.toNat hx hmask hring hfree)
      rfl rfl (by simp) fun k hacted => ⟨hacted, rfl⟩
  · have hlt := lowestFree_lt hfree
    refine completes_action hidle 3 tag [q] rfl (by omega) (by omega) (notHeld s 3 _ (by omega))
      (sqCreate_run tag.toNat hx hmask hlo hhi hbase hopen hhome hqueue hring hup hfree) rfl rfl (by simp [Config.queues] at *; omega)
      fun k hacted => ⟨hacted, rfl⟩
  · exact completes_action hidle 4 tag [] rfl (by omega) (by omega) (notHeld s 4 _ (by omega))
      (sqDestroy_run tag.toNat hx hmask hqueue hempty hpkts hcmds) rfl rfl (by simp) fun k hacted => ⟨hacted, rfl⟩

end Sys2Proof.Proofs.Objects
end

section
/-! Fence actions and allow lists (O17). -/

namespace Sys2Proof.Proofs.FenceActs

open Sys2Proof Sys2Proof.Machine Sys2Proof.Claims Sys2Proof.Laws Sys2Proof.Proofs.Basic Sys2Proof.Proofs.Layer Sys2Proof.Proofs.HostMem
  Sys2Proof.Proofs.Skew Sys2Proof.Proofs.Fences Sys2Proof.Proofs.Manage Sys2Proof.Proofs.Objects

/-! Argument words of several fields. -/

/-- A conjunction of words splits at any bit. -/
theorem and_add_mul (k lo hi m M : Nat) (hlo : lo < 2 ^ k) (hm : m < 2 ^ k) :
    (lo + 2 ^ k * hi) &&& (m + 2 ^ k * M) = (lo &&& m) + 2 ^ k * (hi &&& M) := by
  have hand : lo &&& m < 2 ^ k := Nat.and_lt_two_pow _ hm
  have hmod : ((lo + 2 ^ k * hi) &&& (m + 2 ^ k * M)) % 2 ^ k = lo &&& m := by
    rw [Nat.and_mod_two_pow, Nat.add_mul_mod_self_left, Nat.add_mul_mod_self_left, Nat.mod_eq_of_lt hlo, Nat.mod_eq_of_lt hm]
  have hdiv : ((lo + 2 ^ k * hi) &&& (m + 2 ^ k * M)) / 2 ^ k = hi &&& M := by
    rw [Nat.and_div_two_pow, Nat.add_mul_div_left _ _ (Nat.two_pow_pos k), Nat.add_mul_div_left _ _ (Nat.two_pow_pos k),
      Nat.div_eq_of_lt hlo, Nat.div_eq_of_lt hm, Nat.zero_add, Nat.zero_add]
  rw [← hmod, ← hdiv, Nat.mod_add_div]

theorem and_ones {a k : Nat} (h : a < 2 ^ k) : a &&& (2 ^ k - 1) = a := by
  rw [Nat.and_two_pow_sub_one_eq_mod, Nat.mod_eq_of_lt h]

theorem and_argMask_grant {a f x b : Nat} (hf : f < 2 ^ 18) (hx : x < 2 ^ 12) (hb : b < 4) (ha : a = f + x * 2 ^ 32 + b * 2 ^ 48) :
    a &&& argMask 9 = a := by
  have hword : a = f + 2 ^ 32 * (x + 2 ^ 16 * b) := by omega
  rw [hword, show argMask 9 = (2 ^ 18 - 1) + 2 ^ 32 * ((2 ^ 12 - 1) + 2 ^ 16 * (2 ^ 2 - 1)) from rfl,
    and_add_mul 32 _ _ _ _ (by omega) (by omega), and_add_mul 16 _ _ _ _ (by omega) (by omega), and_ones hf, and_ones hx, and_ones hb]

theorem and_argMask_revoke {a f x : Nat} (hf : f < 2 ^ 18) (hx : x < 2 ^ 12) (ha : a = f + x * 2 ^ 32) : a &&& argMask 0xA = a := by
  have hword : a = f + 2 ^ 32 * x := by omega
  rw [hword, show argMask 0xA = (2 ^ 18 - 1) + 2 ^ 32 * (2 ^ 12 - 1) from rfl, and_add_mul 32 _ _ _ _ (by omega) (by omega), and_ones hf,
    and_ones hx]

/-! Numbers within a write. -/

/-- A number within clean bytes just written is their field. -/
theorem num_devPut_field (s : State) (hs : s.inv) (a o n : Nat) (bs : List Byte) (h : o + n ≤ bs.length) :
    (s.devPut a bs).dev.num (a + o) n = field bs o n := by
  have hbytes : (s.dev.writeClean a bs).bytes (a + o) n = (bs.drop o).take n := by
    have hall := bytes_writeClean s.dev hs a bs
    conv_rhs => rw [← hall]
    refine List.ext_getElem (by simp [Mem.bytes]; omega) fun i hi hi' => ?_
    simp [Mem.bytes, Nat.add_assoc]
  rw [State.devPut, Mem.num, field, slice]
  dsimp only
  rw [hbytes]
  have hlen : ((bs.drop o).take n).length = n := by rw [List.length_take, List.length_drop]; omega
  rw [padTo, hlen, Nat.sub_self, List.replicate_zero, List.append_nil, List.take_of_length_le hlen.le]

/-! FENCE_ALLOC and FENCE_FREE. -/

/-- With PS0 up no action waits. -/
theorem notHeld_of_sliceUp {s : State} (h : s.sliceUp 0 = true) (action tag : Nat) : s.mgmtHeld (captured s action tag) = false := by
  rw [State.mgmtHeld, h, Bool.not_true, Bool.and_false]

theorem devPut_devOnly (s : State) (a : Nat) (bs : List Byte) : s.devPut a bs = { s with dev := (s.devPut a bs).dev } := rfl

/-- The record of a fence just allocated. -/
def freshRecord (value x : Nat) : List Byte := natLE 8 value ++ natLE 2 x ++ [1, 0] ++ List.replicate 52 0

theorem freshRecord_length (value x : Nat) : (freshRecord value x).length = 64 := by simp [freshRecord]

theorem freshRecord_split (value x : Nat) :
    freshRecord value x = natLE 8 value ++ (natLE 2 x ++ (natLE 1 1 ++ (natLE 1 0 ++ (natLE 4 0 ++ List.replicate 48 0)))) := by
  simp only [freshRecord, List.append_assoc]
  rfl

theorem fenceAlloc_run {s : State} {f : Nat} (tag : Nat) (hx : arg s 0 < 4096) (hopen : s.isOpen (arg s 0) = true)
    (hfree : firstFrom (fun f => s.fenceState f == 0) 0 Config.fences = some f) :
    s.mgmtRun (captured s 7 tag) = { s := s.devPut (fenceAddr f) (freshRecord (arg s 1) (arg s 0)), res := [f] } := by
  have hmask : arg s 0 &&& argMask 7 = arg s 0 := and_ones (k := 12) hx
  rw [show s.mgmtRun (captured s 7 tag) = s.actFenceAlloc (arg s 0) (arg s 1) from mgmtRun_captured s 7 tag hmask, State.actFenceAlloc,
    Nat.mod_eq_of_lt hx, hopen, hfree]
  rfl

theorem fenceAlloc_record {s : State} (hs : s.inv) (f value x : Nat) (hx : x < 4096) :
    (s.devPut (fenceAddr f) (freshRecord value x)).fenceState f = 1 ∧ (s.devPut (fenceAddr f) (freshRecord value x)).fenceOwner f = x ∧
    (s.devPut (fenceAddr f) (freshRecord value x)).fenceValue f = BitVec.ofNat 64 value ∧
    (s.devPut (fenceAddr f) (freshRecord value x)).fenceIgnored f = 0 := by
  have hnum := fun o n h => num_devPut_field s hs (fenceAddr f) o n (freshRecord value x) (by rw [freshRecord_length]; exact h)
  have h0 := field_natLE [] (natLE 2 x ++ (natLE 1 1 ++ (natLE 1 0 ++ (natLE 4 0 ++ List.replicate 48 0)))) 0 8 value rfl
  have h8 := field_natLE (natLE 8 value) (natLE 1 1 ++ (natLE 1 0 ++ (natLE 4 0 ++ List.replicate 48 0))) 8 2 x (natLE_length ..)
  have hA := field_natLE (natLE 8 value ++ natLE 2 x) (natLE 1 0 ++ (natLE 4 0 ++ List.replicate 48 0)) 0xA 1 1 (by simp)
  have hC := field_natLE (natLE 8 value ++ (natLE 2 x ++ (natLE 1 1 ++ natLE 1 0))) (List.replicate 48 0) 0xC 4 0 (by simp)
  simp only [List.append_assoc, List.nil_append, ← freshRecord_split] at h0 h8 hA hC
  refine ⟨?_, ?_, ?_, ?_⟩
  · rw [State.fenceState, hnum 0xA 1 (by omega), hA]
    rfl
  · rw [State.fenceOwner, hnum 8 2 (by omega), h8]
    omega
  · have h := hnum 0 8 (by omega)
    rw [Nat.add_zero] at h
    rw [State.fenceValue, h, h0]
    exact BitVec.eq_of_toNat_eq (by simp)
  · rw [State.fenceIgnored, hnum 0xC 4 (by omega), hC]
    rfl

/-- The state of a fence that is free again: its state and its orphan time are cleared. -/
def freed (s : State) (f : Nat) : State := (s.devPut (fenceAddr f + 0xA) (natLE 1 0)).devPut (fenceAddr f + 0x2C) (natLE 8 0)

theorem freed_devOnly (s : State) (f : Nat) : freed s f = { s with dev := (freed s f).dev } := rfl

theorem fenceFree_run {s : State} (tag : Nat) (hf : arg s 0 < 2 ^ 18) (hstate : s.fenceState (arg s 0) ≠ 0)
    (hnamed : s.fenceNamed (arg s 0) = false) : s.mgmtRun (captured s 8 tag) = { s := freed s (arg s 0) } := by
  have hmask : arg s 0 &&& argMask 8 = arg s 0 := and_ones (k := 18) hf
  rw [show s.mgmtRun (captured s 8 tag) = s.actFenceFree (arg s 0) from mgmtRun_captured s 8 tag hmask, State.actFenceFree,
    Nat.mod_eq_of_lt hf]
  exact if_neg (by simp [hstate, hnamed])

theorem fenceState_freed {s : State} (hs : s.inv) (f : Nat) : (freed s f).fenceState f = 0 := by
  rw [State.fenceState, freed, num_devPut_off _ _ _ _ _ (by omega), num_devPut_self s hs]
  rfl

theorem byte_freed_of_off (s : State) (f x : Nat) (hx : off (fenceAddr f) 64 x) : (freed s f).dev.byte x = s.dev.byte x := by
  unfold off at hx
  rw [freed, byte_devPut_of_off _ _ _ _ (by unfold off; rw [natLE_length]; omega),
    byte_devPut_of_off _ _ _ _ (by unfold off; rw [natLE_length]; omega)]

/-! FENCE_GRANT and FENCE_REVOKE. -/

/-- The grant entry of a context with rights `b`. -/
def grantWord (x b : Nat) : Nat := x + b * 2 ^ 12 + 2 ^ 14

/-- The fence with grant entry `i` rewritten. -/
def regranted (s : State) (f i word : Nat) : State := s.devPut (fenceAddr f + 0x10 + 4 * i) (natLE 4 word)

theorem regranted_devOnly (s : State) (f i word : Nat) : regranted s f i word = { s with dev := (regranted s f i word).dev } := rfl

/-- The rights bits of a grant. -/
def grantBits (w g : Bool) : Nat := (if w then 1 else 0) + (if g then 2 else 0)

theorem grantBits_lt (w g : Bool) : grantBits w g < 4 := by cases w <;> cases g <;> decide

theorem arg_grantBits (a : Nat) (w g : Bool) :
    a + (if w then 2 ^ 48 else 0) + (if g then 2 ^ 49 else 0) = a + grantBits w g * 2 ^ 48 := by
  unfold grantBits
  split_ifs <;> omega

theorem bitAt_grantWord {x : Nat} (hx : x < 4096) (w g : Bool) :
    bitAt (grantWord x (grantBits w g)) 12 = w ∧ bitAt (grantWord x (grantBits w g)) 13 = g := by
  have hbits : ∀ b, b < 4 → grantWord x b / 2 ^ 12 % 2 = b % 2 ∧ grantWord x b / 2 ^ 13 % 2 = b / 2 := fun b hb => by
    unfold grantWord
    omega
  obtain ⟨h12, h13⟩ := hbits _ (grantBits_lt w g)
  rw [bitAt, bitAt, h12, h13]
  cases w <;> cases g <;> exact ⟨rfl, rfl⟩

theorem fenceGrant_regranted {s : State} (hs : s.inv) (f i word j : Nat) (hword : word < 2 ^ 32) :
    (regranted s f i word).fenceGrant f j = if j = i then word else s.fenceGrant f j := by
  split
  · rename_i h
    rw [h, State.fenceGrant, regranted, num_devPut_self s hs]
    omega
  · rw [State.fenceGrant, regranted, num_devPut_off _ _ _ _ _ (by rw [natLE_length]; omega)]
    rfl

theorem fenceOwner_regranted (s : State) (f i word : Nat) : (regranted s f i word).fenceOwner f = s.fenceOwner f := by
  rw [State.fenceOwner, regranted, num_devPut_off _ _ _ _ _ (by omega)]
  rfl

/-- The entry that a grant takes: the context's own, else the first unused one. -/
def GrantSlot (s : State) (f x i : Nat) : Prop :=
  s.grantOf f x = some i ∨ (s.grantOf f x = none ∧ (List.range 7).find? (fun i => !bitAt (s.fenceGrant f i) 14) = some i)

theorem GrantSlot.lt_and_before {s : State} {f x i : Nat} (h : GrantSlot s f x i) :
    i < 7 ∧ ∀ j, j < i → (bitAt (s.fenceGrant f j) 14 && s.fenceGrant f j % 4096 == x) = false := by
  rcases h with h | ⟨hnone, h⟩
  · obtain ⟨-, hmem, hbefore⟩ := List.find?_range_eq_some.mp h
    exact ⟨List.mem_range.mp hmem, fun j hj => by simpa only [Bool.not_eq_true'] using hbefore j hj⟩
  · obtain ⟨-, hmem, -⟩ := List.find?_range_eq_some.mp h
    have hi := List.mem_range.mp hmem
    refine ⟨hi, fun j hj => ?_⟩
    simpa using List.find?_eq_none.mp hnone j (List.mem_range.mpr (by omega))

theorem fenceRight_regranted {s : State} (hs : s.inv) {f x i : Nat} (hslot : GrantSlot s f x i) (hx : x < 4096) (b : Nat) (hb : b < 4)
    (howner : s.fenceOwner f ≠ x) (bit : Nat) : (regranted s f i (grantWord x b)).fenceRight f x bit = bitAt (grantWord x b) bit := by
  obtain ⟨hi, hbefore⟩ := hslot.lt_and_before
  have hword : grantWord x b < 2 ^ 32 := by unfold grantWord; omega
  have hgrant := fun j => fenceGrant_regranted hs f i (grantWord x b) j hword
  have hself : (bitAt (grantWord x b) 14 && grantWord x b % 4096 == x) = true := by
    simp only [bitAt, grantWord, Bool.and_eq_true, beq_iff_eq]
    omega
  have hof : (regranted s f i (grantWord x b)).grantOf f x = some i := by
    refine List.find?_range_eq_some.mpr ⟨?_, List.mem_range.mpr hi, fun j hj => ?_⟩
    · rw [hgrant, if_pos rfl]
      exact hself
    · rw [hgrant, if_neg (by omega), hbefore j hj]
      rfl
  rw [State.fenceRight, fenceOwner_regranted, hof, beq_eq_false_iff_ne.mpr howner, Bool.false_or]
  dsimp only
  rw [hgrant, if_pos rfl]

theorem fenceGrant_run {s : State} {f x i b : Nat} (tag : Nat) (hf : f < 2 ^ 18) (hx : x < 2 ^ 12) (hb : b < 4)
    (harg : arg s 0 = f + x * 2 ^ 32 + b * 2 ^ 48) (hstate : s.fenceState f = 1) (hopen : s.isOpen x = true) (howner : s.fenceOwner f ≠ x)
    (hslot : GrantSlot s f x i) : s.mgmtRun (captured s 9 tag) = { s := regranted s f i (grantWord x b) } := by
  have hfence : arg s 0 % 2 ^ 18 = f := by omega
  have hctx : bits (arg s 0) 43 32 = x := by unfold bits; omega
  have hbits : bits (arg s 0) 49 48 = b := by unfold bits; omega
  rw [show s.mgmtRun (captured s 9 tag) = s.actFenceGrant (arg s 0) from mgmtRun_captured s 9 tag (and_argMask_grant hf hx hb harg),
    State.actFenceGrant, hfence, hctx, hbits, if_neg (by simp [hstate, hopen]), if_neg howner]
  rcases hslot with h | ⟨hnone, h⟩
  · rw [h]
    rfl
  · rw [hnone]
    dsimp only
    rw [h]
    rfl

/-- Entries of a context's queues that name a fence are unconfigured. -/
def unconfigured (l : Tab SQ) (f x : Nat) : Tab SQ :=
  l.map (fun p => (p.1, if p.2.ctx = x then
    { p.2 with slots := p.2.slots.map (fun e => (e.1, if e.2.fence = f then { e.2 with valid := false } else e.2)) } else p.2))

theorem invalid_of_mem_unconfigured {l : Tab SQ} {f x : Nat} {p : Nat × SQ} (hp : p ∈ unconfigured l f x) (hctx : p.2.ctx = x) :
    ∀ e ∈ p.2.slots, e.2.fence = f → e.2.valid = false := by
  obtain ⟨q, -, rfl⟩ := List.mem_map.mp hp
  have hq : q.2.ctx = x := by
    by_contra hne
    simp only [if_neg hne] at hctx
    exact hne hctx
  intro e he hfence
  simp only [hq, if_true] at he
  obtain ⟨d, -, rfl⟩ := List.mem_map.mp he
  by_cases hd : d.2.fence = f
  · simp [hd]
  · simp only [if_neg hd] at hfence
    exact absurd hfence hd

theorem fenceRevoke_run {s : State} {f x i : Nat} (tag : Nat) (hf : f < 2 ^ 18) (hx : x < 2 ^ 12) (harg : arg s 0 = f + x * 2 ^ 32)
    (hstate : s.fenceState f ≠ 0) (hgrant : s.grantOf f x = some i) :
    s.mgmtRun (captured s 0xA tag) = { s := { regranted s f i 0 with sqs := unconfigured s.sqs f x } } := by
  have hfence : arg s 0 % 2 ^ 18 = f := by omega
  have hctx : bits (arg s 0) 43 32 = x := by unfold bits; omega
  rw [show s.mgmtRun (captured s 0xA tag) = s.actFenceRevoke (arg s 0) from mgmtRun_captured s 0xA tag (and_argMask_revoke hf hx harg),
    State.actFenceRevoke, hfence, hctx, hgrant]
  exact if_neg hstate

/-! FW_SET. -/

theorem fwSet_run {s : State} {l : FwList} (tag : Nat) (hp : arg s 0 < 8) (halign : arg s 1 % 64 = 0) (hin : arg s 1 + 512 ≤ Config.devBytes)
    (hclean : ∀ i, i < 512 → s.dev.sector ((arg s 1 + i) / 32) = 0) (himage : fwImage (s.dev.bytes (arg s 1) 512) = some l) :
    s.mgmtRun (captured s 0xB tag) = { s := { s with fw := Tab.set s.fw (arg s 0) { (Tab.getD s.fw (arg s 0) {}) with list := l } } } := by
  have hmask : arg s 0 &&& argMask 0xB = arg s 0 := and_ones (k := 3) hp
  have hno : anyPoison (s.dev.read (arg s 1) 512) = false := by
    by_contra h
    obtain ⟨j, hj, hs⟩ := (anyPoison_read _ _ _).mp (by simpa using h)
    exact hs (hclean j hj)
  rw [show s.mgmtRun (captured s 0xB tag) = s.actFwSet (arg s 0) (arg s 1) from mgmtRun_captured s 0xB tag hmask, State.actFwSet,
    inDevice, decide_eq_true hin, if_neg (by simp [halign])]
  dsimp only
  rw [hno, dataOf_read, Nat.mod_eq_of_lt hp]
  simp only [Bool.false_eq_true, if_false]
  rw [himage]

/-! The completed actions. -/

section
variable {s : State} {port : Fin 4} (tag : BitVec 16) (hinv : s.inv) (hidle : KeeperIdle s port.val)
include hidle

theorem fwSetCompletes {l : FwList} (hp : arg s 0 < 8) (halign : arg s 1 % 64 = 0) (hin : arg s 1 + 512 ≤ Config.devBytes)
    (hclean : ∀ i, i < 512 → s.dev.sector ((arg s 1 + i) / 32) = 0) (himage : fwImage (s.dev.bytes (arg s 1) 512) = some l) :
    Completes (.fwSet port tag) s (fun t => Acted s t 0xB 0 0 tag ∧
      t = { s with kpr := t.kpr, fw := Tab.set s.fw (arg s 0) { (Tab.getD s.fw (arg s 0) {}) with list := l } }) :=
  completes_action hidle 0xB tag [] rfl (by omega) (by omega) (notHeld s 0xB _ (by omega)) (fwSet_run tag.toNat hp halign hin hclean himage)
    rfl rfl (by simp) fun k hacted => ⟨hacted, rfl⟩

variable (hup : s.sliceUp 0 = true)
include hup hinv

theorem fenceAllocCompletes {f : Nat} (hx : arg s 0 < 4096) (hopen : s.isOpen (arg s 0) = true)
    (hfree : firstFrom (fun f => s.fenceState f == 0) 0 Config.fences = some f) :
    Completes (.fenceAlloc port tag) s (fun t => Acted s t 7 0 f tag ∧ t.fenceState f = 1 ∧ t.fenceOwner f = arg s 0 ∧
      t.fenceValue f = BitVec.ofNat 64 (arg s 1) ∧ t.fenceIgnored f = 0 ∧ sameBytes (off (fenceAddr f) 64) s t ∧
      t = { s with kpr := t.kpr, dev := t.dev }) := by
  obtain ⟨-, -, hlt⟩ := lt_of_firstFrom hfree
  obtain ⟨hst, how, hval, hign⟩ := fenceAlloc_record hinv f (arg s 1) (arg s 0) hx
  have hf : f < 2 ^ 64 := by simp only [Config.fences] at hlt; omega
  have hrun := fenceAlloc_run tag.toNat hx hopen hfree
  have hoff : sameBytes (off (fenceAddr f) 64) s (s.devPut (fenceAddr f) (freshRecord (arg s 1) (arg s 0))) := fun y hy =>
    byte_devPut_of_off s _ _ _ (by rw [freshRecord_length]; exact hy)
  have hdev := devPut_devOnly s (fenceAddr f) (freshRecord (arg s 1) (arg s 0))
  generalize s.devPut (fenceAddr f) (freshRecord (arg s 1) (arg s 0)) = u at *
  exact completes_action hidle 7 tag [f] rfl (by omega) (by omega) (notHeld_of_sliceUp hup 7 _) hrun (by rw [hdev]) (by rw [hdev]) hf
    fun k hacted => ⟨hacted, hst, how, hval, hign, hoff, by rw [hdev]⟩

theorem fenceFreeCompletes (hf : arg s 0 < 2 ^ 18) (hstate : s.fenceState (arg s 0) ≠ 0) (hnamed : s.fenceNamed (arg s 0) = false) :
    Completes (.fenceFree port tag) s (fun t => Acted s t 8 0 0 tag ∧ t.fenceState (arg s 0) = 0 ∧
      sameBytes (off (fenceAddr (arg s 0)) 64) s t ∧ t = { s with kpr := t.kpr, dev := t.dev }) := by
  have hrun := fenceFree_run tag.toNat hf hstate hnamed
  have hst := fenceState_freed hinv (arg s 0)
  have hoff := byte_freed_of_off s (arg s 0)
  have hdev := freed_devOnly s (arg s 0)
  generalize freed s (arg s 0) = u at *
  exact completes_action hidle 8 tag [] rfl (by omega) (by omega) (notHeld_of_sliceUp hup 8 _) hrun (by rw [hdev]) (by rw [hdev]) (by simp)
    fun k hacted => ⟨hacted, hst, hoff, by rw [hdev]⟩

theorem fenceGrantCompletes {f : Fin 262144} {x : Fin 4096} {w g : Bool} {i : Nat}
    (harg : arg s 0 = f.val + x.val * 2 ^ 32 + (if w then 2 ^ 48 else 0) + (if g then 2 ^ 49 else 0)) (hstate : s.fenceState f.val = 1)
    (hopen : s.isOpen x.val = true) (howner : s.fenceOwner f.val ≠ x.val) (hslot : GrantSlot s f.val x.val i) :
    Completes (.fenceGrant port tag) s (fun t => Acted s t 9 0 0 tag ∧ t.fenceRight f.val x.val 12 = w ∧ t.fenceRight f.val x.val 13 = g ∧
      sameBytes (off (fenceAddr f.val + 0x10 + 4 * i) 4) s t ∧ t = { s with kpr := t.kpr, dev := t.dev }) := by
  have hrun := fenceGrant_run tag.toNat f.isLt x.isLt (grantBits_lt w g) (harg.trans (arg_grantBits ..)) hstate hopen howner hslot
  obtain ⟨hwait, hsignal⟩ := bitAt_grantWord x.isLt w g
  have hright := fenceRight_regranted hinv hslot x.isLt _ (grantBits_lt w g) howner
  have h12 := (hright 12).trans hwait
  have h13 := (hright 13).trans hsignal
  have hoff : sameBytes (off (fenceAddr f.val + 0x10 + 4 * i) 4) s (regranted s f.val i (grantWord x.val (grantBits w g))) := fun y hy =>
    byte_devPut_of_off s _ _ _ (by rw [natLE_length]; exact hy)
  have hdev := regranted_devOnly s f.val i (grantWord x.val (grantBits w g))
  generalize regranted s f.val i (grantWord x.val (grantBits w g)) = u at *
  exact completes_action hidle 9 tag [] rfl (by omega) (by omega) (notHeld_of_sliceUp hup 9 _) hrun (by rw [hdev]) (by rw [hdev]) (by simp)
    fun k hacted => ⟨hacted, h12, h13, hoff, by rw [hdev]⟩

theorem fenceRevokeCompletes {f : Fin 262144} {x : Fin 4096} {i : Nat} (harg : arg s 0 = f.val + x.val * 2 ^ 32)
    (hstate : s.fenceState f.val ≠ 0) (hgrant : s.grantOf f.val x.val = some i) :
    Completes (.fenceRevoke port tag) s (fun t => Acted s t 0xA 0 0 tag ∧ t.fenceGrant f.val i = 0 ∧
      sameBytes (off (fenceAddr f.val + 0x10 + 4 * i) 4) s t ∧
      (∀ p ∈ t.sqs, p.2.ctx = x.val → ∀ e ∈ p.2.slots, e.2.fence = f.val → e.2.valid = false) ∧
      t = { s with kpr := t.kpr, dev := t.dev, sqs := t.sqs }) := by
  have hself := (fenceGrant_regranted hinv f.val i 0 i (by omega)).trans (if_pos rfl)
  exact completes_action hidle 0xA tag [] rfl (by omega) (by omega) (notHeld_of_sliceUp hup 0xA _)
    (fenceRevoke_run tag.toNat f.isLt x.isLt harg hstate hgrant) rfl rfl (by simp)
    fun k hacted => ⟨hacted, hself, fun y hy => byte_devPut_of_off s _ _ _ (by rw [natLE_length]; exact hy),
      fun p hp hctx => invalid_of_mem_unconfigured hp hctx, rfl⟩

end

/-- Settles O17: the run of each action, completed at an idle keeper, and the record read back. -/
theorem fencesAndFirewallAreSet : Obligations.FencesAndFirewallAreSet := by
  unfold Obligations.FencesAndFirewallAreSet
  intro s port tag hinv hidle
  exact ⟨fun f hup => fenceAllocCompletes tag hinv hidle hup, fun hup => fenceFreeCompletes tag hinv hidle hup,
    fun f x w g i hup => fenceGrantCompletes tag hinv hidle hup, fun f x i hup => fenceRevokeCompletes tag hinv hidle hup,
    fun l => fwSetCompletes tag hidle⟩

end Sys2Proof.Proofs.FenceActs
end

section
/-! Teardowns (O18). -/

namespace Sys2Proof.Proofs.Teardown

open Sys2Proof Sys2Proof.Machine Sys2Proof.Claims Sys2Proof.Laws Sys2Proof.Proofs.Basic Sys2Proof.Proofs.Layer Sys2Proof.Proofs.Window
  Sys2Proof.Proofs.Manage

/-! The beginning. -/

/-- What a revocation leaves alone besides its own context: contexts, memory, tables, the action in progress. -/
def KeepsCtxs (s t : State) : Prop := t.ctxs = s.ctxs ∧ t.dev = s.dev ∧ t.tables = s.tables ∧ t.mgmtBusy = s.mgmtBusy

theorem KeepsCtxs.refl (s : State) : KeepsCtxs s s := ⟨rfl, rfl, rfl, rfl⟩

theorem KeepsCtxs.trans {s t u : State} (h1 : KeepsCtxs s t) (h2 : KeepsCtxs t u) : KeepsCtxs s u := by
  obtain ⟨hc, hd, ht, hb⟩ := h1
  obtain ⟨hc', hd', ht', hb'⟩ := h2
  exact ⟨hc'.trans hc, hd'.trans hd, ht'.trans ht, hb'.trans hb⟩

theorem killPkts_keepsCtxs (s : State) (x : Nat) : KeepsCtxs s (s.killPkts x) := by
  refine foldl_rel KeepsCtxs .refl .trans _ (fun s p => ?_) _ s
  exact (foldl_rel KeepsCtxs .refl .trans _ (fun s k => by simp [KeepsCtxs, State.addDone]) _ s).trans ⟨rfl, rfl, rfl, rfl⟩

theorem dropWrites_keepsCtxs (s : State) (keep : HostWr → Bool) : KeepsCtxs s (s.dropWrites keep) := by
  have hsettle : ∀ t : State, KeepsCtxs t t.flushSettle.invalSettle := fun t => by
    obtain ⟨o, l, f, w, hflush⟩ := flushSettle_eq t
    obtain ⟨o', v, hinval⟩ := invalSettle_eq t.flushSettle
    rw [hinval, hflush]
    exact .refl t
  exact KeepsCtxs.trans ⟨rfl, rfl, rfl, rfl⟩ (hsettle _)

/-- A context that is being killed. -/
def revoked (h : Option Nat) (ended : Nat) (handles : List Nat) (c : Ctx) : Ctx :=
  { c with state := 2, bindings := [], kill := some { h := h, ended := ended, handles := handles } }

theorem killStart_eq (s : State) (x : Nat) (h : Option Nat) : ∃ keep vats ended handles, s.killStart x h =
    ({ (s.killPkts x).dropWrites keep with vats := vats } : State).modCtx x (revoked h ended handles) := ⟨_, _, _, _, rfl⟩

theorem ctx_modCtx_self (s : State) (x : Nat) (f : Ctx → Ctx) : (s.modCtx x f).ctx x = f (s.ctx x) := tab_getD_set_self ..

theorem ctx_modCtx_of_ne (s : State) {x y : Nat} (f : Ctx → Ctx) (h : y ≠ x) : (s.modCtx x f).ctx y = s.ctx y :=
  tab_getD_set_other _ _ _ _ _ h

/-- What the beginning of a teardown leaves. -/
def Begun (s t : State) (x : Nat) : Prop :=
  (t.ctx x).state = 2 ∧ (t.ctx x).bindings = [] ∧ ((t.ctx x).kill.map Kill.step) = some 1 ∧ (∀ y, y ≠ x → t.ctx y = s.ctx y) ∧
  t.dev = s.dev ∧ t.tables = s.tables ∧ t.mgmtBusy = s.mgmtBusy

/-- A revocation: the context is being killed and has no bindings, and its teardown stands at step 1. -/
theorem killStart_begins (s : State) (x : Nat) (h : Option Nat) : Begun s (s.killStart x h) x := by
  obtain ⟨keep, vats, ended, handles, heq⟩ := killStart_eq s x h
  obtain ⟨hctxs, hdev, htables, hbusy⟩ := (killPkts_keepsCtxs s x).trans (dropWrites_keepsCtxs _ keep)
  have hother : ∀ y, y ≠ x → (s.killStart x h).ctx y = s.ctx y := fun y hy => by
    rw [heq, ctx_modCtx_of_ne _ _ hy, State.ctx, hctxs]
    rfl
  rw [Begun, heq, ctx_modCtx_self]
  exact ⟨rfl, rfl, rfl, heq ▸ hother, hdev, htables, hbusy⟩

theorem exec_ctxKill {s : State} {port : Fin 4} {x : Fin 4096} (tag : BitVec 16) (hidle : KeeperIdle s port.val) (harg : arg s 0 = x.val)
    (hopen : s.isOpen x.val = true) :
    exec (.ctxKill port tag) s = .next (({ s with mgmtBusy := some (captured s 2 tag.toNat) } : State).killStart x.val none) := by
  obtain ⟨hport, hready, hq, hbusy⟩ := hidle
  have hmask : (captured s 2 tag.toNat).args.getD 0 0 &&& argMask 2 = (captured s 2 tag.toNat).args.getD 0 0 := by
    rw [captured_arg s 2 _ 0 (by omega), harg]
    exact FenceActs.and_ones (k := 12) x.isLt
  have hself : ({ s with mgmtQ := [], mgmtBusy := some (captured s 2 tag.toNat) } : State) =
      { s with mgmtBusy := some (captured s 2 tag.toNat) } := by rw [← hq]
  rw [show exec (.ctxKill port tag) s = .next (s.mgmtWrite port.val 2 tag.toNat) from rfl, State.mgmtWrite, hport, hready, if_neg (by simp), hq,
    hbusy, if_neg (by simp)]
  dsimp only
  rw [← captured, List.nil_append, State.mgmtDrain]
  dsimp only
  rw [if_neg (by simp [State.mgmtHeld, captured]), if_pos ⟨rfl, hmask⟩, captured_arg s 2 _ 0 (by omega), harg, hself]
  exact congrArg _ (if_pos hopen)

theorem killBeginsTeardown : Claims.KillBeginsTeardown := by
  intro s x hopen
  refine ⟨fun port tag hidle harg => ?_, fun h c hrun hready hctx => ?_⟩
  · have hexec := exec_ctxKill tag hidle harg hopen
    obtain ⟨hst, hbind, hkill, hother, hdev, htables, hbusy⟩ :=
      killStart_begins { s with mgmtBusy := some (captured s 2 tag.toNat) } x.val none
    generalize ({ s with mgmtBusy := some (captured s 2 tag.toNat) } : State).killStart x.val none = t at *
    exact completes_of_exec hexec ⟨hst, hbind, hkill, hother, hdev, htables, by rw [hbusy]; rfl⟩
  · have hexec : exec (.contextKill h) s = .next ((s.modCmd h (fun d => { d with phase := .stage 1 })).killStart x.val (some h)) := by
      rw [show exec (.contextKill h) s = execContextKill h s from rfl, execContextKill, hrun]
      dsimp only
      rw [if_neg (by simp [hready]), hctx, hopen]
      rfl
    obtain ⟨hst, hbind, hkill, hother, hdev, htables, -⟩ := killStart_begins (s.modCmd h (fun d => { d with phase := .stage 1 })) x.val (some h)
    generalize (s.modCmd h (fun d => { d with phase := .stage 1 })).killStart x.val (some h) = t at *
    exact completes_of_exec hexec ⟨hst, hbind, hkill, hother, hdev, htables⟩

/-! The steps (Table 11-11). -/

theorem exec_killStepDone {s : State} {x : Fin 4096} {k : Kill} (hk : (s.ctx x.val).kill = some k) :
    exec (.killStepDone x) s = .next (s.killStep x.val k) := by
  rw [show exec (.killStepDone x) s = execKillStepDone x s from rfl, execKillStepDone, hk]

theorem kill_killGo {s : State} {x : Nat} {k : Kill} (hk : (s.ctx x).kill = some k) (n : Nat) :
    ((s.killGo x n).ctx x).kill = some { k with step := n } := by
  rw [State.killGo, State.modKill, ctx_modCtx_self, hk]
  rfl

theorem killStepsAdvance : Claims.KillStepsAdvance := by
  intro s x k hk
  have hexec := exec_killStepDone hk
  refine ⟨fun hstep => ?_, fun hstep hwr => ?_, fun hstep hpeers => ?_⟩
  · have hgo : s.killStep x.val k = s.killGo x.val 2 := by
      rw [State.killStep, hstep]
      rfl
    rw [hgo] at hexec
    exact completes_of_exec hexec ⟨kill_killGo hk 2, rfl⟩
  · have hgo : s.killStep x.val k = s.killGo x.val 5 := by
      rw [State.killStep, hstep]
      exact if_neg (by simpa using hwr)
    rw [hgo] at hexec
    exact completes_of_exec hexec ⟨kill_killGo hk 5, rfl⟩
  · have hnone : s.peerReqs.any (fun q => k.handles.contains q.h && presentIn s.self s.declared q.peer) = false := by
      rw [List.any_eq_false]
      intro r hr hand
      obtain ⟨hmem, hpresent⟩ := Bool.and_eq_true_iff.mp hand
      rw [hpeers r hr (by simpa using hmem)] at hpresent
      exact Bool.false_ne_true hpresent
    have hgo : s.killStep x.val k = ({ s with peerReqs := s.peerReqs.filter (fun q => !k.handles.contains q.h) } : State).freeCtx x.val := by
      rw [State.killStep, hstep]
      exact if_neg (by rw [hnone]; exact Bool.false_ne_true)
    rw [hgo] at hexec
    refine completes_of_exec hexec ⟨?_, fun p hp => ?_, fun p hp => ?_, fun y hy => ctx_modCtx_of_ne _ _ hy, fun r => ?_, rfl⟩
    · rw [State.freeCtx, ctx_modCtx_self]
    · simpa using (List.mem_filter.mp hp).2
    · simpa using (List.mem_filter.mp hp).2
    · exact List.mem_filter.trans (and_congr_right fun _ => by rw [Bool.not_eq_true', List.contains_eq_mem, decide_eq_false_iff_not])

/-- Settles O18: how a teardown begins and what its steps give way to. -/
theorem contextsAreTornDown : Obligations.ContextsAreTornDown := ⟨killBeginsTeardown, killStepsAdvance⟩

end Sys2Proof.Proofs.Teardown
end

section
/-! Packets are fetched and read again (O21). -/

namespace Sys2Proof.Proofs.Fetch

open Sys2Proof Sys2Proof.Machine Sys2Proof.Claims Sys2Proof.Laws Sys2Proof.Proofs.Basic Sys2Proof.Proofs.Layer

theorem get?_modSq (s : State) (q j : Nat) (f : SQ → SQ) :
    Tab.get? (s.modSq q f).sqs j = if j = q then (Tab.get? s.sqs q).map f else Tab.get? s.sqs j := tab_get?_modify ..

/-! A slot that is taken. -/

/-- Stepping an entry's value leaves the counters of the queue. -/
theorem stepSlot_counts (k : SQ) (e : Nat) : (stepSlot k e).fetch = k.fetch ∧ (stepSlot k e).seq = k.seq ∧ (stepSlot k e).tail = k.tail := by
  unfold stepSlot
  split <;> exact ⟨rfl, rfl, rfl⟩

theorem captured_counts (k : SQ) (w g : Nat) :
    (k.captured w g).fetch = k.fetch ∧ (k.captured w g).seq = k.seq ∧ (k.captured w g).tail = k.tail := by
  unfold SQ.captured
  split
  · exact stepSlot_counts k w
  · obtain ⟨hf, hs, ht⟩ := stepSlot_counts (stepSlot k w) g
    obtain ⟨hf', hs', ht'⟩ := stepSlot_counts k w
    exact ⟨hf.trans hf', hs.trans hs', ht.trans ht'⟩

/-- Validation keeps the packet's bytes and the counters of its queue. -/
theorem validated_keeps (s : State) (k : SQ) (p e : List Byte) :
    (s.validated k p e).1.bytes = p ∧ (s.validated k p e).1.ext = e ∧ (s.validated k p e).2.fetch = k.fetch ∧
      (s.validated k p e).2.seq = k.seq ∧ (s.validated k p e).2.tail = k.tail := by
  unfold State.validated
  dsimp only
  split
  · exact ⟨rfl, rfl, rfl, rfl, rfl⟩
  · split
    · exact ⟨rfl, rfl, rfl, rfl, rfl⟩
    · exact ⟨rfl, rfl, captured_counts ..⟩

/-- The queue after its slot was taken: one packet more, its counters on. -/
def Taken (k k' : SQ) (r : List PB × List PB) : Prop :=
  k'.fetch = k.fetch + (if r.2.isEmpty then 1 else 2) ∧ k'.seq = (k.seq + 1) % 65536 ∧ k'.tail = k.tail ∧ k'.reread = none

theorem takeSlot_takes (s : State) (q : Nat) (k : SQ) (r : List PB × List PB) :
    (∃ k' p, Tab.get? (s.takeSlot q k r).sqs q = some k' ∧ k'.pkts = k.pkts ++ [p] ∧ p.bytes = dataOf r.1 ∧ p.ext = dataOf r.2 ∧ Taken k k' r) ∧
    (∀ j, j ≠ q → Tab.get? (s.takeSlot q k r).sqs j = Tab.get? s.sqs j) ∧ (s.takeSlot q k r).dev = s.dev ∧ (s.takeSlot q k r).cmds = s.cmds := by
  obtain ⟨hbytes, hext, hfetch, hseq, htail⟩ := validated_keeps s k (dataOf r.1) (dataOf r.2)
  refine ⟨⟨_, _, tab_get?_set_self .., rfl, hbytes, hext, ?_, ?_, htail, rfl⟩, fun j hj => ?_, rfl, rfl⟩
  · simp only [SQ.consume, hfetch]
    cases r.2.isEmpty <;> rfl
  · simp only [SQ.consume, hseq]
  · rw [State.takeSlot, tab_get?_set_other _ _ _ _ hj]
    exact (get?_modSq ..).trans (if_neg hj)

/-! A slot that is left for a re-read. -/

/-- The queue whose slot is read afresh. -/
def afresh (k : SQ) : SQ := { k with denied := [], issued := none }

theorem get?_readAfresh {s : State} {q : Nat} {k : SQ} (hk : Tab.get? s.sqs q = some k) :
    Tab.get? (s.readAfresh q k).sqs q = some (afresh k) :=
  (get?_modSq (s.release (.fetch q)) q q afresh).trans ((if_pos rfl).trans (congrArg (Option.map afresh) hk))

/-- A queue read afresh that then changes by `f`: nothing of memory or commands changes. -/
theorem readAfresh_modSq {s : State} {q : Nat} {k : SQ} (hk : Tab.get? s.sqs q = some k) (f : SQ → SQ) :
    Tab.get? ((s.readAfresh q k).modSq q f).sqs q = some (f (afresh k)) ∧ ((s.readAfresh q k).modSq q f).dev = s.dev ∧
      ((s.readAfresh q k).modSq q f).cmds = s.cmds ∧ ((s.readAfresh q k).modSq q f).nextCmd = s.nextCmd := by
  refine ⟨?_, rfl, rfl, rfl⟩
  rw [get?_modSq, if_pos rfl, get?_readAfresh hk]
  rfl

section
variable {s : State} {q : Nat} {k : SQ} (hk : Tab.get? s.sqs q = some k) (hmay : s.mayFetch k = true) (hneeds : (s.slotRead q k).needs = [])
include hk hmay hneeds

theorem exec_packetFetch (hreread : k.reread = none) : exec (.packetFetch q) s = .next (
    if k.readFault (s.slotRead q k).val = 0 then s.takeSlot q k (s.slotRead q k).val
    else (s.readAfresh q k).modSq q (fun d => { d with reread := some (0, s.issuedAt k) })) := by
  rw [show exec (.packetFetch q) s = execPacketFetch q s from rfl, execPacketFetch, hk]
  dsimp only
  rw [hmay, hreread, hneeds]
  exact (apply_ite Host.Outcome.next _ _ _).symm

theorem exec_packetReread {n at' : Nat} (hreread : k.reread = some (n, at')) (htick : at' + 64 ≤ (s.slc k.slice).tick) :
    exec (.packetReread q) s = .next (
      if k.readFault (s.slotRead q k).val = 0 then s.takeSlot q k (s.slotRead q k).val
      else if n + 1 < 8 then (s.readAfresh q k).modSq q (fun d => { d with reread := some (n + 1, s.issuedAt k) })
      else s.doorbellAhead q k (s.slotRead q k).val (k.readFault (s.slotRead q k).val)) := by
  rw [show exec (.packetReread q) s = execPacketReread q s from rfl, execPacketReread, hk]
  dsimp only
  rw [hreread]
  dsimp only
  rw [hmay, decide_eq_false (by omega), hneeds, apply_ite Host.Outcome.next, apply_ite Host.Outcome.next]
  rfl

end

theorem packetFetchConsumesSlot : Claims.PacketFetchConsumesSlot := by
  intro s q k hk hmay hreread hneeds
  have hexec := exec_packetFetch hk hmay hneeds hreread
  refine ⟨fun hgood => ?_, fun hbad => ?_⟩
  · rw [if_pos hgood] at hexec
    obtain ⟨⟨k', p, hget, hpkts, hbytes, hext, hfetch, hseq, htail, -⟩, hother, hdev, hcmds⟩ := takeSlot_takes s q k (s.slotRead q k).val
    exact completes_of_exec hexec ⟨k', p, hget, hpkts, hbytes, hext, hfetch, hseq, htail, hother, hdev, hcmds⟩
  · rw [if_neg hbad] at hexec
    obtain ⟨hget, hdev, hcmds, -⟩ := readAfresh_modSq hk (fun d => { d with reread := some (0, s.issuedAt k) })
    exact completes_of_exec hexec ⟨_, hget, rfl, rfl, rfl, hdev, hcmds⟩

/-! The eighth re-read. -/

theorem slotEvent_keeps (s : State) (q : Nat) (k : SQ) (r : List PB × List PB) :
    (s.slotEvent q k r).sqs = s.sqs ∧ (s.slotEvent q k r).dev = s.dev ∧ (s.slotEvent q k r).nextCmd = s.nextCmd ∧
      (s.slotEvent q k r).cmds = s.cmds := by
  unfold State.slotEvent
  split <;> simp

/-- A packet that ends without admission: its record waits. -/
theorem done_addDone (s : State) (n i : Nat) (c : Cmd) :
    Done ((s.countSeq n i).addDone c) s.nextCmd { c with phase := .done, doneAt := s.nextCmd } := by
  have hnext : (s.countSeq n i).nextCmd = s.nextCmd := by simp
  rw [State.addDone, hnext]
  exact ⟨tab_get?_set_self .., rfl⟩

/-- The command that a doorbell ahead of its packet ends as. -/
def aheadCmd (s : State) (q : Nat) (k : SQ) (detail : Nat) : Cmd :=
  { slice := k.slice, ctx := k.ctx, q := q, cq := k.cq, seq := k.seq, opcode := 0, pkt := [], ext := [], fw := s.fwOf k.ctx, status := 0x15,
    detail := detail }

/-- The queue that stops. -/
def stopQueue (k : SQ) : SQ := { k with stopped := true, reread := none }

theorem doorbellAhead_eq (s : State) (q : Nat) (k : SQ) (r : List PB × List PB) (detail : Nat) : s.doorbellAhead q k r detail =
    ((((s.slotEvent q k r).readAfresh q k).modSq q stopQueue).countSeq k.slice 2).addDone (aheadCmd s q k detail) := rfl

theorem doorbellAhead_ends {s : State} {q : Nat} {k : SQ} (hk : Tab.get? s.sqs q = some k) (r : List PB × List PB) (detail : Nat) :
    (∃ k', Tab.get? (s.doorbellAhead q k r detail).sqs q = some k' ∧ k'.fetch = k.fetch ∧ k'.stopped = true ∧ k'.reread = none) ∧
    (s.doorbellAhead q k r detail).dev = s.dev ∧ ∃ d, Done (s.doorbellAhead q k r detail) s.nextCmd d ∧ d.status = 0x15 ∧ d.detail = detail ∧
      d.q = q ∧ d.seq = k.seq := by
  obtain ⟨hsqs, hdev, hnext, -⟩ := slotEvent_keeps s q k r
  obtain ⟨hget, hdev', -, hnext'⟩ := readAfresh_modSq (s := s.slotEvent q k r) (by rw [hsqs]; exact hk) stopQueue
  rw [doorbellAhead_eq]
  generalize ((s.slotEvent q k r).readAfresh q k).modSq q stopQueue = t at *
  have hdone := done_addDone t k.slice 2 (aheadCmd s q k detail)
  rw [hnext', hnext] at hdone
  exact ⟨⟨_, hget, rfl, rfl, rfl⟩, hdev'.trans hdev, _, hdone, rfl, rfl, rfl, rfl⟩

theorem packetRereadEnds : Claims.PacketRereadEnds := by
  intro s q n at' k hk hmay hreread htick hneeds
  have hexec := exec_packetReread hk hmay hneeds hreread htick
  refine ⟨fun hgood => ?_, fun hbad hn => ?_, fun hbad hn => ?_⟩
  · rw [if_pos hgood] at hexec
    obtain ⟨⟨k', p, hget, hpkts, hbytes, -, -, -, -, hre⟩, -, hdev, hcmds⟩ := takeSlot_takes s q k (s.slotRead q k).val
    exact completes_of_exec hexec ⟨k', p, hget, hpkts, hbytes, hre, hdev, hcmds⟩
  · rw [if_neg hbad, if_pos (by omega)] at hexec
    obtain ⟨hget, hdev, hcmds, -⟩ := readAfresh_modSq hk (fun d => { d with reread := some (n + 1, s.issuedAt k) })
    exact completes_of_exec hexec ⟨_, hget, rfl, rfl, hdev, hcmds⟩
  · rw [if_neg hbad, if_neg (by omega)] at hexec
    exact completes_of_exec hexec (doorbellAhead_ends hk _ _)

/-- Settles O21: a slot read is taken, left for a re-read, or stops its queue. -/
theorem packetsAreFetched : Obligations.PacketsAreFetched := ⟨packetFetchConsumesSlot, packetRereadEnds⟩

end Sys2Proof.Proofs.Fetch
end

section
/-! Admission (O22). -/

namespace Sys2Proof.Proofs.Admit

open Sys2Proof Sys2Proof.Machine Sys2Proof.Claims Sys2Proof.Laws Sys2Proof.Proofs.Basic Sys2Proof.Proofs.Layer Sys2Proof.Proofs.Fetch

/-- The queue whose front packet has left. -/
def dropFront (k : SQ) : SQ := { k with pkts := k.pkts.drop 1, denied := [] }

theorem get?_dropPkt {s : State} {q : Nat} {k : SQ} (hk : Tab.get? s.sqs q = some k) :
    Tab.get? (s.dropPkt q).sqs q = some (dropFront k) :=
  (get?_modSq s q q dropFront).trans ((if_pos rfl).trans (congrArg (Option.map dropFront) hk))

theorem dropPkt_keeps (s : State) (q : Nat) : (s.dropPkt q).dev = s.dev ∧ (s.dropPkt q).tables = s.tables ∧ (s.dropPkt q).cmds = s.cmds ∧
    (s.dropPkt q).nextCmd = s.nextCmd := ⟨rfl, rfl, rfl, rfl⟩

theorem addDone_keeps (s : State) (c : Cmd) :
    (s.addDone c).sqs = s.sqs ∧ (s.addDone c).dev = s.dev ∧ (s.addDone c).tables = s.tables ∧ (s.addDone c).nextCmd = s.nextCmd + 1 :=
  ⟨rfl, rfl, rfl, rfl⟩

/-- A rejected packet leaves its queue, and its record waits with the status and detail. -/
theorem rejectPkt_ends {s : State} {q : Nat} {k : SQ} (hk : Tab.get? s.sqs q = some k) (c : Cmd) (status detail : Nat) :
    Tab.get? (s.rejectPkt q c status detail).sqs q = some (dropFront k) ∧ (s.rejectPkt q c status detail).nextCmd = s.nextCmd + 1 ∧
    (s.rejectPkt q c status detail).dev = s.dev ∧ (s.rejectPkt q c status detail).tables = s.tables ∧
    ∃ d, Done (s.rejectPkt q c status detail) s.nextCmd d ∧ d.status = status ∧ d.detail = detail ∧ d.pkt = c.pkt ∧ d.q = c.q := by
  have hget := get?_dropPkt hk
  obtain ⟨hdev, htables, hcmds, hnext⟩ := dropPkt_keeps s q
  rw [State.rejectPkt]
  generalize s.dropPkt q = t at *
  have hdone := done_addDone t c.slice 1 { c with status := status, detail := detail, plan := 0 }
  obtain ⟨hsqs', hdev', htables', hnext'⟩ := addDone_keeps (t.countSeq c.slice 1) { c with status := status, detail := detail, plan := 0 }
  rw [hnext] at hdone
  refine ⟨?_, ?_, ?_, ?_, _, hdone, rfl, rfl, rfl, rfl⟩
  · rw [hsqs']; simpa using hget
  · rw [hnext']; simpa using hnext
  · rw [hdev']; simpa using hdev
  · rw [htables']; simpa using htables

section
variable {s : State} {q : Nat} {k : SQ} {p : Pkt} {r : List Pkt} (hk : Tab.get? s.sqs q = some k) (hpkts : k.pkts = p :: r)
  (hopen : s.isOpen k.ctx = true) (hup : s.sliceUp k.slice = true)
include hk hpkts hopen hup

theorem exec_admission_verdict {v : Nat × Nat} (hv : p.verdict = some v) :
    exec (.admission q) s = .next (s.rejectPkt q (k.command q p) v.1 v.2) := by
  rw [show exec (.admission q) s = execAdmission q s from rfl, execAdmission, hk]
  dsimp only
  rw [hpkts]
  dsimp only
  rw [hopen, hup, hv]
  rfl

/-- A packet that no fence wait or barrier before it and no wait slot holds tries its remaining stages. -/
theorem exec_admission_try (hv : p.verdict = none) (hwait : p.waitCap = none)
    (hfree : ∀ d ∈ s.cmds, d.2.q = q → d.2.phase = .done ∨ (d.2.opcode ≠ 0x11 ∧ d.2.opcode ≠ 0x12)) :
    exec (.admission q) s = .next (s.tryAdmit q k p) := by
  have hany : s.cmds.any (fun d => d.2.q == q && !d.2.ended && (d.2.opcode == 0x11 || d.2.opcode == 0x12)) = false := by
    rw [List.any_eq_false]
    intro d hd hhit
    obtain ⟨⟨hq, hend⟩, hop⟩ := by simpa only [Bool.and_eq_true, Bool.or_eq_true, beq_iff_eq, Bool.not_eq_true'] using hhit
    rcases hfree d hd hq with hdone | ⟨h1, h2⟩
    · simp [Cmd.ended, hdone] at hend
    · omega
  have hbegin : (if p.waitFrom.isNone then s.beginWait q k p else s) = s := by
    rw [State.beginWait, hwait]
    exact ite_self s
  rw [show exec (.admission q) s = execAdmission q s from rfl, execAdmission, hk]
  dsimp only
  rw [hpkts]
  dsimp only
  rw [hopen, hup, hv]
  dsimp only
  rw [hany, hbegin, State.waitStage, hwait]
  rfl

theorem exec_waitSlotTimeout {w : Cap} {from' : Nat} (hw : p.waitCap = some w) (hf : p.waitFrom = some from') (hset : w.timeout ≠ 0)
    (hpast : from' + w.timeout ≤ (s.slc k.slice).tick) (hwait : waitState (s.seenOf k.slice w.fence) w.value = 2) :
    exec (.waitSlotTimeout q) s = .next (s.rejectPkt q (k.command q p) 0x14 0) := by
  have hstage : s.waitStage k p = 2 := by rw [State.waitStage, hw]; exact hwait
  rw [show exec (.waitSlotTimeout q) s = execWaitSlotTimeout q s from rfl, execWaitSlotTimeout, hk]
  dsimp only
  rw [hpkts]
  dsimp only
  rw [hw, hf]
  dsimp only
  rw [hopen, hup, hstage, decide_eq_true hpast]
  exact if_pos (by simp [hset])

end

/-! A packet that is admitted. -/

/-- What the steps of admission leave alone besides the new command. -/
def KeepsQueues (s t : State) : Prop := t.sqs = s.sqs ∧ t.dev = s.dev ∧ t.nextCmd = s.nextCmd

theorem KeepsQueues.trans {s t u : State} (h1 : KeepsQueues s t) (h2 : KeepsQueues t u) : KeepsQueues s u :=
  ⟨h2.1.trans h1.1, h2.2.1.trans h1.2.1, h2.2.2.trans h1.2.2⟩

theorem freeArrivals_keeps (s : State) : KeepsQueues s s.freeArrivals ∧ s.freeArrivals.cmds = s.cmds := by
  refine foldl_rel (fun s t => KeepsQueues s t ∧ t.cmds = s.cmds) (fun _ => ⟨⟨rfl, rfl, rfl⟩, rfl⟩)
    (fun h1 h2 => ⟨h1.1.trans h2.1, h2.2.trans h1.2⟩) State.holdArrival (fun s a => ?_) _ { s with stalledArr := [] }
  unfold State.holdArrival
  dsimp only
  split
  · exact ⟨⟨rfl, rfl, rfl⟩, rfl⟩
  · split <;> exact ⟨⟨rfl, rfl, rfl⟩, rfl⟩

/-- Admission changes of a command at most its moves. -/
theorem onAdmit_keeps (s : State) (h : Nat) (a : Actor) (c d : Cmd) (hd : Tab.get? s.cmds h = some d) :
    KeepsQueues s (s.onAdmit h a c) ∧ ∃ ms, Tab.get? (s.onAdmit h a c).cmds h = some { d with moves := ms } := by
  have htable : ∀ n f, KeepsQueues s (s.modTable n f) ∧ ∃ ms, Tab.get? (s.modTable n f).cmds h = some { d with moves := ms } :=
    fun n f => ⟨⟨rfl, rfl, rfl⟩, d.moves, hd⟩
  have hsame : KeepsQueues s s ∧ ∃ ms, Tab.get? s.cmds h = some { d with moves := ms } := ⟨⟨rfl, rfl, rfl⟩, d.moves, hd⟩
  unfold State.onAdmit
  dsimp only
  split
  · split
    · exact htable _ _
    · exact hsame
  · exact htable _ _
  · split
    · exact ⟨⟨rfl, rfl, rfl⟩, _, get?_modCmd_self _ hd⟩
    · exact hsame
  · split
    · exact htable _ _
    · exact hsame
  · exact htable _ _
  · exact ⟨⟨rfl, rfl, rfl⟩, d.moves, hd⟩
  · exact hsame

/-- The state in which an admitted packet is a command. -/
def enlisted (s : State) (q : Nat) (c : Cmd) : State :=
  { (s.dropPkt q).countSeq c.slice 0 with cmds := Tab.set ((s.dropPkt q).countSeq c.slice 0).cmds s.nextCmd c, nextCmd := s.nextCmd + 1 }

theorem enlisted_places (s : State) (q : Nat) (c : Cmd) : (enlisted s q c).sqs = (s.dropPkt q).sqs ∧ (enlisted s q c).dev = s.dev ∧
    (enlisted s q c).nextCmd = s.nextCmd + 1 ∧ Tab.get? (enlisted s q c).cmds s.nextCmd = some c := by
  refine ⟨?_, ?_, rfl, tab_get?_set_self ..⟩
  · simp [enlisted]
  · simp [enlisted, (dropPkt_keeps s q).1]

theorem admitPkt_admits {s : State} {q : Nat} {k : SQ} (hk : Tab.get? s.sqs q = some k) (a : Actor) (c : Cmd) :
    Tab.get? (s.admitPkt q a c).sqs q = some (dropFront k) ∧ (s.admitPkt q a c).nextCmd = s.nextCmd + 1 ∧ (s.admitPkt q a c).dev = s.dev ∧
    ∃ ms, Tab.get? (s.admitPkt q a c).cmds s.nextCmd = some { c with moves := ms } := by
  obtain ⟨hsqs, hdev, hnext, hget⟩ := enlisted_places s q c
  obtain ⟨harr, hcmds⟩ := freeArrivals_keeps (enlisted s q c)
  obtain ⟨hadmit, ms, hget'⟩ := onAdmit_keeps (enlisted s q c).freeArrivals s.nextCmd a c c (by rw [hcmds]; exact hget)
  obtain ⟨hsqs', hdev', hnext'⟩ := harr.trans hadmit
  rw [State.admitPkt, ← enlisted]
  generalize (enlisted s q c).freeArrivals.onAdmit s.nextCmd a c = t at *
  refine ⟨?_, ?_, ?_, ms, ?_⟩
  · simpa [hsqs', hsqs] using get?_dropPkt hk
  · simpa [hnext] using hnext'
  · simpa [hdev] using hdev'
  · simpa using hget'

/-- A packet that every stage passes is admitted. -/
theorem tryAdmit_admits {s : State} {q : Nat} {k : SQ} {p : Pkt} {a : Actor} {c : Cmd} (ha : a = { s.fetchActor q k with fw := p.fw })
    (hc : c = s.fixed (k.command q p)) (hplan : s.planCheck c = none) (hparam : (s.paramCheck a c).needs = [])
    (hgood : (s.paramCheck a c).val.1 = none) (hzero : reservedZero c.pkt = true) (hheld : s.heldBack c = false)
    (hring : s.ringOpen k.cq = true) (hmoving : (s.namesMoving a c).needs = []) (hstill : (s.namesMoving a c).val = false) :
    s.tryAdmit q k p =
      (s.faults c (s.paramCheck a c).evs).admitPkt q a { c with descs := (s.paramCheck a c).val.2, lens := (s.windowLens a c).val } := by
  rw [State.tryAdmit, ← ha, ← hc, hplan]
  dsimp only
  rw [hparam, hgood]
  dsimp only
  rw [hzero, hheld, hring, hmoving, hstill]
  rfl

theorem fixed_keeps (s : State) (c : Cmd) : (s.fixed c).phase = c.phase ∧ (s.fixed c).opcode = c.opcode ∧ (s.fixed c).pkt = c.pkt ∧
    (s.fixed c).tick = (s.slc c.slice).tick ∧ (s.fixed c).present = (s.slc c.slice).loss ∧ (s.fixed c).ctx = c.ctx :=
  ⟨rfl, rfl, rfl, rfl, rfl, rfl⟩

theorem admissionAdmitsOrRejects : Claims.AdmissionAdmitsOrRejects := by
  intro s q k p r hk hpkts hopen hup
  have hrest : (dropFront k).pkts = r := by rw [dropFront, hpkts]; rfl
  refine ⟨fun v hv => ?_, fun hv hwait hfree hplan hparam hgood hzero hheld hring hmoving hstill => ?_⟩
  · obtain ⟨hget, hnext, hdev, htables, d, hdone, hst, hdet, hpkt, hq⟩ := rejectPkt_ends hk (k.command q p) v.1 v.2
    exact completes_of_exec (exec_admission_verdict hk hpkts hopen hup hv)
      ⟨⟨_, hget, hrest⟩, hnext, hdev, htables, d, hdone, hst, hdet, hpkt, hq⟩
  · have hadmit := tryAdmit_admits rfl rfl hplan hparam hgood hzero hheld hring hmoving hstill
    have hexec := exec_admission_try hk hpkts hopen hup hv hwait hfree
    rw [hadmit] at hexec
    obtain ⟨hphase, hop, hpkt, htick, hloss, hctx⟩ := fixed_keeps s (k.command q p)
    generalize s.fixed (k.command q p) = c at *
    obtain ⟨hget, hnext, hdev, ms, hcmd⟩ := admitPkt_admits (s := s.faults c (s.paramCheck { s.fetchActor q k with fw := p.fw } c).evs) (q := q)
      (by simpa using hk) { s.fetchActor q k with fw := p.fw }
      { c with descs := (s.paramCheck { s.fetchActor q k with fw := p.fw } c).val.2,
               lens := (s.windowLens { s.fetchActor q k with fw := p.fw } c).val }
    have hfaults : (s.faults c (s.paramCheck { s.fetchActor q k with fw := p.fw } c).evs).nextCmd = s.nextCmd := by simp
    rw [hfaults] at hcmd
    exact completes_of_exec hexec
      ⟨⟨_, hget, hrest⟩, hnext.trans (by simp), hdev.trans (by simp), _, hcmd, hphase, hop, hpkt, htick, hloss, hctx⟩

theorem waitSlotTimesOut : Claims.WaitSlotTimesOut := by
  intro s q from' k p r w hk hpkts hw hf hopen hup hset hpast hwait
  obtain ⟨hget, -, hdev, -, d, hdone, hst, hdet, hpkt, -⟩ := rejectPkt_ends hk (k.command q p) 0x14 0
  have hrest : (dropFront k).pkts = r := by rw [dropFront, hpkts]; rfl
  exact completes_of_exec (exec_waitSlotTimeout hk hpkts hopen hup hw hf hset hpast hwait) ⟨⟨_, hget, hrest⟩, hdev, d, hdone, hst, hdet, hpkt⟩

/-- Settles O22: the front packet is rejected, admitted, or times out in its wait slot. -/
theorem packetsAreAdmitted : Obligations.PacketsAreAdmitted := ⟨admissionAdmitsOrRejects, waitSlotTimesOut⟩

end Sys2Proof.Proofs.Admit
end

section
/-! Completion records (O23). -/

namespace Sys2Proof.Proofs.Records

open Sys2Proof Sys2Proof.Machine Sys2Proof.Claims Sys2Proof.Laws Sys2Proof.Proofs.Basic Sys2Proof.Proofs.Layer Sys2Proof.Proofs.HostMem
  Sys2Proof.Proofs.Skew

/-! The layout of a record (Table 10-14). -/

theorem recordBytes_length (c : Cmd) (phase : Bool) (tick : Nat) : (recordBytes c phase tick).length = 32 := by simp [recordBytes]

theorem recordLayout : Claims.RecordLayout := by
  intro c phase tick
  have hsat : ∀ n, count32 n % 256 ^ 4 = min 0xFFFFFFFF n := fun n => by rw [count32, satTo_eq_min]; omega
  refine ⟨recordBytes_length c phase tick, ?_, ?_, ?_, ?_, ?_, ?_, fun haux => ?_⟩
  all_goals unfold recordBytes; simp only [List.append_assoc]
  · exact field_natLE [] _ 0 2 c.seq rfl
  · exact field_natLE (natLE 2 c.seq) _ 2 1 c.status (by simp)
  · have h := fun post => field_natLE (natLE 2 c.seq ++ natLE 1 c.status) post 3 1 c.detail (by simp)
    simp only [List.append_assoc] at h
    exact h _
  · have h := fun post => field_natLE (natLE 2 c.seq ++ natLE 1 c.status ++ natLE 1 c.detail ++ natLE 1 c.opcode) post 5 1 (if phase then 1 else 0) (by simp)
    simp only [List.append_assoc] at h
    exact (h _).trans (by cases phase <;> rfl)
  · have h := fun post => field_natLE (natLE 2 c.seq ++ natLE 1 c.status ++ natLE 1 c.detail ++ natLE 1 c.opcode ++
      natLE 1 (if phase then 1 else 0) ++ natLE 2 (c.q % 16384)) post 8 4 (count32 c.c0) (by simp)
    simp only [List.append_assoc] at h
    exact (h _).trans (hsat c.c0)
  · have h := fun post => field_natLE (natLE 2 c.seq ++ natLE 1 c.status ++ natLE 1 c.detail ++ natLE 1 c.opcode ++
      natLE 1 (if phase then 1 else 0) ++ natLE 2 (c.q % 16384) ++ natLE 4 (count32 c.c0)) post 12 4 (count32 c.c1) (by simp)
    simp only [List.append_assoc] at h
    exact (h _).trans (hsat c.c1)
  · have h := field_natLE (natLE 2 c.seq ++ natLE 1 c.status ++ natLE 1 c.detail ++ natLE 1 c.opcode ++
      natLE 1 (if phase then 1 else 0) ++ natLE 2 (c.q % 16384) ++ natLE 4 (count32 c.c0) ++ natLE 4 (count32 c.c1) ++ natLE 4 (count32 c.c2) ++
      natLE 4 (count32 c.c3)) [] 24 8 tick (by simp)
    simp only [List.append_assoc, List.append_nil] at h
    rw [haux]
    exact h

/-! Where the record goes. -/

/-- A range within one page or line is one piece. -/
theorem piecesOf_one {g a n : Nat} (hn : 0 < n) (hin : a % g + n ≤ g) : piecesOf g a n = [(a, n)] := by
  have hmin : min n (g - a % g) = n := by omega
  rw [piecesOf, show n / g + 2 = (n / g + 1) + 1 from rfl, pieces, if_neg (by omega)]
  dsimp only
  rw [hmin, Nat.sub_self, pieces]
  rfl

section
variable {s : State} {h : Nat} {c : Cmd} {k : CQ}

/-- The entry of the ring that takes the next record, and the record. -/
def entryAddr (k : CQ) : Nat := k.base + 32 * (k.written % 2 ^ k.logSize)

def entryBytes (s : State) (c : Cmd) (k : CQ) : List Byte := recordBytes c (k.written / 2 ^ k.logSize % 2 == 0) (s.slc c.slice).tick

def recordWr (s : State) (c : Cmd) (k : CQ) : OutWr :=
  { slice := c.slice, addr := entryAddr k, bytes := cleanBytes (entryBytes s c k), which := 11, coords := [k.written % 2 ^ 32] }

theorem entryAddr_fits (hsize : entryAddr k % 32 = 0) : entryAddr k % 4096 + 32 ≤ 4096 ∧ entryAddr k % 4096 % 64 + 32 ≤ 64 := by
  omega

theorem entryAddr_mod (hbase : k.base % 4096 = 0) : entryAddr k % 32 = 0 := by
  unfold entryAddr
  omega

theorem entryBytes_length (s : State) (c : Cmd) (k : CQ) : (entryBytes s c k).length = 32 := recordBytes_length ..

/-- A record's write is the write of one page. -/
theorem outAcc_record (a : Actor) (hbase : k.base % 4096 = 0) : s.outAcc a [recordWr s c k] =
    (s.writePage a (recordWr s c k) (entryAddr k) (cleanBytes (entryBytes s c k))).map (fun l => [(recordWr s c k, [l])]) := by
  have hpieces : piecesOf 4096 (entryAddr k) 32 = [(entryAddr k, 32)] := by
    have := entryAddr_mod hbase
    exact piecesOf_one (by omega) (by omega)
  have hbytes : ((cleanBytes (entryBytes s c k)).drop (entryAddr k - entryAddr k)).take 32 = cleanBytes (entryBytes s c k) := by
    rw [Nat.sub_self, List.drop_zero, List.take_of_length_le (by simp [entryBytes_length])]
  rw [State.outAcc, List.map_singleton, State.writeAcc]
  simp only [recordWr, cleanBytes_length, entryBytes_length, hpieces, List.map_singleton, hbytes]
  simp [Acc.list, Acc.bind, Acc.map]

/-- What the record leaves of a state in which it has landed: the ring counts it, the command is gone. -/
def filed (u : State) (h : Nat) (c : Cmd) : State :=
  (({ u with cqs := Tab.modify u.cqs c.cq (fun d => { d with written := d.written + 1 }) } : State).traceRec c.slice 1 c.ctx c.q c.seq c.opcode
    c.status (natLE 4 (count32 c.c0) ++ natLE 4 (count32 c.c1) ++ natLE 4 (count32 c.c2))).retire h c

theorem planRelease_keeps (s : State) (p : Nat) : s.planRelease p = { s with plans := (s.planRelease p).plans } := by
  unfold State.planRelease
  split
  · split <;> rfl
  · rfl

theorem retire_keeps (s : State) (h : Nat) (c : Cmd) : (s.retire h c).cmds = Tab.erase s.cmds h ∧ (s.retire h c).cqs = s.cqs ∧
    (s.retire h c).dev = s.dev ∧ (s.retire h c).hostWr = s.hostWr ∧ (s.retire h c).sqs = s.sqs ∧ (s.retire h c).tables = s.tables := by
  rw [State.retire, planRelease_keeps]
  exact ⟨rfl, rfl, rfl, rfl, rfl, rfl⟩

theorem filed_keeps {u : State} (hk : Tab.get? u.cqs c.cq = some k) :
    Tab.get? (filed u h c).cmds h = none ∧ Tab.get? (filed u h c).cqs c.cq = some { k with written := k.written + 1 } ∧
    (filed u h c).dev = u.dev ∧ (filed u h c).hostWr = u.hostWr ∧ (filed u h c).sqs = u.sqs ∧ (filed u h c).tables = u.tables := by
  obtain ⟨hcmds, hcqs, hdev, hwr, hsqs, htables⟩ := retire_keeps (({ u with
    cqs := Tab.modify u.cqs c.cq (fun d => { d with written := d.written + 1 }) } : State).traceRec c.slice 1 c.ctx c.q c.seq c.opcode c.status
    (natLE 4 (count32 c.c0) ++ natLE 4 (count32 c.c1) ++ natLE 4 (count32 c.c2))) h c
  refine ⟨?_, ?_, hdev.trans (by simp), hwr.trans (by simp), hsqs.trans (by simp), htables.trans (by simp)⟩
  · rw [filed, hcmds, tab_get?_filter_ne, if_pos rfl]
  · have htrace : (filed u h c).cqs = Tab.modify u.cqs c.cq (fun d => { d with written := d.written + 1 }) := hcqs.trans (by simp)
    rw [htrace, tab_get?_modify, if_pos rfl, hk]
    rfl

/-- What signals and events of a record leave alone. -/
theorem signalSlot_keeps (s : State) (h : Nat) (c : Cmd) : (s.signalSlot h c).cqs = s.cqs ∧ (s.signalSlot h c).dev = s.dev ∧
    (s.signalSlot h c).hostWr = s.hostWr ∧ (s.signalSlot h c).sqs = s.sqs ∧ (s.signalSlot h c).tables = s.tables := by
  unfold State.signalSlot
  split
  · split <;> exact ⟨rfl, rfl, rfl, rfl, rfl⟩
  · exact ⟨rfl, rfl, rfl, rfl, rfl⟩

/-- The record whose turn it is, where its one write awaits nothing, lands and is filed. -/
theorem exec_completionRecord {l : Landing} (hc : Tab.get? s.cmds h = some c) (hready : s.recordReady h c = true) (hturn : s.recordTurn h c = true)
    (hk : Tab.get? s.cqs c.cq = some k) (hfree : ringFree k ≠ 0) (hbase : k.base % 4096 = 0)
    (hpage : s.writePage (s.actor h c) (recordWr s c k) (entryAddr k) (cleanBytes (entryBytes s c k)) = { val := l }) :
    exec (.completionRecord h) s = .next (filed (((s.signalSlot h c).faults c []).landAll c.ctx h [(recordWr s c k, [l])]) h c) := by
  have hacc : s.outAcc (s.actor h c) [recordWr s c k] = { val := [(recordWr s c k, [l])] } := by
    rw [outAcc_record _ hbase, hpage]
    rfl
  have hwrite : s.writeRecord h c k = filed (((s.signalSlot h c).faults c []).landAll c.ctx h [(recordWr s c k, [l])]) h c := by
    rw [State.writeRecord]
    dsimp only
    rw [show ({ s.actor h c with fw := c.fw } : Actor) = s.actor h c from rfl, ← entryAddr, ← entryBytes, ← recordWr, hacc]
    rfl
  rw [show exec (.completionRecord h) s = execCompletionRecord h s from rfl, execCompletionRecord, hc]
  dsimp only
  rw [hready, hturn, hk]
  dsimp only
  rw [if_neg hfree, hwrite]
  rfl

end

/-! What lands. -/

theorem freeData_clean (ctr : Nat) (bs : List Byte) : freeData ctr (cleanBytes bs) = cleanBytes bs := by
  refine List.ext_getElem (by simp) fun i hi hi' => ?_
  have hlt : i < bs.length := by simpa using hi'
  simp [freeData, cleanBytes, hlt]

/-- One page of clean device bytes lands as they are. -/
theorem landAll_device (u : State) (x h d : Nat) (w : OutWr) (bs : List Byte) :
    u.landAll x h [(w, [{ device := [(d, cleanBytes bs)] }])] = { u.outWrite d (cleanBytes bs) with freeCtr := u.freeCtr + bs.length } := by
  rw [State.landAll, List.foldl_cons, List.foldl_nil, State.landWrite, List.foldl_cons, List.foldl_nil, State.landDevice, List.foldl_cons,
    List.foldl_nil, freeData_clean, cleanBytes_length]
  rfl

/-- One line of clean host bytes is one host write. -/
theorem landAll_host (u : State) (x h p : Nat) (w : OutWr) (bs : List Byte) (hpos : 0 < bs.length) (hline : p % 64 + bs.length ≤ 64) :
    u.landAll x h [(w, [{ host := [(p, cleanBytes bs)] }])] = { u with
      hostWr := u.hostWr ++ [{ slice := w.slice, ctx := x, h := h, addr := p, bytes := bs, poisoned := false }],
      freeCtr := u.freeCtr + bs.length } := by
  have hclean : anyPoison (cleanBytes bs) = false := by simp [anyPoison, cleanBytes]
  have hpart : ((cleanBytes bs).drop (p - p)).take bs.length = cleanBytes bs := by
    rw [Nat.sub_self, List.drop_zero, List.take_of_length_le (by simp)]
  rw [State.landAll, List.foldl_cons, List.foldl_nil, State.landWrite, List.foldl_cons, List.foldl_nil, State.landHost, List.foldl_cons,
    List.foldl_nil]
  dsimp only
  rw [freeData_clean, cleanBytes_length, piecesOf_one hpos hline, List.map_singleton]
  dsimp only
  rw [hpart, dataOf_cleanBytes, hclean]
  rfl

theorem completionRecordIsWritten : Claims.CompletionRecordIsWritten := by
  intro s h page c k hinv hc hready hturn hk hfree hbase hrange
  change inRanges c.fw (entryAddr k) = true at hrange
  obtain ⟨hcqs, hdev, hwr, hsqs, htables⟩ := signalSlot_keeps s h c
  obtain ⟨hfit, hline⟩ := entryAddr_fits (entryAddr_mod hbase)
  have hu : ((s.signalSlot h c).faults c []).cqs = s.cqs ∧ ((s.signalSlot h c).faults c []).dev = s.dev ∧
      ((s.signalSlot h c).faults c []).hostWr = s.hostWr ∧ ((s.signalSlot h c).faults c []).sqs = s.sqs ∧
      ((s.signalSlot h c).faults c []).tables = s.tables := by simpa using ⟨hcqs, hdev, hwr, hsqs, htables⟩
  refine ⟨fun htrans hneeds => ?_, fun htrans => ?_⟩
  · have hexec := exec_completionRecord (l := { device := [(page * 4096 + entryAddr k % 4096, cleanBytes (entryBytes s c k))] }) hc hready hturn hk hfree
      hbase (by
        rw [State.writePage, show inRanges (s.actor h c).fw (entryAddr k) = true from hrange,
          show s.translate (s.actor h c) (recordWr s c k).slice (entryAddr k / 4096) true = .device page from htrans]
        dsimp only
        rw [cleanBytes_length, entryBytes_length, show s.devNeeds (s.actor h c).who true (page * 4096 + entryAddr k % 4096) 32 = [] from hneeds]
        rfl)
    rw [landAll_device] at hexec
    generalize (s.signalSlot h c).faults c [] = u at *
    obtain ⟨hucqs, hudev, huwr, husqs, hutables⟩ := hu
    obtain ⟨hgone, hring, hfdev, hfwr, hfsqs, hftables⟩ := filed_keeps (h := h) (c := c) (k := k)
      (u := { u.outWrite (page * 4096 + entryAddr k % 4096) (cleanBytes (entryBytes s c k)) with freeCtr := u.freeCtr + (entryBytes s c k).length })
      (by simpa [hucqs] using hk)
    refine completes_of_exec hexec ⟨hgone, hring, fun i hi => ?_, fun x hx => ?_, hfwr.trans (by simpa using huwr),
      hfsqs.trans (by simpa using husqs), hftables.trans (by simpa using hutables)⟩
    · rw [hfdev]
      dsimp only
      change (u.outWrite (page * 4096 + entryAddr k % 4096) (cleanBytes (entryBytes s c k))).dev.byte (page * 4096 + entryAddr k % 4096 + i) =
        if guarded (page * 4096 + entryAddr k % 4096 + i) then s.dev.byte (page * 4096 + entryAddr k % 4096 + i) else (entryBytes s c k).getD i 0
      rw [byte_outWrite u (by rw [State.inv, hudev]; exact hinv) _ _ _ (by rw [cleanBytes_length, entryBytes_length]; omega), hudev,
        Nat.add_sub_cancel_left, ← getD_dataOf, dataOf_cleanBytes]
    · rw [hfdev]
      dsimp only
      rw [byte_outWrite_of_off _ _ _ _ (by rw [cleanBytes_length, entryBytes_length]; exact hx), hudev]
  · have hexec := exec_completionRecord (l := { host := [(page * 4096 + entryAddr k % 4096, cleanBytes (entryBytes s c k))] }) hc hready hturn hk hfree
      hbase (by
        rw [State.writePage, show inRanges (s.actor h c).fw (entryAddr k) = true from hrange,
          show s.translate (s.actor h c) (recordWr s c k).slice (entryAddr k / 4096) true = .host page from htrans]
        rfl)
    have hpage64 : (page * 4096 + entryAddr k % 4096) % 64 + (entryBytes s c k).length ≤ 64 := by rw [entryBytes_length]; omega
    rw [landAll_host _ _ _ _ _ _ (by rw [entryBytes_length]; omega) hpage64] at hexec
    generalize (s.signalSlot h c).faults c [] = u at *
    obtain ⟨hucqs, hudev, huwr, husqs, hutables⟩ := hu
    obtain ⟨hgone, hring, hfdev, hfwr, hfsqs, hftables⟩ := filed_keeps (h := h) (c := c) (k := k)
      (u := { u with
        hostWr := u.hostWr ++ [{ slice := (recordWr s c k).slice, ctx := c.ctx, h := h,
                                 addr := page * 4096 + entryAddr k % 4096, bytes := entryBytes s c k, poisoned := false }],
        freeCtr := u.freeCtr + (entryBytes s c k).length }) (by simpa [hucqs] using hk)
    exact completes_of_exec hexec ⟨hgone, hring, hfwr.trans (by rw [huwr]; rfl), hfdev.trans hudev, hfsqs.trans husqs, hftables.trans hutables⟩

/-- Settles O23: the layout of a record, and its landing in the ring's next entry. -/
theorem completionRecordsAreWritten : Obligations.CompletionRecordsAreWritten := ⟨completionRecordIsWritten, recordLayout⟩

end Sys2Proof.Proofs.Records
end

section
/-! SCORE_TOPK (O28). -/

namespace Sys2Proof.Proofs.Scoring

open Sys2Proof Sys2Proof.Machine Sys2Proof.Claims Sys2Proof.Laws Sys2Proof.Proofs.Basic Sys2Proof.Proofs.Layer

/-! The end of a scoring command. -/

theorem firstStatus_score (a b c : Bool) :
    firstStatus [(a, 0x16), (b, 3), (c, 2)] = if a then 0x16 else if b then 3 else if c then 2 else 0 := rfl

theorem exec_scoreTopk_complete {s : State} {h : Nat} {c : Cmd} {w : Acc (List (OutWr × List Landing))} (hrun : s.running h 3 = some c)
    (hphase : c.phase = .stage 1) (hscans : ∀ p ∈ c.scans, p.pending = false)
    (hw : w = s.outAcc (s.actor h c) (scoreWrites c (((Tab.get? s.tables c.table).map (fun t => t.buckets.length)).getD 0)))
    (hneeds : w.needs = []) :
    exec (.scoreTopk h) s = .next ((((s.faults c w.evs).landAll c.ctx h w.val).endCmd h (fun d => { d with
      c0 := (c.scans.map ScanPart.fed).sum, c1 := (c.scans.map ScanPart.masked).sum, c2 := (c.scans.map ScanPart.absent).sum,
      status := firstStatus [(anySuppressed w.val, 0x16), ((c.scans.map ScanPart.absent).sum != 0, 3),
        (c.inPoison || c.scans.any (fun p => p.queries.any ScanQuery.poisoned), 2)] })).release (.cmd h)) := by
  have hhere : c.scans.any (fun p => p.pending && p.src == s.self) = false :=
    List.any_eq_false.mpr fun p hp => by simp [hscans p hp]
  have hpending : c.scans.any ScanPart.pending = false := List.any_eq_false.mpr fun p hp => by simp [hscans p hp]
  have hgo : ¬ (c.phase ≠ .stage 1 ∨ c.scans.any ScanPart.pending = true) := by simp [hphase, hpending]
  rw [show exec (.scoreTopk h) s = execScoreTopk h s from rfl, execScoreTopk, hrun]
  dsimp only
  rw [if_pos (by rw [hphase]; simp), hhere, State.scoreFinish, hrun]
  dsimp only
  rw [if_neg hgo, ← hw, hneeds]
  rfl

theorem scoreTopkCompletes : Claims.ScoreTopkCompletes := by
  intro s h c w hrun hphase hscans hw hneeds
  refine completes_of_exec (exec_scoreTopk_complete hrun hphase hscans hw hneeds) ?_
  have hbooks := (faults_sameBooks s c w.evs).trans (landAll_sameBooks _ c.ctx h w.val)
  have hget : Tab.get? _ h = some c := hbooks.cmds ▸ (running_eq_some hrun).1
  obtain ⟨hplaces, htables, hvats⟩ := hbooks.endCmd_release h (fun d => { d with
      c0 := (c.scans.map ScanPart.fed).sum, c1 := (c.scans.map ScanPart.masked).sum, c2 := (c.scans.map ScanPart.absent).sum,
      status := firstStatus [(anySuppressed w.val, 0x16), ((c.scans.map ScanPart.absent).sum != 0, 3),
        (c.inPoison || c.scans.any (fun p => p.queries.any ScanQuery.poisoned), 2)] }) (.cmd h)
  refine ⟨hplaces, htables, hvats, fun a ha => (byte_landAll_of_off _ _ _ _ a ha).trans (by simp), _, done_endCmd_release _ _ hget, rfl, rfl,
    rfl, ?_⟩
  rw [firstStatus_score]
  simp only [bne_iff_ne]

/-! Parts that are awaited of peers. -/

theorem mem_putPart_of_mem {l : List ScanPart} {p q : ScanPart} (hq : q ∈ l) (hne : q.num ≠ p.num) : q ∈ putPart l p := by
  induction l with
  | nil => simp at hq
  | cons a r ih =>
    rw [putPart]
    split
    · rename_i ha
      rcases List.mem_cons.mp hq with rfl | hq
      · exact absurd ha hne
      · exact List.mem_cons_of_mem _ hq
    · rcases List.mem_cons.mp hq with rfl | hq
      · exact List.mem_cons_self
      · exact List.mem_cons_of_mem _ (ih hq)

theorem num_of_mem_putPart {l : List ScanPart} {p q : ScanPart} (hq : q ∈ putPart l p) : q.num = p.num ∨ q ∈ l := by
  induction l with
  | nil =>
    obtain rfl := List.mem_singleton.mp hq
    exact .inl rfl
  | cons a r ih =>
    rw [putPart] at hq
    split at hq
    · rcases List.mem_cons.mp hq with rfl | hq
      · left
        split <;> rfl
      · exact .inr (List.mem_cons_of_mem _ hq)
    · rcases List.mem_cons.mp hq with rfl | hq
      · exact .inr List.mem_cons_self
      · exact (ih hq).imp_right (List.mem_cons_of_mem _)

/-- Parts put in that are not part `n` leave the parts numbered `n` as they are. -/
theorem mem_foldl_putPart (ps : List ScanPart) (n : Nat) (hps : ∀ p ∈ ps, p.num ≠ n) (l : List ScanPart) (q : ScanPart) (hq : q.num = n) :
    q ∈ ps.foldl putPart l ↔ q ∈ l := by
  induction ps generalizing l with
  | nil => rfl
  | cons p r ih =>
    have hp := hps p List.mem_cons_self
    rw [List.foldl_cons, ih (fun x hx => hps x (List.mem_cons_of_mem _ hx))]
    exact ⟨fun h => (num_of_mem_putPart h).resolve_left (by omega), fun h => mem_putPart_of_mem h (by omega)⟩

/-- Command `h` waits for part `n` from engine `e` alone. -/
def Awaits (l : List ScanPart) (n e : Nat) : Prop :=
  (∃ p ∈ l, p.num = n ∧ p.src = e ∧ p.pending = true) ∧ ∀ p ∈ l, p.num = n → p.src = e

def Waiting (u : State) (h n e : Nat) : Prop := ∃ d, Tab.get? u.cmds h = some d ∧ d.phase = .stage 1 ∧ Awaits d.scans n e

theorem scoreFinish_of_waiting {u : State} {h n e : Nat} (hw : Waiting u h n e) : u.scoreFinish h = u := by
  obtain ⟨d, hd, -, ⟨p, hp, -, -, hpend⟩, -⟩ := hw
  unfold State.scoreFinish
  split
  · rfl
  · rename_i c hrun
    obtain rfl : d = c := Option.some.inj (hd.symm.trans (running_eq_some hrun).1)
    exact if_pos (.inr (List.any_eq_true.mpr ⟨p, hp, hpend⟩))

theorem accList_val {α β : Type} (f : α → Acc β) (l : List α) : (Acc.list (l.map f)).val = l.map (fun a => (f a).val) := by
  induction l with
  | nil => rfl
  | cons a r ih =>
    rw [List.map_cons, List.map_cons, ← ih]
    rfl

/-- What a scan of the parts here leaves, while a part is awaited of a peer. -/
def Grows (s t : State) : Prop := t.dev = s.dev ∧ t.tables = s.tables ∧ ∀ q ∈ s.peerReqs, q ∈ t.peerReqs

theorem Grows.refl (s : State) : Grows s s := ⟨rfl, rfl, fun _ h => h⟩

theorem Grows.trans {s t u : State} (h1 : Grows s t) (h2 : Grows t u) : Grows s u := by
  obtain ⟨hd, ht, hp⟩ := h1
  obtain ⟨hd', ht', hp'⟩ := h2
  exact ⟨hd'.trans hd, ht'.trans ht, fun q hq => hp' q (hp q hq)⟩

theorem ask_grows (s : State) (h : Nat) (n : Need) : Grows s (s.ask h n) := by
  refine ⟨by simp, by simp, fun q hq => ?_⟩
  unfold State.ask
  split
  · split <;> exact hq
  · split <;> exact hq
  · split
    · exact hq
    · dsimp only
      split
      · simp [hq]
      · simp [hq]
  · exact hq

theorem await_grows (s : State) (h : Nat) (l : List Need) : Grows s (s.await h l) :=
  .trans ⟨rfl, rfl, fun _ hq => hq⟩ (foldl_rel Grows .refl .trans _ (fun s n => ask_grows s h n) l _)

theorem cmds_await (s : State) (h : Nat) (l : List Need) : (s.await h l).cmds = (s.modCmd h (fun c => { c with begun := true })).cmds := by
  simp [State.await]

theorem awaits_putParts {l ps : List ScanPart} {n e : Nat} (h : Awaits l n e) (hps : ∀ p ∈ ps, p.num ≠ n) : Awaits (ps.foldl putPart l) n e := by
  obtain ⟨⟨p, hp, hnum, hsrc, hpend⟩, hall⟩ := h
  exact ⟨⟨p, (mem_foldl_putPart ps n hps l p hnum).mpr hp, hnum, hsrc, hpend⟩,
    fun q hq hnum => hall q ((mem_foldl_putPart ps n hps l q hnum).mp hq) hnum⟩

theorem skewScan_slicesOnly (s : State) (num : Nat) (t : Table) (y : Layer) (rows : List Nat) (peer : Bool) :
    SlicesOnly s (s.skewScan num t y rows peer) := by
  refine foldl_rel SlicesOnly .refl .trans _ (fun s r => ?_) rows s
  split
  · exact skewAccess_slicesOnly ..
  · exact .refl s

/-- A waiting command still waits when it has issued. -/
theorem waiting_await {u : State} {h n e : Nat} (hw : Waiting u h n e) (l : List Need) : Waiting (u.await h l) h n e := by
  obtain ⟨d, hd, hphase, hawaits⟩ := hw
  exact ⟨{ d with begun := true }, by rw [cmds_await]; exact get?_modCmd_self _ hd, hphase, hawaits⟩

/-- The scan of the parts that a command awaits of this engine, and what of it the command keeps. -/
def partsHere (s : State) (h : Nat) (c : Cmd) (t : Table) (y : Layer) : Acc (List (ScanPart × Ev × List Nat)) :=
  Acc.list (((c.scans.filter (fun p => p.pending && p.src == s.self)).map ScanPart.num).map
    (s.scanPart (s.actor h c) c.slice c.table t y (scanJob c c.queries c.mask)))

def foundParts (s : State) (h : Nat) (c : Cmd) (t : Table) (y : Layer) : List ScanPart :=
  (partsHere s h c t y).val.map (fun v => { v.1 with via := t.bucketDeal c s.self v.1.num })

/-- The state whose books have the scan. -/
def scanned (s : State) (h : Nat) (c : Cmd) (t : Table) (y : Layer) : State :=
  ((s.faults c (partsHere s h c t y).evs).countPress c.slice c.ctx (Ev.sum ((partsHere s h c t y).val.map (fun v => v.2.1)))).skewScan c.table t y
    ((partsHere s h c t y).val.flatMap (fun v => v.2.2)) false

theorem scanHere_eq {s : State} {h : Nat} {c : Cmd} {t : Table} {y : Layer} (hrun : s.running h 3 = some c) (hview : s.viewOf c = some (t, y)) :
    s.scanHere h = if !(partsHere s h c t y).needs.isEmpty then s.await h (partsHere s h c t y).needs
      else ((scanned s h c t y).modCmd h (fun d => { d with scans := (foundParts s h c t y).foldl putPart d.scans })).scoreFinish h := by
  rw [State.scanHere, hrun]
  dsimp only
  rw [hview]
  rfl

theorem scanned_keeps (s : State) (h : Nat) (c : Cmd) (t : Table) (y : Layer) : Grows s (scanned s h c t y) ∧ (scanned s h c t y).cmds = s.cmds := by
  have h := skewScan_slicesOnly ((s.faults c (partsHere s h c t y).evs).countPress c.slice c.ctx
    (Ev.sum ((partsHere s h c t y).val.map (fun v => v.2.1)))) c.table t y ((partsHere s h c t y).val.flatMap (fun v => v.2.2)) false
  rw [SlicesOnly] at h
  rw [scanned, h]
  simp [Grows]

/-- What a scan here finds is not of a part that another engine owes. -/
theorem foundParts_num {s : State} {h n e : Nat} {c : Cmd} (hawaits : Awaits c.scans n e) (hne : e ≠ s.self) (t : Table) (y : Layer) :
    ∀ p ∈ foundParts s h c t y, p.num ≠ n := by
  unfold foundParts partsHere
  rw [accList_val]
  rintro p hp rfl
  obtain ⟨v, hv, rfl⟩ := List.mem_map.mp hp
  obtain ⟨k, hk, rfl⟩ := List.mem_map.mp hv
  obtain ⟨q, hq, rfl⟩ := List.mem_map.mp hk
  obtain ⟨hq, hmine⟩ := List.mem_filter.mp hq
  have hsrc : q.src = s.self := by simpa using (Bool.and_eq_true_iff.mp hmine).2
  exact hne ((hawaits.2 q hq rfl).symm.trans hsrc)

/-- A scan here does not answer a part that another engine owes. -/
theorem scanHere_waits {u : State} {h n e : Nat} (hw : Waiting u h n e) (hne : e ≠ u.self) : Grows u (u.scanHere h) ∧ Waiting (u.scanHere h) h n e := by
  have hwait := hw
  obtain ⟨d, hd, hphase, hawaits⟩ := hw
  cases hrun : u.running h 3 with
  | none =>
    rw [State.scanHere, hrun]
    exact ⟨.refl u, hwait⟩
  | some c =>
    obtain rfl : d = c := Option.some.inj (hd.symm.trans (running_eq_some hrun).1)
    cases hview : u.viewOf d with
    | none =>
      rw [State.scanHere, hrun]
      dsimp only
      rw [hview]
      exact ⟨.refl u, hwait⟩
    | some v =>
      rw [scanHere_eq hrun hview]
      split
      · exact ⟨await_grows .., waiting_await hwait _⟩
      · obtain ⟨hgrows, hcmds⟩ := scanned_keeps u h d v.1 v.2
        have hparts := foundParts_num (h := h) hawaits hne v.1 v.2
        generalize scanned u h d v.1 v.2 = x at *
        generalize foundParts u h d v.1 v.2 = ps at *
        have hnew : Waiting (x.modCmd h (fun d => { d with scans := ps.foldl putPart d.scans })) h n e :=
          ⟨{ d with scans := ps.foldl putPart d.scans }, get?_modCmd_self _ (by rw [hcmds]; exact hd), hphase, awaits_putParts hawaits hparts⟩
        rw [scoreFinish_of_waiting hnew]
        exact ⟨hgrows, hnew⟩

/-! The requests. -/

theorem mem_nubNat {l : List Nat} {a : Nat} (h : a ∈ l) : a ∈ nubNat l := by
  have hfold : ∀ (l acc : List Nat), (∀ a ∈ acc, a ∈ l.foldl (fun acc a => if acc.contains a then acc else acc ++ [a]) acc) ∧
      ∀ a ∈ l, a ∈ l.foldl (fun acc a => if acc.contains a then acc else acc ++ [a]) acc := by
    intro l
    induction l with
    | nil => exact fun acc => ⟨fun _ h => h, by simp⟩
    | cons b r ih =>
      intro acc
      rw [List.foldl_cons]
      obtain ⟨hkeep, hall⟩ := ih (if acc.contains b then acc else acc ++ [b])
      refine ⟨fun a ha => hkeep a ?_, fun a ha => ?_⟩
      · split
        · exact ha
        · exact List.mem_append_left _ ha
      · rcases List.mem_cons.mp ha with rfl | ha
        · refine hkeep a ?_
          split
          · rename_i hc
            simpa using hc
          · simp
        · exact hall a ha
  exact (hfold l []).2 a h

theorem askScan_grows (s : State) (h : Nat) (c : Cmd) (t : Table) (j : ScanJob) (peer : Nat) (parts : List Nat) :
    Grows s (s.askScan h c t j peer parts) ∧ (s.askScan h c t j peer parts).cmds = s.cmds ∧
      (s.askScan h c t j peer parts).self = s.self := by
  unfold State.askScan State.self
  split
  · exact ⟨.refl s, rfl, rfl⟩
  · refine ⟨⟨by simp, by simp, fun q hq => ?_⟩, by simp, by simp⟩
    simp [hq]

theorem askScan_asks (s : State) (h : Nat) (c : Cmd) (t : Table) (j : ScanJob) (peer : Nat) (parts : List Nat) (n : Nat) (hn : n ∈ parts) :
    ∃ q ∈ (s.askScan h c t j peer parts).peerReqs, q.h = h ∧ q.peer = peer ∧ q.want = .scan n := by
  have hne : parts.isEmpty = false := by
    cases parts with
    | nil => simp at hn
    | cons => rfl
  refine ⟨{ tag := s.nextTag, h := h, peer := peer, want := .scan n }, ?_, rfl, rfl, rfl⟩
  rw [State.askScan, hne]
  simp [hn]

/-- The requests for parts: each awaited part is asked of its engine. -/
theorem askScans_asks (s : State) (h : Nat) (c : Cmd) (t : Table) (j : ScanJob) (parts : List (Nat × Nat)) :
    Grows s (s.askScans h c t j parts) ∧ (s.askScans h c t j parts).cmds = s.cmds ∧ (s.askScans h c t j parts).self = s.self ∧
    ∀ n e, (n, e) ∈ parts → ∃ q ∈ (s.askScans h c t j parts).peerReqs, q.h = h ∧ q.peer = e ∧ q.want = .scan n := by
  have hfold : ∀ (l : List Nat) (s : State), Grows s (l.foldl (fun acc e => acc.askScan h c t j e ((parts.filter (fun p => p.2 == e)).map Prod.fst)) s) ∧
      (l.foldl (fun acc e => acc.askScan h c t j e ((parts.filter (fun p => p.2 == e)).map Prod.fst)) s).cmds = s.cmds ∧
      (l.foldl (fun acc e => acc.askScan h c t j e ((parts.filter (fun p => p.2 == e)).map Prod.fst)) s).self = s.self ∧
      ∀ n e, (n, e) ∈ parts → e ∈ l → ∃ q ∈ (l.foldl (fun acc e => acc.askScan h c t j e ((parts.filter (fun p => p.2 == e)).map Prod.fst)) s).peerReqs,
        q.h = h ∧ q.peer = e ∧ q.want = .scan n := by
    intro l
    induction l with
    | nil => exact fun s => ⟨.refl s, rfl, rfl, fun n e _ he => by simp at he⟩
    | cons e r ih =>
      intro s
      rw [List.foldl_cons]
      obtain ⟨hgrows, hcmds, hself⟩ := askScan_grows s h c t j e ((parts.filter (fun p => p.2 == e)).map Prod.fst)
      obtain ⟨hgrows', hcmds', hself', hasks⟩ := ih (s.askScan h c t j e ((parts.filter (fun p => p.2 == e)).map Prod.fst))
      refine ⟨hgrows.trans hgrows', hcmds'.trans hcmds, hself'.trans hself, fun n e' hne he' => ?_⟩
      rcases List.mem_cons.mp he' with rfl | he'
      · obtain ⟨q, hq, hmatch⟩ := askScan_asks s h c t j e' ((parts.filter (fun p => p.2 == e')).map Prod.fst) n
          (List.mem_map.mpr ⟨(n, e'), List.mem_filter.mpr ⟨hne, by simp⟩, rfl⟩)
        exact ⟨q, hgrows'.2.2 q hq, hmatch⟩
      · exact hasks n e' hne he'
  obtain ⟨hgrows, hcmds, hself, hasks⟩ := hfold (nubNat (parts.map Prod.snd)) s
  exact ⟨hgrows, hcmds, hself, fun n e hne => hasks n e hne (mem_nubNat (List.mem_map.mpr ⟨(n, e), hne, rfl⟩))⟩

/-- The parts of a command that has just begun: one that another engine serves is awaited of it. -/
theorem awaits_newParts {s : State} {c : Cmd} {t : Table} {y : Layer} {n e : Nat} (j : ScanJob) {parts : List Nat} (hn : n ∈ parts)
    (hserved : t.partServed y c s.self n = some e) : Awaits (s.newParts c t y j parts) n e := by
  constructor
  · refine ⟨_, List.mem_map.mpr ⟨n, hn, rfl⟩, ?_⟩
    rw [hserved]
    exact ⟨rfl, rfl, rfl⟩
  · intro p hp hnum
    obtain ⟨k, -, rfl⟩ := List.mem_map.mp hp
    cases hk : t.partServed y c s.self k with
    | none =>
      rw [hk] at hnum
      obtain rfl : k = n := hnum
      rw [hserved] at hk
      contradiction
    | some e' =>
      rw [hk] at hnum
      obtain rfl : k = n := hnum
      rw [hserved] at hk
      exact (Option.some.inj hk).symm

section
variable {s : State} {h : Nat} {c : Cmd} {t : Table} {y : Layer}

/-- The job of a command, as read, and the parts that it begins with. -/
def readMaskBytes (s : State) (h : Nat) (c : Cmd) : List Byte := (s.readMask (s.actor h c) c).val.map (fun b => if b.p = 0 then b.b else 0xFF)

def readJob (s : State) (h : Nat) (c : Cmd) (t : Table) : ScanJob :=
  scanJob c (s.readQueries (s.actor h c) c t.dim).val (readMaskBytes s h c)

def firstParts (s : State) (h : Nat) (c : Cmd) (t : Table) (y : Layer) : List ScanPart := s.newParts c t y (readJob s h c t) (t.parts y)

/-- The command when it has begun. -/
def begunScan (s : State) (h : Nat) (c : Cmd) (t : Table) (y : Layer) (d : Cmd) : Cmd :=
  { d with
    phase := .stage 1, begun := true, queries := (s.readQueries (s.actor h c) c t.dim).val, mask := readMaskBytes s h c,
    scans := firstParts s h c t y,
    inPoison := (s.readQueries (s.actor h c) c t.dim).val.any (fun q => q.any PF.p) || anyPoison (s.readMask (s.actor h c) c).val }

theorem exec_scoreTopk_begin (hrun : s.running h 3 = some c) (hready : c.phase = .ready) (hrings : s.ringsFree c = true)
    (hview : s.viewOf c = some (t, y)) (hqueries : (s.readQueries (s.actor h c) c t.dim).needs = [])
    (hmask : (s.readMask (s.actor h c) c).needs = []) : ∃ evs e, exec (.scoreTopk h) s =
      .next ((((((s.faults c evs).countPress c.slice c.ctx e).modCmd h (begunScan s h c t y)).askScans h c t (readJob s h c t)
        (awayParts s.self (firstParts s h c t y)))).scanHere h) := by
  refine ⟨(s.readQueries (s.actor h c) c t.dim).evs ++ (s.readMask (s.actor h c) c).evs, if isAffine t.fmt then
    Ev.sum ((s.readQueries (s.actor h c) c t.dim).val.map (fun q => (querySum (readJob s h c t).shape q).2)) else {}, ?_⟩
  rw [show exec (.scoreTopk h) s = execScoreTopk h s from rfl, execScoreTopk, hrun]
  dsimp only
  rw [if_neg (by simp [hready]), hrings, hview]
  dsimp only
  rw [hqueries, hmask]
  rfl

end

theorem scoreTopkAsksPeers : Claims.ScoreTopkAsksPeers := by
  intro s h c t y part e hrun hready hrings hview hqueries hmask hpart hserved hne
  obtain ⟨evs, ev, hexec⟩ := exec_scoreTopk_begin hrun hready hrings hview hqueries hmask
  have hawaits : Awaits (firstParts s h c t y) part e := awaits_newParts (readJob s h c t) hpart hserved
  have haway : (part, e) ∈ awayParts s.self (firstParts s h c t y) := by
    obtain ⟨⟨p, hp, hnum, hsrc, hpend⟩, -⟩ := hawaits
    exact List.mem_map.mpr ⟨p, List.mem_filter.mpr ⟨hp, by simp [hpend, hsrc, hne]⟩, by rw [hnum, hsrc]⟩
  have hbooks : ((s.faults c evs).countPress c.slice c.ctx ev).cmds = s.cmds ∧ ((s.faults c evs).countPress c.slice c.ctx ev).dev = s.dev ∧
      ((s.faults c evs).countPress c.slice c.ctx ev).tables = s.tables ∧ ((s.faults c evs).countPress c.slice c.ctx ev).self = s.self := by
    simp [State.self]
  generalize (s.faults c evs).countPress c.slice c.ctx ev = u at *
  obtain ⟨hcmds, hdev, htables, hself⟩ := hbooks
  obtain ⟨hgrows, hcmds', hself', hasks⟩ := askScans_asks (u.modCmd h (begunScan s h c t y)) h c t (readJob s h c t)
    (awayParts s.self (firstParts s h c t y))
  have hwaiting : Waiting ((u.modCmd h (begunScan s h c t y)).askScans h c t (readJob s h c t) (awayParts s.self (firstParts s h c t y))) h part e :=
    ⟨begunScan s h c t y c, by rw [hcmds']; exact get?_modCmd_self _ (by rw [hcmds]; exact (running_eq_some hrun).1), rfl, hawaits⟩
  obtain ⟨q, hq, hmatch⟩ := hasks part e haway
  generalize (u.modCmd h (begunScan s h c t y)).askScans h c t (readJob s h c t) (awayParts s.self (firstParts s h c t y)) = v at *
  have hv : v.self = s.self := hself'.trans hself
  obtain ⟨⟨hdev', htables', hreqs⟩, d, hd, hphase, hstill, -⟩ := scanHere_waits hwaiting (by rw [hv]; exact hne)
  exact completes_of_exec hexec ⟨hdev'.trans (hgrows.1.trans hdev), htables'.trans (hgrows.2.1.trans htables), d, hd, hphase, hstill,
    q, hreqs q hq, hmatch⟩

/-- Settles O28: the end of a scoring command, and the requests for the parts of other engines. -/
theorem scoringCompletes : Obligations.ScoringCompletes := ⟨scoreTopkCompletes, scoreTopkAsksPeers⟩

end Sys2Proof.Proofs.Scoring
end

section
/-! SCATTER_GRAD (O30). -/

namespace Sys2Proof.Proofs.Scatter

open Sys2Proof Sys2Proof.Machine Sys2Proof.Claims Sys2Proof.Laws Sys2Proof.Proofs.Basic Sys2Proof.Proofs.Layer Sys2Proof.Proofs.Gather

/-! Counting over the positions of a list. -/

/-- What the positions of a list give is counted by what its entries are. -/
theorem length_filterMap_range {α β : Type} (g : Nat → α → Option β) (q : β → Bool) (p : α → Bool) (hg : ∀ i a, (g i a).any q = p a) (l : List α) :
    (((List.range l.length).filterMap (fun i => (l[i]?).bind (g i))).filter q).length = (l.filter p).length := by
  induction l using List.reverseRecOn with
  | nil => rfl
  | append_singleton l a ih =>
    have hinit : (List.range l.length).filterMap (fun i => ((l ++ [a])[i]?).bind (g i)) =
        (List.range l.length).filterMap (fun i => (l[i]?).bind (g i)) :=
      List.filterMap_congr fun i hi => by rw [List.getElem?_append_left (List.mem_range.mp hi)]
    have hlast : (([l.length].filterMap (fun i => ((l ++ [a])[i]?).bind (g i))).filter q).length = ([a].filter p).length := by
      have ha := hg l.length a
      have hget : ((l ++ [a])[l.length]?).bind (g l.length) = g l.length a := by simp
      rw [List.filterMap_cons, hget, List.filter_cons, ← ha]
      cases g l.length a with
      | none => rfl
      | some b =>
        simp only [List.filterMap_nil, List.filter_cons, Option.any_some]
        split <;> rfl
    rw [List.length_append, List.length_singleton, List.range_succ, List.filterMap_append, List.filter_append, List.length_append, hinit, ih,
      hlast, List.filter_append, List.length_append]

/-! Contributions that find room. -/

/-- A table with room in its partition for a list of contributions. -/
def Room (t : Table) (n : Nat) : Prop := (t.contribs.length + n) * recordSize t.dim ≤ t.updPart

theorem nextLevel_of_room {t : Table} {n : Nat} (h : Room t (n + 1)) (owner : Nat) : t.nextLevel owner = some 0 := by
  have hle : (t.atLevel owner 0).length ≤ t.contribs.length := List.length_filter_le ..
  have hroom : t.hasRoom owner 0 = true := by
    refine decide_eq_true ?_
    calc ((t.atLevel owner 0).length + 1) * recordSize t.dim ≤ (t.contribs.length + (n + 1)) * recordSize t.dim :=
          Nat.mul_le_mul_right _ (by omega)
      _ ≤ t.updPart := h
  unfold Table.nextLevel
  dsimp only
  rw [List.singleton_append, List.find?_cons_of_pos hroom]

/-- What buffering leaves alone. -/
def TablesOnly (s u : State) : Prop := u = { s with tables := u.tables, slices := u.slices }

theorem TablesOnly.refl (s : State) : TablesOnly s s := rfl

theorem TablesOnly.trans {s u v : State} (h1 : TablesOnly s u) (h2 : TablesOnly u v) : TablesOnly s v := by
  unfold TablesOnly at *
  rw [h2, h1]

/-- The table with one contribution more. -/
def accepted (k : Contrib) (t : Table) : Table := { t with contribs := t.contribs ++ [k], arrivals := t.arrivals + 1 }

/-- A contribution that finds room in the partition waits there. -/
theorem buffer_room {s : State} {num : Nat} {t : Table} {n : Nat} (ht : Tab.get? s.tables num = some t) (hroom : Room t (n + 1)) (k : Contrib) :
    ∃ u t', s.buffer num k = some u ∧ TablesOnly s u ∧ Tab.get? u.tables num = some t' ∧ t'.step = t.step ∧
      t'.contribs.length = t.contribs.length + 1 ∧ Room t' n := by
  have hbuffer : ∃ k1, s.buffer num k =
      some ((s.modTable num (accepted k1)).skewAccess num k.stack (t.bucket num k.row) k.row false (k.engine != s.self)) := by
    rw [State.buffer, ht]
    dsimp only
    rw [nextLevel_of_room hroom]
    exact ⟨_, rfl⟩
  obtain ⟨k1, hbuffer⟩ := hbuffer
  have hslices := skewAccess_slicesOnly (s.modTable num (accepted k1)) num k.stack (t.bucket num k.row) k.row false (k.engine != s.self)
  generalize (s.modTable num (accepted k1)).skewAccess num k.stack (t.bucket num k.row) k.row false (k.engine != s.self) = u at *
  rw [SlicesOnly] at hslices
  have hlen : (accepted k1 t).contribs.length = t.contribs.length + 1 := List.length_append
  refine ⟨u, accepted k1 t, hbuffer, by rw [TablesOnly, hslices]; rfl, ?_, rfl, hlen, ?_⟩
  · rw [hslices]
    exact (tab_get?_modify ..).trans ((if_pos rfl).trans (by rw [ht]; rfl))
  · rw [Room, hlen, Nat.add_assoc, Nat.add_comm 1]
    exact hroom

/-- All contributions of a list that fits wait in the table. -/
theorem bufferAll_room {num : Nat} (l : List Contrib) {s : State} {t : Table} (ht : Tab.get? s.tables num = some t) (hroom : Room t l.length) :
    ∃ u t', s.bufferAll num l = (u, []) ∧ TablesOnly s u ∧ Tab.get? u.tables num = some t' ∧ t'.step = t.step ∧
      t'.contribs.length = t.contribs.length + l.length := by
  induction l generalizing s t with
  | nil => exact ⟨s, t, rfl, .refl s, ht, rfl, rfl⟩
  | cons k r ih =>
    obtain ⟨u, t', hbuffer, honly, ht', hstep, hlen, hroom'⟩ := buffer_room ht hroom k
    obtain ⟨v, t'', hall, honly', ht'', hstep', hlen'⟩ := ih ht' hroom'
    refine ⟨v, t'', ?_, honly.trans honly', ht'', hstep'.trans hstep, by rw [hlen', hlen, List.length_cons]; omega⟩
    rw [← hall, State.bufferAll, List.foldl_cons, hbuffer]
    rfl

/-! The run. -/

section
variable {s : State} {h : Nat} {c : Cmd} {t : Table} {y : Layer} {r : Acc (List (Idx × List PF))} {w : Acc (List (Option Nat))}

/-- The contribution of position `i`, unless its index is dropped. -/
def contribAt (s : State) (c : Cmd) (t : Table) (y : Layer) (i : Nat) (x : Idx × List PF) : Option (Nat × Loc × Contrib) :=
  if x.1.drop.isSome then none else some (i, c.contribution s.self t y i x.1 x.2)

/-- The contributions of a run. -/
def contribList (s : State) (c : Cmd) (t : Table) (y : Layer) (l : List (Idx × List PF)) : List (Nat × Loc × Contrib) :=
  (List.range l.length).filterMap (fun i => (l[i]?).bind (contribAt s c t y i))

/-- What a contribution to a row of this engine counts. -/
theorem contribList_counts (s : State) (c : Cmd) (t : Table) (y : Layer) (l : List (Idx × List PF)) :
    (contribList s c t y l).length = (l.filter (fun p => p.1.drop.isNone)).length ∧
    ((contribList s c t y l).filter (fun k => k.2.2.elems.any PF.p)).length = (l.filter (fun p => p.1.drop.isNone && p.2.any PF.p)).length := by
  constructor
  · have hall := length_filterMap_range (contribAt s c t y) (fun _ => true) (fun p => p.1.drop.isNone) (fun i a => by
      unfold contribAt
      cases hd : a.1.drop <;> rfl) l
    simpa [contribList] using hall
  · refine length_filterMap_range (contribAt s c t y) _ _ (fun i a => ?_) l
    unfold contribAt
    cases hd : a.1.drop with
    | none => rfl
    | some n => rfl

/-- Whether a contribution's owner is lost to the command. -/
def lostAt (s : State) (c : Cmd) (o : Loc) : Bool :=
  !presentIn s.self c.present o.engine || !presentIn s.self (s.slc c.slice).loss o.engine ||
    (o.engine == s.self && !s.sliceUp (o.stack / 3))

theorem lostAt_here {s : State} {c : Cmd} {o : Loc} (hself : o.engine = s.self) (hup : s.sliceUp (o.stack / 3) = true) : lostAt s c o = false := by
  simp [lostAt, presentIn, hself, hup]

/-- The command when its contributions have been sent on their ways. -/
def scattered (dropped gone poisoned : Nat) (b : List Contrib) (d : Cmd) : Cmd :=
  { d with phase := .stage 1, begun := true, waiting := b, c0 := dropped, c1 := gone, c2 := poisoned }

/-- The state after the contributions of a run: those here are buffered, those of other engines sent. -/
def scatterOn (s s1 : State) (h : Nat) (c : Cmd) (t : Table) (ks : List (Nat × Loc × Contrib)) (dropped : Nat) : State :=
  let b := s1.bufferAll c.table ((ks.filter (fun k => k.2.1.engine == s.self && !lostAt s c k.2.1)).map (fun k => k.2.2))
  ((ks.filter (fun k => k.2.1.engine != s.self && !lostAt s c k.2.1)).foldl
    (fun acc k => acc.sendContribution h c t k.1 k.2.1 k.2.2) (b.1.countStalls c.table b.2)).modCmd h
      (scattered dropped (ks.filter (fun k => lostAt s c k.2.1)).length (ks.filter (fun k => k.2.2.elems.any PF.p)).length b.2)

theorem exec_scatterGrad_ready (hrun : s.running h 4 = some c) (hready : c.phase = .ready) (hrings : s.ringsFree c = true)
    (hview : s.viewOf c = some (t, y)) (hr : r = s.scatterRun h c t.dim)
    (hw : w = s.wheyAll (s.actor h c) c.slice (s.wheyBase c) (r.val.map Prod.fst)) (hneeds : r.needs ++ w.needs = []) :
    exec (.scatterGrad h) s = .next ((scatterOn s ((s.faults c (r.evs ++ w.evs)).wheyAdd w.val) h c t (contribList s c t y r.val)
      (droppedCount (r.val.map Prod.fst))).scatterEnd h) := by
  obtain ⟨hneedsR, hneedsW⟩ := List.append_eq_nil_iff.mp hneeds
  rw [show exec (.scatterGrad h) s = execScatterGrad h s from rfl, execScatterGrad, hrun]
  dsimp only
  rw [if_neg (by simp [hready]), hrings, hview]
  simp only [Option.map_some, Option.getD_some, Bool.not_true, Bool.false_eq_true, if_false]
  rw [← hr, ← hw, hneedsR, hneedsW]
  have hks : contribList s c t y r.val = (List.range r.val.length).filterMap (fun i => match r.val[i]? with
      | some (x, e) => if x.drop.isSome then none else some (i, c.contribution s.self t y i x e)
      | none => none) :=
    List.filterMap_congr fun i _ => by cases r.val[i]? <;> rfl
  rw [hks]
  rfl

/-- With every owner here and up, the contributions are all buffered. -/
theorem scatterOn_here {s1 u : State} {ks : List (Nat × Loc × Contrib)} {dropped : Nat}
    (hhere : ∀ k ∈ ks, k.2.1.engine = s.self ∧ s.sliceUp (k.2.1.stack / 3) = true)
    (hall : s1.bufferAll c.table (ks.map (fun k => k.2.2)) = (u, [])) : scatterOn s s1 h c t ks dropped =
      u.modCmd h (scattered dropped 0 (ks.filter (fun k => k.2.2.elems.any PF.p)).length []) := by
  have hlost : ∀ k ∈ ks, lostAt s c k.2.1 = false := fun k hk => lostAt_here (hhere k hk).1 (hhere k hk).2
  have hmine : ks.filter (fun k => k.2.1.engine == s.self && !lostAt s c k.2.1) = ks :=
    List.filter_eq_self.mpr fun k hk => by simp [(hhere k hk).1, hlost k hk]
  have haway : ks.filter (fun k => k.2.1.engine != s.self && !lostAt s c k.2.1) = [] :=
    List.filter_eq_nil_iff.mpr fun k hk => by simp [(hhere k hk).1]
  have hgone : ks.filter (fun k => lostAt s c k.2.1) = [] := List.filter_eq_nil_iff.mpr fun k hk => by simp [hlost k hk]
  rw [scatterOn, hmine, haway, hgone, hall]
  rfl

end

theorem mem_contribList {s : State} {c : Cmd} {t : Table} {y : Layer} {l : List (Idx × List PF)} {k : Nat × Loc × Contrib}
    (hk : k ∈ contribList s c t y l) :
    ∃ p ∈ l, p.1.drop = none ∧ k.2.1 = t.contribOwner y c.table (BitVec.ofNat 64 (c.fld 0x10 8)) (indexWord p.1.word).row := by
  obtain ⟨i, -, hi⟩ := List.mem_filterMap.mp hk
  obtain ⟨p, hp, hc⟩ := Option.bind_eq_some_iff.mp hi
  refine ⟨p, List.mem_of_getElem? hp, ?_⟩
  unfold contribAt at hc
  split at hc
  · contradiction
  · rename_i hd
    cases hc
    exact ⟨by simpa using hd, rfl⟩

/-- A SCATTER_GRAD that waits for nothing more ends. -/
theorem scatterEnd_ends {s : State} {h : Nat} {c : Cmd} (hc : Tab.get? s.cmds h = some c) (hwait : c.waiting = []) (hpeer : s.awaitsPeer h = false) : s.scatterEnd h = (s.endCmd h (fun d =>
      { d with c1 := d.c1 + d.refusals, status := firstStatus [(d.c1 + d.refusals != 0, 3), (d.c2 != 0, 2), (d.c0 != 0, 1)] })).release (.cmd h) := by
  rw [State.scatterEnd, hc]
  dsimp only
  rw [hwait, hpeer]
  rfl

theorem droppedCount_map (l : List (Idx × List PF)) : droppedCount (l.map Prod.fst) = (l.filter (fun p => p.1.drop.isSome)).length := by
  unfold droppedCount
  rw [List.filter_map, List.length_map]
  rfl

theorem table_of_viewOf {s : State} {c : Cmd} {t : Table} {y : Layer} (h : s.viewOf c = some (t, y)) :
    Tab.get? s.tables c.table = some t ∧ c.view = some y := by
  unfold State.viewOf at h
  split at h
  · cases h
    exact ⟨‹_›, ‹_›⟩
  · contradiction

/-- The state in which the contributions of a command wait: what ends there ends with the counts of its run. -/
theorem scattered_ends {s1 u : State} {h : Nat} {c : Cmd} (hbuf : TablesOnly s1 u) (hget : Tab.get? s1.cmds h = some c)
    (hpeer : s1.awaitsPeer h = false) (hgot : c.got = []) (dropped poisoned : Nat) :
    ∃ v, (u.modCmd h (scattered dropped 0 poisoned [])).scatterEnd h = v ∧ (SamePlaces s1 v ∧ v.vats = s1.vats ∧ v.dev = s1.dev ∧
      v.tables = u.tables) ∧ ∃ d, Done v h d ∧ d.c0 = dropped ∧ d.c1 = 0 ∧ d.c2 = poisoned := by
  rw [TablesOnly] at hbuf
  have hrefusals : ∀ d : Cmd, d.got = [] → d.refusals = 0 := fun d hd => by rw [Cmd.refusals, hd]; rfl
  have hget' : Tab.get? (u.modCmd h (scattered dropped 0 poisoned [])).cmds h = some (scattered dropped 0 poisoned [] c) :=
    get?_modCmd_self _ (by rw [hbuf]; exact hget)
  have hends := scatterEnd_ends hget' rfl (by rw [State.awaitsPeer, hbuf] at *; exact hpeer)
  refine ⟨_, hends, ⟨?_, ?_, ?_, rfl⟩, _, done_endCmd_release _ _ hget', rfl, ?_, rfl⟩
  · rw [samePlaces_release, samePlaces_endCmd, samePlaces_modCmd, hbuf]
    simp [SamePlaces, SameInside]
  · rw [hbuf]; rfl
  · rw [hbuf]; rfl
  · exact (Nat.zero_add _).trans (hrefusals _ hgot)

/-- Settles O30: contributions that all find room wait in the table, and the command ends. -/
theorem scatterGradCompletes : Obligations.ScatterGradCompletes := by
  unfold Obligations.ScatterGradCompletes
  intro s h c t y r w hrun hready hrings hview hr hw hneeds hpeer hgot hhere hempty hroom
  have hexec := exec_scatterGrad_ready hrun hready hrings hview hr hw hneeds
  obtain ⟨hcount, hpoison⟩ := contribList_counts s c t y r.val
  have hks : ∀ k ∈ contribList s c t y r.val, k.2.1.engine = s.self ∧ s.sliceUp (k.2.1.stack / 3) = true := fun k hk => by
    obtain ⟨p, hp, hd, ho⟩ := mem_contribList hk
    rw [ho]
    exact hhere p hp hd
  obtain ⟨hplaces, htables, hvats, hcmds⟩ := (faults_sameBooks s c (r.evs ++ w.evs)).trans (wheyAdd_sameBooks _ w.val)
  have hdev : ∀ a, offWhey w.val a → ((s.faults c (r.evs ++ w.evs)).wheyAdd w.val).dev.byte a = s.dev.byte a := fun a ha =>
    (byte_wheyAdd_of_off (s.faults c (r.evs ++ w.evs)) w.val a ha).trans (by simp)
  have hpeer' : ((s.faults c (r.evs ++ w.evs)).wheyAdd w.val).awaitsPeer h = false := by simpa [State.awaitsPeer] using hpeer
  generalize (s.faults c (r.evs ++ w.evs)).wheyAdd w.val = s1 at *
  have hfits : Room t ((contribList s c t y r.val).map (fun k => k.2.2)).length := by
    have hle : (contribList s c t y r.val).length ≤ r.val.length := hcount ▸ List.length_filter_le ..
    rw [Room, hempty, List.length_nil, Nat.zero_add, List.length_map]
    exact (Nat.mul_le_mul_right _ hle).trans hroom
  obtain ⟨u, t', hall, honly, ht', hstep, hlen⟩ := bufferAll_room ((contribList s c t y r.val).map (fun k => k.2.2))
    (s := s1) (by rw [htables]; exact (table_of_viewOf hview).1) hfits
  rw [scatterOn_here hks hall] at hexec
  obtain ⟨v, hv, ⟨hplaces', hvats', hdev', htables'⟩, d, hdone, hd0, hd1, hd2⟩ :=
    scattered_ends honly (by rw [hcmds]; exact (running_eq_some hrun).1) hpeer' hgot (droppedCount (r.val.map Prod.fst))
      ((contribList s c t y r.val).filter (fun k => k.2.2.elems.any PF.p)).length
  rw [hv] at hexec
  refine completes_of_exec hexec ⟨?_, hvats'.trans hvats, fun a ha => by rw [hdev', hdev a ha], ⟨t', by rw [htables']; exact ht', hstep, ?_⟩,
    d, hdone, hd0.trans (droppedCount_map _), hd1, hd2.trans hpoison⟩
  · unfold SamePlaces SameInside at *
    simp_all
  · rw [hlen, hempty, List.length_map, hcount, List.length_nil, Nat.zero_add]

end Sys2Proof.Proofs.Scatter
end

section
/-! ROW_WRITE (O32). -/

namespace Sys2Proof.Proofs.RowWrites

open Sys2Proof Sys2Proof.Machine Sys2Proof.Claims Sys2Proof.Laws Sys2Proof.Proofs.Basic Sys2Proof.Proofs.Layer

/-! What a row's write leaves alone. -/

/-- What the writes of rows leave alone: all but memory, the frames to peers and the counters of a slice. -/
def WritesOnly (s u : State) : Prop :=
  u = { s with dev := u.dev, optics := u.optics, out := u.out, slices := u.slices } ∧ ∀ num, u.liveLayers num = s.liveLayers num

theorem WritesOnly.refl (s : State) : WritesOnly s s := ⟨rfl, fun _ => rfl⟩

theorem WritesOnly.trans {s u v : State} (h1 : WritesOnly s u) (h2 : WritesOnly u v) : WritesOnly s v := by
  obtain ⟨heq1, hlive1⟩ := h1
  obtain ⟨heq2, hlive2⟩ := h2
  exact ⟨by rw [heq2, heq1], fun num => (hlive2 num).trans (hlive1 num)⟩

theorem WritesOnly.sameInside {s u v : State} (h : WritesOnly u v) (hu : SameInside s u) : SameInside s v := by
  rw [h.1]
  exact hu

theorem WritesOnly.vats {s u : State} (h : WritesOnly s u) : u.vats = s.vats := by rw [h.1]

theorem WritesOnly.tables {s u : State} (h : WritesOnly s u) : u.tables = s.tables := by rw [h.1]

theorem WritesOnly.cmds {s u : State} (h : WritesOnly s u) : u.cmds = s.cmds := by rw [h.1]

theorem map_modSlice {α : Type} (s : State) (n : Nat) (f : Slice → Slice) (g : Slice → α) (hf : ∀ l, g (f l) = g l) :
    (s.modSlice n f).slices.map g = s.slices.map g := by
  rw [State.modSlice, List.map_set, hf]
  rcases lt_or_ge n s.slices.length with hn | hn
  · have hslc : s.slc n = s.slices[n] := by simp [State.slc, hn]
    rw [hslc, ← List.getElem_map g (h := by simpa using hn), List.set_getElem_self]
  · exact List.set_eq_of_length_le (by simpa using hn)

theorem liveLayers_congr {s u : State} (hslices : u.slices.map Slice.layers = s.slices.map Slice.layers) (hadopt : u.adopt = s.adopt)
    (num : Nat) : u.liveLayers num = s.liveLayers num := by
  have hfilter : ∀ v : State, v.slices.filterMap (fun l => Tab.get? l.layers num) = (v.slices.map Slice.layers).filterMap (Tab.get? · num) :=
    fun v => by rw [List.filterMap_map]; rfl
  rw [State.liveLayers, State.liveLayers, hfilter, hfilter, hslices, hadopt]

theorem writeCopies_writesOnly (s : State) (t : Table) (locs : List Loc) (bs : List PB) : WritesOnly s (s.writeCopies t locs bs) := by
  refine ⟨by rw [state_eq_iff]; simp, fun num => liveLayers_congr ?_ ?_ num⟩ <;> simp

theorem toPeer_writesOnly (s : State) (e : Nat) (m : PeerMsg) : WritesOnly s (s.toPeer e m) := by
  refine ⟨by rw [state_eq_iff]; simp, fun num => liveLayers_congr ?_ ?_ num⟩ <;> simp

theorem countTbl_writesOnly (s : State) (n t i k : Nat) : WritesOnly s (s.countTbl n t i k) := by
  refine ⟨by rw [state_eq_iff]; simp, fun num => liveLayers_congr ?_ (by simp) num⟩
  unfold State.countTbl
  split
  · rfl
  · exact map_modSlice _ _ _ _ fun _ => rfl

/-- Sending a row to its other holders touches no byte of memory here. -/
theorem sendReplicas_writesOnly (s : State) (num : Nat) (t : Table) (y : Layer) (present r : Nat) (bs : List PB) :
    WritesOnly s (s.sendReplicas num t y present r bs).1 ∧ (s.sendReplicas num t y present r bs).1.dev = s.dev := by
  refine foldl_rel (fun p q : State × Nat => WritesOnly p.1 q.1 ∧ q.1.dev = p.1.dev) (fun p => ⟨.refl p.1, rfl⟩)
    (fun h1 h2 => ⟨h1.1.trans h2.1, h2.2.trans h1.2⟩) _ (fun p e => ?_) _ (s, 0)
  split
  · exact ⟨toPeer_writesOnly .., by simp⟩
  · exact ⟨.refl p.1, rfl⟩

theorem byte_writeCopies_of_off (s : State) (t : Table) (locs : List Loc) (bs : List PB) (a : Nat)
    (h : ∀ l ∈ locs, off (t.addrOf l false) bs.length a) : (s.writeCopies t locs bs).dev.byte a = s.dev.byte a :=
  foldl_byte _ a _ s fun l hl u => byte_devWrite_of_off u _ a _ (h l (List.mem_filter.mp hl).1)

theorem copiesHere_congr {s u : State} (hboot : u.boot = s.boot) (hlive : ∀ num, u.liveLayers num = s.liveLayers num) (t : Table) (y : Layer)
    (num r : Nat) : u.copiesHere t y num r = s.copiesHere t y num r := by
  rw [State.copiesHere, State.copiesHere, State.copies, State.copies, State.self, State.self, hboot, hlive num]

theorem WritesOnly.copiesHere {s u : State} (h : WritesOnly s u) (t : Table) (y : Layer) (num r : Nat) :
    u.copiesHere t y num r = s.copiesHere t y num r := copiesHere_congr (by rw [h.1]) h.2 t y num r

/-! The rows of a command. -/

/-- One row of a ROW_WRITE: its copies here are written, its other holders told. -/
def writeOne (s : State) (c : Cmd) (t : Table) (y : Layer) (acc : State × Nat × Nat) (r : RowIn) : State × Nat × Nat :=
  let locs := s.copiesHere t y c.table r.row
  let p := (acc.1.writeRow c.table t y r.row (cleanBytes r.bytes)).sendReplicas c.table t y (s.slc c.slice).loss r.row (cleanBytes r.bytes)
  (p.1.countTbl c.slice c.table 2 p.2, acc.2.1 + 1, acc.2.2 + p.2 + (locs.length - (s.upLocs locs).length))

theorem rowWrites_eq (s : State) (c : Cmd) (t : Table) (y : Layer) (rows : List RowIn) :
    s.rowWrites c t y rows = rows.foldl (writeOne s c t y) (s, 0, 0) := rfl

theorem writeOne_spec (s : State) (c : Cmd) {t : Table} {y : Layer} (hy : y.replacing = false) (acc : State × Nat × Nat) (r : RowIn) :
    WritesOnly acc.1 (writeOne s c t y acc r).1 ∧ (writeOne s c t y acc r).2.1 = acc.2.1 + 1 ∧
    ∀ a, (∀ l ∈ acc.1.copiesHere t y c.table r.row, off (t.addrOf l false) r.bytes.length a) →
      (writeOne s c t y acc r).1.dev.byte a = acc.1.dev.byte a := by
  have hrow : acc.1.writeRow c.table t y r.row (cleanBytes r.bytes) =
      acc.1.writeCopies t (acc.1.copiesHere t y c.table r.row) (cleanBytes r.bytes) := by simp [State.writeRow, hy]
  obtain ⟨hsend, hdev⟩ := sendReplicas_writesOnly (acc.1.writeRow c.table t y r.row (cleanBytes r.bytes)) c.table t y (s.slc c.slice).loss r.row
    (cleanBytes r.bytes)
  rw [hrow] at hsend hdev
  refine ⟨?_, rfl, fun a ha => ?_⟩
  · rw [writeOne, hrow]
    exact (writeCopies_writesOnly ..).trans (hsend.trans (countTbl_writesOnly ..))
  · rw [writeOne, hrow]
    dsimp only
    have hcount : ∀ (v : State) k, (v.countTbl c.slice c.table 2 k).dev = v.dev := fun v k => by simp
    rw [hcount, hdev]
    exact byte_writeCopies_of_off _ _ _ _ a fun l hl => by rw [cleanBytes_length]; exact ha l hl

/-- The rows of a table that is not replacing: each counts one, and memory changes only at their copies. -/
theorem rowWrites_spec (s0 : State) (c : Cmd) {t : Table} {y : Layer} (hy : y.replacing = false) (rows : List RowIn) (acc : State × Nat × Nat) :
    WritesOnly acc.1 (rows.foldl (writeOne s0 c t y) acc).1 ∧ (rows.foldl (writeOne s0 c t y) acc).2.1 = acc.2.1 + rows.length ∧
    ∀ a, (∀ x ∈ rows, ∀ l ∈ acc.1.copiesHere t y c.table x.row, off (t.addrOf l false) x.bytes.length a) →
      (rows.foldl (writeOne s0 c t y) acc).1.dev.byte a = acc.1.dev.byte a := by
  induction rows generalizing acc with
  | nil => exact ⟨.refl _, rfl, fun _ _ => rfl⟩
  | cons r rs ih =>
    obtain ⟨hone, hnum, hbyte⟩ := writeOne_spec s0 c hy acc r
    obtain ⟨hrest, hnum', hbyte'⟩ := ih (writeOne s0 c t y acc r)
    refine ⟨hone.trans hrest, ?_, fun a ha => ?_⟩
    · rw [List.foldl_cons, hnum', hnum, List.length_cons]
      omega
    · rw [List.foldl_cons, hbyte' a fun x hx l hl => ha x (List.mem_cons_of_mem _ hx) l (hone.copiesHere .. ▸ hl),
        hbyte a (ha r List.mem_cons_self)]

/-! The command. -/

/-- What a ROW_WRITE that ends counts. -/
def rowsWritten (p : State × Nat × Nat) (l : List Idx × List RowIn) (d : Cmd) : Cmd :=
  { d with
    c0 := p.2.1, c1 := droppedCount l.1, c2 := l.2.length - (l.2.filter (fun x => !x.poisoned)).length,
    c3 := (validRows l.1).length - l.2.length,
    status := firstStatus [(p.2.2 != 0, 3), (l.2.length - (l.2.filter (fun x => !x.poisoned)).length != 0, 2), (droppedCount l.1 != 0, 1)] }

/-- The state before the rows are written: faults recorded, dropped words and conversions counted. -/
def rowBooks (s : State) (c : Cmd) (l : List RowIn) (evs : List FaultEv) (w : List (Option Nat)) : State :=
  ((s.faults c evs).wheyAdd w).countConv c.slice c.ctx (Conv.sum ((l.filter (fun x => !x.poisoned)).map RowIn.conv))

theorem rowBooks_liveLayers (s : State) (c : Cmd) (l : List RowIn) (evs : List FaultEv) (w : List (Option Nat)) (num : Nat) :
    (rowBooks s c l evs w).liveLayers num = s.liveLayers num := by
  have hctx : ∀ (v : State) i k, (v.countCtx c.slice c.ctx i k).slices.map Slice.layers = v.slices.map Slice.layers := fun v i k => by
    unfold State.countCtx
    split
    · rfl
    · exact map_modSlice _ _ _ _ fun _ => rfl
  refine liveLayers_congr ?_ (by simp [rowBooks]) num
  simp [rowBooks, State.countConv, hctx]

section
variable {s : State} {h : Nat} {c : Cmd} {t : Table} {y : Layer} {r : Acc (List Idx × List RowIn)} {w : Acc (List (Option Nat))}

theorem exec_rowWrite_ready (hrun : s.running h 6 = some c) (hready : c.phase = .ready) (hview : s.viewOf c = some (t, y))
    (hy : y.replacing = false) (hr : r = s.rowWriteRun h c (some t)) (hw : w = s.wheyAll (s.actor h c) c.slice (s.wheyBase c) r.val.1)
    (hneeds : r.needs ++ w.needs = []) (hreaders : s.readersBefore h c.table = false)
    (hcopies : ∀ x ∈ r.val.2, x.poisoned = false → s.copyNeeds (.cmd h) t (s.copiesHere t y c.table x.row) = []) :
    ∃ u, u = rowBooks s c r.val.2 (r.evs ++ w.evs) w.val ∧ exec (.rowWrite h) s =
      .next ((((u.rowWrites c t y (r.val.2.filter (fun x => !x.poisoned))).1).endCmd h
        (rowsWritten (u.rowWrites c t y (r.val.2.filter (fun x => !x.poisoned))) r.val)).release (.cmd h)) := by
  obtain ⟨hneedsR, hneedsW⟩ := List.append_eq_nil_iff.mp hneeds
  have hrows : (r.val.2.filter (fun x => !x.poisoned)).flatMap (fun x => s.rowNeeds (.cmd h) c.table t y x.row) = [] :=
    List.flatMap_eq_nil_iff.mpr fun x hx => by
      obtain ⟨hmem, hp⟩ := List.mem_filter.mp hx
      simp [State.rowNeeds, hy, hcopies x hmem (by simpa using hp)]
  refine ⟨_, rfl, ?_⟩
  rw [show exec (.rowWrite h) s = execRowWrite h s from rfl, execRowWrite, hrun]
  dsimp only
  rw [if_neg (by simp [hready]), hview]
  simp only [Option.map_some]
  rw [← hr, ← hw, hneedsR, hneedsW, hrows, hreaders, hy]
  rfl

end

theorem rowsWritten_counts (p : State × Nat × Nat) (l : List Idx × List RowIn) (d : Cmd) :
    (rowsWritten p l d).c0 = p.2.1 ∧ (rowsWritten p l d).c1 = droppedCount l.1 ∧ (rowsWritten p l d).c2 = (l.2.filter RowIn.poisoned).length ∧
      (rowsWritten p l d).c3 = (validRows l.1).length - l.2.length := by
  refine ⟨rfl, rfl, ?_, rfl⟩
  have hsplit := List.length_eq_length_filter_add (l := l.2) RowIn.poisoned
  change l.2.length - (l.2.filter (fun x => !x.poisoned)).length = (l.2.filter RowIn.poisoned).length
  omega

/-- The end of a command keeps all but commands and lines. -/
theorem ended_keeps (u : State) (h : Nat) (f : Cmd → Cmd) (w : Who) :
    (∀ s, SameInside s u → SameInside s ((u.endCmd h f).release w)) ∧ ((u.endCmd h f).release w).vats = u.vats ∧
      ((u.endCmd h f).release w).tables = u.tables ∧ ((u.endCmd h f).release w).dev = u.dev :=
  ⟨fun _ h => h, rfl, rfl, rfl⟩

/-- Settles O32: each row goes to its copies here; the counts are those of the run. -/
theorem rowWriteCompletes : Obligations.RowWriteCompletes := by
  unfold Obligations.RowWriteCompletes
  intro s h c t y r w hrun hready hview hy hr hw hneeds hreaders hcopies
  obtain ⟨u, hu, hexec⟩ := exec_rowWrite_ready hrun hready hview hy hr hw hneeds hreaders hcopies
  have hbooks : SameBooks s u := hu ▸ (faults_sameBooks s c (r.evs ++ w.evs)).trans
    ((wheyAdd_sameBooks _ w.val).trans (countConv_slicesOnly ..).sameBooks)
  have hbyte : ∀ a, offWhey w.val a → u.dev.byte a = s.dev.byte a := fun a ha => by
    rw [hu, rowBooks, (countConv_slicesOnly ..).dev, byte_wheyAdd_of_off _ w.val a ha]
    simp
  have hhere : ∀ x : RowIn, u.copiesHere t y c.table x.row = s.copiesHere t y c.table x.row := fun x =>
    copiesHere_congr (by rw [hu]; simp [rowBooks]) (fun num => hu ▸ rowBooks_liveLayers ..) t y c.table x.row
  obtain ⟨honly, hnum, hrows⟩ := rowWrites_spec u c hy (r.val.2.filter (fun x => !x.poisoned)) (u, 0, 0)
  rw [← rowWrites_eq] at honly hnum hrows
  generalize hp : u.rowWrites c t y (r.val.2.filter (fun x => !x.poisoned)) = p at *
  obtain ⟨hplaces, htables, hvats, hcmds⟩ := hbooks
  have hinside := honly.sameInside hplaces.1
  have hvats' := honly.vats.trans hvats
  have htables' := honly.tables.trans htables
  have hget : Tab.get? p.1.cmds h = some c := by rw [honly.cmds, hcmds, (running_eq_some hrun).1]
  have hrows' : ∀ a, offWhey w.val a → (∀ x ∈ r.val.2, x.poisoned = false → ∀ l ∈ s.copiesHere t y c.table x.row,
      off (t.addrOf l false) x.bytes.length a) → p.1.dev.byte a = s.dev.byte a := fun a hw hl =>
    (hrows a fun x hx l hmem => hl x (List.mem_filter.mp hx).1 (by simpa using (List.mem_filter.mp hx).2) l
      (hhere x ▸ hmem)).trans (hbyte a hw)
  obtain ⟨hc0, hc1, hc2, hc3⟩ := rowsWritten_counts p r.val c
  have hdone := done_endCmd_release (rowsWritten p r.val) (.cmd h) hget
  obtain ⟨hinside', hvats'', htables'', hdev⟩ := ended_keeps p.1 h (rowsWritten p r.val) (.cmd h)
  generalize (p.1.endCmd h (rowsWritten p r.val)).release (.cmd h) = v at *
  rw [← hdev] at hrows'
  exact completes_of_exec hexec ⟨hinside' s hinside, hvats''.trans hvats', htables''.trans htables', hrows', _, hdone,
    hc0.trans (hnum.trans (Nat.zero_add _)), hc1, hc2, hc3⟩

end Sys2Proof.Proofs.RowWrites
end

section
/-! STREAM and MULTICAST (O33). -/

namespace Sys2Proof.Proofs.Streams

open Sys2Proof Sys2Proof.Machine Sys2Proof.Claims Sys2Proof.Laws Sys2Proof.Proofs.Basic Sys2Proof.Proofs.Layer

/-- The status of a delivery: suppressed elements before poisoned ones. -/
theorem firstStatus_delivery (lost bad : Nat) :
    firstStatus [(lost != 0, 0x16), (bad != 0, 2)] = if lost ≠ 0 then 0x16 else if bad ≠ 0 then 2 else 0 := by
  by_cases hlost : lost = 0
  · by_cases hbad : bad = 0
    · simp [firstStatus, hlost, hbad]
    · simp [firstStatus, hlost, hbad]
  · simp [firstStatus, hlost]

/-! STREAM. -/

/-- What a STREAM ends with. -/
def streamed (bad lost : Nat) (d : Cmd) : Cmd :=
  { d with c0 := bad, c1 := lost, status := firstStatus [(lost != 0, 0x16), (bad != 0, 2)] }

/-- The state in which a STREAM's bytes have landed. -/
def streamLanded (s : State) (h hi : Nat) (c : Cmd) (evs : List FaultEv) (w : List (OutWr × List Landing)) : State :=
  State.landAll { (s.faults c (inStreamOrder evs)) with freeCtr := s.freeCtr + hi } c.ctx h w

theorem exec_stream_free {s : State} {h hi : Nat} {c : Cmd} {sp dp : List Piece} {r : Acc (List (List PB))} {w : Acc (List (OutWr × List Landing))}
    (hrun : s.running h 9 = some c) (hrings : s.ringsFree c = true)
    (hhi : hi = if c.fld 0x28 8 = 0 then descLen (c.descs.take 64) else c.fld 0x20 8 + c.fld 0x28 8)
    (hsp : sp = windowPieces (c.descs.take 64) (c.fld 0x20 8) hi) (hdp : dp = windowPieces (c.descs.drop 64) (c.fld 0x20 8) hi)
    (hr : r = s.readPieces (s.actor h c) c.slice (c.descs.take 64) sp)
    (hw : w = Acc.list (dp.map (fun p => s.writePiece (s.actor h c) c.slice (c.descs.drop 64) p
      (openBytes s.freeCtr sp dp p ((r.val.flatten.drop (p.off - c.fld 0x20 8)).take p.len))))) (hneeds : r.needs ++ w.needs = []) :
    exec (.stream h) s = .next (((streamLanded s h hi c (r.evs ++ w.evs) w.val).endCmd h
      (streamed (countElems (List.zip sp (r.val.map anyPoison))) (countElems (List.zip dp (w.val.map suppressedPiece))))).release (.cmd h)) := by
  rw [show exec (.stream h) s = execStream h s from rfl, execStream, hrun]
  dsimp only
  rw [hrings, ← hhi, ← hsp, ← hdp, ← hr, ← hw, hneeds]
  rfl

theorem streamCompletes : Claims.StreamCompletes := by
  unfold Claims.StreamCompletes
  intro s h hi c sp dp r w hrun hrings hhi hsp hdp hr hw hneeds
  have hbooks : SameBooks s (streamLanded s h hi c (r.evs ++ w.evs) w.val) :=
    (faults_sameBooks s c (inStreamOrder (r.evs ++ w.evs))).trans (landAll_sameBooks { s.faults c _ with freeCtr := s.freeCtr + hi } c.ctx h w.val)
  have hget := hbooks.cmds ▸ (running_eq_some hrun).1
  obtain ⟨hplaces, htables, hvats⟩ := hbooks.endCmd_release h
    (streamed (countElems (List.zip sp (r.val.map anyPoison))) (countElems (List.zip dp (w.val.map suppressedPiece)))) (.cmd h)
  refine completes_of_exec (exec_stream_free hrun hrings hhi hsp hdp hr hw hneeds)
    ⟨hplaces, htables, hvats, fun a hoff => ?_, _, done_endCmd_release _ _ hget, rfl, rfl, firstStatus_delivery ..⟩
  have hfaults : (s.faults c (inStreamOrder (r.evs ++ w.evs))).dev = s.dev := by simp
  exact (byte_landAll_of_off _ _ _ _ a hoff).trans (congrArg (Mem.byte · a) hfaults)

/-! MULTICAST. -/

/-- A MULTICAST that begins, with the rings of its tree. -/
def multicastBegun (ns : List McNode) (d : Cmd) : Cmd := { d with phase := .stage 1, begun := true, nodes := ns }

theorem multicastBegins {s : State} {h : Nat} {c : Cmd} (hrun : s.running h 0xA = some c) (hphase : c.phase = .ready)
    (hrings : s.ringsFree c = true) : Completes (.multicast h) s (fun t => t = { s with cmds := t.cmds } ∧
      ∃ d, Tab.get? t.cmds h = some d ∧ d.phase = .stage 1 ∧ d.begun = true ∧ ∀ m, multicastTree c = some m →
        d.nodes.length = (treeSpan c.image m).2 ∧ ∀ i n, d.nodes[i]? = some n → n.got = 0 ∧ n.put = 0 ∧
          n.ring = (if nodeIsSlot (treeNode c.image m i) then {} else c.mcRing (nodeVat c.image m i))) := by
  have hexec : exec (.multicast h) s = .next (s.modCmd h (multicastBegun (((multicastTree c).map c.mcNodes).getD []))) := by
    rw [show exec (.multicast h) s = execMulticast h s from rfl, execMulticast, hrun]
    dsimp only
    rw [if_neg (by simp [hphase]), if_neg (by simp [hrings])]
    rfl
  refine completes_of_exec hexec ⟨rfl, _, get?_modCmd_self _ (running_eq_some hrun).1, rfl, rfl, fun m hm => ?_⟩
  simp only [multicastBegun, hm, Option.map_some, Option.getD_some, Cmd.mcNodes, List.length_map, List.length_range, List.getElem?_map,
    Option.map_eq_some_iff]
  refine ⟨trivial, fun i n hn => ?_⟩
  obtain ⟨j, hj, rfl⟩ := hn
  obtain ⟨-, rfl⟩ := List.getElem?_eq_some_iff.mp hj
  exact ⟨rfl, rfl, by rw [List.getElem_range]⟩

/-- What a MULTICAST ends with. -/
def multicastEnded (c d : Cmd) : Cmd :=
  { d with c0 := c.poisonedElems, c1 := c.lostElems, status := firstStatus [(c.lostElems != 0, 0x16), (c.poisonedElems != 0, 2)] }

section
variable {s : State} {h m : Nat} {c : Cmd} (hrun : s.running h 0xA = some c) (hphase : c.phase = .stage 1) (htree : multicastTree c = some m)
include hrun hphase

theorem exec_multicast_begun : exec (.multicast h) s = .next (s.multicastEnd h) := by
  rw [show exec (.multicast h) s = execMulticast h s from rfl, execMulticast, hrun]
  dsimp only
  rw [if_pos (by simp [hphase])]

include htree

theorem multicastEnd_eq : s.multicastEnd h = if !c.mcDone m ∨ s.writesOut h then s else (s.endCmd h (multicastEnded c)).release (.cmd h) := by
  rw [State.multicastEnd, hrun]
  dsimp only
  rw [htree]
  dsimp only
  simp only [hphase, ne_eq, not_true_eq_false, false_or]
  rfl

theorem multicastEnds (hdone : c.mcDone m = true) (hout : ∀ v ∈ s.hostWr, v.h ≠ h) :
    Completes (.multicast h) s (fun t => SamePlaces s t ∧ t.dev = s.dev ∧ ∃ d, Done t h d ∧ d.c0 = c.poisonedElems ∧ d.c1 = c.lostElems ∧
      d.c2 = c.c2 ∧ d.status = (if c.lostElems ≠ 0 then 0x16 else if c.poisonedElems ≠ 0 then 2 else 0)) := by
  have hnone : s.writesOut h = false := by simpa [State.writesOut] using hout
  refine completes_of_exec (exec_multicast_begun hrun hphase) ?_
  rw [multicastEnd_eq hrun hphase htree, if_neg (by simp [hdone, hnone])]
  exact ⟨by simp [SamePlaces, SameInside], rfl, _, done_endCmd_release _ _ (running_eq_some hrun).1, rfl, rfl, rfl, firstStatus_delivery ..⟩

theorem multicastGoesOn (hbusy : c.mcDone m = false ∨ ∃ v ∈ s.hostWr, v.h = h) : Gives (.multicast h) s s := by
  rw [Gives, exec_multicast_begun hrun hphase, multicastEnd_eq hrun hphase htree, if_pos]
  simpa [State.writesOut] using hbusy

/-- A MULTICAST some of whose subtrees are detached. -/
def withoutHolders (tops : List Nat) (d : Cmd) : Cmd :=
  { d with
    detached := d.detached ++ tops, c2 := d.c2 + tops.length,
    nodes := (List.range d.nodes.length).map (fun i =>
      let n := d.nodes.getD i {}
      if tops.contains i then { n with since := none } else n) }

theorem detachTimeoutDetaches (hdetach : c.fld 0xC 4 ≠ 0) : Completes (.detachTimeout h) s (fun t => t = { s with cmds := t.cmds } ∧
    ∃ d, Tab.get? t.cmds h = some d ∧ d.phase = .stage 1 ∧ d.detached = c.detached ++ s.detaches c m ∧
      d.c2 = c.c2 + (s.detaches c m).length) := by
  have hexec : exec (.detachTimeout h) s = .next (s.modCmd h (withoutHolders (s.detaches c m))) := by
    rw [show exec (.detachTimeout h) s = execDetachTimeout h s from rfl, execDetachTimeout, hrun]
    dsimp only
    rw [htree]
    dsimp only
    rw [if_neg (by simp [hphase, hdetach])]
    rfl
  exact completes_of_exec hexec ⟨rfl, _, get?_modCmd_self _ (running_eq_some hrun).1, hphase, rfl, rfl⟩

end

theorem multicastCompletes : Claims.MulticastCompletes := by
  intro s h c hrun
  refine ⟨multicastBegins hrun, fun m hphase htree => ⟨multicastEnds hrun hphase htree, multicastGoesOn hrun hphase htree, ?_⟩⟩
  exact detachTimeoutDetaches hrun hphase htree

/-- Settles O33: a STREAM in one command; a MULTICAST's beginning, its end and its detached subtrees. -/
theorem deliveriesComplete : Obligations.DeliveriesComplete := ⟨streamCompletes, multicastCompletes⟩

end Sys2Proof.Proofs.Streams
end

section
/-! TILE_READ, TILE_WRITE (O34) and BARRIER (O35). -/

namespace Sys2Proof.Proofs.Tiles

open Sys2Proof Sys2Proof.Machine Sys2Proof.Claims Sys2Proof.Laws Sys2Proof.Proofs.Basic Sys2Proof.Proofs.Layer

/-! TILE_READ. -/

/-- What a TILE_READ ends with. -/
def tileShown (x : Nat) (rows : List AccRow) (suppressed : Bool) (d : Cmd) : Cmd :=
  { d with
    c0 := rows.length - (rows.filter (fun r => writtenAway r x)).length,
    detail := if !(rows.filter (fun r => writtenAway r x)).isEmpty && !suppressed then 3 else 0,
    status := firstStatus [(suppressed, 0x16), (!(rows.filter (fun r => writtenAway r x)).isEmpty, 0x19)] }

theorem tileShown_counts (x : Nat) (rows : List AccRow) (suppressed : Bool) (d : Cmd) :
    (tileShown x rows suppressed d).c0 = (rows.filter (fun r => !writtenAway r x)).length ∧
    (tileShown x rows suppressed d).status = if suppressed then 0x16 else if rows.any (fun r => writtenAway r x) then 0x19 else 0 := by
  constructor
  · have hsplit := List.length_eq_length_filter_add (l := rows) (fun r => writtenAway r x)
    change rows.length - (rows.filter (fun r => writtenAway r x)).length = _
    omega
  · have hany : (!(rows.filter (fun r => writtenAway r x)).isEmpty) = rows.any (fun r => writtenAway r x) := by
      rw [Bool.eq_iff_iff]
      simp
    simp only [tileShown, hany]
    rfl

theorem exec_tileRead_free {s : State} {h : Nat} {c : Cmd} {rows : List AccRow} {w : Acc (List (OutWr × List Landing))}
    (hrun : s.running h 0xB = some c) (hheld : s.tileHeld h c.tileVat = false) (hrings : s.ringsFree c = true)
    (hrows : rows = (List.range (c.fld 0xC 1)).map (fun i =>
      Tab.getD (if bitAt (c.fld 0xA 1) 0 then (s.vat c.tileVat).shadow else (s.vat c.tileVat).work) (c.fld 0xB 1 + i) AccRow.zero))
    (hw : w = s.outAcc (s.actor h c) ((List.range rows.length).map (fun i => OutWr.mk (c.tileVat / 16) (c.fld 0x10 8 + 1088 * i)
      (rowRecord ((rows.map (fun r => if writtenAway r c.ctx then AccRow.zero else r)).getD i AccRow.zero)) 9 [c.fld 0xB 1 + i, 0] 1)))
    (hneeds : w.needs = []) : exec (.tileRead h) s = .next ((((s.faults c w.evs).landAll c.ctx h w.val).endCmd h
      (tileShown c.ctx rows (anySuppressed w.val))).release (.cmd h)) := by
  rw [show exec (.tileRead h) s = execTileRead h s from rfl, execTileRead, hrun]
  dsimp only
  rw [hheld, hrings, ← hrows]
  simp only [List.length_map, Bool.not_true, Bool.or_self, Bool.false_eq_true, if_false]
  rw [← hw, hneeds]
  rfl

theorem tileReadCompletes : Claims.TileReadCompletes := by
  intro s h c rows w hrun hheld hrings hrows hw hneeds
  have hbooks := (faults_sameBooks s c w.evs).trans (landAll_sameBooks (s.faults c w.evs) c.ctx h w.val)
  have hget := hbooks.cmds ▸ (running_eq_some hrun).1
  obtain ⟨hplaces, htables, hvats⟩ := hbooks.endCmd_release h (tileShown c.ctx rows (anySuppressed w.val)) (.cmd h)
  obtain ⟨hc0, hstatus⟩ := tileShown_counts c.ctx rows (anySuppressed w.val) c
  refine completes_of_exec (exec_tileRead_free hrun hheld hrings hrows hw hneeds)
    ⟨hplaces, htables, hvats, fun a hoff => ?_, _, done_endCmd_release _ _ hget, hc0, hstatus⟩
  have hfaults : (s.faults c w.evs).dev = s.dev := by simp
  exact (byte_landAll_of_off _ _ _ _ a hoff).trans (congrArg (Mem.byte · a) hfaults)

/-! TILE_WRITE. -/

/-- Setting `n` entries from `r0` on: each reads back, the others stay. -/
theorem getD_foldl_set {α : Type} (d : α) (f : Nat → α) (r0 n : Nat) (t : Tab α) (j : Nat) :
    Tab.getD ((List.range n).foldl (fun acc i => Tab.set acc (r0 + i) (f i)) t) j d =
      if r0 ≤ j ∧ j < r0 + n then f (j - r0) else Tab.getD t j d := by
  induction n with
  | zero => rw [if_neg (by omega)]; rfl
  | succ n ih =>
    rw [List.range_succ, List.foldl_append, List.foldl_cons, List.foldl_nil]
    by_cases hj : j = r0 + n
    · subst hj
      rw [tab_getD_set_self, if_pos (by omega), Nat.add_sub_cancel_left]
    · rw [tab_getD_set_other _ _ _ _ _ hj, ih]
      congr 1
      rw [eq_iff_iff]
      omega

/-- The working set with the rows of a TILE_WRITE. -/
def tileSet (c : Cmd) (l : List (List PB)) (work : Tab AccRow) : Tab AccRow :=
  (List.range (c.fld 0xC 1)).foldl
    (fun acc i => Tab.set acc (c.fld 0xB 1 + i) (recordRow (l.getD i []) c.ctx (bitAt (c.fld 0xA 1) 1))) work

/-- What a TILE_WRITE ends with. -/
def tileTaken (n : Nat) (bad : Bool) (d : Cmd) : Cmd := { d with c0 := n, status := firstStatus [(bad, 2)] }

/-- The state with the working set of a vat replaced. -/
def withWork (s : State) (v : Nat) (vat : Vat) (work : Tab AccRow) : State := { s with vats := Tab.set s.vats v { vat with work := work } }

theorem exec_tileWrite_free {s : State} {h : Nat} {c : Cmd} {r : Acc (List (List PB))} (hrun : s.running h 0xC = some c)
    (hheld : s.tileHeld h c.tileVat = false) (hrings : s.ringsFree c = true)
    (hr : r = Acc.list ((List.range (c.fld 0xC 1)).map (fun i => (s.ctxRead (s.actor h c) (c.tileVat / 16) 9 [c.fld 0xB 1 + i, 0]
      (c.fld 0x10 8 + 1088 * i) 1088).recoord (fun x => [c.fld 0xB 1 + i, x - (c.fld 0x10 8 + 1088 * i)])))) (hneeds : r.needs = [])
    (hreserved : ∀ l ∈ r.val, reservedSet l = false) (harmed : armedAway (s.vat c.tileVat) c.ctx (c.fld 0xB 1) (c.fld 0xC 1) = false) :
    exec (.tileWrite h) s = .next (((withWork (s.faults c r.evs) c.tileVat (s.vat c.tileVat)
      (tileSet c r.val (s.vat c.tileVat).work)).endCmd h (tileTaken (c.fld 0xC 1) (r.val.any anyPoison))).release (.cmd h)) := by
  have hnone : r.val.any reservedSet = false := by simpa using hreserved
  rw [show exec (.tileWrite h) s = execTileWrite h s from rfl, execTileWrite, hrun]
  dsimp only
  rw [hheld, hrings, ← hr, hneeds, hnone, harmed]
  rfl

theorem withWork_keeps {s t : State} (hbooks : SameBooks s t) (hdev : t.dev = s.dev) (v : Nat) (work : Tab AccRow) :
    SamePlaces s (withWork t v (s.vat v) work) ∧ (withWork t v (s.vat v) work).tables = s.tables ∧
    (withWork t v (s.vat v) work).dev = s.dev ∧
    (∀ u, (withWork t v (s.vat v) work).vat u = if u = v then { s.vat v with work := work } else s.vat u) := by
  obtain ⟨hplaces, htables, hvats, -⟩ := hbooks
  refine ⟨(samePlaces_vats ..).mpr hplaces, htables, hdev, fun u => ?_⟩
  rw [State.vat, withWork, hvats]
  split
  · rename_i hu
    rw [hu, tab_getD_set_self]
  · rename_i hu
    exact tab_getD_set_other _ _ _ _ _ hu

/-- The end of a command keeps all but commands and lines. -/
theorem ended_places (u : State) (h : Nat) (f : Cmd → Cmd) (w : Who) :
    (∀ s, SamePlaces s u → SamePlaces s ((u.endCmd h f).release w)) ∧ ((u.endCmd h f).release w).tables = u.tables ∧
      ((u.endCmd h f).release w).dev = u.dev ∧ ∀ v, ((u.endCmd h f).release w).vat v = u.vat v :=
  ⟨fun _ h => h, rfl, rfl, fun _ => rfl⟩

theorem tileWriteCompletes : Claims.TileWriteCompletes := by
  intro s h c r hrun hheld hrings hr hneeds hreserved harmed
  have hexec := exec_tileWrite_free hrun hheld hrings hr hneeds hreserved harmed
  have hbooks := faults_sameBooks s c r.evs
  have hget : Tab.get? (withWork (s.faults c r.evs) c.tileVat (s.vat c.tileVat) (tileSet c r.val (s.vat c.tileVat).work)).cmds h = some c :=
    hbooks.cmds ▸ (running_eq_some hrun).1
  have hdone := done_endCmd_release (tileTaken (c.fld 0xC 1) (r.val.any anyPoison)) (.cmd h) hget
  obtain ⟨hplaces, htables, hdev, hvat⟩ := withWork_keeps hbooks (by simp) c.tileVat (tileSet c r.val (s.vat c.tileVat).work)
  generalize withWork (s.faults c r.evs) c.tileVat (s.vat c.tileVat) (tileSet c r.val (s.vat c.tileVat).work) = u at *
  obtain ⟨hplaces', htables', hdev', hvat'⟩ := ended_places u h (tileTaken (c.fld 0xC 1) (r.val.any anyPoison)) (.cmd h)
  generalize (u.endCmd h (tileTaken (c.fld 0xC 1) (r.val.any anyPoison))).release (.cmd h) = t at *
  refine completes_of_exec hexec ⟨hplaces' s hplaces, htables'.trans htables, hdev'.trans hdev,
    fun v hv => (hvat' v).trans ((hvat v).trans (if_neg hv)), ?_, fun i hi => ?_, _, hdone, rfl, rfl⟩
  · rw [hvat', hvat, if_pos rfl]
  · rw [hvat', hvat, if_pos rfl]
    change Tab.getD (tileSet c r.val (s.vat c.tileVat).work) _ _ = _
    rw [tileSet, getD_foldl_set, if_pos (by omega), Nat.add_sub_cancel_left]

/-- Settles O34: what a TILE_READ shows lands, and what a TILE_WRITE reads is set. -/
theorem tilesAreMoved : Obligations.TilesAreMoved := ⟨tileReadCompletes, tileWriteCompletes⟩

/-! BARRIER. -/

theorem running_of_ended {s : State} {h : Nat} {d : Cmd} (hd : Done s h d) (op : Nat) : s.running h op = none := by
  obtain ⟨hget, hphase⟩ := hd
  rw [State.running, hget]
  dsimp only
  rw [if_neg]
  intro hc
  simp [Cmd.ended, hphase] at hc

/-- What a BARRIER sends: nothing but frames and messages leaves. -/
theorem sendArrivals_rel (s : State) (l : List Nat) (m : PeerMsg) : ∃ o p,
    l.foldl (fun acc e => acc.toPeer e m) s = { s with optics := o, out := p } := by
  refine ⟨(l.foldl (fun acc e => acc.toPeer e m) s).optics, (l.foldl (fun acc e => acc.toPeer e m) s).out, ?_⟩
  refine foldl_rel (fun s t => t = { s with optics := t.optics, out := t.out }) (fun _ => rfl)
    (fun h1 h2 => by rw [h2, h1]) _ (fun s e => ?_) l s
  rw [state_eq_iff]
  simp

/-- A group BARRIER that is locally reached. -/
def reachedCmd (tick : Nat) (d : Cmd) : Cmd := { d with phase := .stage 1, since := tick }

section
variable {s : State} {h : Nat} {c : Cmd} (hrun : s.running h 0x12 = some c)
include hrun

theorem barrierReach_queue (hready : c.phase = .ready) (hbusy : s.earlierBusy h c = false) (hscope : bitAt (c.fld 0xA 1) 0 = false) :
    s.barrierReach h = (s.endCmd h id).release (.cmd h) := by
  rw [State.barrierReach, hrun]
  dsimp only
  rw [if_neg (by simp [hready, hbusy]), if_pos (by simp [hscope])]

theorem barrierReach_group (hready : c.phase = .ready) (hbusy : s.earlierBusy h c = false) (hscope : bitAt (c.fld 0xA 1) 0 = true) :
    s.barrierReach h = (((peersOf c.image).foldl (fun acc e => acc.toPeer e (.arrival c.tag)) s).modCmd h
      (reachedCmd (s.slc c.slice).tick)).barrierTry h := by
  rw [State.barrierReach, hrun]
  dsimp only
  rw [if_neg (by simp [hready, hbusy]), if_neg (by simp [hscope])]
  rfl

theorem barrierReach_begun (hphase : c.phase ≠ .ready) : s.barrierReach h = s := by
  rw [State.barrierReach, hrun]
  dsimp only
  rw [if_pos (Or.inl hphase)]

theorem barrierTry_waits (hmore : (s.barrierLost c).length + (s.barrierHeld c).length < (peersOf c.image).length) : s.barrierTry h = s := by
  rw [State.barrierTry, hrun]
  dsimp only
  rw [if_pos (Or.inr hmore)]

end

theorem barrierTry_not_running {s : State} {h : Nat} (hrun : s.running h 0x12 = none) : s.barrierTry h = s := by
  rw [State.barrierTry, hrun]

/-- Whether a BARRIER still waits for arrivals. -/
theorem barrierTry_reached {s : State} {h : Nat} {c : Cmd} (hget : Tab.get? s.cmds h = some c) (o : Tab OptPort) (p : List Msg) (tick : Nat)
    (hmore : (s.barrierLost c).length + (s.barrierHeld c).length < (peersOf c.image).length) :
    (State.modCmd { s with optics := o, out := p } h (reachedCmd tick)).barrierTry h =
      State.modCmd { s with optics := o, out := p } h (reachedCmd tick) := by
  cases hrun : (State.modCmd { s with optics := o, out := p } h (reachedCmd tick)).running h 0x12 with
  | none => exact barrierTry_not_running hrun
  | some d =>
    have hd : d = reachedCmd tick c := by
      have hgot := (running_eq_some hrun).1
      rw [get?_modCmd_self (s := { s with optics := o, out := p }) (reachedCmd tick) hget] at hgot
      exact (Option.some.inj hgot).symm
    refine barrierTry_waits hrun ?_
    rw [hd]
    exact hmore

theorem barrierIsReached : Claims.BarrierIsReached := by
  intro s h c hrun hready hbusy
  have hget := (running_eq_some hrun).1
  refine ⟨fun hscope => ?_, fun hscope hmore => ?_⟩
  · have hreach := barrierReach_queue hrun hready hbusy hscope
    have hdone := done_endCmd_release id (.cmd h) hget
    have hends : SamePlaces s ((s.endCmd h id).release (.cmd h)) ∧ ((s.endCmd h id).release (.cmd h)).dev = s.dev :=
      ⟨by simp [SamePlaces, SameInside], rfl⟩
    refine ⟨completes_of_exec (t := (s.endCmd h id).release (.cmd h)) (congrArg Host.Outcome.next hreach) ⟨hends.1, hends.2, _, hdone, rfl⟩,
      completes_of_exec (t := (s.endCmd h id).release (.cmd h)) (congrArg Host.Outcome.next ?_) ⟨hends.1, hends.2, _, hdone, rfl⟩⟩
    rw [hreach]
    exact barrierTry_not_running (running_of_ended hdone 0x12)
  · have hreach := barrierReach_group hrun hready hbusy hscope
    obtain ⟨o, p, hsend⟩ := sendArrivals_rel s (peersOf c.image) (.arrival c.tag)
    rw [hsend, barrierTry_reached hget o p _ hmore] at hreach
    refine completes_of_exec (congrArg Host.Outcome.next hreach) ⟨by simp [SameInside], by rw [hsend]; rfl, ?_⟩
    exact get?_modCmd_self (s := { s with optics := o, out := p }) (reachedCmd (s.slc c.slice).tick) hget

/-- What a group BARRIER ends with. -/
def barrierEnded (held lost : List Nat) (d : Cmd) : Cmd :=
  { d with c0 := held.length, c1 := lost.length, status := firstStatus [(!lost.isEmpty, 3)] }

/-- What a group BARRIER that times out ends with. -/
def barrierTimedOut (held lost : List Nat) (d : Cmd) : Cmd := { d with c0 := held.length, c1 := lost.length, status := 0x14 }

theorem barrierEnded_status (held lost : List Nat) (d : Cmd) : (barrierEnded held lost d).status = if lost.length ≠ 0 then 3 else 0 := by
  cases lost <;> rfl

/-- The state without the arrivals of a tag. -/
def withoutTag (s : State) (tag : Word) : State := { s with arrivals := s.arrivals.filter (fun p => p.2 != tag) }

theorem freeArrivals_of_nil {s : State} (h : s.stalledArr = []) : s.freeArrivals = s := by
  rw [State.freeArrivals, h, List.foldl_nil, ← h]

theorem barrierTry_complete {s : State} {h : Nat} {c : Cmd} (hrun : s.running h 0x12 = some c) (hphase : c.phase = .stage 1)
    (hall : (peersOf c.image).length ≤ (s.barrierLost c).length + (s.barrierHeld c).length) (hstalled : s.stalledArr = []) :
    s.barrierTry h = ((withoutTag s c.tag).endCmd h (barrierEnded (s.barrierHeld c) (s.barrierLost c))).release (.cmd h) := by
  rw [State.barrierTry, hrun]
  dsimp only
  rw [if_neg (by simp [hphase, hall])]
  exact freeArrivals_of_nil hstalled

theorem barrierTimesOut {s : State} {h : Nat} {c : Cmd} (hrun : s.running h 0x12 = some c) (hphase : c.phase = .stage 1) (htimeout : c.fld 0xC 4 ≠ 0)
    (hdue : c.since + c.fld 0xC 4 ≤ (s.slc c.slice).tick) (hmore : (s.barrierLost c).length + (s.barrierIn c).length < (peersOf c.image).length) :
    Completes (.barrierTimeout h) s (fun t => SamePlaces s t ∧ t.dev = s.dev ∧ t.arrivals = s.arrivals ∧
      ∃ d, Done t h d ∧ d.status = 0x14 ∧ d.c0 = (s.barrierIn c).length ∧ d.c1 = (s.barrierLost c).length) := by
  have hexec : exec (.barrierTimeout h) s =
      .next ((s.endCmd h (barrierTimedOut (s.barrierIn c) (s.barrierLost c))).release (.cmd h)) := by
    rw [show exec (.barrierTimeout h) s = execBarrierTimeout h s from rfl, execBarrierTimeout, hrun]
    exact if_pos ⟨hphase, htimeout, hdue, hmore⟩
  exact completes_of_exec hexec ⟨by simp [SamePlaces, SameInside], rfl, rfl, _, done_endCmd_release _ _ (running_eq_some hrun).1, rfl, rfl, rfl⟩

theorem holdArrival_held {s : State} (a : Nat × Word) (hearly : s.earlyTags.length < 256) :
    a ∈ (s.holdArrival a).arrivals ∧ s.holdArrival a = { s with arrivals := (s.holdArrival a).arrivals } ∧
      ∀ p ∈ s.arrivals, p ∈ (s.holdArrival a).arrivals := by
  unfold State.holdArrival
  dsimp only
  split
  · rename_i hin
    exact ⟨by simpa using hin, rfl, fun p hp => hp⟩
  · rw [if_pos (by simp [hearly])]
    exact ⟨by simp, rfl, fun p hp => List.mem_append_left _ hp⟩

theorem arrivalIsHeld {s : State} (src : Nat) (tag : Word) (hpresent : presentIn s.self s.declared src = true) (hcmds : s.cmds = [])
    (hearly : s.earlyTags.length < 256) : Completes (.barrierArrival src tag) s (fun t => (src, tag) ∈ t.arrivals ∧
      t = { s with arrivals := t.arrivals } ∧ (∀ p ∈ s.arrivals, p ∈ t.arrivals)) := by
  obtain ⟨hin, honly, hold⟩ := holdArrival_held (src, tag) hearly
  have hexec : exec (.barrierArrival src tag) s = .next (s.holdArrival (src, tag)) := by
    have hcmds' : (s.holdArrival (src, tag)).cmds = [] := by rw [honly]; exact hcmds
    rw [show exec (.barrierArrival src tag) s = execBarrierArrival src tag s from rfl, execBarrierArrival, if_neg (by simp [hpresent])]
    dsimp only
    rw [hcmds']
    rfl
  exact completes_of_exec hexec ⟨hin, honly, hold⟩

theorem barrierCompletes : Claims.BarrierCompletes := by
  intro s h c
  refine ⟨fun hrun hphase hall hstalled => ?_, barrierTimesOut, arrivalIsHeld⟩
  have hexec : exec (.barrier h) s = .next (((withoutTag s c.tag).endCmd h
      (barrierEnded (s.barrierHeld c) (s.barrierLost c))).release (.cmd h)) := by
    rw [show exec (.barrier h) s = execBarrier h s from rfl, execBarrier, barrierReach_begun hrun (by simp [hphase]),
      barrierTry_complete hrun hphase hall hstalled]
  exact completes_of_exec hexec ⟨by simp [SamePlaces, SameInside, withoutTag], rfl, rfl, _,
    done_endCmd_release (s := withoutTag s c.tag) _ _ (running_eq_some hrun).1, rfl, rfl,
    barrierEnded_status (s.barrierHeld c) (s.barrierLost c) c⟩

/-- Settles O35: a BARRIER's reach, its arrivals, its end and its timeout. -/
theorem barriersComplete : Obligations.BarriersComplete := ⟨barrierIsReached, barrierCompletes⟩

end Sys2Proof.Proofs.Tiles
end

section
/-! Resets (O42). -/

namespace Sys2Proof.Proofs.Resets

open Sys2Proof Sys2Proof.Machine Sys2Proof.Claims Sys2Proof.Laws Sys2Proof.Proofs.Basic Sys2Proof.Proofs.Layer

/-- The messages of lasers that go dark. -/
def darkMsgs (s : State) : List Msg := if s.lit then (List.range 6).map (fun p => Msg.laser p false) else []

theorem foldl_send (l : List Nat) (f : Nat → Msg) (s : State) : l.foldl (fun acc p => acc.send (f p)) s = { s with out := s.out ++ l.map f } := by
  induction l generalizing s with
  | nil => simp
  | cons p r ih => rw [List.foldl_cons, ih]; simp [State.send]

theorem darken_eq (s : State) : s.darken = { s with out := s.out ++ darkMsgs s } := by
  unfold State.darken darkMsgs
  split
  · exact foldl_send ..
  · simp

/-- What a reset leaves. -/
theorem resetAll_eq (s : State) : s.resetAll = { State.reset with
    pending := s.pending, out := s.out ++ darkMsgs s, freeCtr := s.freeCtr, powered := s.powered, boot := { lock := s.boot.lock } } := by
  unfold State.resetAll
  dsimp only
  rw [darken_eq]

theorem porDiscards (s : State) : Completes .por s (fun t => t = { State.reset with
    pending := s.pending, out := t.out, freeCtr := s.freeCtr, boot := { lock := s.boot.lock } } ∧ t.out = s.out ++ darkMsgs s) := by
  refine completes_of_exec (show exec .por s = .next { s.resetAll with powered := true } from rfl) ?_
  rw [resetAll_eq]
  exact ⟨rfl, rfl⟩

theorem engineResetDiscards {s : State} (hpowered : s.powered = true) : Completes .engineReset s (fun t => t = { State.reset with
    pending := s.pending, out := t.out, freeCtr := s.freeCtr, boot := { lock := s.boot.lock } } ∧ t.out = s.out ++ darkMsgs s) := by
  refine completes_of_exec (show exec .engineReset s = .next s.resetAll from if_pos hpowered) ?_
  rw [resetAll_eq, hpowered]
  exact ⟨rfl, rfl⟩

theorem powerOffDiscards (s : State) : Completes .powerOff s (fun t => t = { State.reset with
    pending := s.pending, out := t.out, freeCtr := s.freeCtr, powered := false } ∧ t.out = s.out ++ darkMsgs s) := by
  refine completes_of_exec (show exec .powerOff s = .next { s.resetAll with powered := false, boot := {} } from rfl) ?_
  rw [resetAll_eq]
  exact ⟨rfl, rfl⟩

theorem exec_resetRelease (s : State) (engine gsize : BitVec 8) : exec (.resetRelease engine gsize) s =
    if !s.powered || s.trip || s.boot.step != 0 then .next s
    else .next { s with
      kTick := 0, half := false, boot := { step := 1, strapEngine := engine.toNat, strapGsize := gsize.toNat, lock := true } } := rfl

/-- Settles O42: each reset input, and the release that begins boot. -/
theorem resetsDiscardState : Obligations.ResetsDiscardState := by
  unfold Obligations.ResetsDiscardState
  intro s
  refine ⟨porDiscards s, engineResetDiscards, fun hoff => ?_, powerOffDiscards s, fun engine gsize => ⟨fun hon htrip hstep => ?_, fun hno => ?_⟩⟩
  · exact if_neg (by simp [hoff])
  · rw [Gives, exec_resetRelease, if_neg (by simp [hon, htrip, hstep])]
  · rw [Gives, exec_resetRelease, if_pos]
    simpa [or_assoc] using hno

end Sys2Proof.Proofs.Resets
end

section
/-! Links and their modules: what training, drops and reports change. Boot, restarts and flits build on it. -/

namespace Sys2Proof.Proofs.LinkLayer

open Sys2Proof Sys2Proof.Machine Sys2Proof.Claims Sys2Proof.Laws Sys2Proof.Proofs.Basic Sys2Proof.Proofs.Layer

/-! What is reported. -/

@[simp] theorem errEntry_total (s : State) (a c r : Nat) (d : List Byte) : (s.errEntry a c r d).errs.total = s.errs.total + 1 := by
  simp [State.errEntry]

/-- Nothing but links, modules, error record, trace and messages differs, and no entry of the error record is lost. -/
def LinksOnly (s t : State) : Prop :=
  t = { s with links := t.links, mods := t.mods, errs := t.errs, kpr := t.kpr, msiWait := t.msiWait, out := t.out, trace := t.trace } ∧
    s.errs.total ≤ t.errs.total

theorem LinksOnly.refl (s : State) : LinksOnly s s := ⟨rfl, le_rfl⟩

theorem LinksOnly.trans {s t u : State} (h1 : LinksOnly s t) (h2 : LinksOnly t u) : LinksOnly s u := by
  obtain ⟨heq1, herr1⟩ := h1
  obtain ⟨heq2, herr2⟩ := h2
  exact ⟨by rw [heq2, heq1], herr1.trans herr2⟩

theorem LinksOnly.slices {s t : State} (h : LinksOnly s t) : t.slices = s.slices := by rw [h.1]
theorem LinksOnly.boot {s t : State} (h : LinksOnly s t) : t.boot = s.boot := by rw [h.1]
theorem LinksOnly.slc {s t : State} (h : LinksOnly s t) (n : Nat) : t.slc n = s.slc n := by rw [State.slc, h.slices, State.slc]
theorem LinksOnly.endRuns {s t : State} (h : LinksOnly s t) (e : Option Nat) : t.endRuns e = s.endRuns e := by
  unfold State.endRuns
  split
  · rw [h.slc]
  · rfl

/-- What passes every step of a fold passes the fold. -/
theorem foldl_linksOnly {α : Type} (f : State → α → State) (h : ∀ s a, LinksOnly s (f s a)) (l : List α) (s : State) : LinksOnly s (l.foldl f s) :=
  foldl_rel LinksOnly .refl .trans f h l s

theorem errEntry_linksOnly (s : State) (a c r : Nat) (d : List Byte) : LinksOnly s (s.errEntry a c r d) :=
  ⟨by rw [state_eq_iff]; simp, by simp⟩

theorem traceRec_linksOnly (s : State) (a k x q n o c : Nat) (p : List Byte) : LinksOnly s (s.traceRec a k x q n o c p) :=
  ⟨by rw [state_eq_iff]; simp, by simp⟩

theorem modMod_linksOnly (s : State) (l m : Nat) (f : LinkMod → LinkMod) : LinksOnly s (s.modMod l m f) := ⟨rfl, le_rfl⟩

theorem modLink_linksOnly (s : State) (l : Nat) (f : LinkDir → LinkDir) : LinksOnly s (s.modLink l f) := ⟨rfl, le_rfl⟩

theorem modState_linksOnly (s : State) (l m st : Nat) : LinksOnly s (s.modState l m st) :=
  (modMod_linksOnly ..).trans ((errEntry_linksOnly ..).trans (traceRec_linksOnly ..))

theorem retrain_linksOnly (s : State) (l m : Nat) : LinksOnly s (s.retrain l m) := (modMod_linksOnly ..).trans (modState_linksOnly ..)

theorem linkDrop_linksOnly (s : State) (l : Nat) : LinksOnly s (s.linkDrop l) := by
  unfold State.linkDrop
  dsimp only
  split
  · exact (modLink_linksOnly ..).trans ((errEntry_linksOnly ..).trans (traceRec_linksOnly ..))
  · exact modLink_linksOnly ..

/-! Links and modules that are not named stay. -/

theorem linkMod_congr {s t : State} (h : t.mods = s.mods) (l m : Nat) : t.linkMod l m = s.linkMod l m := by
  rw [State.linkMod, State.linkMod, h]

theorem link_congr {s t : State} (h : t.links = s.links) (l : Nat) : t.link l = s.link l := by rw [State.link, State.link, h]

theorem linkMod_modMod_self (s : State) (l m : Nat) (f : LinkMod → LinkMod) : (s.modMod l m f).linkMod l m = f (s.linkMod l m) :=
  tab_getD_set_self ..

theorem linkMod_modMod_other (s : State) {l m l' m' : Nat} (f : LinkMod → LinkMod) (hne : 8 * l' + m' ≠ 8 * l + m) :
    (s.modMod l m f).linkMod l' m' = s.linkMod l' m' := tab_getD_set_other _ _ _ _ _ hne

theorem link_modLink_self (s : State) (l : Nat) (f : LinkDir → LinkDir) : (s.modLink l f).link l = f (s.link l) := tab_getD_set_self ..

theorem link_modLink_other (s : State) {l l' : Nat} (f : LinkDir → LinkDir) (hne : l' ≠ l) : (s.modLink l f).link l' = s.link l' :=
  tab_getD_set_other _ _ _ _ _ hne

theorem modState_mods (s : State) (l m st : Nat) : (s.modState l m st).mods = (s.modMod l m (fun k => { k with state := st })).mods := by
  simp [State.modState]

theorem linkMod_modState_self (s : State) (l m st : Nat) : (s.modState l m st).linkMod l m = { s.linkMod l m with state := st } := by
  rw [linkMod_congr (modState_mods ..), linkMod_modMod_self]

theorem linkMod_modState_other (s : State) {l m l' m' : Nat} (st : Nat) (hne : 8 * l' + m' ≠ 8 * l + m) :
    (s.modState l m st).linkMod l' m' = s.linkMod l' m' := by
  rw [linkMod_congr (modState_mods ..), linkMod_modMod_other _ _ hne]

theorem modState_links (s : State) (l m st : Nat) : (s.modState l m st).links = s.links := by simp [State.modState]

theorem linkDrop_mods (s : State) (l : Nat) : (s.linkDrop l).mods = s.mods := by
  unfold State.linkDrop
  dsimp only
  split
  · simp
  · simp

theorem linkDrop_links (s : State) (l : Nat) : (s.linkDrop l).links = (s.modLink l (fun d => { d with down := true })).links := by
  unfold State.linkDrop
  dsimp only
  split
  · simp
  · rfl

theorem link_linkDrop_self (s : State) (l : Nat) : ((s.linkDrop l).link l).down = true := by
  rw [link_congr (linkDrop_links ..), link_modLink_self]

theorem link_linkDrop_other (s : State) {l l' : Nat} (hne : l' ≠ l) : (s.linkDrop l).link l' = s.link l' := by
  rw [link_congr (linkDrop_links ..), link_modLink_other _ _ hne]

/-! Training. -/

theorem modulesOf_le (l : Nat) : modulesOf l ≤ 8 := by
  unfold modulesOf
  grind

/-- A module after its training. -/
def trainedMod (fail : Bool) (k : LinkMod) : LinkMod := if k.state = 0 then { k with state := if fail then 3 else k.trained } else k

/-- One module trains. -/
def trainMod (l : Nat) (fail : Bool) (s : State) (m : Nat) : State :=
  if (s.linkMod l m).state = 0 then s.modState l m (if fail then 3 else (s.linkMod l m).trained) else s

theorem trainMod_linksOnly (l : Nat) (fail : Bool) (s : State) (m : Nat) : LinksOnly s (trainMod l fail s m) := by
  unfold trainMod
  split
  · exact modState_linksOnly ..
  · exact .refl s

theorem trainMod_links (l : Nat) (fail : Bool) (s : State) (m : Nat) : (trainMod l fail s m).links = s.links := by
  unfold trainMod
  split
  · exact modState_links ..
  · rfl

theorem linkMod_trainMod (l : Nat) (fail : Bool) (s : State) (m l' m' : Nat) : (trainMod l fail s m).linkMod l' m' =
    if 8 * l' + m' = 8 * l + m then trainedMod fail (s.linkMod l' m') else s.linkMod l' m' := by
  have hkey : ∀ {l' m'}, 8 * l' + m' = 8 * l + m → ∀ u : State, u.linkMod l' m' = u.linkMod l m := fun h u => by
    rw [State.linkMod, State.linkMod, h]
  unfold trainMod
  split
  · rename_i hstate
    by_cases h : 8 * l' + m' = 8 * l + m
    · rw [if_pos h, hkey h, hkey h, linkMod_modState_self, trainedMod, if_pos hstate]
    · rw [if_neg h, linkMod_modState_other _ _ h]
  · rename_i hstate
    split
    · rename_i h
      rw [hkey h, trainedMod, if_neg hstate]
    · rfl

/-- The first `n` modules of a link train. -/
theorem foldl_trainMod (l : Nat) (fail : Bool) (s : State) (n : Nat) :
    ((List.range n).foldl (trainMod l fail) s).links = s.links ∧ ∀ l' m', ((List.range n).foldl (trainMod l fail) s).linkMod l' m' =
      if 8 * l ≤ 8 * l' + m' ∧ 8 * l' + m' < 8 * l + n then trainedMod fail (s.linkMod l' m') else s.linkMod l' m' := by
  induction n with
  | zero => exact ⟨rfl, fun l' m' => by rw [if_neg (by omega)]; rfl⟩
  | succ n ih =>
    obtain ⟨hlinks, hmods⟩ := ih
    rw [List.range_succ, List.foldl_append, List.foldl_cons, List.foldl_nil]
    refine ⟨(trainMod_links ..).trans hlinks, fun l' m' => ?_⟩
    rw [linkMod_trainMod, hmods]
    grind

/-- Whether both ends of a direction that are pool slices run. -/
def endsRun (s : State) (l : Nat) : Bool := s.endRuns (linkEnds l).1 && s.endRuns (linkEnds l).2

/-- The modules of a direction after its training. -/
def trainAll (s : State) (l : Nat) (fail : Bool) : State :=
  if !endsRun s l then { s with links := Tab.set s.links l {} }
  else (List.range (modulesOf l)).foldl (trainMod l fail) { s with links := Tab.set s.links l {} }

theorem linkTrain_eq (s : State) (l : Nat) (fail : Bool) : s.linkTrain l fail =
    if endsRun s l && (List.range (modulesOf l)).any ((trainAll s l fail).carries l) then trainAll s l fail
    else (trainAll s l fail).linkDrop l := rfl

theorem trainAll_spec (s : State) (l : Nat) (fail : Bool) : LinksOnly s (trainAll s l fail) ∧
    (trainAll s l fail).links = Tab.set s.links l {} ∧ ∀ l' m', m' < 8 → (trainAll s l fail).linkMod l' m' =
      if l' = l ∧ m' < modulesOf l ∧ endsRun s l = true then trainedMod fail (s.linkMod l' m') else s.linkMod l' m' := by
  have hset : LinksOnly s { s with links := Tab.set s.links l {} } := ⟨rfl, le_rfl⟩
  have hle := modulesOf_le l
  unfold trainAll
  cases hends : endsRun s l with
  | false =>
    simp only [Bool.not_false, if_true, Bool.false_eq_true, and_false, if_false]
    exact ⟨hset, trivial, fun _ _ _ => rfl⟩
  | true =>
    simp only [Bool.not_true, Bool.false_eq_true, if_false, and_true]
    obtain ⟨hlinks, hmods⟩ := foldl_trainMod l fail { s with links := Tab.set s.links l {} } (modulesOf l)
    refine ⟨hset.trans (foldl_linksOnly _ (trainMod_linksOnly l fail) _ _), hlinks, fun l' m' hm' => ?_⟩
    refine (hmods l' m').trans ?_
    change (if _ then trainedMod fail (s.linkMod l' m') else s.linkMod l' m') = _
    congr 1
    rw [eq_iff_iff]
    omega

/-- What the training of a direction leaves: the direction down unless a module carries flits, its modules trained. -/
theorem linkTrain_spec (s : State) (l : Nat) (fail : Bool) : LinksOnly s (s.linkTrain l fail) ∧
    (∀ l', l' ≠ l → (s.linkTrain l fail).link l' = s.link l') ∧
    (∀ l' m', m' < 8 → (s.linkTrain l fail).linkMod l' m' =
      if l' = l ∧ m' < modulesOf l ∧ endsRun s l = true then trainedMod fail (s.linkMod l' m') else s.linkMod l' m') ∧
    ((s.linkTrain l fail).link l).down = !(endsRun s l && (List.range (modulesOf l)).any ((s.linkTrain l fail).carries l)) := by
  obtain ⟨honly, hlinks, hmods⟩ := trainAll_spec s l fail
  have hlink : ∀ l', l' ≠ l → (trainAll s l fail).link l' = s.link l' := fun l' hne => by
    rw [State.link, hlinks]
    exact tab_getD_set_other _ _ _ _ _ hne
  have hself : ((trainAll s l fail).link l).down = false := by rw [State.link, hlinks, tab_getD_set_self]
  rw [linkTrain_eq]
  split
  · rename_i hup
    exact ⟨honly, hlink, hmods, by rw [hself, hup]; rfl⟩
  · rename_i hdown
    have hcarries : ((trainAll s l fail).linkDrop l).carries l = (trainAll s l fail).carries l := funext fun m => by
      rw [State.carries, State.carries, linkMod_congr (linkDrop_mods ..)]
    refine ⟨honly.trans (linkDrop_linksOnly ..), fun l' hne => (link_linkDrop_other _ hne).trans (hlink l' hne), fun l' m' hm' => ?_, ?_⟩
    · rw [linkMod_congr (linkDrop_mods ..)]
      exact hmods l' m' hm'
    · rw [link_linkDrop_self, hcarries]
      rw [Bool.not_eq_true] at hdown
      rw [hdown]
      rfl

theorem linkTrain_linksOnly (s : State) (l : Nat) (fail : Bool) : LinksOnly s (s.linkTrain l fail) := (linkTrain_spec s l fail).1

/-- A direction that has not trained yet comes up on all its modules, or goes down if its training fails. -/
theorem linkTrain_untrained {s : State} {l : Nat} (hnew : Untrained s l) (hends : endsRun s l = true) (hpos : 0 < modulesOf l) (fail : Bool) :
    ((s.linkTrain l fail).link l).down = fail ∧ ∀ m, m < modulesOf l → ((s.linkTrain l fail).linkMod l m).state = if fail then 3 else 1 := by
  obtain ⟨-, -, hmods, hdown⟩ := linkTrain_spec s l fail
  have hstate : ∀ m, m < modulesOf l → ((s.linkTrain l fail).linkMod l m).state = if fail then 3 else 1 := fun m hm => by
    obtain ⟨hstate, hbad, hhalf⟩ := hnew m hm
    rw [hmods l m (hm.trans_le (modulesOf_le l)), if_pos ⟨rfl, hm, hends⟩, trainedMod, if_pos hstate, LinkMod.trained, hbad, hhalf]
    rfl
  refine ⟨?_, hstate⟩
  rw [hdown, hends, Bool.true_and]
  cases fail with
  | false =>
    simp only [Bool.not_eq_false', List.any_eq_true, List.mem_range]
    exact ⟨0, hpos, by rw [State.carries, hstate 0 hpos]; rfl⟩
  | true =>
    simp only [Bool.not_eq_true', List.any_eq_false, List.mem_range]
    exact fun m hm => by rw [State.carries, hstate m hm]; simp

/-- The training of several directions. -/
def trainLinks (s : State) (ps : List (Nat × Bool)) : State := ps.foldl (fun a p => a.linkTrain p.1 p.2) s

theorem trainLinks_linksOnly (s : State) (ps : List (Nat × Bool)) : LinksOnly s (trainLinks s ps) :=
  foldl_linksOnly (fun (a : State) (p : Nat × Bool) => a.linkTrain p.1 p.2) (fun a p => linkTrain_linksOnly a p.1 p.2) ps s

/-- A direction that is not among those that train stays as it is. -/
theorem trainLinks_keeps {ps : List (Nat × Bool)} {l : Nat} (hl : ∀ p ∈ ps, l ≠ p.1) (s : State) :
    (trainLinks s ps).link l = s.link l ∧ ∀ m, m < 8 → (trainLinks s ps).linkMod l m = s.linkMod l m := by
  induction ps generalizing s with
  | nil => exact ⟨rfl, fun _ _ => rfl⟩
  | cons p r ih =>
    obtain ⟨hlink, hmods⟩ := ih (fun q hq => hl q (List.mem_cons_of_mem _ hq)) (s.linkTrain p.1 p.2)
    have hne := hl p List.mem_cons_self
    obtain ⟨-, hkeep, hkeepMods, -⟩ := linkTrain_spec s p.1 p.2
    refine ⟨hlink.trans (hkeep l hne), fun m hm => (hmods m hm).trans ?_⟩
    rw [hkeepMods l m hm, if_neg fun h => hne h.1]

theorem endsRun_linksOnly {s t : State} (h : LinksOnly s t) (l : Nat) : endsRun t l = endsRun s l := by
  rw [endsRun, h.endRuns, h.endRuns, endsRun]

/-- Among several, each untrained direction comes up, or goes down if its training fails. -/
theorem trainLinks_untrained {ps : List (Nat × Bool)} (hnodup : (ps.map Prod.fst).Nodup) {l : Nat} {fail : Bool} (hl : (l, fail) ∈ ps)
    {s : State} (hnew : Untrained s l) (hends : endsRun s l = true) (hpos : 0 < modulesOf l) :
    ((trainLinks s ps).link l).down = fail ∧ ∀ m, m < modulesOf l → ((trainLinks s ps).linkMod l m).state = if fail then 3 else 1 := by
  induction ps generalizing s with
  | nil => exact absurd hl List.not_mem_nil
  | cons p r ih =>
    obtain ⟨hp, hr⟩ := List.nodup_cons.mp hnodup
    rcases List.mem_cons.mp hl with rfl | hrest
    · obtain ⟨hdown, hstate⟩ := linkTrain_untrained hnew hends hpos fail
      obtain ⟨hlink, hmods⟩ := trainLinks_keeps (ps := r) (l := l)
        (fun q hq heq => hp (List.mem_map.mpr ⟨q, hq, heq.symm⟩)) (s.linkTrain l fail)
      refine ⟨(congrArg LinkDir.down hlink).trans hdown, fun m hm => ?_⟩
      exact (congrArg LinkMod.state (hmods m (hm.trans_le (modulesOf_le l)))).trans (hstate m hm)
    · have hne : l ≠ p.1 := fun heq => hp (List.mem_map.mpr ⟨_, hrest, heq⟩)
      obtain ⟨honly, -, hkeepMods, -⟩ := linkTrain_spec s p.1 p.2
      have hnew' : Untrained (s.linkTrain p.1 p.2) l := fun m hm => by
        rw [hkeepMods l m (hm.trans_le (modulesOf_le l)), if_neg fun h => hne h.1]
        exact hnew m hm
      exact ih hr hrest hnew' ((endsRun_linksOnly honly l).trans hends)

/-- The directions into and out of a slice that is held in reset go down. -/
theorem ringDrop_linksOnly (s : State) (n : Nat) : LinksOnly s (s.ringDrop n) := by
  refine foldl_linksOnly _ (fun s l => ?_) _ s
  split
  · exact .refl s
  · refine (foldl_linksOnly _ (fun s m => ?_) _ s).trans (linkDrop_linksOnly ..)
    split
    · exact modState_linksOnly ..
    · exact .refl s

theorem ringDrop_keeps (s : State) (n : Nat) {l : Nat} (hl : l ∉ ringLinks n) : (s.ringDrop n).link l = s.link l := by
  refine List.foldlRecOn (ringLinks n) _ (motive := fun t : State => t.link l = s.link l) rfl fun t ht k hk => ?_
  split
  · exact ht
  · rw [link_linkDrop_other _ (fun h : l = k => hl (by rw [h]; exact hk)), ← ht]
    refine link_congr ?_ l
    refine List.foldlRecOn (List.range (modulesOf k)) _ (motive := fun u : State => u.links = t.links) rfl fun u hu m _ => ?_
    split
    · exact (modState_links ..).trans hu
    · exact hu

end Sys2Proof.Proofs.LinkLayer
end

section
/-! Boot (O43). -/

namespace Sys2Proof.Proofs.Boots

open Sys2Proof Sys2Proof.Machine Sys2Proof.Claims Sys2Proof.Laws Sys2Proof.Proofs.Basic Sys2Proof.Proofs.Layer Sys2Proof.Proofs.LinkLayer

/-! A slice that fails. -/

/-- What failed slices change: slices, boot record, links and reports; no failure and no entry of the error record is forgotten. -/
structure FailsOnly (s t : State) : Prop where
  eq : t = { s with slices := t.slices, boot := t.boot, links := t.links, mods := t.mods, errs := t.errs, kpr := t.kpr, msiWait := t.msiWait,
                    out := t.out, trace := t.trace }
  step : t.boot.step = s.boot.step
  halted : t.boot.halted = s.boot.halted
  failed : s.boot.failed = true → t.boot.failed = true
  errs : s.errs.total ≤ t.errs.total
  links : s.boot.step ≤ 5 → t.links = s.links ∧ t.mods = s.mods

theorem FailsOnly.refl (s : State) : FailsOnly s s := ⟨rfl, rfl, rfl, id, le_rfl, fun _ => ⟨rfl, rfl⟩⟩

theorem FailsOnly.trans {s t u : State} (h1 : FailsOnly s t) (h2 : FailsOnly t u) : FailsOnly s u where
  eq := by rw [h2.eq, h1.eq]
  step := h2.step.trans h1.step
  halted := h2.halted.trans h1.halted
  failed := h2.failed ∘ h1.failed
  errs := h1.errs.trans h2.errs
  links hstep := by
    obtain ⟨hlinks1, hmods1⟩ := h1.links hstep
    obtain ⟨hlinks2, hmods2⟩ := h2.links (h1.step ▸ hstep)
    exact ⟨hlinks2.trans hlinks1, hmods2.trans hmods1⟩

theorem lt_length_of_sliceUp {s : State} {n : Nat} (h : s.sliceUp n = true) : n < s.slices.length := by
  by_contra hn
  rw [State.sliceUp, State.slc, List.getD_eq_default _ _ (not_lt.mp hn)] at h
  exact absurd h (by decide)

/-- The boot record with a failure noted. -/
def noteFail (b : Boot) : Boot := { b with failed := true, failStep := if b.failStep = 0 then b.step else b.failStep }

/-- A slice held in reset. -/
def heldSlice (l : Slice) : Slice := { l with run := 0 }

theorem bootFail_eq (s : State) (n : Nat) : s.bootFail n =
    if 5 < s.boot.step then (State.errEntry { s.modSlice n heldSlice with boot := noteFail s.boot } 4 0x27 4 (natLE 1 s.boot.step ++ natLE 1 n)).ringDrop n
    else State.errEntry { s.modSlice n heldSlice with boot := noteFail s.boot } 4 0x27 4 (natLE 1 s.boot.step ++ natLE 1 n) := by
  unfold State.bootFail
  dsimp only
  rfl

theorem bootFail_spec (s : State) {n : Nat} (hup : s.sliceUp n = true) : FailsOnly s (s.bootFail n) ∧
    (s.bootFail n).boot.failed = true ∧ s.errs.total < (s.bootFail n).errs.total ∧
    ∀ m, (s.bootFail n).slc m = if m = n then heldSlice (s.slc n) else s.slc m := by
  have hentry := errEntry_linksOnly { s.modSlice n heldSlice with boot := noteFail s.boot } 4 0x27 4 (natLE 1 s.boot.step ++ natLE 1 n)
  have htotal := errEntry_total { s.modSlice n heldSlice with boot := noteFail s.boot } 4 0x27 4 (natLE 1 s.boot.step ++ natLE 1 n)
  have hframe : (State.errEntry { s.modSlice n heldSlice with boot := noteFail s.boot } 4 0x27 4 (natLE 1 s.boot.step ++ natLE 1 n)).links = s.links ∧
      (State.errEntry { s.modSlice n heldSlice with boot := noteFail s.boot } 4 0x27 4 (natLE 1 s.boot.step ++ natLE 1 n)).mods = s.mods := by simp
  have hslc := fun m => slc_modSlice s n m heldSlice (lt_length_of_sliceUp hup)
  rw [bootFail_eq]
  generalize State.errEntry { s.modSlice n heldSlice with boot := noteFail s.boot } 4 0x27 4 (natLE 1 s.boot.step ++ natLE 1 n) = u at *
  have hrest : ∀ t, LinksOnly u t → (s.boot.step ≤ 5 → t.links = s.links ∧ t.mods = s.mods) → FailsOnly s t ∧ t.boot.failed = true ∧
      s.errs.total < t.errs.total ∧ ∀ m, t.slc m = if m = n then heldSlice (s.slc n) else s.slc m := fun t ht hlinks => by
    have hall := hentry.trans ht
    have hboot : t.boot = noteFail s.boot := hall.boot
    have hslices : t.slices = (s.modSlice n heldSlice).slices := hall.slices
    have herrs : s.errs.total < t.errs.total := by
      have := ht.2
      rw [htotal] at this
      exact this
    refine ⟨⟨?_, by rw [hboot]; rfl, by rw [hboot]; rfl, fun _ => by rw [hboot]; rfl, herrs.le, hlinks⟩, by rw [hboot]; rfl, herrs, fun m => ?_⟩
    · rw [hall.1]
      rfl
    · rw [← hslc, State.slc, hslices, State.slc]
  split
  · exact hrest _ (ringDrop_linksOnly ..) fun h => by omega
  · exact hrest u (.refl u) fun _ => hframe

/-- Whether slice `n` fails at a boot step. -/
def failsAt (s : State) (result n : Nat) : Bool :=
  bitAt result n || (s.boot.step == 3 && (spokeLinks n).any (fun l => (s.link l).down))

/-- One slice of a boot step. -/
def failOne (s0 : State) (result : Nat) (acc : State) (n : Nat) : State :=
  if failsAt s0 result n && acc.sliceUp n then acc.bootFail n else acc

theorem bootFails_eq (s : State) (result : Nat) : s.bootFails result = (List.range 4).foldl (failOne s result) s := rfl

/-- The first `k` slices of a boot step: those that fail are held in reset, the failure is noted. -/
theorem foldl_failOne (s : State) (result k : Nat) : FailsOnly s ((List.range k).foldl (failOne s result) s) ∧
    (∀ m, ((List.range k).foldl (failOne s result) s).slc m =
      if m < k ∧ failsAt s result m = true ∧ s.sliceUp m = true then heldSlice (s.slc m) else s.slc m) ∧
    ∀ m, m < k → failsAt s result m = true → s.sliceUp m = true → ((List.range k).foldl (failOne s result) s).boot.failed = true ∧
      s.errs.total < ((List.range k).foldl (failOne s result) s).errs.total := by
  induction k with
  | zero => exact ⟨.refl s, fun m => by rw [if_neg (by omega)]; rfl, fun m hm => absurd hm (Nat.not_lt_zero m)⟩
  | succ k ih =>
    obtain ⟨honly, hslc, hfail⟩ := ih
    rw [List.range_succ, List.foldl_append, List.foldl_cons, List.foldl_nil]
    generalize (List.range k).foldl (failOne s result) s = t at *
    have hup : t.sliceUp k = s.sliceUp k := by rw [State.sliceUp, hslc, if_neg (by omega), State.sliceUp]
    rw [failOne, hup]
    by_cases hk : (failsAt s result k && s.sliceUp k) = true
    · rw [if_pos hk]
      obtain ⟨honly', hfailed, herrs, hslc'⟩ := bootFail_spec t (n := k) (by rw [hup]; exact (Bool.and_eq_true_iff.mp hk).2)
      refine ⟨honly.trans honly', fun m => ?_, fun m _ _ _ => ⟨hfailed, honly.errs.trans_lt herrs⟩⟩
      rw [hslc', hslc, hslc]
      grind
    · rw [if_neg hk]
      refine ⟨honly, fun m => ?_, fun m hm hfails hup' => hfail m ?_ hfails hup'⟩
      · rw [hslc]
        grind
      · rcases Nat.lt_succ_iff_lt_or_eq.mp hm with h | rfl
        · exact h
        · exact absurd (Bool.and_eq_true_iff.mpr ⟨hfails, hup'⟩) hk

theorem bootFails_spec (s : State) (result : Nat) : FailsOnly s (s.bootFails result) ∧
    (∀ m, (s.bootFails result).slc m = if m < 4 ∧ failsAt s result m = true ∧ s.sliceUp m = true then heldSlice (s.slc m) else s.slc m) ∧
    ∀ m, m < 4 → failsAt s result m = true → s.sliceUp m = true → (s.bootFails result).boot.failed = true ∧
      s.errs.total < (s.bootFails result).errs.total := foldl_failOne s result 4

/-- Nothing fails: the step leaves the slices. -/
theorem bootFails_none {s : State} (hstep : s.boot.step ≠ 3) : s.bootFails 0 = s := by
  have hno : ∀ n, failsAt s 0 n = false := fun n => by simp [failsAt, hstep, bitAt]
  rw [bootFails_eq]
  refine List.foldlRecOn (List.range 4) _ (motive := fun t : State => t = s) rfl fun t ht n _ => ?_
  rw [failOne, hno n]
  exact ht

/-! Hard repairs and waiting host accesses. -/

/-- What repairs and host accesses change: memory, counts of repairs, reports. -/
structure RepairsOnly (s t : State) : Prop where
  eq : t = { s with dev := t.dev, boot := t.boot, errs := t.errs, kpr := t.kpr, msiWait := t.msiWait, out := t.out, trace := t.trace,
                    freeCtr := t.freeCtr }
  step : t.boot.step = s.boot.step
  halted : t.boot.halted = s.boot.halted

theorem RepairsOnly.refl (s : State) : RepairsOnly s s := ⟨rfl, rfl, rfl⟩

theorem RepairsOnly.trans {s t u : State} (h1 : RepairsOnly s t) (h2 : RepairsOnly t u) : RepairsOnly s u :=
  ⟨by rw [h2.eq, h1.eq], h2.step.trans h1.step, h2.halted.trans h1.halted⟩

theorem hardRepair_repairsOnly (s : State) (i : Nat) (fails : Bool) : RepairsOnly s (s.hardRepair i fails) := by
  unfold State.hardRepair
  dsimp only
  split
  · exact .refl s
  · split
    · refine ⟨by rw [state_eq_iff]; simp, ?_, ?_⟩
      · simp
      · simp
    · refine ⟨by rw [state_eq_iff]; simp, ?_, ?_⟩
      · simp
      · simp

theorem memStore_repairsOnly (s : State) (addr : Nat) (bytes : List Byte) (poisoned : Bool) : RepairsOnly s (s.memStore addr bytes poisoned) := by
  unfold State.memStore
  split
  · exact .refl s
  · dsimp only
    split
    · rw [HostMem.poisonLines_eq]
      exact ⟨by rw [state_eq_iff]; simp, by simp, by simp⟩
    · exact ⟨by rw [state_eq_iff]; simp, by simp, by simp⟩

theorem memLoad_repairsOnly (s : State) (port addr count : Nat) : RepairsOnly s (s.memLoad port addr count) := by
  unfold State.memLoad
  dsimp only
  refine foldl_rel RepairsOnly .refl .trans _ (fun s i => ?_) _ s
  exact ⟨rfl, rfl, rfl⟩

theorem memRelease_repairsOnly (s : State) : RepairsOnly { s with memHeld := [] } s.memRelease := by
  unfold State.memRelease
  refine foldl_rel RepairsOnly .refl .trans _ (fun s i => ?_) _ _
  split
  · exact memStore_repairsOnly ..
  · exact memLoad_repairsOnly ..
  · exact .refl s

/-! The steps. -/

/-- What every step of boot that nothing failed in leaves. -/
def Goes (s t : State) : Prop := t.boot.step = s.boot.step + 1 ∧ t.boot.halted = false ∧ t.kTick = s.kTick ∧
  t.pending = s.pending ∧ t.cmds = s.cmds ∧ t.tables = s.tables

/-- What boot leaves alone in any case. -/
def Untouched (s t : State) : Prop := t.kTick = s.kTick ∧ t.pending = s.pending ∧ t.cmds = s.cmds ∧ t.tables = s.tables

theorem FailsOnly.untouched {s t : State} (h : FailsOnly s t) : Untouched s t := by
  rw [h.eq]
  exact ⟨rfl, rfl, rfl, rfl⟩

theorem LinksOnly.untouched {s t : State} (h : LinksOnly s t) : Untouched s t := by
  rw [h.1]
  exact ⟨rfl, rfl, rfl, rfl⟩

theorem RepairsOnly.untouched {s t : State} (h : RepairsOnly s t) : Untouched s t := by
  rw [h.eq]
  exact ⟨rfl, rfl, rfl, rfl⟩

theorem Untouched.trans {s t u : State} (h1 : Untouched s t) (h2 : Untouched t u) : Untouched s u :=
  ⟨h2.1.trans h1.1, h2.2.1.trans h1.2.1, h2.2.2.1.trans h1.2.2.1, h2.2.2.2.trans h1.2.2.2⟩

section
variable {s : State} (hlive : s.live = true) (hhalted : s.boot.halted = false)
include hlive hhalted

theorem exec_bootStepDone (result : Nat) : exec (.bootStepDone result) s = .next (s.bootStep result) := by
  have hgo : ¬ (!s.live || s.boot.halted) = true := by simp [hlive, hhalted]
  exact if_neg hgo

end

/-- The directions that train at step 3, with the bits that name their failures. -/
def keeperLinks (result : Nat) : List (Nat × Bool) :=
  (List.range 4).flatMap (fun n => (spokeLinks n).map (fun l => (l, bitAt result n))) ++
    (List.range 6).map (fun p => (16 + p, bitAt result (16 + p))) ++ (List.range 8).map (fun p => (22 + p, bitAt result (8 + p)))

theorem bootLinks_eq (s : State) (result : Nat) : s.bootLinks result = trainLinks s (keeperLinks result) := by
  simp only [trainLinks, keeperLinks, List.foldl_append, List.foldl_map, List.foldl_flatMap]
  rfl

theorem bootRing_linksOnly (s : State) (result : Nat) : LinksOnly s (s.bootRing result) :=
  foldl_linksOnly _ (fun s l => by
    split
    · exact .refl s
    · exact linkTrain_linksOnly ..) _ s

theorem keeperLinks_nodup (result : Nat) : ((keeperLinks result).map Prod.fst).Nodup := by
  have hfst : (keeperLinks result).map Prod.fst = (keeperLinks 0).map Prod.fst := rfl
  rw [hfst]
  decide

theorem mem_keeperLinks {n l : Nat} (hn : n < 4) (hl : l ∈ spokeLinks n) (result : Nat) : (l, bitAt result n) ∈ keeperLinks result :=
  List.mem_append_left _ (List.mem_append_left _ (List.mem_flatMap.mpr ⟨n, List.mem_range.mpr hn, List.mem_map.mpr ⟨l, hl, rfl⟩⟩))

theorem endsRun_spoke {s : State} {n l : Nat} (hn : n < 4) (hl : l ∈ spokeLinks n) (hrun : (s.slc n).run ≠ 0) : endsRun s l = true := by
  have hends : linkEnds l = (some n, none) ∨ linkEnds l = (none, some n) := by
    simp only [spokeLinks, List.mem_cons, List.not_mem_nil, or_false] at hl
    rcases hl with rfl | rfl
    · left
      simp only [linkEnds]
      rw [if_pos (by omega), if_neg (by omega), if_neg (by omega)]
      congr 2
      omega
    · right
      simp only [linkEnds]
      rw [if_neg (by omega), if_pos (by omega), Nat.add_sub_cancel_left]
  rcases hends with h | h
  · simp [endsRun, h, State.endRuns, hrun]
  · simp [endsRun, h, State.endRuns, hrun]

theorem modulesOf_pos (l : Nat) : 0 < modulesOf l := by
  unfold modulesOf
  grind

theorem run_of_sliceUp {s : State} {n : Nat} (h : s.sliceUp n = true) : (s.slc n).run = 2 := by simpa [State.sliceUp] using h

/-- The end of step 3 with nothing failed: the spokes of a slice that runs are up, if their lanes are clean. -/
theorem step3_goes {s : State} (hstep : s.boot.step = 3) (hhalted : s.boot.halted = false) : Goes s (s.bootStep 0) ∧
    ∀ n, n < 4 → s.sliceUp n = true → (∀ l ∈ spokeLinks n, Untrained s l) → (s.bootStep 0).sliceUp n = true ∧
      ∀ l ∈ spokeLinks n, ((s.bootStep 0).link l).down = false ∧ ∀ m, m < modulesOf l → ((s.bootStep 0).linkMod l m).state = 1 := by
  have heq : s.bootStep 0 = ((s.bootLinks 0).bootFails 0).bootGo 4 := by
    rw [State.bootStep, hstep]
    rfl
  have hlinks : LinksOnly s (s.bootLinks 0) := bootLinks_eq s 0 ▸ trainLinks_linksOnly ..
  obtain ⟨hfails, hslc, -⟩ := bootFails_spec (s.bootLinks 0) 0
  have htrained : ∀ n, n < 4 → s.sliceUp n = true → (∀ l ∈ spokeLinks n, Untrained s l) → ∀ l ∈ spokeLinks n,
      ((s.bootLinks 0).link l).down = false ∧ ∀ m, m < modulesOf l → ((s.bootLinks 0).linkMod l m).state = 1 := fun n hn hup hnew l hl => by
    rw [bootLinks_eq]
    exact trainLinks_untrained (keeperLinks_nodup 0) (by simpa [bitAt] using mem_keeperLinks hn hl 0) (hnew l hl)
      (endsRun_spoke hn hl (by rw [run_of_sliceUp hup]; decide)) (modulesOf_pos l)
  rw [heq]
  generalize s.bootLinks 0 = u at *
  have hboot : u.boot.step = 3 := by rw [hlinks.boot, hstep]
  generalize u.bootFails 0 = v at *
  obtain ⟨htick, hpend, hcmds, htables⟩ := (LinksOnly.untouched hlinks).trans (FailsOnly.untouched hfails)
  have hhalted' : v.boot.halted = false := by rw [hfails.halted, hlinks.boot, hhalted]
  refine ⟨⟨by rw [hstep]; rfl, hhalted', htick, hpend, hcmds, htables⟩, fun n hn hup hnew => ?_⟩
  obtain ⟨hvlinks, hvmods⟩ := hfails.links (by omega)
  have hall := htrained n hn hup hnew
  have hspoke : failsAt u 0 n = false := by
    have hdown : (spokeLinks n).any (fun l => (u.link l).down) = false := by
      rw [List.any_eq_false]
      exact fun l hl => by simp [(hall l hl).1]
    simp [failsAt, bitAt, hdown]
  have hslcn : v.slc n = s.slc n := by rw [hslc, hspoke, if_neg (by simp), hlinks.slc]
  refine ⟨?_, fun l hl => ?_⟩
  · rw [State.sliceUp]
    change (v.slc n).run == 2
    rw [hslcn]
    exact hup
  · obtain ⟨hdown, hstate⟩ := hall l hl
    change (v.link l).down = false ∧ ∀ m, m < modulesOf l → (v.linkMod l m).state = 1
    rw [link_congr hvlinks]
    exact ⟨hdown, fun m hm => by rw [linkMod_congr hvmods]; exact hstate m hm⟩

/-! The bias table of step 8. -/

/-- The pages of the pinned runs. -/
def pinnedPages : List Nat := pinnedRuns.flatMap (fun r => (List.range r.2).map (fun i => r.1 + i))

theorem mem_pinnedPages (p : Nat) : p ∈ pinnedPages ↔ pinnedPage p = true := by
  simp only [pinnedPages, pinnedPage, List.mem_flatMap, List.mem_map, List.mem_range, List.any_eq_true, decide_eq_true_eq]
  refine exists_congr fun r => and_congr_right fun _ => ⟨?_, fun h => ⟨p - r.1, by omega⟩⟩
  rintro ⟨i, hi, rfl⟩
  omega

/-- The cells of a list of pages hold 3 at the first byte of each page's entry. -/
theorem cellAt_pages (ps : List Nat) (base : Nat) : cellsWf (ps.foldr (fun p l => putCell l (base + 4 * p) 3) []) = true ∧
    ∀ p i, i < 4 → cellAt (ps.foldr (fun p l => putCell l (base + 4 * p) 3) []) (base + 4 * p + i) = if p ∈ ps ∧ i = 0 then 3 else 0 := by
  induction ps with
  | nil => exact ⟨rfl, fun p i _ => by simp [cellAt]⟩
  | cons q r ih =>
    obtain ⟨hwf, hcell⟩ := ih
    refine ⟨putCell_wf _ _ _ hwf, fun p i hi => ?_⟩
    rw [List.foldr_cons, cellAt_putCell _ _ _ _ hwf, hcell p i hi]
    grind

/-- The number that a little-endian run of bytes spells, when only its first byte is not zero. -/
theorem num_first {m : Mem} {a : Nat} {b : Byte} (h0 : m.byte a = b) (hrest : ∀ i, 0 < i → i < 4 → m.byte (a + i) = 0) : m.num a 4 = b.toNat := by
  have h1 := hrest 1 (by omega) (by omega)
  have h2 := hrest 2 (by omega) (by omega)
  have h3 := hrest 3 (by omega) (by omega)
  have hbytes : m.bytes a 4 = [m.byte (a + 0), m.byte (a + 1), m.byte (a + 2), m.byte (a + 3)] := rfl
  rw [Mem.num, hbytes, h1, h2, h3, Nat.add_zero, h0]
  simp [leNat]

theorem num_pages (ps : List Nat) (base p : Nat) :
    ({ cells := ps.foldr (fun p l => putCell l (base + 4 * p) 3) [] } : Mem).num (base + 4 * p) 4 = if p ∈ ps then 3 else 0 := by
  obtain ⟨-, hcell⟩ := cellAt_pages ps base
  rw [num_first (b := if p ∈ ps then 3 else 0)]
  · split
    · rfl
    · rfl
  · simpa [Mem.byte] using hcell p 0 (by omega)
  · intro i hpos hi
    rw [Mem.byte, hcell p i hi, if_neg (by omega)]

theorem num_pinnedCells (p : Nat) : ({ cells := pinnedCells } : Mem).num (Config.biasBase + 4 * p) 4 = if pinnedPage p then 3 else 0 := by
  have hcells : pinnedCells = pinnedPages.foldr (fun p l => putCell l (Config.biasBase + 4 * p) 3) [] := rfl
  rw [hcells, num_pages]
  simp only [mem_pinnedPages]

/-! The steps that nothing fails in. -/

section
variable {s : State} (hhalted : s.boot.halted = false)

theorem bootStep1 (hstep : s.boot.step = 1) (r : Nat) : s.bootStep r = s.bootGo 2 := by
  rw [State.bootStep, hstep]
  rfl

/-- The slices out of reset. -/
def released (s : State) : State := { s with slices := s.slices.map (fun l => { l with run := 2 }) }

/-- The slices' counters loaded. -/
def loaded (s : State) : State :=
  { s with slices := s.slices.map (fun l => if l.run = 2 then { l with tick := s.kTick, lastLoad := s.kTick } else l) }

/-- The state with other device memory. -/
def withDev (s : State) (m : Mem) : State := { s with dev := m }

theorem withDev_untouched (s : State) (m : Mem) (k : Nat) : Untouched s ((withDev s m).bootGo k) ∧ ((withDev s m).bootGo k).boot.step = k ∧
    ((withDev s m).bootGo k).boot.halted = s.boot.halted := ⟨⟨rfl, rfl, rfl, rfl⟩, rfl, rfl⟩

theorem withDev_keeps (s : State) (m : Mem) : (withDev s m).sliceUp 0 = s.sliceUp 0 ∧ (withDev s m).boot = s.boot ∧
    (∀ n, ((withDev s m).slc n).run = (s.slc n).run) ∧ (withDev s m).errs = s.errs := ⟨rfl, rfl, fun _ => rfl, rfl⟩

/-- The bias table as boot writes it. -/
def biased (s : State) : State := withDev s { cells := pinnedCells }

theorem biased_keeps (s : State) : (biased s).sliceUp 0 = s.sliceUp 0 ∧ (biased s).boot = s.boot ∧
    (∀ n, ((biased s).slc n).run = (s.slc n).run) ∧ (biased s).errs = s.errs := withDev_keeps s _

/-- The list's repairs made. -/
def repaired (s : State) (r : Nat) : State := (List.range (min s.retireCount 4096)).foldl (fun acc i => acc.hardRepair i (bitAt r i)) s

theorem bootStep2 (hstep : s.boot.step = 2) {r : Nat} (hr : bitAt r 4 = false) : s.bootStep r = (released s).bootGo 3 := by
  rw [State.bootStep, hstep]
  dsimp only
  rw [if_neg (by simp [hr])]
  rfl

theorem bootStep4 (hstep : s.boot.step = 4) (r : Nat) : s.bootStep r = ((loaded s).bootFails r).bootGo 5 := by
  rw [State.bootStep, hstep]
  rfl

theorem bootStep5 (hstep : s.boot.step = 5) (r : Nat) : s.bootStep r = ((s.bootFails r).bootRing r).bootGo 6 := by
  rw [State.bootStep, hstep]
  rfl

theorem bootStep6 (hstep : s.boot.step = 6) (r : Nat) : s.bootStep r = (s.bootFails r).bootGo 7 := by
  rw [State.bootStep, hstep]
  rfl

/-- Memory zeroed. -/
def zeroed (s : State) : State := { s with dev := {} }

theorem bootStep7 (hstep : s.boot.step = 7) (r : Nat) : s.bootStep r =
    if ((zeroed s).bootFails r).sliceUp 0 then ((zeroed s).bootFails r).bootGo 8 else ((zeroed s).bootFails r).bootStop := by
  rw [State.bootStep, hstep]
  rfl

theorem bootStep8 (hstep : s.boot.step = 8) (r : Nat) : s.bootStep r =
    if ((biased s).bootFails r).sliceUp 0 then (((biased s).bootFails r).bootGo 9).msixFlush else ((biased s).bootFails r).bootStop := by
  rw [State.bootStep, hstep]
  rfl

theorem bootStep10 (hstep : s.boot.step = 10) (r : Nat) : s.bootStep r = ((repaired s r).bootGo 11).memRelease := by
  rw [State.bootStep, hstep]
  rfl

theorem bootStep11 (hstep : s.boot.step = 11) (r : Nat) : s.bootStep r =
    if (s.bootFails r).sliceUp 0 then (s.bootFails r).bootVats.bootReady else (s.bootFails r).bootStop := by
  rw [State.bootStep, hstep]
  rfl

end

/-- Messages that waited leave or go on waiting; nothing else changes. -/
theorem msixFlush_eq (s : State) : ∃ m o, s.msixFlush = { s with msiWait := m, out := o } := by
  refine ⟨s.msixFlush.msiWait, s.msixFlush.out, ?_⟩
  have hfold := foldl_rel (fun s t : State => t = { s with msiWait := t.msiWait, out := t.out }) (fun _ => rfl)
    (fun h1 h2 => by rw [h2, h1]) State.msix (fun s v => by rw [state_eq_iff]; simp) s.msiWait { s with msiWait := [] }
  exact hfold

theorem bootStop_spec (s : State) : s.bootStop.boot.step = s.boot.step ∧ s.bootStop.boot.halted = true ∧ s.bootStop.boot.rstFail = true := by
  obtain ⟨m, o, heq⟩ := msixFlush_eq { s with boot := { s.boot with halted := true, rstFail := true } }
  have hstop : s.bootStop = { s with boot := { s.boot with halted := true, rstFail := true }, msiWait := m, out := o } := heq
  rw [hstop]
  exact ⟨rfl, rfl, rfl⟩

theorem repaired_spec (s : State) (r : Nat) : RepairsOnly s (repaired s r) :=
  foldl_rel RepairsOnly .refl .trans _ (fun s i => hardRepair_repairsOnly s i (bitAt r i)) _ s

/-- The last step: the vats are new, the engine is ready. -/
theorem bootReady_spec (s : State) : s.bootVats.bootReady.boot.step = 12 ∧ s.bootVats.bootReady.boot.ready = true ∧
    s.bootVats.bootReady.boot.halted = s.boot.halted ∧ s.bootVats.bootReady.boot.failed = s.boot.failed ∧ s.bootVats.bootReady.vats = [] ∧
    s.bootVats.bootReady.slices = s.slices ∧ s.errs.total ≤ s.bootVats.bootReady.errs.total ∧ Untouched s s.bootVats.bootReady := by
  unfold State.bootReady Untouched
  dsimp only
  split
  · have hentry := errEntry_total ((State.writeCaps { (s.bootVats.bootGo 12) with boot := { (s.bootVats.bootGo 12).boot with ready := true } }).setKreg 0 Config.capPtr) 4 0x28 2 []
    rw [hentry]
    simp [State.bootVats, State.bootGo, State.writeCaps]
  · simp [State.bootVats, State.bootGo, State.writeCaps]

/-! Boot with nothing failed. -/

/-- What the step numbered `k` of boot leaves besides. -/
def Leaves (s : State) (k : Nat) (t : State) : Prop :=
  (k = 2 → ∀ l ∈ t.slices, l.run = 2) ∧ (k = 4 → ∀ l ∈ t.slices, l.run = 2 → l.tick = s.kTick) ∧
  (k = 3 → ∀ n, n < 4 → s.slices.length = 4 → s.sliceUp n = true → (∀ l ∈ spokeLinks n, Untrained s l) →
    t.sliceUp n = true ∧ ∀ l ∈ spokeLinks n, (t.link l).down = false ∧ ∀ m, m < modulesOf l → (t.linkMod l m).state = 1) ∧
  (k = 7 → ∀ a, t.dev.byte a = 0) ∧ (k = 8 → ∀ p, p < 294912 → t.biasEntry p = if pinnedPage p then 3 else 0) ∧
  (k = 10 → t.memHeld = []) ∧ (k = 11 → t.boot.ready = true ∧ t.vats = [])

/-- A hypothesis that two numbers are one, which they are not. -/
theorem of_ne {P : Prop} {a b : Nat} (hne : a ≠ b) : a = b → P := fun h => absurd h hne

theorem leaves_nothing {s : State} {k : Nat} (t : State) (hk : k = 1 ∨ k = 5 ∨ k = 6) : Leaves s k t :=
  ⟨of_ne (by omega), of_ne (by omega), of_ne (by omega), of_ne (by omega), of_ne (by omega), of_ne (by omega), of_ne (by omega)⟩

theorem leaves_bias {s t : State} (hbias : ∀ p, t.biasEntry p = if pinnedPage p then 3 else 0) : Leaves s 8 t :=
  ⟨of_ne (by decide), of_ne (by decide), of_ne (by decide), of_ne (by decide), fun _ p _ => hbias p, of_ne (by decide), of_ne (by decide)⟩

section
variable {s : State} (hhalted : s.boot.halted = false)
include hhalted

theorem step1_goes (hstep : s.boot.step = 1) : Goes s (s.bootStep 0) ∧ Leaves s 1 (s.bootStep 0) := by
  rw [bootStep1 hstep]
  exact ⟨⟨by rw [hstep]; rfl, hhalted, rfl, rfl, rfl, rfl⟩, leaves_nothing _ (by omega)⟩

theorem step2_goes (hstep : s.boot.step = 2) : Goes s (s.bootStep 0) ∧ Leaves s 2 (s.bootStep 0) := by
  rw [bootStep2 hstep (by decide)]
  refine ⟨⟨by rw [hstep]; rfl, hhalted, rfl, rfl, rfl, rfl⟩, fun _ l hl => ?_, of_ne (by decide), of_ne (by decide), of_ne (by decide), of_ne (by decide),
    of_ne (by decide), of_ne (by decide)⟩
  obtain ⟨l0, -, rfl⟩ := List.mem_map.mp hl
  rfl

theorem step4_goes (hstep : s.boot.step = 4) : Goes s (s.bootStep 0) ∧ Leaves s 4 (s.bootStep 0) := by
  rw [bootStep4 hstep, bootFails_none (s := loaded s) (by rw [loaded, hstep]; decide)]
  refine ⟨⟨by rw [hstep]; rfl, hhalted, rfl, rfl, rfl, rfl⟩, of_ne (by decide), fun _ l hl hrun => ?_, of_ne (by decide), of_ne (by decide),
    of_ne (by decide), of_ne (by decide), of_ne (by decide)⟩
  obtain ⟨l0, -, rfl⟩ := List.mem_map.mp hl
  split at hrun
  · rename_i h
    rw [if_pos h]
  · exact absurd hrun ‹_›

theorem step5_goes (hstep : s.boot.step = 5) : Goes s (s.bootStep 0) ∧ Leaves s 5 (s.bootStep 0) := by
  rw [bootStep5 hstep, bootFails_none (by omega)]
  have hring := bootRing_linksOnly s 0
  generalize s.bootRing 0 = u at *
  obtain ⟨htick, hpend, hcmds, htables⟩ := LinksOnly.untouched hring
  exact ⟨⟨by rw [hstep]; rfl, (congrArg Boot.halted hring.boot).trans hhalted, htick, hpend, hcmds, htables⟩, leaves_nothing _ (by omega)⟩

theorem step6_goes (hstep : s.boot.step = 6) : Goes s (s.bootStep 0) ∧ Leaves s 6 (s.bootStep 0) := by
  rw [bootStep6 hstep, bootFails_none (by omega)]
  exact ⟨⟨by rw [hstep]; rfl, hhalted, rfl, rfl, rfl, rfl⟩, leaves_nothing _ (by omega)⟩

theorem step7_goes (hstep : s.boot.step = 7) (hup : s.sliceUp 0 = true) : Goes s (s.bootStep 0) ∧ Leaves s 7 (s.bootStep 0) := by
  rw [bootStep7 hstep, bootFails_none (s := zeroed s) (by rw [zeroed, hstep]; decide), if_pos (show (zeroed s).sliceUp 0 = true from hup)]
  exact ⟨⟨by rw [hstep]; rfl, hhalted, rfl, rfl, rfl, rfl⟩, of_ne (by decide), of_ne (by decide), of_ne (by decide), fun _ a => rfl, of_ne (by decide),
    of_ne (by decide), of_ne (by decide)⟩

theorem step8_goes (hstep : s.boot.step = 8) (hup : s.sliceUp 0 = true) : Goes s (s.bootStep 0) ∧ Leaves s 8 (s.bootStep 0) := by
  obtain ⟨hsame, hboot, -, -⟩ := biased_keeps s
  rw [bootStep8 hstep, bootFails_none (s := biased s) (by rw [hboot, hstep]; decide), if_pos (hsame.trans hup)]
  obtain ⟨m, o, heq⟩ := msixFlush_eq ((biased s).bootGo 9)
  have hdev : ((biased s).bootGo 9).msixFlush.dev = { cells := pinnedCells } := by
    rw [heq]
    rfl
  have hbias : ∀ p, ((biased s).bootGo 9).msixFlush.biasEntry p = if pinnedPage p then 3 else 0 := fun p => by
    rw [State.biasEntry, hdev, num_pinnedCells]
  refine ⟨?_, leaves_bias hbias⟩
  obtain ⟨⟨htick, hpend, hcmds, htables⟩, hstep', hhalted'⟩ : Untouched s ((biased s).bootGo 9) ∧ ((biased s).bootGo 9).boot.step = 9 ∧
    ((biased s).bootGo 9).boot.halted = s.boot.halted := withDev_untouched s _ 9
  generalize (biased s).bootGo 9 = u at *
  rw [heq]
  exact ⟨by rw [hstep]; exact hstep', hhalted'.trans hhalted, htick, hpend, hcmds, htables⟩

theorem step10_goes (hstep : s.boot.step = 10) : Goes s (s.bootStep 0) ∧ Leaves s 10 (s.bootStep 0) := by
  rw [bootStep10 hstep]
  have hrepaired := repaired_spec s 0
  generalize repaired s 0 = u at *
  have hreleased := memRelease_repairsOnly (u.bootGo 11)
  generalize (u.bootGo 11).memRelease = v at *
  obtain ⟨htick, hpend, hcmds, htables⟩ := RepairsOnly.untouched hrepaired
  obtain ⟨htick', hpend', hcmds', htables'⟩ := RepairsOnly.untouched hreleased
  refine ⟨⟨hreleased.step.trans (by rw [hstep]; rfl), hreleased.halted.trans (hrepaired.halted.trans hhalted), htick'.trans htick,
    hpend'.trans hpend, hcmds'.trans hcmds, htables'.trans htables⟩, of_ne (by decide), of_ne (by decide), of_ne (by decide), of_ne (by decide),
    of_ne (by decide), fun _ => by rw [hreleased.eq], of_ne (by decide)⟩

theorem step11_goes (hstep : s.boot.step = 11) (hup : s.sliceUp 0 = true) : Goes s (s.bootStep 0) ∧ Leaves s 11 (s.bootStep 0) := by
  rw [bootStep11 hstep, bootFails_none (by omega), if_pos hup]
  obtain ⟨hstep', hready, hhalted', -, hvats, -, -, htick, hpend, hcmds, htables⟩ := bootReady_spec s
  exact ⟨⟨by rw [hstep', hstep], hhalted'.trans hhalted, htick, hpend, hcmds, htables⟩, of_ne (by decide), of_ne (by decide), of_ne (by decide),
    of_ne (by decide), of_ne (by decide), of_ne (by decide), fun _ => ⟨hready, hvats⟩⟩

/-- A boot step that nothing failed in gives way to the next. -/
theorem bootStep_goes (hin : s.boot.step ∈ [1, 2, 3, 4, 5, 6, 7, 8, 10, 11]) (hup : s.boot.step ∈ [7, 8, 11] → s.sliceUp 0 = true) :
    Goes s (s.bootStep 0) ∧ Leaves s s.boot.step (s.bootStep 0) := by
  simp only [List.mem_cons, List.not_mem_nil, or_false] at hin hup
  rcases hin with h | h | h | h | h | h | h | h | h | h
  case inr.inr.inl =>
    obtain ⟨hgoes, hspokes⟩ := step3_goes h hhalted
    rw [h]
    exact ⟨hgoes, of_ne (by decide), of_ne (by decide), fun _ n hn _ => hspokes n hn, of_ne (by decide), of_ne (by decide), of_ne (by decide),
      of_ne (by decide)⟩
  all_goals rw [h]
  · exact step1_goes hhalted h
  · exact step2_goes hhalted h
  · exact step4_goes hhalted h
  · exact step5_goes hhalted h
  · exact step6_goes hhalted h
  · exact step7_goes hhalted h (hup (Or.inl h))
  · exact step8_goes hhalted h (hup (Or.inr (Or.inl h)))
  · exact step10_goes hhalted h
  · exact step11_goes hhalted h (hup (Or.inr (Or.inr h)))

end

/-! Boot with a slice that fails. -/

/-- What the failure of slice `n` leaves: the slice in reset, boot marked, an entry of the error record. -/
structure WithoutSlice (s : State) (n : Nat) (t : State) : Prop where
  failed : t.boot.failed = true
  held : (t.slc n).run = 0
  others : s.boot.step ≠ 3 → ∀ m, m ≠ n → (t.slc m).run = (s.slc m).run
  errs : s.errs.total < t.errs.total

theorem WithoutSlice.mono {s u t : State} {n : Nat} (h : WithoutSlice s n u) (hfailed : t.boot.failed = u.boot.failed) (hslices : t.slices = u.slices)
    (herrs : u.errs.total ≤ t.errs.total) : WithoutSlice s n t where
  failed := hfailed.trans h.failed
  held := by rw [State.slc, hslices]; exact h.held
  others hstep m hm := by rw [State.slc, hslices]; exact h.others hstep m hm
  errs := h.errs.trans_le herrs

theorem bitAt_pow (n m : Nat) : bitAt (2 ^ n) m = decide (n = m) := by
  rw [← Nat.testBit_two_pow, Nat.testBit_eq_decide_div_mod_eq, bitAt]
  rfl

/-- The slices after a step whose result names slice `n`. -/
theorem bootFails_pow {s u : State} {n : Nat} (hn : n < 4) (hup : s.sliceUp n = true) (hstep : u.boot.step = s.boot.step)
    (hrun : ∀ m, (u.slc m).run = (s.slc m).run) (herrs : s.errs.total ≤ u.errs.total) :
    WithoutSlice s n (u.bootFails (2 ^ n)) ∧ (u.bootFails (2 ^ n)).boot.step = s.boot.step := by
  obtain ⟨honly, hslc, hfail⟩ := bootFails_spec u (2 ^ n)
  have hupU : u.sliceUp n = true := by
    rw [State.sliceUp] at *
    rw [hrun]
    exact hup
  have hnamed : failsAt u (2 ^ n) n = true := by simp [failsAt, bitAt_pow]
  obtain ⟨hfailed, herrs'⟩ := hfail n hn hnamed hupU
  refine ⟨⟨hfailed, ?_, fun hne m hm => ?_, herrs.trans_lt herrs'⟩, honly.step.trans hstep⟩
  · rw [hslc, if_pos ⟨hn, hnamed, hupU⟩]
    rfl
  · have hnot : failsAt u (2 ^ n) m = false := by simp [failsAt, bitAt_pow, hstep, hne, Ne.symm hm]
    rw [hslc, hnot, if_neg (by simp), hrun]

theorem WithoutSlice.go {s u : State} {n : Nat} (h : WithoutSlice s n u) (k : Nat) :
    WithoutSlice s n (u.bootGo k) ∧ (u.bootGo k).boot.step = k := ⟨h.mono rfl rfl le_rfl, rfl⟩

theorem WithoutSlice.sliceUp_zero {s t : State} {n : Nat} (h : WithoutSlice s n t) (hstep : s.boot.step ≠ 3) (h0 : n ≠ 0 ∧ s.sliceUp 0 = true) :
    t.sliceUp 0 = true := by
  rw [State.sliceUp, h.others hstep 0 h0.1.symm]
  exact h0.2

section
variable {s : State} {n : Nat} (hn : n < 4) (hup : s.sliceUp n = true)
include hn hup

theorem step3_without (h : s.boot.step = 3) : WithoutSlice s n (s.bootStep (2 ^ n)) ∧ (s.bootStep (2 ^ n)).boot.step = 4 := by
  have heq : s.bootStep (2 ^ n) = ((s.bootLinks (2 ^ n)).bootFails (2 ^ n)).bootGo 4 := by
    rw [State.bootStep, h]
    rfl
  have hlinks : LinksOnly s (s.bootLinks (2 ^ n)) := bootLinks_eq s (2 ^ n) ▸ trainLinks_linksOnly ..
  rw [heq]
  exact (bootFails_pow hn hup (by rw [hlinks.boot]) (fun m => by rw [hlinks.slc]) hlinks.2).1.go 4

theorem step4_without (h : s.boot.step = 4) : WithoutSlice s n (s.bootStep (2 ^ n)) ∧ (s.bootStep (2 ^ n)).boot.step = 5 := by
  have hrun : ∀ m, ((loaded s).slc m).run = (s.slc m).run := fun m => by
    simp only [loaded, State.slc, List.getD_eq_getElem?_getD, List.getElem?_map]
    cases s.slices[m]? with
    | none => rfl
    | some l =>
      simp only [Option.map_some, Option.getD_some]
      split
      · rfl
      · rfl
  rw [bootStep4 h]
  exact (bootFails_pow (u := loaded s) hn hup rfl hrun le_rfl).1.go 5

theorem step5_without (h : s.boot.step = 5) : WithoutSlice s n (s.bootStep (2 ^ n)) ∧ (s.bootStep (2 ^ n)).boot.step = 6 := by
  have hring := bootRing_linksOnly (s.bootFails (2 ^ n)) (2 ^ n)
  have hwithout := (bootFails_pow (u := s) hn hup rfl (fun _ => rfl) le_rfl).1
  rw [bootStep5 h]
  exact (hwithout.mono (congrArg Boot.failed hring.boot) hring.slices hring.2).go 6

theorem step6_without (h : s.boot.step = 6) : WithoutSlice s n (s.bootStep (2 ^ n)) ∧ (s.bootStep (2 ^ n)).boot.step = 7 := by
  rw [bootStep6 h]
  exact (bootFails_pow (u := s) hn hup rfl (fun _ => rfl) le_rfl).1.go 7

theorem step7_without (h : s.boot.step = 7) (h0 : n ≠ 0 ∧ s.sliceUp 0 = true) :
    WithoutSlice s n (s.bootStep (2 ^ n)) ∧ (s.bootStep (2 ^ n)).boot.step = 8 := by
  have hwithout := (bootFails_pow (u := zeroed s) hn hup rfl (fun _ => rfl) le_rfl).1
  rw [bootStep7 h, if_pos (hwithout.sliceUp_zero (by omega) h0)]
  exact hwithout.go 8

theorem step8_without (h : s.boot.step = 8) (h0 : n ≠ 0 ∧ s.sliceUp 0 = true) :
    WithoutSlice s n (s.bootStep (2 ^ n)) ∧ (s.bootStep (2 ^ n)).boot.step = 9 := by
  obtain ⟨-, hboot, hrun, herrs⟩ := biased_keeps s
  have hwithout := (bootFails_pow (u := biased s) hn hup (by rw [hboot]) hrun (by rw [herrs])).1
  rw [bootStep8 h, if_pos (hwithout.sliceUp_zero (by omega) h0)]
  obtain ⟨hwithout', hstep⟩ := hwithout.go 9
  obtain ⟨m, o, heq⟩ := msixFlush_eq (((biased s).bootFails (2 ^ n)).bootGo 9)
  rw [heq]
  exact ⟨hwithout'.mono rfl rfl le_rfl, hstep⟩

theorem step11_without (h : s.boot.step = 11) (h0 : n ≠ 0 ∧ s.sliceUp 0 = true) :
    WithoutSlice s n (s.bootStep (2 ^ n)) ∧ (s.bootStep (2 ^ n)).boot.step = 12 := by
  have hwithout := (bootFails_pow (u := s) hn hup rfl (fun _ => rfl) le_rfl).1
  rw [bootStep11 h, if_pos (hwithout.sliceUp_zero (by omega) h0)]
  obtain ⟨hstep, -, -, hfailed, -, hslices, herrs, -⟩ := bootReady_spec (s.bootFails (2 ^ n))
  exact ⟨hwithout.mono hfailed hslices herrs, hstep⟩

/-- Boot goes on without a slice that fails. -/
theorem bootStep_without (hin : s.boot.step ∈ [3, 4, 5, 6, 7, 8, 11]) (h0 : s.boot.step ∈ [7, 8, 11] → n ≠ 0 ∧ s.sliceUp 0 = true) :
    WithoutSlice s n (s.bootStep (2 ^ n)) ∧ (s.bootStep (2 ^ n)).boot.step = s.boot.step + 1 := by
  simp only [List.mem_cons, List.not_mem_nil, or_false] at hin h0
  rcases hin with h | h | h | h | h | h | h
  all_goals rw [h]
  · exact step3_without hn hup h
  · exact step4_without hn hup h
  · exact step5_without hn hup h
  · exact step6_without hn hup h
  · exact step7_without hn hup h (h0 (Or.inl h))
  · exact step8_without hn hup h (h0 (Or.inr (Or.inl h)))
  · exact step11_without hn hup h (h0 (Or.inr (Or.inr h)))

end

/-! Boot that halts, and the control register. -/

theorem bootStep_keeper_fails {s : State} (hstep : s.boot.step = 2) : (s.bootStep 16).boot.step = 2 ∧ (s.bootStep 16).boot.halted = true ∧
    (s.bootStep 16).boot.rstFail = true := by
  have heq : s.bootStep 16 = State.errEntry { s with boot := { s.boot with halted := true, rstFail := true } } 4 0x27 4 [2] := by
    rw [State.bootStep, hstep]
    exact if_pos (by decide)
  have hboot : (s.bootStep 16).boot = { s.boot with halted := true, rstFail := true } := by
    rw [heq]
    simp
  rw [hboot]
  exact ⟨hstep, rfl, rfl⟩

theorem bootStep_without_ps0 {s : State} (hin : s.boot.step ∈ [7, 8, 11]) (hup : s.sliceUp 0 = false) :
    (s.bootStep 0).boot.step = s.boot.step ∧ (s.bootStep 0).boot.halted = true ∧ (s.bootStep 0).boot.rstFail = true := by
  simp only [List.mem_cons, List.not_mem_nil, or_false] at hin
  have hdown : ¬ s.sliceUp 0 = true := by simp [hup]
  rcases hin with h | h | h
  · rw [bootStep7 h, bootFails_none (s := zeroed s) (by rw [zeroed, h]; decide), if_neg (show ¬ (zeroed s).sliceUp 0 = true from hdown)]
    exact bootStop_spec (zeroed s)
  · obtain ⟨hsame, hboot, -, -⟩ := biased_keeps s
    rw [bootStep8 h, bootFails_none (s := biased s) (by rw [hboot, h]; decide), if_neg (by rw [hsame]; exact hdown), ← hboot]
    exact bootStop_spec (biased s)
  · rw [bootStep11 h, bootFails_none (by omega), if_neg hdown]
    exact bootStop_spec s

theorem bootCtl_eq (s : State) (port : Nat) (repair skip : Bool) : s.bootCtl port repair skip =
    if !s.portUp port || s.boot.step != 9 then s else if repair then s.bootGo 10 else if skip then (s.setKreg 0x130 0).bootGo 11 else s := rfl

/-- Settles O43: each step, a slice that fails in one, the keeper or PS0 missing, and the choice at step 9. -/
theorem bootGoesThroughItsSteps : Obligations.BootGoesThroughItsSteps := by
  unfold Obligations.BootGoesThroughItsSteps
  intro s hlive hhalted
  refine ⟨fun hin hup => ?_, fun hstep => ?_, fun n hin h0 _ hup => ?_, fun hstep => ?_, fun hin hup => ?_, fun port => ⟨fun hport hstep => ?_, fun hstep => ?_⟩⟩
  · obtain ⟨⟨hstep, hhalted', htick, hpend, hcmds, htables⟩, hleaves⟩ := bootStep_goes hhalted hin hup
    exact completes_of_exec (exec_bootStepDone hlive hhalted 0) ⟨hstep, hhalted', htick, hpend, hcmds, htables, hleaves⟩
  · rw [Gives, exec_bootStepDone hlive hhalted, State.bootStep, hstep]
    rfl
  · obtain ⟨hwithout, hstep⟩ := bootStep_without n.isLt hup hin h0
    exact completes_of_exec (exec_bootStepDone hlive hhalted _) ⟨hstep, hwithout.failed, hwithout.held, hwithout.others, hwithout.errs⟩
  · exact completes_of_exec (exec_bootStepDone hlive hhalted _) (bootStep_keeper_fails hstep)
  · exact completes_of_exec (exec_bootStepDone hlive hhalted _) (bootStep_without_ps0 hin hup)
  · have hgo : ¬ (!s.portUp port.val || s.boot.step != 9) = true := by simp [hport, hstep]
    constructor
    · rw [Gives, show exec (.bootRepair port) s = .next (s.bootCtl port.val true false) from rfl, bootCtl_eq, if_neg hgo]
      rfl
    · rw [Gives, show exec (.bootSkip port) s = .next (s.bootCtl port.val false true) from rfl, bootCtl_eq, if_neg hgo]
      rfl
  · have hstay : (!s.portUp port.val || s.boot.step != 9) = true := by simp [hstep]
    constructor
    · rw [Gives, show exec (.bootRepair port) s = .next (s.bootCtl port.val true false) from rfl, bootCtl_eq, if_pos hstay]
    · rw [Gives, show exec (.bootSkip port) s = .next (s.bootCtl port.val false true) from rfl, bootCtl_eq, if_pos hstay]

end Sys2Proof.Proofs.Boots
end

section
/-! The restart of one slice (O44). -/

namespace Sys2Proof.Proofs.Restarts

open Sys2Proof Sys2Proof.Machine Sys2Proof.Claims Sys2Proof.Laws Sys2Proof.Proofs.Basic Sys2Proof.Proofs.Layer Sys2Proof.Proofs.LinkLayer

/-! A step of a restart. -/

theorem lt_length_of_run {s : State} {n : Nat} (h : (s.slc n).run ≠ 0) : n < s.slices.length := by
  by_contra hn
  rw [State.slc, List.getD_eq_default _ _ (not_lt.mp hn)] at h
  exact absurd rfl h

theorem restartGo_spec (s : State) (n k : Nat) (hn : n < s.slices.length) :
    (∀ m, (s.restartGo n k).slc m = if m = n then { s.slc n with rstep := k } else s.slc m) ∧
    s.restartGo n k = { s with slices := (s.restartGo n k).slices, kpr := (s.restartGo n k).kpr, trace := (s.restartGo n k).trace } := by
  have hslices : (s.restartGo n k).slices = (s.modSlice n (fun l => { l with rstep := k })).slices := by simp [State.restartGo]
  refine ⟨fun m => ?_, ?_⟩
  · rw [State.slc, hslices, ← slc_modSlice s n m (fun l => { l with rstep := k }) hn, State.slc]
  · rw [state_eq_iff]
    simp [State.restartGo]

/-- A slice whose restart begins. -/
def restarting (l : Slice) : Slice := { l with run := 1 }

/-! Triggers. -/

theorem restartNext_busy {s : State} (h : ∃ l ∈ s.slices, l.run = 1) : s.restartNext = s := by
  rw [State.restartNext, if_pos]
  simpa using h

theorem restartNext_empty {s : State} (h : s.restartQ = []) : s.restartNext = s := by
  rw [State.restartNext, h]
  split
  · rfl
  · rfl

/-- The state in which a restart has left the queue. -/
def restartTaken (s : State) (n : Nat) : State := State.modSlice { s with restartQ := [] } n restarting

theorem restartNext_begins {s : State} {n trig : Nat} (hq : s.restartQ = [(n, trig)]) (hidle : ∀ l ∈ s.slices, l.run ≠ 1) :
    s.restartNext = ((restartTaken s n).errEntry 4 0x20 1 (natLE 1 n ++ natLE 1 trig)).restartGo n 1 := by
  rw [State.restartNext, if_neg (by simpa using hidle), hq]
  rfl

/-- What the beginning of a restart leaves. -/
theorem restartNext_begins_spec {s : State} {n trig : Nat} (hq : s.restartQ = [(n, trig)]) (hidle : ∀ l ∈ s.slices, l.run ≠ 1)
    (hn : n < s.slices.length) : (s.restartNext.slc n).run = 1 ∧ (s.restartNext.slc n).rstep = 1 ∧ s.restartNext.restartQ = [] ∧
      (∀ m, m ≠ n → s.restartNext.slc m = s.slc m) ∧ s.restartNext.errs.total = s.errs.total + 1 ∧ s.restartNext.cmds = s.cmds ∧
      s.restartNext.dev = s.dev := by
  rw [restartNext_begins hq hidle]
  have hentry := errEntry_linksOnly (restartTaken s n) 4 0x20 1 (natLE 1 n ++ natLE 1 trig)
  have htotal := errEntry_total (restartTaken s n) 4 0x20 1 (natLE 1 n ++ natLE 1 trig)
  have hslc : ∀ m, (restartTaken s n).slc m = if m = n then restarting (s.slc n) else s.slc m :=
    fun m => slc_modSlice { s with restartQ := [] } n m restarting hn
  have hlen : (restartTaken s n).slices.length = s.slices.length := List.length_set
  generalize (restartTaken s n).errEntry 4 0x20 1 (natLE 1 n ++ natLE 1 trig) = u at *
  obtain ⟨hgo, hrest⟩ := restartGo_spec u n 1 (by rw [hentry.slices, hlen]; exact hn)
  refine ⟨?_, ?_, ?_, fun m hm => ?_, ?_, ?_, ?_⟩
  · rw [hgo, if_pos rfl, hentry.slc, hslc, if_pos rfl]
    rfl
  · rw [hgo, if_pos rfl]
  · rw [hrest, hentry.1]
    rfl
  · rw [hgo, if_neg hm, hentry.slc, hslc, if_neg hm]
  · rw [hrest]
    exact htotal
  · rw [hrest, hentry.1]
    rfl
  · rw [hrest, hentry.1]
    rfl

/-- The entry that an internal fault makes. -/
def faultNoted (s : State) (n trig : Nat) : State := if trig = 2 then s.errEntry n 0x22 3 (natLE 1 n) else s

theorem faultNoted_spec (s : State) (n trig : Nat) : LinksOnly s (faultNoted s n trig) ∧
    (faultNoted s n trig).errs.total = s.errs.total + (if trig = 2 then 1 else 0) := by
  unfold faultNoted
  split
  · exact ⟨errEntry_linksOnly .., errEntry_total ..⟩
  · exact ⟨.refl s, rfl⟩

theorem restartTrigger_eq {s : State} {n : Nat} (hup : s.sliceUp n = true) (hq : ∀ p ∈ s.restartQ, p.1 ≠ n) (trig : Nat) :
    s.restartTrigger n trig = State.restartNext { faultNoted s n trig with restartQ := s.restartQ ++ [(n, trig)] } := by
  have hsame : (faultNoted s n trig).restartQ = s.restartQ := by rw [(faultNoted_spec s n trig).1.1]
  have hnone : s.restartQ.any (fun p => p.1 == n) = false := List.any_eq_false.mpr fun p hp => by simpa using hq p hp
  rw [← hsame, State.restartTrigger, if_neg (by simp [hup, hnone])]
  rfl

theorem exec_sliceRestart {s : State} {n : Fin 4} {trig : Fin 3} (hlive : s.live = true) (hhost : trig.val = 0 → s.hostReady = true) :
    exec (.sliceRestart n trig) s = .next (s.restartTrigger n.val trig.val) := by
  have hgo : ¬ (!s.live || (trig.val == 0 && !s.hostReady)) = true := by simpa [hlive] using hhost
  exact if_neg hgo

theorem restartBegins {s : State} {n : Fin 4} {trig : Fin 3} (hlive : s.live = true) (hhost : trig.val = 0 → s.hostReady = true)
    (hup : s.sliceUp n.val = true) (hq : s.restartQ = []) (hidle : ∀ l ∈ s.slices, l.run ≠ 1) : Completes (.sliceRestart n trig) s (fun t =>
      (t.slc n.val).run = 1 ∧ (t.slc n.val).rstep = 1 ∧ t.restartQ = [] ∧ (∀ m, m ≠ n.val → t.slc m = s.slc m) ∧
      t.errs.total = s.errs.total + (if trig.val = 2 then 2 else 1) ∧ t.cmds = s.cmds ∧ t.dev = s.dev) := by
  refine completes_of_exec (exec_sliceRestart hlive hhost) ?_
  rw [restartTrigger_eq hup (by simp [hq]), hq, List.nil_append]
  obtain ⟨honly, htotal⟩ := faultNoted_spec s n.val trig.val
  generalize faultNoted s n.val trig.val = u at *
  have hn : n.val < u.slices.length := by
    rw [honly.slices]
    exact lt_length_of_run (by rw [show (s.slc n.val).run = 2 by simpa [State.sliceUp] using hup]; decide)
  obtain ⟨hrun, hstep, hrq, hothers, herrs, hcmds, hdev⟩ := restartNext_begins_spec (s := { u with restartQ := [(n.val, trig.val)] }) (n := n.val)
    (trig := trig.val) rfl (by rw [honly.slices]; exact hidle) hn
  refine ⟨hrun, hstep, hrq, fun m hm => (hothers m hm).trans (honly.slc m), ?_, hcmds.trans (by rw [honly.1]), hdev.trans (by rw [honly.1])⟩
  rw [herrs]
  change u.errs.total + 1 = _
  rw [htotal]
  split
  · rfl
  · rfl

theorem restartWaits {s : State} {n : Fin 4} {trig : Fin 3} (hlive : s.live = true) (hhost : trig.val = 0 → s.hostReady = true)
    (hup : s.sliceUp n.val = true) (hq : ∀ p ∈ s.restartQ, p.1 ≠ n.val) (hbusy : ∃ l ∈ s.slices, l.run = 1) :
    Completes (.sliceRestart n trig) s (fun t => t.restartQ = s.restartQ ++ [(n.val, trig.val)] ∧ t.slices = s.slices ∧
      t.errs.total = s.errs.total + (if trig.val = 2 then 1 else 0) ∧ (trig.val ≠ 2 → t = { s with restartQ := t.restartQ })) := by
  refine completes_of_exec (exec_sliceRestart hlive hhost) ?_
  obtain ⟨honly, htotal⟩ := faultNoted_spec s n.val trig.val
  rw [restartTrigger_eq hup hq, restartNext_busy (by rw [honly.slices]; exact hbusy)]
  exact ⟨rfl, honly.slices, htotal, fun htrig => by rw [faultNoted, if_neg htrig]⟩

theorem restartIgnored {s : State} {n : Fin 4} {trig : Fin 3} (hlive : s.live = true) (hhost : trig.val = 0 → s.hostReady = true)
    (hup : s.sliceUp n.val = false) : Gives (.sliceRestart n trig) s s := by
  rw [Gives, exec_sliceRestart hlive hhost, State.restartTrigger, if_pos]
  simp [hup]

/-! What a slice loses. -/

/-- An operation that takes away: no new command, vat, host write or queue; the tick counters stay. -/
structure Shrinks (s t : State) : Prop where
  cmds : ∀ p ∈ t.cmds, ∃ q ∈ s.cmds, p.2.slice = q.2.slice
  ticks : t.slices.map Slice.tick = s.slices.map Slice.tick
  vats : ∀ p ∈ t.vats, p ∈ s.vats
  hostWr : ∀ w ∈ t.hostWr, w ∈ s.hostWr
  sqs : ∀ p ∈ t.sqs, p ∈ s.sqs

theorem Shrinks.trans {s t u : State} (h1 : Shrinks s t) (h2 : Shrinks t u) : Shrinks s u where
  cmds p hp := by
    obtain ⟨q, hq, hpq⟩ := h2.cmds p hp
    obtain ⟨r, hr, hqr⟩ := h1.cmds q hq
    exact ⟨r, hr, hpq.trans hqr⟩
  ticks := h2.ticks.trans h1.ticks
  vats p hp := h1.vats p (h2.vats p hp)
  hostWr w hw := h1.hostWr w (h2.hostWr w hw)
  sqs p hp := h1.sqs p (h2.sqs p hp)

/-- What leaves those five parts as they are. -/
theorem Shrinks.of_eq {s t : State} (hcmds : t.cmds = s.cmds) (hslices : t.slices = s.slices) (hvats : t.vats = s.vats)
    (hwr : t.hostWr = s.hostWr) (hsqs : t.sqs = s.sqs) : Shrinks s t where
  cmds p hp := ⟨p, hcmds ▸ hp, rfl⟩
  ticks := by rw [hslices]
  vats p hp := hvats ▸ hp
  hostWr w hw := hwr ▸ hw
  sqs p hp := hsqs ▸ hp

theorem Shrinks.refl (s : State) : Shrinks s s := .of_eq rfl rfl rfl rfl rfl

theorem foldl_shrinks {α : Type} (f : State → α → State) (h : ∀ s a, Shrinks s (f s a)) (l : List α) (s : State) : Shrinks s (l.foldl f s) :=
  foldl_rel Shrinks .refl .trans f h l s

theorem mem_of_tab_set {α : Type} {t : Tab α} {k : Nat} {a : α} {p : Nat × α} (hp : p ∈ Tab.set t k a) : p = (k, a) ∨ p ∈ t := by
  induction t with
  | nil => exact Or.inl (List.mem_singleton.mp hp)
  | cons q r ih =>
    rw [Tab.set] at hp
    grind

theorem mem_of_tab_modify {α : Type} {t : Tab α} {k : Nat} {f : α → α} {p : Nat × α} (hp : p ∈ Tab.modify t k f) :
    p ∈ t ∨ ∃ a, (k, a) ∈ t ∧ p = (k, f a) := by
  unfold Tab.modify at hp
  cases hk : Tab.get? t k with
  | none =>
    rw [hk] at hp
    exact Or.inl hp
  | some a =>
    rw [hk] at hp
    rcases mem_of_tab_set hp with h | h
    · exact Or.inr ⟨a, mem_of_tab_get? hk, h⟩
    · exact Or.inl h

theorem modCmd_shrinks (s : State) (h : Nat) {f : Cmd → Cmd} (hf : ∀ c, (f c).slice = c.slice) : Shrinks s (s.modCmd h f) where
  cmds p hp := by
    rcases mem_of_tab_modify hp with hp | ⟨c, hc, rfl⟩
    · exact ⟨p, hp, rfl⟩
    · exact ⟨(h, c), hc, hf c⟩
  ticks := rfl
  vats _ hp := hp
  hostWr _ hw := hw
  sqs _ hp := hp

theorem endCmd_shrinks (s : State) (h : Nat) {f : Cmd → Cmd} (hf : ∀ c, (f c).slice = c.slice) : Shrinks s (s.endCmd h f) :=
  (modCmd_shrinks s h (f := fun c => { f c with phase := .done, doneAt := s.nextCmd }) hf).trans (.of_eq rfl rfl rfl rfl rfl)

theorem release_shrinks (s : State) (w : Who) : Shrinks s (s.release w) := .of_eq rfl rfl rfl rfl rfl

theorem toPeer_shrinks (s : State) (e : Nat) (m : PeerMsg) : Shrinks s (s.toPeer e m) := .of_eq (by simp) (by simp) (by simp) (by simp) (by simp)

theorem errEntry_shrinks (s : State) (a c r : Nat) (d : List Byte) : Shrinks s (s.errEntry a c r d) :=
  .of_eq (by simp) (by simp) (by simp) (by simp) (by simp)

theorem modTable_shrinks (s : State) (t : Nat) (f : Table → Table) : Shrinks s (s.modTable t f) := .of_eq rfl rfl rfl rfl rfl

theorem planRelease_shrinks (s : State) (p : Nat) : Shrinks s (s.planRelease p) := by
  unfold State.planRelease
  split
  · split
    · exact .of_eq rfl rfl rfl rfl rfl
    · exact .refl s
  · exact .refl s

theorem scatterEnd_shrinks (s : State) (h : Nat) : Shrinks s (s.scatterEnd h) := by
  unfold State.scatterEnd
  split
  · exact .refl s
  · split
    · exact .refl s
    · refine Shrinks.trans (endCmd_shrinks s h ?_) (release_shrinks ..)
      exact fun _ => rfl

theorem discardWaiting_shrinks (s : State) (num : Nat) : Shrinks s (s.discardWaiting num).1 := by
  refine foldl_rel (fun p q : State × Nat => Shrinks p.1 q.1) (fun p => .refl p.1) (fun h1 h2 => h1.trans h2) _ (fun p c => ?_) _ (s, 0)
  split
  · refine Shrinks.trans (modCmd_shrinks p.1 c.1 ?_) (scatterEnd_shrinks ..)
    exact fun _ => rfl
  · exact .refl p.1

theorem dropTable_shrinks (s : State) (num : Nat) (replacing : Bool) : Shrinks s (s.dropTable num replacing) where
  cmds p hp := ⟨p, hp, rfl⟩
  ticks := by simp [State.dropTable]
  vats _ hp := hp
  hostWr _ hw := hw
  sqs _ hp := hp

theorem flushDone_shrinks (s : State) (f : FlushWait) : Shrinks s (s.flushDone f) := by
  have h := Window.flushDone_portsOnly s f
  rw [Window.PortsOnly] at h
  exact .of_eq (by rw [h]) (by rw [h]) (by rw [h]) (by rw [h]) (by rw [h])

theorem LinksOnly.shrinks {s t : State} (h : LinksOnly s t) : Shrinks s t := by
  rw [h.1]
  exact .of_eq rfl rfl rfl rfl rfl

theorem staging_shrinks (s : State) (k : Nat) : Shrinks s { s with staging := k } := .of_eq rfl rfl rfl rfl rfl

/-- A table whose TABLE_CLOSE is lost goes with what waits for it. -/
theorem closeLost_shrinks (s : State) (t : Nat) (l : List (Contrib × Nat)) (replacing : Bool) (adopt : List Pub) (drains : List Drain) :
    Shrinks s { (l.foldl (fun a k => a.toPeer k.1.engine (.reply k.2 .refused)) (s.discardWaiting t).1).dropTable t replacing with
      adopt := adopt, drains := drains } :=
  (discardWaiting_shrinks s t).trans ((foldl_shrinks _ (fun s k => toPeer_shrinks s k.1.engine _) l _).trans
    ((dropTable_shrinks _ t replacing).trans (.of_eq rfl rfl rfl rfl rfl)))

/-- The commands of a slice that restarts are lost, and what follows from it takes away only. -/
theorem loseCmds_from (s : State) (n : Nat) : ∃ u : State, Shrinks u (s.loseCmds n) ∧ u.cmds = s.cmds.filter (fun p => p.2.slice != n) ∧
    u.slices = s.slices ∧ u.vats = s.vats ∧ u.hostWr = s.hostWr ∧ u.sqs = s.sqs := by
  unfold State.loseCmds
  dsimp only
  refine ⟨?u, ?shrinks, ?cmds, ?slices, ?vats, ?wr, ?sqs⟩
  case shrinks =>
    refine Shrinks.trans ?_ (foldl_shrinks _ (fun s p => (release_shrinks s _).trans (planRelease_shrinks ..)) _ _)
    split
    · refine Shrinks.trans ?_ (staging_shrinks _ 0)
      exact foldl_shrinks _ (fun s t => closeLost_shrinks s t _ _ _ _) _ _
    · exact foldl_shrinks _ (fun s t => closeLost_shrinks s t _ _ _ _) _ _
  all_goals rfl

theorem loseCmds_shrinks (s : State) (n : Nat) : Shrinks s (s.loseCmds n) ∧ ∀ p ∈ (s.loseCmds n).cmds, p.2.slice ≠ n := by
  obtain ⟨u, hrest, hcmds, hslices, hvats, hwr, hsqs⟩ := loseCmds_from s n
  have hfirst : Shrinks s u :=
    { cmds := fun p hp => ⟨p, List.mem_of_mem_filter (hcmds ▸ hp), rfl⟩
      ticks := by rw [hslices]
      vats := fun p hp => hvats ▸ hp
      hostWr := fun w hw => hwr ▸ hw
      sqs := fun p hp => hsqs ▸ hp }
  refine ⟨hfirst.trans hrest, fun p hp => ?_⟩
  obtain ⟨q, hq, hslice⟩ := hrest.cmds p hp
  rw [hcmds] at hq
  rw [hslice]
  simpa using (List.mem_filter.mp hq).2

theorem loseContribs_shrinks (s : State) (n : Nat) : Shrinks s (s.loseContribs n) := by
  unfold State.loseContribs
  dsimp only
  refine Shrinks.trans ?_ (foldl_shrinks _ (fun s p => ?_) _ _)
  · refine Shrinks.trans ?_ (foldl_shrinks _ (fun s t => ?_) _ _)
    · exact .of_eq rfl rfl rfl rfl rfl
    · exact (modTable_shrinks s ..).trans ((foldl_shrinks _ (fun s (k : Contrib × Nat) => toPeer_shrinks s k.1.engine _) _ _).trans
        (foldl_shrinks _ (fun s w => errEntry_shrinks s ..) _ _))
  · split
    · exact .refl s
    · refine Shrinks.trans (modCmd_shrinks s p.1 ?_) (scatterEnd_shrinks ..)
      exact fun _ => rfl

/-- The vats of a slice that restarts are empty. -/
theorem loseVats_shrinks (s : State) (n : Nat) : Shrinks s (s.loseVats n) ∧ ∀ p ∈ (s.loseVats n).vats, p.1 / 16 ≠ n := by
  have hrest : Shrinks { s with vats := s.vats.filter (fun p => p.1 / 16 != n) } (s.loseVats n) := by
    unfold State.loseVats
    dsimp only
    refine foldl_shrinks _ (fun s p => ?_) _ _
    split
    · exact .refl s
    · split
      · refine Shrinks.trans (modCmd_shrinks s p.1 ?_) (Shrinks.trans (endCmd_shrinks _ p.1 ?_) (release_shrinks ..))
        · exact fun _ => rfl
        · exact fun _ => rfl
      · exact modCmd_shrinks s p.1 fun _ => rfl
  have hfirst : Shrinks s { s with vats := s.vats.filter (fun p => p.1 / 16 != n) } :=
    { Shrinks.refl s with vats := fun _ hp => List.mem_of_mem_filter hp }
  refine ⟨hfirst.trans hrest, fun p hp => ?_⟩
  simpa using (List.mem_filter.mp (hrest.vats p hp)).2

/-- The host writes of a slice that restarts are gone. -/
theorem losePort_shrinks (s : State) (n : Nat) : Shrinks s (s.losePort n) ∧ ∀ w ∈ (s.losePort n).hostWr, w.slice ≠ n := by
  obtain ⟨u, hrest, hwr, hfirst⟩ : ∃ u : State, Shrinks u (s.losePort n) ∧ u.hostWr = s.hostWr.filter (fun w => w.slice != n) ∧ Shrinks s u := by
    unfold State.losePort
    dsimp only
    refine ⟨?u, ?rest, ?wr, ?first⟩
    case rest => exact foldl_shrinks _ flushDone_shrinks _ _
    case wr => rfl
    case first => exact { Shrinks.refl s with hostWr := fun _ hw => List.mem_of_mem_filter hw }
  refine ⟨hfirst.trans hrest, fun w hw => ?_⟩
  have hin := hrest.hostWr w hw
  rw [hwr] at hin
  simpa using (List.mem_filter.mp hin).2

theorem map_tick_modSlice (s : State) (n : Nat) {f : Slice → Slice} (hf : ∀ l, (f l).tick = l.tick) :
    (s.modSlice n f).slices.map Slice.tick = s.slices.map Slice.tick := by
  rw [State.modSlice, List.map_set, hf]
  rcases lt_or_ge n s.slices.length with hn | hn
  · have hslc : s.slc n = s.slices[n] := by simp [State.slc, hn]
    rw [hslc, ← List.getElem_map Slice.tick (h := by simpa using hn), List.set_getElem_self]
  · exact List.set_eq_of_length_le (by simpa using hn)

/-- What a slice that restarts keeps of itself. -/
def bareSlice (l : Slice) : Slice :=
  { tick := l.tick, lastLoad := l.lastLoad, run := l.run, rstep := l.rstep, loss := l.loss, window := l.window, layers := l.layers }

/-- The queues of a slice that restarts are gone; its tick counter goes on. -/
theorem loseSlice_shrinks (s : State) (n : Nat) : Shrinks s (s.loseSlice n) ∧ ∀ p ∈ (s.loseSlice n).sqs, p.2.slice ≠ n := by
  refine ⟨⟨fun p hp => ⟨p, hp, rfl⟩, ?_, fun _ hp => hp, fun _ hw => hw, fun _ hp => List.mem_of_mem_filter hp⟩, fun p hp => ?_⟩
  · have hbare := map_tick_modSlice s n (f := bareSlice) fun _ => rfl
    rw [← hbare]
    simp only [State.loseSlice, List.map_map]
    rfl
  · simpa using (List.mem_filter.mp hp).2

theorem linkReset_linksOnly (s : State) (n : Nat) : LinksOnly s (s.linkReset n) := by
  refine foldl_linksOnly _ (fun s l => foldl_linksOnly _ (fun s m => ?_) _ s) _ s
  split
  · exact modMod_linksOnly ..
  · split
    · dsimp only
      split
      · exact (modMod_linksOnly ..).trans (retrain_linksOnly ..)
      · exact modMod_linksOnly ..
    · exact .refl s

/-- What is left of a slice that restarts: its tick counter, and no command, vat, host write or queue. -/
theorem sliceLost_spec (s : State) (n : Nat) : (s.sliceLost n).slices.map Slice.tick = s.slices.map Slice.tick ∧
    (∀ p ∈ (s.sliceLost n).cmds, p.2.slice ≠ n) ∧ (∀ p ∈ (s.sliceLost n).sqs, p.2.slice ≠ n) ∧
    (∀ p ∈ (s.sliceLost n).vats, p.1 / 16 ≠ n) ∧ ∀ w ∈ (s.sliceLost n).hostWr, w.slice ≠ n := by
  unfold State.sliceLost
  obtain ⟨h1, hcmds⟩ := loseCmds_shrinks s n
  generalize s.loseCmds n = a at *
  have h2 := loseContribs_shrinks a n
  generalize a.loseContribs n = b at *
  obtain ⟨h3, hvats⟩ := loseVats_shrinks b n
  generalize b.loseVats n = c at *
  obtain ⟨h4, hwr⟩ := losePort_shrinks c n
  generalize c.losePort n = d at *
  obtain ⟨h5, hsqs⟩ := loseSlice_shrinks d n
  generalize d.loseSlice n = e at *
  have h6 := LinksOnly.shrinks (linkReset_linksOnly e n)
  generalize e.linkReset n = f at *
  refine ⟨(h1.trans (h2.trans (h3.trans (h4.trans (h5.trans h6))))).ticks, fun p hp => ?_, fun p hp => hsqs p (h6.sqs p hp),
    fun p hp => hvats p ((h4.trans (h5.trans h6)).vats p hp), fun w hw => hwr w ((h5.trans h6).hostWr w hw)⟩
  obtain ⟨q, hq, hslice⟩ := (h2.trans (h3.trans (h4.trans (h5.trans h6)))).cmds p hp
  rw [hslice]
  exact hcmds q hq

/-! The steps. -/

theorem exec_restartStepDone {s : State} {n : Fin 4} (hlive : s.live = true) (hrun : (s.slc n.val).run = 1) (r : Nat) :
    exec (.restartStepDone n r) s = .next (s.restartStep n.val r) := by
  have hgo : ¬ (!s.live || (s.slc n.val).run != 1) = true := by simp [hlive, hrun]
  exact if_neg hgo

theorem tab_get?_filter_key {α : Type} (t : Tab α) (q : Nat → Bool) (k : Nat) :
    Tab.get? (t.filter (fun p => q p.1)) k = if q k then Tab.get? t k else none := by
  induction t with
  | nil => simp [Tab.get?]
  | cons p r ih =>
    rw [List.filter_cons]
    by_cases hp : q p.1 = true
    · rw [if_pos hp, Tab.get?, Tab.get?, ih]
      by_cases hk : p.1 = k
      · rw [if_pos hk, if_pos hk, if_pos (hk ▸ hp)]
      · rw [if_neg hk, if_neg hk]
    · rw [if_neg hp, ih, Tab.get?]
      by_cases hk : p.1 = k
      · rw [← hk, if_neg hp, if_neg hp]
      · rw [if_neg hk]

/-- The state without the vats of a slice. -/
def withoutVats (s : State) (n : Nat) : State := { s with vats := s.vats.filter (fun p => p.1 / 16 != n) }

theorem vat_withoutVats (s : State) (n v : Nat) : (withoutVats s n).vat v = if v / 16 = n then {} else s.vat v := by
  rw [State.vat, withoutVats, Tab.getD, tab_get?_filter_key s.vats (fun k => k / 16 != n)]
  by_cases hv : v / 16 = n
  · simp [hv]
  · simp [hv, State.vat, Tab.getD]

section
variable {s : State} {n : Nat}

theorem restartStep_passes (h : (s.slc n).rstep ∈ [1, 2, 6]) (r : Nat) : s.restartStep n r = s.restartGo n ((s.slc n).rstep + 1) := by
  simp only [List.mem_cons, List.not_mem_nil, or_false] at h
  rcases h with h | h | h
  all_goals
    rw [State.restartStep, h]
    rfl

theorem restartStep3 (h : (s.slc n).rstep = 3) (r : Nat) : s.restartStep n r = (s.sliceLost n).restartGo n 4 := by
  rw [State.restartStep, h]
  rfl

/-- The ring directions of a slice, trained. -/
def ringTrained (s : State) (n r : Nat) : State := (ringLinks n).zipIdx.foldl (fun acc l => acc.linkTrain l.1 (bitAt r l.2)) s

theorem ringTrained_linksOnly (s : State) (n r : Nat) : LinksOnly s (ringTrained s n r) :=
  foldl_linksOnly _ (fun s (l : Nat × Nat) => linkTrain_linksOnly s l.1 (bitAt r l.2)) _ s

theorem restartStep5 (h : (s.slc n).rstep = 5) (r : Nat) : s.restartStep n r = (ringTrained s n r).restartGo n 6 := by
  rw [State.restartStep, h]
  rfl

theorem restartStep7 (h : (s.slc n).rstep = 7) (r : Nat) : s.restartStep n r = (withoutVats s n).restartGo n 8 := by
  rw [State.restartStep, h]
  rfl

theorem restartStep8 (h : (s.slc n).rstep = 8) (r : Nat) : s.restartStep n r = s.sliceIn n := by
  rw [State.restartStep, h]
  rfl

/-- A restart goes to the next step from a state in which the slices, commands and memory are as before. -/
theorem restartGo_after {u : State} (hn : n < s.slices.length) (hslices : u.slices = s.slices) (hcmds : u.cmds = s.cmds) (hdev : u.dev = s.dev) (k : Nat) :
    (u.restartGo n k).slc n = { s.slc n with rstep := k } ∧ (∀ m, m ≠ n → (u.restartGo n k).slc m = s.slc m) ∧
    (u.restartGo n k).cmds = s.cmds ∧ (u.restartGo n k).dev = s.dev ∧ ∀ v, (u.restartGo n k).vat v = u.vat v := by
  obtain ⟨hgo, hrest⟩ := restartGo_spec u n k (by rw [hslices]; exact hn)
  have hslc : ∀ m, u.slc m = s.slc m := fun m => by rw [State.slc, hslices, State.slc]
  refine ⟨?_, fun m hm => ?_, ?_, ?_, fun v => ?_⟩
  · rw [hgo, if_pos rfl, hslc]
  · rw [hgo, if_neg hm, hslc]
  · rw [hrest]
    exact hcmds
  · rw [hrest]
    exact hdev
  · rw [hrest]
    rfl

theorem restartStep_next (hn : n < s.slices.length) (hin : (s.slc n).rstep ∈ [1, 2, 5, 6, 7]) :
    (s.restartStep n 0).slc n = { s.slc n with rstep := (s.slc n).rstep + 1 } ∧ (∀ m, m ≠ n → (s.restartStep n 0).slc m = s.slc m) ∧
    (s.restartStep n 0).cmds = s.cmds ∧ (s.restartStep n 0).dev = s.dev ∧
    ∀ v, (s.restartStep n 0).vat v = if (s.slc n).rstep = 7 ∧ v / 16 = n then {} else s.vat v := by
  simp only [List.mem_cons, List.not_mem_nil, or_false] at hin
  rcases (show (s.slc n).rstep ∈ [1, 2, 6] ∨ (s.slc n).rstep = 5 ∨ (s.slc n).rstep = 7 by simp; omega) with h | h | h
  · rw [restartStep_passes h]
    obtain ⟨hself, hothers, hcmds, hdev, hvat⟩ := restartGo_after (u := s) hn rfl rfl rfl ((s.slc n).rstep + 1)
    have hne : (s.slc n).rstep ≠ 7 := fun h7 => by rw [h7] at h; simp at h
    exact ⟨hself, hothers, hcmds, hdev, fun v => by rw [hvat, if_neg fun h => hne h.1]⟩
  · rw [restartStep5 h, h]
    have hring := ringTrained_linksOnly s n 0
    obtain ⟨hself, hothers, hcmds, hdev, hvat⟩ := restartGo_after hn hring.slices (by rw [hring.1]) (by rw [hring.1]) 6
    refine ⟨hself, hothers, hcmds, hdev, fun v => ?_⟩
    rw [hvat, if_neg (by omega), hring.1]
    rfl
  · rw [restartStep7 h, h]
    obtain ⟨hself, hothers, hcmds, hdev, hvat⟩ := restartGo_after (u := withoutVats s n) hn rfl rfl rfl 8
    refine ⟨hself, hothers, hcmds, hdev, fun v => ?_⟩
    rw [hvat, vat_withoutVats]
    simp

theorem tick_of_ticks {t : State} (h : t.slices.map Slice.tick = s.slices.map Slice.tick) (m : Nat) : (t.slc m).tick = (s.slc m).tick := by
  have hget : ∀ u : State, (u.slc m).tick = (u.slices.map Slice.tick).getD m 0 := fun u => by
    simp only [State.slc, List.getD_eq_getElem?_getD, List.getElem?_map]
    cases u.slices[m]? with
    | none => rfl
    | some l => rfl
  rw [hget, hget, h]

theorem tab_getD_of_absent {α : Type} {t : Tab α} {k : Nat} (h : ∀ p ∈ t, p.1 ≠ k) (d : α) : Tab.getD t k d = d := by
  cases hk : Tab.get? t k with
  | none => rw [Tab.getD, hk]; rfl
  | some a => exact absurd rfl (h _ (mem_of_tab_get? hk))

theorem restartStep_loses (hn : n < s.slices.length) (h : (s.slc n).rstep = 3) : ((s.restartStep n 0).slc n).rstep = 4 ∧
    ((s.restartStep n 0).slc n).tick = (s.slc n).tick ∧ (∀ p ∈ (s.restartStep n 0).cmds, p.2.slice ≠ n) ∧
    (∀ p ∈ (s.restartStep n 0).sqs, p.2.slice ≠ n) ∧ (∀ v, v / 16 = n → (s.restartStep n 0).vat v = {}) ∧
    ∀ w ∈ (s.restartStep n 0).hostWr, w.slice ≠ n := by
  rw [restartStep3 h]
  obtain ⟨hticks, hcmds, hsqs, hvats, hwr⟩ := sliceLost_spec s n
  generalize s.sliceLost n = u at *
  have hlen : n < u.slices.length := by
    rw [← List.length_map Slice.tick, hticks, List.length_map]
    exact hn
  obtain ⟨hgo, hrest⟩ := restartGo_spec u n 4 hlen
  refine ⟨?_, ?_, ?_, ?_, fun v hv => ?_, ?_⟩
  · rw [hgo, if_pos rfl]
  · rw [hgo, if_pos rfl]
    exact tick_of_ticks hticks n
  · rw [hrest]
    exact hcmds
  · rw [hrest]
    exact hsqs
  · rw [hrest]
    exact tab_getD_of_absent (fun p hp hpv => hvats p hp (by rw [hpv]; exact hv)) {}
  · rw [hrest]
    exact hwr

/-! The spoke trains again. -/

/-- The two directions of a slice's spoke, trained. -/
def spokeTrained (s : State) (n : Nat) (fail : Bool) : State := trainLinks s ((spokeLinks n).map (fun l => (l, fail)))

/-- A slice whose counter is loaded. -/
def tickLoaded (k : Nat) (l : Slice) : Slice := { l with tick := k + cdiv (k - l.lastLoad) 999, lastLoad := k }

/-- A slice that stays in reset. -/
def leftOut (l : Slice) : Slice := { l with run := 0, rstep := 0 }

theorem restartStep4 (h : (s.slc n).rstep = 4) (r : Nat) : s.restartStep n r =
    if (spokeLinks n).any (fun l => ((spokeTrained s n (bitAt r 0)).link l).down) then
      (((spokeTrained s n (bitAt r 0)).modSlice n leftOut).ringDrop n).restartNext
    else ((spokeTrained s n (bitAt r 0)).modSlice n (tickLoaded (spokeTrained s n (bitAt r 0)).kTick)).restartGo n 5 := by
  have htrained : spokeTrained s n (bitAt r 0) = (spokeLinks n).foldl (fun acc l => acc.linkTrain l (bitAt r 0)) s := by
    rw [spokeTrained, trainLinks, List.foldl_map]
  rw [htrained, State.restartStep, h]
  rfl

/-- Both directions of an untrained spoke come up, or go down if the training fails. -/
theorem spokeTrained_spec (hn : n < 4) (hrun : (s.slc n).run = 1) (hnew : ∀ l ∈ spokeLinks n, Untrained s l) (fail : Bool) :
    LinksOnly s (spokeTrained s n fail) ∧ ∀ l ∈ spokeLinks n, ((spokeTrained s n fail).link l).down = fail := by
  refine ⟨trainLinks_linksOnly .., fun l hl => ?_⟩
  have hnodup : (((spokeLinks n).map (fun l => (l, fail))).map Prod.fst).Nodup := by
    simp only [spokeLinks, List.map_cons, List.map_nil, List.nodup_cons, List.mem_singleton, List.not_mem_nil, not_false_eq_true, List.nodup_nil,
      and_self, and_true]
    omega
  exact (trainLinks_untrained hnodup (List.mem_map.mpr ⟨l, hl, rfl⟩) (hnew l hl) (Boots.endsRun_spoke hn hl (by rw [hrun]; decide))
    (Boots.modulesOf_pos l)).1

theorem restartStep_spoke_up (hn : n < 4) (hlen : n < s.slices.length) (hrun : (s.slc n).run = 1) (h : (s.slc n).rstep = 4)
    (hnew : ∀ l ∈ spokeLinks n, Untrained s l) :
    (s.restartStep n 0).slc n = { s.slc n with rstep := 5, tick := s.kTick + cdiv (s.kTick - (s.slc n).lastLoad) 999, lastLoad := s.kTick } ∧
    (∀ l ∈ spokeLinks n, ((s.restartStep n 0).link l).down = false) ∧ (s.restartStep n 0).cmds = s.cmds ∧ (s.restartStep n 0).dev = s.dev := by
  obtain ⟨honly, hup⟩ := spokeTrained_spec hn hrun hnew false
  have hnone : ¬ (spokeLinks n).any (fun l => ((spokeTrained s n false).link l).down) = true := by
    rw [List.any_eq_true]
    rintro ⟨l, hl, hdown⟩
    rw [hup l hl] at hdown
    exact Bool.false_ne_true hdown
  rw [restartStep4 h, show bitAt 0 0 = false from rfl, if_neg hnone]
  generalize spokeTrained s n false = u at *
  have hlenU : n < u.slices.length := by rw [honly.slices]; exact hlen
  have hslc := slc_modSlice u n n (tickLoaded u.kTick) hlenU
  have htick : u.kTick = s.kTick := by rw [honly.1]
  obtain ⟨hself, -⟩ := restartGo_spec (u.modSlice n (tickLoaded u.kTick)) n 5 (by rw [State.modSlice, List.length_set]; exact hlenU)
  obtain ⟨-, hrest⟩ := restartGo_spec (u.modSlice n (tickLoaded u.kTick)) n 5 (by rw [State.modSlice, List.length_set]; exact hlenU)
  refine ⟨?_, fun l hl => ?_, ?_, ?_⟩
  · rw [hself, if_pos rfl, hslc, if_pos rfl, honly.slc, htick]
    rfl
  · rw [hrest]
    exact hup l hl
  · rw [hrest]
    exact honly.1 ▸ rfl
  · rw [hrest]
    exact honly.1 ▸ rfl

theorem spoke_not_ring {l : Nat} (hn : n < 4) (hl : l ∈ spokeLinks n) : l ∉ ringLinks n := by
  simp only [spokeLinks, ringLinks, List.mem_cons, List.not_mem_nil, or_false] at *
  omega

theorem restartStep_spoke_down (hn : n < 4) (hlen : n < s.slices.length) (hrun : (s.slc n).run = 1) (h : (s.slc n).rstep = 4)
    (hnew : ∀ l ∈ spokeLinks n, Untrained s l) (hq : s.restartQ = []) :
    ((s.restartStep n 1).slc n).run = 0 ∧ ((s.restartStep n 1).slc n).rstep = 0 ∧ (∀ l ∈ spokeLinks n, ((s.restartStep n 1).link l).down = true) ∧
    (s.restartStep n 1).cmds = s.cmds ∧ (s.restartStep n 1).dev = s.dev := by
  obtain ⟨honly, hdown⟩ := spokeTrained_spec hn hrun hnew true
  have hany : (spokeLinks n).any (fun l => ((spokeTrained s n true).link l).down) = true := by
    rw [List.any_eq_true]
    exact ⟨3 * n + 2, by simp [spokeLinks], hdown _ (by simp [spokeLinks])⟩
  rw [restartStep4 h, show bitAt 1 0 = true from rfl, if_pos hany]
  generalize spokeTrained s n true = u at *
  have hslc := slc_modSlice u n n leftOut (by rw [honly.slices]; exact hlen)
  have hring := ringDrop_linksOnly (u.modSlice n leftOut) n
  have hkeep : ∀ l ∈ spokeLinks n, ((u.modSlice n leftOut).ringDrop n).link l = u.link l := fun l hl =>
    ringDrop_keeps (u.modSlice n leftOut) n (spoke_not_ring hn hl)
  generalize (u.modSlice n leftOut).ringDrop n = v at *
  rw [restartNext_empty (s := v) (by rw [hring.1]; exact (congrArg State.restartQ honly.1).trans hq)]
  refine ⟨?_, ?_, fun l hl => ?_, ?_, ?_⟩
  · rw [hring.slc, hslc, if_pos rfl]
    rfl
  · rw [hring.slc, hslc, if_pos rfl]
    rfl
  · rw [hkeep l hl]
    exact hdown l hl
  · rw [hring.1]
    change u.cmds = s.cmds
    rw [honly.1]
  · rw [hring.1]
    change u.dev = s.dev
    rw [honly.1]

/-! The slice is in. -/

/-- A slice that runs again. -/
def backIn (l : Slice) : Slice := { l with run := 2, rstep := 0 }

/-- No service and no restart waits. -/
def Idle (s : State) : Prop := s.restartQ = [] ∧ s.mgmtQ = [] ∧ s.biasWait = [] ∧ s.biasReq = none ∧ s.retirePend = []

theorem retireHeld_idle {s : State} (h : s.retirePend = []) : s.retireHeld = s := by
  rw [State.retireHeld, h, List.foldl_nil, ← h]

/-- What PS0 does when it is in. -/
def ps0In (s : State) : State := if s.boot.ready then s.writeCaps else s

theorem writeCaps_eq (s : State) : s.writeCaps = { s with dev := s.writeCaps.dev } := by
  rw [state_eq_iff]
  simp [State.writeCaps]

theorem byte_writeCaps_of_off (s : State) {a : Nat} (ha : off Config.capPtr 192 a) : s.writeCaps.dev.byte a = s.dev.byte a := by
  have hlen : s.capBytes.length = 192 := by simp [State.capBytes]
  rw [State.writeCaps]
  exact byte_devPut_of_off s Config.capPtr a _ (by rw [hlen]; exact ha)

theorem ps0In_idle {s : State} (h : Idle s) : Idle (ps0In s) := by
  unfold ps0In
  split
  · rw [writeCaps_eq]
    generalize s.writeCaps.dev = m
    exact h
  · exact h

/-- The end of a restart when nothing waits. -/
theorem sliceIn_idle {n : Nat} (h : Idle s) : s.sliceIn n = if n = 0 then ps0In (s.modSlice n backIn) else s.modSlice n backIn := by
  have hslice : Idle (s.modSlice n backIn) := h
  have hin := ps0In_idle hslice
  unfold State.sliceIn
  dsimp only
  rw [show (s.modSlice n fun l => { l with run := 2, rstep := 0 }) = s.modSlice n backIn from rfl, retireHeld_idle hslice.2.2.2.2,
    show (if (s.modSlice n backIn).boot.ready = true then (s.modSlice n backIn).writeCaps else s.modSlice n backIn) = ps0In (s.modSlice n backIn) from rfl]
  generalize ps0In (s.modSlice n backIn) = v at *
  generalize s.modSlice n backIn = u at *
  obtain ⟨hqU, -, -, hreqU, -⟩ := hslice
  obtain ⟨hqV, hmgmtV, hwaitV, hreqV, -⟩ := hin
  rw [Manage.mgmtDrain_idle v 16 hmgmtV, hwaitV]
  by_cases hn : n = 0
  · simp only [if_pos hn]
    rw [hreqV]
    exact restartNext_empty hqV
  · simp only [if_neg hn]
    rw [hreqU]
    exact restartNext_empty hqU

theorem restartStep_in (hlen : n < s.slices.length) (h : (s.slc n).rstep = 8) (hidle : Idle s) :
    (s.restartStep n 0).slc n = { s.slc n with run := 2, rstep := 0 } ∧ (∀ m, m ≠ n → (s.restartStep n 0).slc m = s.slc m) ∧
    (s.restartStep n 0).cmds = s.cmds ∧ sameBytes (off Config.capPtr 192) s (s.restartStep n 0) ∧ (n ≠ 0 → (s.restartStep n 0).dev = s.dev) := by
  have hslc := fun m => slc_modSlice s n m backIn hlen
  have hself : (s.modSlice n backIn).slc n = { s.slc n with run := 2, rstep := 0 } := (hslc n).trans (if_pos rfl)
  have hothers : ∀ m, m ≠ n → (s.modSlice n backIn).slc m = s.slc m := fun m hm => (hslc m).trans (if_neg hm)
  rw [restartStep8 h, sliceIn_idle hidle]
  split
  · rename_i hn0
    rw [ps0In]
    split
    · have hbyte := fun a ha => byte_writeCaps_of_off (s.modSlice n backIn) (a := a) ha
      rw [writeCaps_eq]
      generalize (s.modSlice n backIn).writeCaps.dev = m at *
      exact ⟨hself, hothers, rfl, hbyte, fun hne => absurd hn0 hne⟩
    · exact ⟨hself, hothers, rfl, fun _ _ => rfl, fun _ => rfl⟩
  · exact ⟨hself, hothers, rfl, fun _ _ => rfl, fun _ => rfl⟩

end

/-- Settles O44: the triggers, and each step of a restart. -/
theorem sliceRestartRuns : Obligations.SliceRestartRuns := by
  unfold Obligations.SliceRestartRuns
  intro s n trig hlive hfour hhost
  have hlen : n.val < s.slices.length := by rw [hfour]; exact n.isLt
  refine ⟨restartBegins hlive hhost, restartWaits hlive hhost, restartIgnored hlive hhost, fun hrun => ⟨fun hin => ?_, fun h => ?_,
    fun h hnew => ?_, fun h hnew hq => ?_, fun h hq hmgmt hwait hreq hretire => ?_⟩⟩
  · exact completes_of_exec (exec_restartStepDone hlive hrun 0) (restartStep_next hlen hin)
  · exact completes_of_exec (exec_restartStepDone hlive hrun 0) (restartStep_loses hlen h)
  · exact completes_of_exec (exec_restartStepDone hlive hrun 0) (restartStep_spoke_up n.isLt hlen hrun h hnew)
  · exact completes_of_exec (exec_restartStepDone hlive hrun 1) (restartStep_spoke_down n.isLt hlen hrun h hnew hq)
  · exact completes_of_exec (exec_restartStepDone hlive hrun 0) (restartStep_in hlen h ⟨hq, hmgmt, hwait, hreq, hretire⟩)

end Sys2Proof.Proofs.Restarts
end

section
/-! Flits (O48, first part). -/

namespace Sys2Proof.Proofs.Flits

open Sys2Proof Sys2Proof.Machine Sys2Proof.Claims Sys2Proof.Laws Sys2Proof.Proofs.Basic Sys2Proof.Proofs.Layer Sys2Proof.Proofs.LinkLayer

/-! The number of the flit that is expected: only a flit that is taken advances it. -/

/-- No direction expects another flit. -/
structure SameExpected (s t : State) : Prop where
  eq : ∀ l, (t.link l).expected = (s.link l).expected

theorem SameExpected.refl (s : State) : SameExpected s s := ⟨fun _ => rfl⟩

theorem SameExpected.trans {s t u : State} (h1 : SameExpected s t) (h2 : SameExpected t u) : SameExpected s u :=
  ⟨fun l => (h2.eq l).trans (h1.eq l)⟩

theorem SameExpected.of_links {s t : State} (h : t.links = s.links) : SameExpected s t := ⟨fun l => by rw [link_congr h]⟩

theorem modLink_sameExpected (s : State) (l : Nat) {f : LinkDir → LinkDir} (hf : ∀ d, (f d).expected = d.expected) :
    SameExpected s (s.modLink l f) := by
  refine ⟨fun l' => ?_⟩
  by_cases hl : l' = l
  · rw [hl, link_modLink_self, hf]
  · rw [link_modLink_other _ _ hl]

theorem send_sameExpected (s : State) (m : Msg) : SameExpected s (s.send m) := .of_links rfl

theorem linkDeal_sameExpected (s : State) (l : Nat) : SameExpected s (s.linkDeal l) := by
  unfold State.linkDeal
  dsimp only
  split
  · exact .refl s
  · split
    · refine SameExpected.trans (modLink_sameExpected s l ?_) (send_sameExpected ..)
      exact fun _ => rfl
    · exact .refl s

theorem linkPump_sameExpected (s : State) (l : Nat) : SameExpected s (s.linkPump l) :=
  foldl_rel SameExpected .refl .trans (fun (acc : State) (_ : Nat) => acc.linkDeal l) (fun s _ => linkDeal_sameExpected s l) _ s

theorem linkSend_sameExpected (s : State) (l : Nat) (p : List Byte) : SameExpected s (s.linkSend l p) := by
  unfold State.linkSend
  dsimp only
  split
  · exact .refl s
  · split
    · refine SameExpected.trans (modLink_sameExpected s l ?_) (linkPump_sameExpected ..)
      exact fun _ => rfl
    · exact modLink_sameExpected s l fun _ => rfl

theorem linkControl_sameExpected (s : State) (l : Nat) (nak : Bool) : SameExpected s (s.linkControl l nak) := by
  unfold State.linkControl
  dsimp only
  split
  · exact .refl s
  · generalize (if 22 ≤ l then (s.fwp (l - 22)).owed else 0) = back
    refine SameExpected.trans (modLink_sameExpected s l (f := fun d => { d with unacked := 0, nakGap := if nak then 0 else d.nakGap }) fun _ => rfl)
      (.of_links ?_)
    split
    · rfl
    · rfl

theorem linkNak_sameExpected (s : State) (l : Nat) : SameExpected s (s.linkNak l) := by
  unfold State.linkNak
  split
  · exact linkControl_sameExpected ..
  · exact .refl s

theorem answer_sameExpected (s : State) (port : Nat) (tag : Option Nat) (x off : Nat) (data : List Byte) (p : Bool) :
    SameExpected s (s.answer port tag x off data p) := by
  unfold State.answer
  split
  · exact .refl s
  · cases tag with
    | none => exact .of_links rfl
    | some t => exact (SameExpected.of_links rfl : SameExpected s (s.send (.readData port data p))).trans (linkSend_sameExpected ..)

theorem refuseRead_sameExpected (s : State) (port : Nat) (tag : Option Nat) (x off : Nat) : SameExpected s (s.refuseRead port tag x off) := by
  unfold State.refuseRead
  cases tag with
  | none => exact .of_links rfl
  | some t => exact (SameExpected.of_links rfl : SameExpected s (s.send (.error port))).trans (linkSend_sameExpected ..)

theorem fwReturn_sameExpected (s : State) (p : Nat) (read : Bool) : SameExpected s (s.fwReturn p read) := by
  unfold State.fwReturn
  split
  · exact .refl s
  · exact .of_links rfl

theorem creditBack_sameExpected (s : State) (p : Nat) : SameExpected s (s.creditBack p) := by
  unfold State.creditBack
  split
  · exact .refl s
  · exact linkControl_sameExpected ..

theorem windowStore_links (s : State) (n x o : Nat) (bytes : List Byte) (enables : List Bool) (poisoned : Bool) :
    (s.windowStore n x o bytes enables poisoned).links = s.links := by
  have h := WindowWrite.windowStore_fwFree n x o bytes enables poisoned s s.fw
  dsimp only at h
  rw [h]

theorem flushBegin_sameExpected (s : State) (port : Nat) (tag : Option Nat) (x : Nat) : SameExpected s (s.flushBegin port tag x) := by
  unfold State.flushBegin
  dsimp only
  split
  · exact (answer_sameExpected ..).trans ((fwReturn_sameExpected ..).trans (creditBack_sameExpected ..))
  · exact .of_links rfl

theorem windowLoad_links (s : State) (n x off len : Nat) : (s.windowLoad n x off len).1.links = s.links := by
  unfold State.windowLoad
  dsimp only
  split
  · split
    · rfl
    · simp
  · split
    · rfl
    · split
      · rfl
      · simp

theorem fwServe_sameExpected (s : State) (p : Nat) (write : Bool) (x off : Nat) (bs : List Byte) (poisoned : Bool) (tag : Option Nat) :
    SameExpected s (s.fwServe p write x off bs poisoned tag) := by
  unfold State.fwServe
  dsimp only
  split
  · refine SameExpected.trans ?_ (fwReturn_sameExpected ..)
    split
    · exact .of_links rfl
    · exact refuseRead_sameExpected ..
  · split
    · refine SameExpected.trans ?_ (fwReturn_sameExpected ..)
      split
      · exact .refl s
      · exact answer_sameExpected ..
    · split
      · exact (SameExpected.of_links (windowStore_links ..)).trans (fwReturn_sameExpected ..)
      · split
        · exact flushBegin_sameExpected ..
        · exact (SameExpected.of_links (windowLoad_links ..)).trans ((answer_sameExpected ..).trans (fwReturn_sameExpected ..))

theorem commandPort_sameExpected (s : State) (p : Nat) (write : Bool) (x off : Nat) (bs : List Byte) (poisoned : Bool) (tag : Option Nat) :
    SameExpected s (s.commandPort p write x off bs poisoned tag) := by
  unfold State.commandPort
  split
  · exact .refl s
  · split
    · exact .refl s
    · refine SameExpected.trans ?_ ((fwServe_sameExpected ..).trans (creditBack_sameExpected ..))
      unfold State.fwTake
      split
      · exact .refl s
      · exact .of_links rfl

theorem deliver_sameExpected (s : State) (l : Nat) (payload : List Byte) : SameExpected s (s.deliver l payload) := by
  unfold State.deliver
  split
  · refine foldl_rel SameExpected .refl .trans _ (fun s o => ?_) _ s
    unfold State.cmdAt
    dsimp only
    split
    · exact commandPort_sameExpected ..
    · exact commandPort_sameExpected ..
    · exact .refl s
  · exact .of_links rfl

/-! What a flit leaves of the rest. -/

/-- Nothing but links, modules and what is reported differs, and what has left stays. -/
structure FlitOnly (s t : State) : Prop where
  dev : t.dev = s.dev
  cmds : t.cmds = s.cmds
  out : ∃ l, t.out = s.out ++ l

theorem FlitOnly.refl (s : State) : FlitOnly s s := ⟨rfl, rfl, [], by simp⟩

theorem FlitOnly.trans {s t u : State} (h1 : FlitOnly s t) (h2 : FlitOnly t u) : FlitOnly s u := by
  obtain ⟨l1, hout1⟩ := h1.out
  obtain ⟨l2, hout2⟩ := h2.out
  exact ⟨h2.dev.trans h1.dev, h2.cmds.trans h1.cmds, l1 ++ l2, by rw [hout2, hout1, List.append_assoc]⟩

theorem msix_out (s : State) (v : Nat) : ∃ l, (s.msix v).out = s.out ++ l := by
  unfold State.msix
  split
  · exact ⟨_, rfl⟩
  · exact ⟨[], by simp⟩

theorem errEntry_flitOnly (s : State) (a c r : Nat) (d : List Byte) : FlitOnly s (s.errEntry a c r d) := by
  refine ⟨by simp, by simp, ?_⟩
  unfold State.errEntry
  dsimp only
  refine (msix_out _ 1).imp fun l hl => hl.trans ?_
  simp

theorem traceRec_flitOnly (s : State) (a k x q n o c : Nat) (p : List Byte) : FlitOnly s (s.traceRec a k x q n o c p) :=
  ⟨by simp, by simp, [], by simp⟩

theorem modState_flitOnly (s : State) (l m st : Nat) : FlitOnly s (s.modState l m st) := by
  refine FlitOnly.trans (t := s.modMod l m (fun k => { k with state := st })) ⟨rfl, rfl, [], by simp⟩ ?_
  exact (errEntry_flitOnly ..).trans (traceRec_flitOnly ..)

theorem retrain_flitOnly (s : State) (l m : Nat) : FlitOnly s (s.retrain l m) :=
  (⟨rfl, rfl, [], by simp⟩ : FlitOnly s (s.modMod l m _)).trans (modState_flitOnly ..)

theorem linkControl_flitOnly (s : State) (l : Nat) (nak : Bool) : FlitOnly s (s.linkControl l nak) ∧ (s.linkControl l nak).mods = s.mods := by
  unfold State.linkControl
  dsimp only
  split
  · exact ⟨.refl s, rfl⟩
  · generalize (if 22 ≤ l then (s.fwp (l - 22)).owed else 0) = back
    split
    · exact ⟨⟨rfl, rfl, _, rfl⟩, rfl⟩
    · exact ⟨⟨rfl, rfl, _, rfl⟩, rfl⟩

theorem linkNak_flitOnly (s : State) (l : Nat) : FlitOnly s (s.linkNak l) ∧ (s.linkNak l).mods = s.mods := by
  unfold State.linkNak
  split
  · exact linkControl_flitOnly ..
  · exact ⟨.refl s, rfl⟩

/-- The failures of a module within its last 1,024 flits. -/
def failsAfter (k : LinkMod) (failed : Bool) : List Nat :=
  (k.fails.filter (fun f => decide (k.flits + 1 < f + 1024))) ++ (if failed then [k.flits + 1] else [])

/-- A module that has carried a flit. -/
def carriedMod (failed : Bool) (k : LinkMod) : LinkMod :=
  { k with flits := k.flits + 1, fails := failsAfter k failed, crcErr := if failed then satTo 65535 (k.crcErr + 1) else k.crcErr }

theorem carried_eq (s : State) (l m : Nat) (failed : Bool) : s.carried l m failed =
    if 8 ≤ (failsAfter (s.linkMod l m) failed).length then (s.modMod l m (fun _ => carriedMod failed (s.linkMod l m))).retrain l m
    else s.modMod l m (fun _ => carriedMod failed (s.linkMod l m)) := rfl

theorem retrain_links (s : State) (l m : Nat) : (s.retrain l m).links = s.links := modState_links ..

theorem carried_spec (s : State) (l m : Nat) (failed : Bool) : FlitOnly s (s.carried l m failed) ∧ (s.carried l m failed).links = s.links ∧
    ((s.carried l m failed).linkMod l m).crcErr = (carriedMod failed (s.linkMod l m)).crcErr := by
  have hmod : FlitOnly s (s.modMod l m (fun _ => carriedMod failed (s.linkMod l m))) := ⟨rfl, rfl, [], by simp⟩
  rw [carried_eq]
  split
  · refine ⟨hmod.trans (retrain_flitOnly ..), retrain_links .., ?_⟩
    rw [State.retrain, linkMod_modState_self, linkMod_modMod_self, linkMod_modMod_self]
  · exact ⟨hmod, rfl, by rw [linkMod_modMod_self]⟩

/-! The data flit. -/

/-- A direction on which a flit has come. -/
def flitCame (d : LinkDir) : LinkDir := { d with nakGap := d.nakGap + 1 }

/-- A direction whose expected flit has been taken. -/
def flitTaken (d : LinkDir) : LinkDir := { d with expected := (d.expected + 1) % 4096, unacked := d.unacked + 1 }

section
variable {s : State} {l m : Nat} {f : List Byte} (hrec : s.receives l m = true) (hlen : f.length = 256)
include hrec hlen

theorem exec_flitReceive_bad (hcrc : crc32c (f.take 252) ≠ field f 252 4) :
    exec (.flitReceive l m f) s = .next (((s.modLink l flitCame).carried l m true).linkNak l) := by
  have hgo : ¬ (!s.receives l m || f.length != 256) = true := by simp [hrec, hlen]
  rw [show exec (.flitReceive l m f) s = execFlitReceive l m f s from rfl, execFlitReceive, if_neg hgo]
  dsimp only
  rw [if_pos hcrc]
  rfl

theorem exec_flitReceive_data (hcrc : crc32c (f.take 252) = field f 252 4) (hdata : field f 0 2 / 16384 = 0) :
    exec (.flitReceive l m f) s = .next (((s.modLink l flitCame).carried l m false).dataFlit l f) := by
  have hgo : ¬ (!s.receives l m || f.length != 256) = true := by simp [hrec, hlen]
  rw [show exec (.flitReceive l m f) s = execFlitReceive l m f s from rfl, execFlitReceive, if_neg hgo]
  dsimp only
  rw [if_neg (by simp [hcrc]), if_pos hdata]
  rfl

end

theorem modLink_flitOnly (s : State) (l : Nat) (f : LinkDir → LinkDir) : FlitOnly s (s.modLink l f) := ⟨rfl, rfl, [], by simp⟩

/-- The state in which a flit's module has been counted expects what it expected. -/
theorem came_spec (s : State) (l m : Nat) (failed : Bool) : FlitOnly s ((s.modLink l flitCame).carried l m failed) ∧
    SameExpected s ((s.modLink l flitCame).carried l m failed) ∧
    (((s.modLink l flitCame).carried l m failed).linkMod l m).crcErr = (carriedMod failed (s.linkMod l m)).crcErr := by
  obtain ⟨honly, hlinks, hcrc⟩ := carried_spec (s.modLink l flitCame) l m failed
  refine ⟨(modLink_flitOnly ..).trans honly, SameExpected.trans (modLink_sameExpected s l ?_) (.of_links hlinks), hcrc⟩
  exact fun _ => rfl

theorem dataFlit_other {s : State} {l : Nat} {f : List Byte} (hseq : field f 0 2 % 4096 ≠ (s.link l).expected) : s.dataFlit l f = s.linkNak l := by
  rw [State.dataFlit]
  exact if_pos hseq

/-- Taking the expected flit: the number goes on, the payload leaves last. -/
theorem dataFlit_expected {s : State} {l : Nat} {f : List Byte} (hseq : field f 0 2 % 4096 = (s.link l).expected) :
    ((s.dataFlit l f).link l).expected = ((s.link l).expected + 1) % 4096 ∧
    (l < 22 → (∃ before, (s.dataFlit l f).out = s.out ++ before ++ [.payload l ((f.drop 2).take 250)]) ∧ (s.dataFlit l f).dev = s.dev ∧
      (s.dataFlit l f).cmds = s.cmds) := by
  obtain ⟨u, hu, hexp, honly⟩ : ∃ u, s.dataFlit l f = u.deliver l ((f.drop 2).take 250) ∧ (u.link l).expected = ((s.link l).expected + 1) % 4096 ∧
      FlitOnly s u := by
    refine ⟨if 32 ≤ (s.link l).unacked + 1 then (s.modLink l flitTaken).linkControl l false else s.modLink l flitTaken, ?_, ?_, ?_⟩
    · rw [State.dataFlit]
      exact if_neg (by simp [hseq])
    · split
      · rw [(linkControl_sameExpected ..).eq, link_modLink_self]
        rfl
      · rw [link_modLink_self]
        rfl
    · split
      · exact (modLink_flitOnly ..).trans (linkControl_flitOnly ..).1
      · exact modLink_flitOnly ..
  rw [hu]
  refine ⟨((deliver_sameExpected ..).eq l).trans hexp, fun hl => ?_⟩
  have hsend : u.deliver l ((f.drop 2).take 250) = u.send (.payload l ((f.drop 2).take 250)) := if_neg (by omega)
  obtain ⟨before, hout⟩ := honly.out
  rw [hsend]
  exact ⟨⟨before, by rw [← hout]; rfl⟩, honly.dev, honly.cmds⟩

/-! Dealing. -/

/-- A direction has a module that carries flits. -/
def Carrier (s : State) (l : Nat) : Prop := ∃ m, m < modulesOf l ∧ s.carries l m = true

theorem carries_iff (s : State) (l m : Nat) : s.carries l m = true ↔ (s.linkMod l m).state = 1 ∨ (s.linkMod l m).state = 2 := by
  simp [State.carries]

/-- Only a module that carries flits is dealt one. -/
theorem deal_carries {s : State} {l turn fuel : Nat} {passes : List Nat} {r : Nat × Nat × List Nat} (h : s.deal l turn passes fuel = some r)
    (hpos : 0 < modulesOf l) : r.1 < modulesOf l ∧ s.carries l r.1 = true := by
  induction fuel generalizing turn passes with
  | zero => cases h
  | succ n ih =>
    rw [State.deal] at h
    split at h
    · cases h
      exact ⟨Nat.mod_lt _ hpos, (carries_iff ..).mpr (Or.inl ‹_›)⟩
    · split at h
      · split at h
        · exact ih h
        · cases h
          exact ⟨Nat.mod_lt _ hpos, (carries_iff ..).mpr (Or.inr ‹_›)⟩
      · exact ih h

/-- A module that carries flits, and is not to pass, is reached within its distance from the turn. -/
theorem deal_reaches {s : State} {l m fuel : Nat} (turn j : Nat) (passes : List Nat) (hm : s.carries l m = true)
    (hfree : (s.linkMod l m).state = 1 ∨ m ∉ passes) (hj : j < fuel) (hturn : (turn + j) % modulesOf l = m) :
    (s.deal l turn passes fuel).isSome = true := by
  induction fuel generalizing turn j passes with
  | zero => omega
  | succ n ih =>
    have hnext : ∀ ps : List Nat, turn % modulesOf l ≠ m → ((s.linkMod l m).state = 1 ∨ m ∉ ps) →
        (s.deal l (turn % modulesOf l + 1) ps n).isSome = true := fun ps hne hps => by
      obtain ⟨i, rfl⟩ : ∃ i, j = i + 1 := ⟨j - 1, by
        have : j ≠ 0 := fun h0 => hne (by rw [h0, Nat.add_zero] at hturn; exact hturn)
        omega⟩
      refine ih (turn % modulesOf l + 1) i ps hps (by omega) ?_
      rw [← hturn, Nat.add_assoc, Nat.mod_add_mod]
      congr 1
      omega
    rw [State.deal]
    split
    · rfl
    · rename_i hone
      split
      · rename_i htwo
        split
        · rename_i hpass
          refine hnext _ (fun heq => ?_) (hfree.imp_right fun hnot hin => hnot ?_)
          · rw [heq] at hone hpass
            rcases hfree with h | h
            · exact hone h
            · exact h (by simpa using hpass)
          · exact List.mem_of_mem_filter hin
        · rfl
      · rename_i htwo
        refine hnext _ (fun heq => ?_) hfree
        rw [heq] at hone htwo
        rcases (carries_iff ..).mp hm with h | h
        · exact hone h
        · exact htwo h

/-- Within two rounds a flit is dealt: a module that passes once takes it in the next round. -/
theorem deal_within {s : State} {l m fuel : Nat} (turn j : Nat) (passes : List Nat) (hm : s.carries l m = true) (hlt : m < modulesOf l)
    (hj : j + modulesOf l < fuel) (hturn : (turn + j) % modulesOf l = m) : (s.deal l turn passes fuel).isSome = true := by
  induction fuel generalizing turn j passes with
  | zero => omega
  | succ n ih =>
    have hnext : ∀ ps : List Nat, turn % modulesOf l ≠ m → (s.deal l (turn % modulesOf l + 1) ps n).isSome = true := fun ps hne => by
      obtain ⟨i, rfl⟩ : ∃ i, j = i + 1 := ⟨j - 1, by
        have : j ≠ 0 := fun h0 => hne (by rw [h0, Nat.add_zero] at hturn; exact hturn)
        omega⟩
      refine ih (turn % modulesOf l + 1) i ps (by omega) ?_
      rw [← hturn, Nat.add_assoc, Nat.mod_add_mod]
      congr 1
      omega
    rw [State.deal]
    split
    · rfl
    · rename_i hone
      split
      · split
        · by_cases heq : turn % modulesOf l = m
          · rw [heq]
            refine deal_reaches (m + 1) (modulesOf l - 1) _ hm (Or.inr fun hin => ?_) (by omega) ?_
            · simp [delNat] at hin
            · rw [show m + 1 + (modulesOf l - 1) = m + modulesOf l by omega, Nat.add_mod_right, Nat.mod_eq_of_lt hlt]
          · exact hnext _ heq
        · rfl
      · rename_i htwo
        refine hnext _ fun heq => ?_
        rw [heq] at hone htwo
        rcases (carries_iff ..).mp hm with h | h
        · exact hone h
        · exact htwo h

theorem deal_isSome {s : State} {l : Nat} (hcarrier : Carrier s l) (turn : Nat) (passes : List Nat) :
    (s.deal l turn passes (2 * modulesOf l)).isSome = true := by
  obtain ⟨m, hlt, hm⟩ := hcarrier
  have hpos : 0 < modulesOf l := by omega
  have hrest := Nat.mod_lt turn hpos
  have hdist := Nat.mod_lt (m + modulesOf l - turn % modulesOf l) hpos
  refine deal_within turn ((m + modulesOf l - turn % modulesOf l) % modulesOf l) passes hm hlt (by omega) ?_
  rw [Nat.add_mod_mod, ← Nat.mod_add_mod, show turn % modulesOf l + (m + modulesOf l - turn % modulesOf l) = m + modulesOf l by omega,
    Nat.add_mod_right, Nat.mod_eq_of_lt hlt]

/-- What dealing on a direction leaves alone. -/
structure DealsOnly (l : Nat) (s t : State) : Prop where
  others : ∀ l', l' ≠ l → t.link l' = s.link l'
  mods : t.mods = s.mods
  replay : (t.link l).replay = (s.link l).replay
  waiting : (t.link l).waiting = (s.link l).waiting
  down : (t.link l).down = (s.link l).down
  expected : SameExpected s t
  dev : t.dev = s.dev
  cmds : t.cmds = s.cmds

theorem DealsOnly.refl (l : Nat) (s : State) : DealsOnly l s s := ⟨fun _ _ => rfl, rfl, rfl, rfl, rfl, .refl s, rfl, rfl⟩

theorem DealsOnly.trans {l : Nat} {s t u : State} (h1 : DealsOnly l s t) (h2 : DealsOnly l t u) : DealsOnly l s u :=
  ⟨fun l' hl => (h2.others l' hl).trans (h1.others l' hl), h2.mods.trans h1.mods, h2.replay.trans h1.replay, h2.waiting.trans h1.waiting,
    h2.down.trans h1.down,
    h1.expected.trans h2.expected, h2.dev.trans h1.dev, h2.cmds.trans h1.cmds⟩

/-- A direction that has dealt one flit. -/
def dealtOnce (turn : Nat) (passes : List Nat) (d : LinkDir) : LinkDir := { d with unsent := d.unsent - 1, turn := turn, passes := passes }

/-- The state after one flit has been dealt to module `m`. -/
def dealtTo (s : State) (l : Nat) (r : Nat × Nat × List Nat) (x : Nat × List Byte) : State :=
  (s.modLink l (dealtOnce r.2.1 r.2.2)).send (.flit l r.1 (flitOf x.1 x.2))

theorem dealtTo_dealsOnly (s : State) (l : Nat) (r : Nat × Nat × List Nat) (x : Nat × List Byte) : DealsOnly l s (dealtTo s l r x) ∧
    ((dealtTo s l r x).link l).unsent = (s.link l).unsent - 1 ∧ (dealtTo s l r x).out = s.out ++ [.flit l r.1 (flitOf x.1 x.2)] := by
  have hself : (dealtTo s l r x).link l = dealtOnce r.2.1 r.2.2 (s.link l) := link_modLink_self ..
  refine ⟨⟨fun l' hl => link_modLink_other _ _ hl, rfl, by rw [hself]; rfl, by rw [hself]; rfl, by rw [hself]; rfl, ?_, rfl, rfl⟩, by rw [hself]; rfl, rfl⟩
  refine SameExpected.trans (modLink_sameExpected s l ?_) (send_sameExpected ..)
  exact fun _ => rfl

theorem linkDeal_some {s : State} {l : Nat} (hcarrier : Carrier s l) {n : Nat} (hunsent : (s.link l).unsent = n + 1)
    {x : Nat × List Byte} {rest : List (Nat × List Byte)} (hdrop : (s.link l).replay.drop ((s.link l).replay.length - (n + 1)) = x :: rest) :
    ∃ r, s.linkDeal l = dealtTo s l r x ∧ r.1 < modulesOf l ∧ s.carries l r.1 = true := by
  obtain ⟨r, hr⟩ := Option.isSome_iff_exists.mp (deal_isSome hcarrier (s.link l).turn (s.link l).passes)
  obtain ⟨m, hlt, -⟩ := id hcarrier
  refine ⟨r, ?_, deal_carries hr (by omega)⟩
  rw [State.linkDeal, hunsent]
  rw [if_neg (by omega), hr, hdrop]
  rfl

theorem linkDeal_none {s : State} {l : Nat} (hnone : ∀ m, m < modulesOf l → s.carries l m = false) (hpos : 0 < modulesOf l) : s.linkDeal l = s := by
  have hdeal : s.deal l (s.link l).turn (s.link l).passes (2 * modulesOf l) = none := by
    cases h : s.deal l (s.link l).turn (s.link l).passes (2 * modulesOf l) with
    | none => rfl
    | some r =>
      obtain ⟨hlt, hc⟩ := deal_carries h hpos
      rw [hnone _ hlt] at hc
      exact absurd hc Bool.false_ne_true
  rw [State.linkDeal]
  split
  · rfl
  · rw [hdeal]

theorem linkDeal_dealsOnly (s : State) (l : Nat) : DealsOnly l s (s.linkDeal l) := by
  unfold State.linkDeal
  dsimp only
  split
  · exact .refl l s
  · split
    · exact (dealtTo_dealsOnly s l (_, _, _) _).1
    · exact .refl l s

theorem linkPump_dealsOnly (s : State) (l : Nat) : DealsOnly l s (s.linkPump l) :=
  foldl_rel (DealsOnly l) (.refl l) .trans (fun (acc : State) (_ : Nat) => acc.linkDeal l) (fun s _ => linkDeal_dealsOnly s l) _ s

theorem carrier_congr {s t : State} {l : Nat} (h : t.mods = s.mods) : (∀ m, t.carries l m = s.carries l m) :=
  fun m => by rw [State.carries, State.carries, linkMod_congr h]

/-- With a module that carries flits, all that is not sent is dealt, in order. -/
theorem foldl_linkDeal {α : Type} {l : Nat} (L : List α) {s : State} (hcarrier : Carrier s l) (hunsent : (s.link l).unsent = L.length)
    (hle : L.length ≤ (s.link l).replay.length) : ((L.foldl (fun acc _ => acc.linkDeal l) s).link l).unsent = 0 ∧
    ∃ dealt : List Nat, dealt.length = L.length ∧ (∀ m ∈ dealt, m < modulesOf l ∧ s.carries l m = true) ∧
      (L.foldl (fun acc _ => acc.linkDeal l) s).out =
        s.out ++ (List.zip dealt ((s.link l).replay.drop ((s.link l).replay.length - L.length))).map (fun x => Msg.flit l x.1 (flitOf x.2.1 x.2.2)) := by
  induction L generalizing s with
  | nil => exact ⟨hunsent, [], rfl, fun _ h => absurd h List.not_mem_nil, by simp⟩
  | cons a r ih =>
    rw [List.length_cons] at hunsent hle
    obtain ⟨x, rest, hdrop⟩ : ∃ x rest, (s.link l).replay.drop ((s.link l).replay.length - (r.length + 1)) = x :: rest := by
      refine List.exists_cons_of_ne_nil fun h => ?_
      have := List.drop_eq_nil_iff.mp h
      omega
    obtain ⟨q, hdeal, hq⟩ := linkDeal_some hcarrier hunsent hdrop
    obtain ⟨honly, hunsent', hout⟩ := dealtTo_dealsOnly s l q x
    rw [← hdeal] at honly hunsent' hout
    have hcarries := carrier_congr (l := l) honly.mods
    obtain ⟨hzero, dealt, hlen, hall, hout'⟩ := ih (s := s.linkDeal l) (by
      obtain ⟨m, hm⟩ := hcarrier
      exact ⟨m, by rw [hcarries]; exact hm⟩) (by rw [hunsent', hunsent]; rfl) (by rw [honly.replay]; omega)
    have hrest : (s.link l).replay.drop ((s.link l).replay.length - r.length) = rest := by
      have := congrArg List.tail hdrop
      rwa [List.tail_drop, List.tail_cons, show (s.link l).replay.length - (r.length + 1) + 1 = (s.link l).replay.length - r.length by omega] at this
    rw [List.foldl_cons]
    refine ⟨hzero, q.1 :: dealt, by rw [List.length_cons, hlen, List.length_cons], ?_, ?_⟩
    · intro m hm
      rcases List.mem_cons.mp hm with rfl | hm
      · exact hq
      · rw [← hcarries]
        exact hall m hm
    · rw [hout', hout, honly.replay, hrest, List.length_cons, hdrop, List.zip_cons_cons, List.map_cons, List.append_assoc]
      rfl

/-! The control flit. -/

/-- The replay buffer after an acknowledgement or a nak. -/
def acked (rest : List (Nat × List Byte)) (nak : Bool) (d : LinkDir) : LinkDir :=
  { d with replay := rest, unsent := if nak then rest.length else min d.unsent rest.length }

theorem linkWaiting_none (s : State) (l : Nat) (hwait : (s.link l).waiting = []) : s.linkWaiting l (s.link l).waiting.length = s := by
  rw [hwait]
  rfl

section
variable {s : State} {l m : Nat} {f : List Byte}

/-- A module without failures counts a flit and goes on. -/
theorem carried_of_clean (hfails : (s.linkMod l m).fails = []) :
    (s.modLink l flitCame).carried l m false = (s.modLink l flitCame).modMod l m (fun _ => carriedMod false (s.linkMod l m)) := by
  have hmod : (s.modLink l flitCame).linkMod l m = s.linkMod l m := rfl
  rw [carried_eq, hmod, if_neg]
  simp [failsAfter, hfails]

/-- The state in which a control flit's acknowledgement is applied. -/
def controlCame (s : State) (l m : Nat) : State := (s.modLink l flitCame).modMod l m (fun _ => carriedMod false (s.linkMod l m))

theorem controlCame_link (b : Nat) : (controlCame s l m).link b = s.link b ∨ (controlCame s l m).link b = flitCame (s.link b) := by
  by_cases hb : b = l
  · rw [hb]
    exact Or.inr (link_modLink_self ..)
  · exact Or.inl (link_modLink_other s flitCame hb)

theorem controlCame_carries (b m' : Nat) : (controlCame s l m).carries b m' = s.carries b m' := by
  have hstate : ((controlCame s l m).linkMod b m').state = (s.linkMod b m').state := by
    by_cases hkey : 8 * b + m' = 8 * l + m
    · have hsame : ∀ u : State, u.linkMod b m' = u.linkMod l m := fun u => by rw [State.linkMod, hkey, State.linkMod]
      rw [hsame, hsame, controlCame, linkMod_modMod_self]
      rfl
    · exact congrArg LinkMod.state (linkMod_modMod_other (s.modLink l flitCame) _ hkey)
  rw [State.carries, hstate, State.carries]

theorem exec_linkControlFlit (hrec : s.receives l m = true) (hlen : f.length = 256) (hcrc : crc32c (f.take 252) = field f 252 4)
    (hctl : field f 0 2 / 16384 = 2) (hfails : (s.linkMod l m).fails = []) {rest : List (Nat × List Byte)}
    (hwait : (s.link (linkBack l)).waiting = [])
    (hfree : freeBefore (field f 2 2 % 4096) (s.link (linkBack l)).next (s.link (linkBack l)).replay = some rest) :
    exec (.linkControlFlit l m f) s =
      .next (((controlCame s l m).modLink (linkBack l) (acked rest (bitAt (field f 2 2) 15))).linkPump (linkBack l)) := by
  have hgo : ¬ (!s.receives l m || f.length != 256 || crc32c (f.take 252) != field f 252 4 || field f 0 2 / 16384 != 2) = true := by
    simp [hrec, hlen, hcrc, hctl]
  have hsame : ((controlCame s l m).link (linkBack l)).next = (s.link (linkBack l)).next ∧
      ((controlCame s l m).link (linkBack l)).replay = (s.link (linkBack l)).replay ∧
      ((controlCame s l m).link (linkBack l)).waiting = (s.link (linkBack l)).waiting := by
    rcases controlCame_link (s := s) (l := l) (m := m) (linkBack l) with h | h
    · rw [h]
      exact ⟨rfl, rfl, rfl⟩
    · rw [h]
      exact ⟨rfl, rfl, rfl⟩
  obtain ⟨hnext, hreplay, hwaiting⟩ := hsame
  rw [show exec (.linkControlFlit l m f) s = execLinkControlFlit l m f s from rfl, execLinkControlFlit, if_neg hgo]
  dsimp only
  rw [show (s.modLink l fun d => { d with nakGap := d.nakGap + 1 }) = s.modLink l flitCame from rfl, carried_of_clean hfails,
    show (s.modLink l flitCame).modMod l m (fun _ => carriedMod false (s.linkMod l m)) = controlCame s l m from rfl, hnext, hreplay, hfree]
  dsimp only
  rw [show ((controlCame s l m).modLink (linkBack l) fun d => { d with
      replay := rest, unsent := if bitAt (field f 2 2) 15 then rest.length else min d.unsent rest.length }) =
    (controlCame s l m).modLink (linkBack l) (acked rest (bitAt (field f 2 2) 15)) from rfl]
  have hpump := (linkPump_dealsOnly ((controlCame s l m).modLink (linkBack l) (acked rest (bitAt (field f 2 2) 15))) (linkBack l)).waiting
  rw [linkWaiting_none _ _ (hpump.trans (by rw [link_modLink_self]; exact hwaiting.trans hwait))]

/-- What applying an acknowledgement leaves before the pump runs. -/
theorem acked_spec (s : State) (l m b : Nat) (rest : List (Nat × List Byte)) (nak : Bool) :
    (((controlCame s l m).modLink b (acked rest nak)).link b).replay = rest ∧
    (((controlCame s l m).modLink b (acked rest nak)).link b).unsent = (if nak then rest.length else min (s.link b).unsent rest.length) ∧
    SameExpected s ((controlCame s l m).modLink b (acked rest nak)) ∧
    (∀ m', ((controlCame s l m).modLink b (acked rest nak)).carries b m' = s.carries b m') ∧
    ((controlCame s l m).modLink b (acked rest nak)).dev = s.dev ∧ ((controlCame s l m).modLink b (acked rest nak)).cmds = s.cmds ∧
    ((controlCame s l m).modLink b (acked rest nak)).out = s.out := by
  have hunsent : ((controlCame s l m).link b).unsent = (s.link b).unsent := by
    rcases controlCame_link (s := s) (l := l) (m := m) b with h | h
    · rw [h]
    · rw [h]
      rfl
  have hexp : SameExpected s (controlCame s l m) := ⟨fun l' => by
    rcases controlCame_link (s := s) (l := l) (m := m) l' with h | h
    · rw [h]
    · rw [h]
      rfl⟩
  refine ⟨by rw [link_modLink_self]; rfl, ?_, hexp.trans (modLink_sameExpected _ b fun _ => rfl), controlCame_carries b, rfl, rfl, rfl⟩
  rw [link_modLink_self, ← hunsent]
  rfl

theorem linkPump_of_zero {u : State} {b : Nat} (h : (u.link b).unsent = 0) : u.linkPump b = u := by
  rw [State.linkPump, h]
  rfl

theorem linkPump_none {u : State} {b : Nat} (hnone : ∀ m', m' < modulesOf b → u.carries b m' = false) (hpos : 0 < modulesOf b) :
    u.linkPump b = u := by
  refine List.foldlRecOn (List.range (u.link b).unsent) _ (motive := fun t : State => t = u) rfl fun t ht _ _ => ?_
  rw [ht]
  exact linkDeal_none hnone hpos

theorem controlFlitActs {rest : List (Nat × List Byte)} (hrec : s.receives l m = true) (hlen : f.length = 256)
    (hcrc : crc32c (f.take 252) = field f 252 4) (hctl : field f 0 2 / 16384 = 2) (hwait : (s.link (linkBack l)).waiting = [])
    (hfails : (s.linkMod l m).fails = [])
    (hfree : freeBefore (field f 2 2 % 4096) (s.link (linkBack l)).next (s.link (linkBack l)).replay = some rest) :
    Completes (.linkControlFlit l m f) s (fun t =>
      (t.link (linkBack l)).replay = rest ∧ (t.link l).expected = (s.link l).expected ∧ t.dev = s.dev ∧ t.cmds = s.cmds ∧
      (bitAt (field f 2 2) 15 = false → (s.link (linkBack l)).unsent = 0 → t.out = s.out) ∧
      (bitAt (field f 2 2) 15 = true → (∀ m', m' < modulesOf (linkBack l) → s.carries (linkBack l) m' = false) →
        (t.link (linkBack l)).unsent = rest.length ∧ t.out = s.out) ∧
      (bitAt (field f 2 2) 15 = true → (∃ m', m' < modulesOf (linkBack l) ∧ s.carries (linkBack l) m' = true) →
        (t.link (linkBack l)).unsent = 0 ∧
        ∃ dealt : List Nat, dealt.length = rest.length ∧ (∀ m' ∈ dealt, m' < modulesOf (linkBack l) ∧ s.carries (linkBack l) m' = true) ∧
          t.out = s.out ++ (List.zip dealt rest).map (fun x => Msg.flit (linkBack l) x.1 (flitOf x.2.1 x.2.2)))) := by
  have hexec := exec_linkControlFlit hrec hlen hcrc hctl hfails hwait hfree
  obtain ⟨hreplay, hunsent, hexp, hcarries, hdev, hcmds, hout⟩ := acked_spec s l m (linkBack l) rest (bitAt (field f 2 2) 15)
  generalize linkBack l = b at *
  generalize (controlCame s l m).modLink b (acked rest (bitAt (field f 2 2) 15)) = u at *
  have hpump := linkPump_dealsOnly u b
  refine completes_of_exec hexec ⟨hpump.replay.trans hreplay, (hpump.expected.eq l).trans (hexp.eq l), hpump.dev.trans hdev,
    hpump.cmds.trans hcmds, fun hack hzero => ?_, fun hnak hnone => ?_, fun hnak hsome => ?_⟩
  · rw [linkPump_of_zero (by rw [hunsent, hack, hzero]; simp)]
    exact hout
  · rw [linkPump_none (fun m' hm' => (hcarries m').trans (hnone m' hm')) (Boots.modulesOf_pos b)]
    exact ⟨by rw [hunsent, hnak]; rfl, hout⟩
  · have hall : (u.link b).unsent = rest.length := by rw [hunsent, hnak]; rfl
    obtain ⟨hzero, dealt, hdealt, hmods, hsent⟩ := foldl_linkDeal (l := b) (List.range (u.link b).unsent) (s := u)
      (by obtain ⟨m', hlt, hm'⟩ := hsome; exact ⟨m', hlt, (hcarries m').trans hm'⟩) (by rw [List.length_range])
      (by rw [List.length_range, hall, hreplay])
    refine ⟨hzero, dealt, by rw [hdealt, List.length_range, hall], fun m' hm' => ?_, ?_⟩
    · rw [← hcarries]
      exact hmods m' hm'
    · rw [State.linkPump, hsent, hout, List.length_range, hall, hreplay, Nat.sub_self, List.drop_zero]

theorem lockLossRetrains (hrec : s.receives l m = true) : Completes (.moduleLockLoss l m) s (fun t => (t.linkMod l m).state = 0 ∧
    (t.linkMod l m).retrains = satTo 255 ((s.linkMod l m).retrains + 1) ∧ t.errs.total = s.errs.total + 1 ∧ t.dev = s.dev ∧ t.cmds = s.cmds) := by
  have hexec : exec (.moduleLockLoss l m) s = .next (s.retrain l m) := if_pos hrec
  have honly := retrain_flitOnly s l m
  have herrs : (s.retrain l m).errs.total = s.errs.total + 1 := by simp [State.retrain, State.modState]
  refine completes_of_exec hexec ⟨?_, ?_, herrs, honly.dev, honly.cmds⟩
  · rw [State.retrain, linkMod_modState_self]
  · rw [State.retrain, linkMod_modState_self, linkMod_modMod_self]

end

theorem flitsAreTaken : Claims.FlitsAreTaken := by
  intro s l m f hrec hlen
  refine ⟨fun hcrc hdata hseq => ?_, fun hcrc => ?_, fun hcrc hdata hseq => ?_, ?_, lockLossRetrains hrec⟩
  · obtain ⟨honly, hexp, -⟩ := came_spec s l m false
    refine completes_of_exec (exec_flitReceive_data hrec hlen hcrc hdata) ?_
    generalize (s.modLink l flitCame).carried l m false = u at *
    obtain ⟨htaken, hsent⟩ := dataFlit_expected (s := u) (l := l) (f := f) (by rw [hexp.eq]; exact hseq)
    refine ⟨by rw [htaken, hexp.eq], fun hl => ?_⟩
    obtain ⟨⟨before, hout⟩, hdev, hcmds⟩ := hsent hl
    obtain ⟨first, hfirst⟩ := honly.out
    exact ⟨⟨first ++ before, by rw [hout, hfirst, List.append_assoc s.out]⟩, hdev.trans honly.dev, hcmds.trans honly.cmds⟩
  · obtain ⟨honly, hexp, hcount⟩ := came_spec s l m true
    refine completes_of_exec (exec_flitReceive_bad hrec hlen hcrc) ?_
    generalize (s.modLink l flitCame).carried l m true = u at *
    obtain ⟨hnak, hmods⟩ := linkNak_flitOnly u l
    exact ⟨((linkNak_sameExpected ..).eq l).trans (hexp.eq l), by rw [linkMod_congr hmods]; exact hcount, hnak.dev.trans honly.dev,
      hnak.cmds.trans honly.cmds⟩
  · obtain ⟨honly, hexp, -⟩ := came_spec s l m false
    refine completes_of_exec (exec_flitReceive_data hrec hlen hcrc hdata) ?_
    generalize (s.modLink l flitCame).carried l m false = u at *
    rw [dataFlit_other (by rw [hexp.eq]; exact hseq)]
    obtain ⟨hnak, -⟩ := linkNak_flitOnly u l
    exact ⟨((linkNak_sameExpected ..).eq l).trans (hexp.eq l), hnak.dev.trans honly.dev, hnak.cmds.trans honly.cmds⟩
  · rintro b rest hcrc hctl rfl hwait hfails hfree
    exact controlFlitActs hrec hlen hcrc hctl hwait hfails hfree

end Sys2Proof.Proofs.Flits
end

section
/-! Retraining (O48, second part). -/

namespace Sys2Proof.Proofs.Retraining

open Sys2Proof Sys2Proof.Machine Sys2Proof.Claims Sys2Proof.Laws Sys2Proof.Proofs.Basic Sys2Proof.Proofs.Layer Sys2Proof.Proofs.LinkLayer
open Sys2Proof.Proofs.Flits

/-! What follows when a direction goes down. -/

/-- Links, modules, memory and commands stay. -/
structure LinksStay (s t : State) : Prop where
  links : t.links = s.links
  mods : t.mods = s.mods
  dev : t.dev = s.dev
  cmds : t.cmds = s.cmds

theorem LinksStay.refl (s : State) : LinksStay s s := ⟨rfl, rfl, rfl, rfl⟩

theorem LinksStay.trans {s t u : State} (h1 : LinksStay s t) (h2 : LinksStay t u) : LinksStay s u :=
  ⟨h2.links.trans h1.links, h2.mods.trans h1.mods, h2.dev.trans h1.dev, h2.cmds.trans h1.cmds⟩

theorem foldl_linksStay {α : Type} (f : State → α → State) (h : ∀ s a, LinksStay s (f s a)) (l : List α) (s : State) :
    LinksStay s (l.foldl f s) := foldl_rel LinksStay .refl .trans f h l s

theorem errEntry_linksStay (s : State) (a c r : Nat) (d : List Byte) : LinksStay s (s.errEntry a c r d) :=
  ⟨by simp, by simp, by simp, by simp⟩

theorem restartGo_linksStay (s : State) (n k : Nat) : LinksStay s (s.restartGo n k) := by
  constructor
  all_goals simp [State.restartGo]

theorem restartNext_linksStay (s : State) : LinksStay s s.restartNext := by
  unfold State.restartNext
  split
  · exact .refl s
  · split
    · exact .refl s
    · refine LinksStay.trans ?_ ((errEntry_linksStay ..).trans (restartGo_linksStay ..))
      exact ⟨rfl, rfl, rfl, rfl⟩

theorem restartTrigger_linksStay (s : State) (n trig : Nat) : LinksStay s (s.restartTrigger n trig) := by
  unfold State.restartTrigger
  split
  · exact .refl s
  · have hnoted := (Restarts.faultNoted_spec s n trig).1
    refine LinksStay.trans ?_ (restartNext_linksStay _)
    split
    · obtain ⟨hlinks, hmods, hdev, hcmds⟩ := errEntry_linksStay s n 0x22 3 (natLE 1 n)
      exact ⟨hlinks, hmods, hdev, hcmds⟩
    · exact ⟨rfl, rfl, rfl, rfl⟩

theorem holdArrival_linksStay (s : State) (a : Nat × Word) : LinksStay s (s.holdArrival a) := by
  unfold State.holdArrival
  dsimp only
  split
  · exact .refl s
  · split
    · exact ⟨rfl, rfl, rfl, rfl⟩
    · exact ⟨rfl, rfl, rfl, rfl⟩

theorem holdPending_linksStay (s : State) (e : Nat) : LinksStay s (s.holdPending e) := by
  unfold State.holdPending
  refine LinksStay.trans ?_ (foldl_linksStay _ (fun s c => ?_) _ _)
  · exact ⟨rfl, rfl, rfl, rfl⟩
  · split
    · split
      · exact holdArrival_linksStay ..
      · exact .refl s
    · exact .refl s

theorem presence_linksStay (s : State) (cause : Nat) : LinksStay s (s.presence cause) := by
  unfold State.presence
  dsimp only
  split
  · exact .refl s
  · refine LinksStay.trans ?_ (foldl_linksStay _ (fun s p => ⟨by simp, by simp, by simp, by simp⟩) _ _)
    refine LinksStay.trans ?_ (foldl_linksStay _ (fun s e => ?_) _ _)
    · exact ⟨rfl, rfl, rfl, rfl⟩
    · refine (holdPending_linksStay s e).trans ?_
      refine LinksStay.trans (t := (s.holdPending e).dropFrames e) ?_ ⟨rfl, rfl, rfl, rfl⟩
      refine foldl_linksStay _ (fun s p => ?_) _ _
      exact ⟨rfl, rfl, rfl, rfl⟩

theorem loseDirect_linksStay (s : State) (p cause : Nat) : LinksStay s (s.loseDirect p cause) := by
  unfold State.loseDirect
  dsimp only
  split
  · exact .refl s
  · refine LinksStay.trans ?_ (presence_linksStay _ cause)
    exact ⟨rfl, rfl, rfl, rfl⟩

theorem linkDown_spec (s : State) (l : Nat) : ((s.linkDown l).link l).down = true ∧ (s.linkDown l).mods = s.mods ∧
    (s.linkDown l).dev = s.dev ∧ (s.linkDown l).cmds = s.cmds := by
  have hstay : LinksStay (s.linkDrop l) (s.linkDown l) := by
    unfold State.linkDown
    dsimp only
    split
    · split
      · exact restartTrigger_linksStay ..
      · exact .refl _
    · split
      · exact restartTrigger_linksStay ..
      · split
        · exact loseDirect_linksStay ..
        · exact .refl _
  have hdrop := linkDrop_linksOnly s l
  refine ⟨?_, hstay.mods.trans (linkDrop_mods ..), ?_, ?_⟩
  · rw [link_congr hstay.links]
    exact link_linkDrop_self ..
  · rw [hstay.dev, hdrop.1]
  · rw [hstay.cmds, hdrop.1]

/-! The module after the lane checks. -/

/-- The module as the lane checks leave it. -/
def retrained (k : LinkMod) (rx tx : BitVec 34) : LinkMod :=
  { k.checked rx tx with
    half := if (k.checked rx tx).trained = 1 then none else some ((k.checked rx tx).half.getD 0), state := (k.checked rx tx).trained }

theorem checked_bad (k : LinkMod) (rx tx : BitVec 34) (i : Nat) : i ∈ (k.checked rx tx).bad.map Prod.fst ↔
    i ∈ k.bad.map Prod.fst ∨ (i < 34 ∧ (rx &&& tx).getLsbD i = true) := by
  have hperm : ∀ b, b ∈ (k.checked rx tx).bad ↔ b ∈ k.bad ++ ((((List.range 34).filter (fun i => (rx &&& tx).getLsbD i)).filter
      (fun i => !(k.bad.map Prod.fst).contains i)).map (fun i => (i, 0))) := fun b => by
    rw [LinkMod.checked, Order.sortBy_eq_insertionSort]
    exact List.mem_insertionSort _
  have hnew : ∀ j, j ∈ ((List.range 34).filter (fun i => (rx &&& tx).getLsbD i)).filter (fun i => !(k.bad.map Prod.fst).contains i) ↔
      (j < 34 ∧ (rx &&& tx).getLsbD j = true) ∧ j ∉ k.bad.map Prod.fst := fun j => by
    rw [List.mem_filter, List.mem_filter, List.mem_range, Bool.not_eq_true', List.contains_eq_mem, decide_eq_false_iff_not]
  have hmem : i ∈ (k.checked rx tx).bad.map Prod.fst ↔ i ∈ k.bad.map Prod.fst ∨ (i < 34 ∧ (rx &&& tx).getLsbD i = true) ∧ i ∉ k.bad.map Prod.fst := by
    rw [← hnew, List.mem_map]
    constructor
    · rintro ⟨b, hb, rfl⟩
      rcases List.mem_append.mp ((hperm b).mp hb) with h | h
      · exact Or.inl (List.mem_map.mpr ⟨b, h, rfl⟩)
      · obtain ⟨j, hj, rfl⟩ := List.mem_map.mp h
        exact Or.inr hj
    · rintro (h | h)
      · obtain ⟨b, hb, rfl⟩ := List.mem_map.mp h
        exact ⟨b, (hperm b).mpr (List.mem_append_left _ hb), rfl⟩
      · exact ⟨(i, 0), (hperm _).mpr (List.mem_append_right _ (List.mem_map.mpr ⟨i, h, rfl⟩)), rfl⟩
  rw [hmem]
  tauto

theorem trained_eq (k : LinkMod) : k.trained = if k.bad.length ≤ 2 ∧ k.half = none then 1 else if k.bad.length ≤ 18 then 2 else 3 := by
  simp [LinkMod.trained]

theorem trained_cases (k : LinkMod) : k.trained = 1 ∨ k.trained = 2 ∨ k.trained = 3 := by
  rw [trained_eq]
  grind

theorem retrained_half (k : LinkMod) (rx tx : BitVec 34) (h : (retrained k rx tx).state ≠ 1) : (retrained k rx tx).half ≠ none := by
  unfold retrained at *
  dsimp only at *
  rw [if_neg h]
  exact Option.some_ne_none _

section
variable {s : State} {l m : Nat} {rx tx : BitVec 34}

/-- The state in which the lane checks have been noted. -/
def lanesNoted (s : State) (l m : Nat) (rx tx : BitVec 34) : State :=
  ((s.modMod l m (fun _ => { (s.linkMod l m).checked rx tx with
    half := if ((s.linkMod l m).checked rx tx).trained = 1 then none else some (((s.linkMod l m).checked rx tx).half.getD 0) })).modState l m
      ((s.linkMod l m).checked rx tx).trained).spareEntries l m { s.linkMod l m with state := 1 }

theorem spareEntries_linksOnly (s : State) (l m : Nat) (old : LinkMod) : LinksOnly s (s.spareEntries l m old) ∧
    (s.spareEntries l m old).mods = s.mods ∧ (s.spareEntries l m old).links = s.links := by
  refine ⟨foldl_linksOnly _ (fun s i => errEntry_linksOnly s ..) _ s, ?_⟩
  exact ⟨(foldl_linksStay _ (fun s i => errEntry_linksStay s ..) _ s).mods, (foldl_linksStay _ (fun s i => errEntry_linksStay s ..) _ s).links⟩

theorem lanesNoted_spec (s : State) (l m : Nat) (rx tx : BitVec 34) : LinksOnly s (lanesNoted s l m rx tx) ∧
    (lanesNoted s l m rx tx).links = s.links ∧ (lanesNoted s l m rx tx).linkMod l m = retrained (s.linkMod l m) rx tx ∧
    ∀ i, i ≠ m → (lanesNoted s l m rx tx).linkMod l i = s.linkMod l i := by
  unfold lanesNoted
  generalize hk : ({ (s.linkMod l m).checked rx tx with
    half := if ((s.linkMod l m).checked rx tx).trained = 1 then none else some (((s.linkMod l m).checked rx tx).half.getD 0) } : LinkMod) = k
  obtain ⟨honly, hmods, hlinks⟩ := spareEntries_linksOnly ((s.modMod l m (fun _ => k)).modState l m ((s.linkMod l m).checked rx tx).trained) l m
    { s.linkMod l m with state := 1 }
  refine ⟨(modMod_linksOnly ..).trans ((modState_linksOnly ..).trans honly), hlinks.trans (modState_links ..), ?_, fun i hi => ?_⟩
  · rw [linkMod_congr hmods, linkMod_modState_self, linkMod_modMod_self, ← hk]
    rfl
  · rw [linkMod_congr hmods, linkMod_modState_other _ _ (by omega), linkMod_modMod_other _ _ (by omega)]

theorem training_linksOnly {s t : State} (h : LinksOnly s t) (l : Nat) : t.training l = s.training l := by
  have hslc : t.slc = s.slc := funext h.slc
  rw [State.training, State.training, h.boot, hslc]

/-- Whether every module of the direction is disabled. -/
theorem allDisabled_iff (hm : m < modulesOf l) : (List.range (modulesOf l)).any (fun i => decide (((lanesNoted s l m rx tx).linkMod l i).state ≤ 2)) = false ↔
    (retrained (s.linkMod l m) rx tx).state = 3 ∧ ∀ i, i < modulesOf l → i ≠ m → 3 ≤ (s.linkMod l i).state := by
  obtain ⟨-, -, hself, hothers⟩ := lanesNoted_spec s l m rx tx
  have hcases := trained_cases ((s.linkMod l m).checked rx tx)
  have hst : (retrained (s.linkMod l m) rx tx).state = ((s.linkMod l m).checked rx tx).trained := rfl
  simp only [List.any_eq_false, List.mem_range, decide_eq_true_eq, not_le]
  refine ⟨fun h => ⟨?_, fun i hi hne => ?_⟩, fun h i hi => ?_⟩
  · have := h m hm
    rw [hself, hst] at this
    omega
  · have := h i hi
    rw [hothers i hne] at this
    omega
  · by_cases hne : i = m
    · rw [hne, hself, h.1]
      decide
    · rw [hothers i hne]
      have := h.2 i hi hne
      omega

theorem exec_retrainComplete_trains (hl : l < 30) (hm : m < modulesOf l) (hup : s.endUp l = true) (hlink : (s.link l).down = false)
    (hstate : (s.linkMod l m).state = 0) : exec (.retrainComplete l m rx tx) s =
    if (lanesNoted s l m rx tx).training l || (List.range (modulesOf l)).any (fun i => decide (((lanesNoted s l m rx tx).linkMod l i).state ≤ 2))
    then .next ((lanesNoted s l m rx tx).linkPump l) else .next ((lanesNoted s l m rx tx).linkDown l) := by
  have hgo : ¬ (!decide (l < 30 ∧ m < modulesOf l) || !s.endUp l || (s.link l).down || (s.linkMod l m).state != 0) = true := by
    simp [hl, hm, hup, hlink, hstate]
  exact if_neg hgo

end

theorem retrainingFixesModules : Claims.RetrainingFixesModules := by
  intro s l m rx tx hl hm hup hlink hstate
  obtain ⟨honly, hlinks, hself, -⟩ := lanesNoted_spec s l m rx tx
  have hdisabled := allDisabled_iff (s := s) (rx := rx) (tx := tx) hm
  have htraining := training_linksOnly honly l
  have hexec := exec_retrainComplete_trains (rx := rx) (tx := tx) hl hm hup hlink hstate
  have hdev : (lanesNoted s l m rx tx).dev = s.dev := by rw [honly.1]
  have hcmds : (lanesNoted s l m rx tx).cmds = s.cmds := by rw [honly.1]
  have hlinkU : ((lanesNoted s l m rx tx).link l).down = false := by rw [link_congr hlinks, hlink]
  generalize lanesNoted s l m rx tx = u at *
  obtain ⟨t, ht, hmods, hdown, hdev', hcmds'⟩ : ∃ t, exec (.retrainComplete l m rx tx) s = .next t ∧ t.mods = u.mods ∧
      (t.link l).down = !(s.training l || (List.range (modulesOf l)).any (fun i => decide ((u.linkMod l i).state ≤ 2))) ∧ t.dev = u.dev ∧
      t.cmds = u.cmds := by
    rw [htraining] at hexec
    cases hany : (s.training l || (List.range (modulesOf l)).any (fun i => decide ((u.linkMod l i).state ≤ 2))) with
    | true =>
      rw [if_pos hany] at hexec
      have hpump := linkPump_dealsOnly u l
      exact ⟨_, hexec, hpump.mods, hpump.down.trans hlinkU, hpump.dev, hpump.cmds⟩
    | false =>
      rw [if_neg (by rw [hany]; exact Bool.false_ne_true)] at hexec
      obtain ⟨hdown, hmods, hdev, hcmds⟩ := linkDown_spec u l
      exact ⟨_, hexec, hmods, hdown, hdev, hcmds⟩
  have hmod : t.linkMod l m = retrained (s.linkMod l m) rx tx := (linkMod_congr hmods l m).trans hself
  refine completes_of_exec ht ⟨fun i => ?_, ?_, ?_, fun hno => ?_, fun hyes => ?_, hdev'.trans hdev, hcmds'.trans hcmds⟩
  · rw [hmod]
    exact checked_bad (s.linkMod l m) rx tx i
  · rw [hmod]
    exact trained_eq _
  · rw [hmod]
    exact retrained_half (s.linkMod l m) rx tx
  · rw [hdown, hno, hmod, Bool.false_or, ← hdisabled]
    simp
  · rw [hdown, hyes]
    rfl

/-- Settles O48: flits and their retry, and the retraining of modules. -/
theorem linksCarryFlits : Obligations.LinksCarryFlits := ⟨flitsAreTaken, retrainingFixesModules⟩

end Sys2Proof.Proofs.Retraining
end

section
/-! Bits and bit fields of numbers: what a field reads as after a bit or a field is replaced. -/

namespace Sys2Proof.Proofs.BitFields

open Sys2Proof Sys2Proof.Machine Sys2Proof.Laws

theorem bitAt_eq_testBit (x i : Nat) : bitAt x i = x.testBit i := by
  rw [Nat.testBit_eq_decide_div_mod_eq, bitAt]
  rfl

theorem testBit_bits (x hi lo i : Nat) : (bits x hi lo).testBit i = (decide (i < hi + 1 - lo) && x.testBit (lo + i)) := by
  rw [bits, Nat.testBit_mod_two_pow, Nat.testBit_div_two_pow, Nat.add_comm i]

/-- A number in three parts: above a field, the field, below it. -/
theorem split_field (x lo w : Nat) : x = 2 ^ lo * (2 ^ w * (x / 2 ^ lo / 2 ^ w) + x / 2 ^ lo % 2 ^ w) + x % 2 ^ lo := by
  rw [Nat.div_add_mod, Nat.div_add_mod]

theorem putBits_eq (x hi lo v : Nat) : putBits x hi lo v =
    2 ^ lo * (2 ^ (hi + 1 - lo) * (x / 2 ^ lo / 2 ^ (hi + 1 - lo)) + v % 2 ^ (hi + 1 - lo)) + x % 2 ^ lo := by
  have hsplit := split_field x lo (hi + 1 - lo)
  rw [putBits, bits]
  generalize x / 2 ^ lo / 2 ^ (hi + 1 - lo) = a at *
  generalize x / 2 ^ lo % 2 ^ (hi + 1 - lo) = m at *
  generalize v % 2 ^ (hi + 1 - lo) = n
  generalize x % 2 ^ lo = r at *
  rw [hsplit, Nat.mul_add, Nat.mul_add, Nat.mul_comm m, Nat.mul_comm n]
  omega

theorem testBit_putBits (x hi lo v i : Nat) : (putBits x hi lo v).testBit i =
    if i < lo then x.testBit i else if i < lo + (hi + 1 - lo) then v.testBit (i - lo) else x.testBit i := by
  have hv : v % 2 ^ (hi + 1 - lo) < 2 ^ (hi + 1 - lo) := Nat.mod_lt _ (by positivity)
  rw [putBits_eq, Nat.testBit_two_pow_mul_add _ (Nat.mod_lt _ (by positivity))]
  split
  · rw [Nat.testBit_mod_two_pow, decide_eq_true ‹_›, Bool.true_and]
  · rw [Nat.testBit_two_pow_mul_add _ hv]
    split
    · rw [if_pos (by omega), Nat.testBit_mod_two_pow, decide_eq_true ‹_›, Bool.true_and]
    · rw [if_neg (by omega), Nat.testBit_div_two_pow, Nat.testBit_div_two_pow]
      congr 1
      omega

theorem testBit_putBit (x i : Nat) (b : Bool) (j : Nat) : (putBit x i b).testBit j = if j = i then b else x.testBit j := by
  rw [putBit, testBit_putBits]
  by_cases hj : j = i
  · rw [if_neg (by omega), if_pos (by omega), if_pos hj, hj, Nat.sub_self]
    cases b
    · rfl
    · rfl
  · rw [if_neg hj]
    split
    · rfl
    · rw [if_neg (by omega)]

@[simp] theorem bitAt_putBit_self (x i : Nat) (b : Bool) : bitAt (putBit x i b) i = b := by
  rw [bitAt_eq_testBit, testBit_putBit, if_pos rfl]

theorem bitAt_putBit_other (x : Nat) {i j : Nat} (b : Bool) (h : j ≠ i) : bitAt (putBit x i b) j = bitAt x j := by
  rw [bitAt_eq_testBit, testBit_putBit, if_neg h, bitAt_eq_testBit]

/-- A bit that is put as it is changes nothing. -/
theorem putBit_bitAt (x i : Nat) : putBit x i (bitAt x i) = x := by
  refine Nat.eq_of_testBit_eq fun j => ?_
  rw [testBit_putBit]
  split
  · rename_i h
    rw [h, bitAt_eq_testBit]
  · rfl

theorem bits_putBit_of_off (x : Nat) {i hi lo : Nat} (b : Bool) (h : i < lo ∨ hi < i) : bits (putBit x i b) hi lo = bits x hi lo := by
  refine Nat.eq_of_testBit_eq fun j => ?_
  rw [testBit_bits, testBit_bits]
  by_cases hj : j < hi + 1 - lo
  · rw [testBit_putBit, if_neg (by omega)]
  · rw [decide_eq_false hj, Bool.false_and, Bool.false_and]

theorem bits_putBits_self (x hi lo v : Nat) : bits (putBits x hi lo v) hi lo = v % 2 ^ (hi + 1 - lo) := by
  refine Nat.eq_of_testBit_eq fun j => ?_
  rw [testBit_bits, Nat.testBit_mod_two_pow]
  by_cases hj : j < hi + 1 - lo
  · rw [testBit_putBits, if_neg (by omega), if_pos (by omega), Nat.add_sub_cancel_left]
  · rw [decide_eq_false hj, Bool.false_and, Bool.false_and]

theorem bits_putBits_of_off (x v : Nat) {hi lo h l : Nat} (hoff : hi < l ∨ h < lo) : bits (putBits x hi lo v) h l = bits x h l := by
  refine Nat.eq_of_testBit_eq fun j => ?_
  rw [testBit_bits, testBit_bits]
  by_cases hj : j < h + 1 - l
  · rw [testBit_putBits]
    split
    · rfl
    · rw [if_neg (by omega)]
  · rw [decide_eq_false hj, Bool.false_and, Bool.false_and]

theorem bitAt_putBits_of_off (x v : Nat) {hi lo i : Nat} (hoff : i < lo ∨ hi < i) : bitAt (putBits x hi lo v) i = bitAt x i := by
  rw [bitAt_eq_testBit, bitAt_eq_testBit, testBit_putBits]
  split
  · rfl
  · rw [if_neg (by omega)]

theorem putBits_lt {x hi lo n : Nat} (hx : x < 2 ^ n) (hhi : hi < n) (v : Nat) : putBits x hi lo v < 2 ^ n := by
  refine Nat.lt_pow_two_of_testBit _ fun i hi' => ?_
  have hzero : x.testBit i = false := Nat.testBit_lt_two_pow (hx.trans_le (Nat.pow_le_pow_right (by decide) hi'))
  rw [testBit_putBits, hzero]
  split
  · rfl
  · rw [if_neg (by omega)]

theorem putBit_lt {x i n : Nat} (hx : x < 2 ^ n) (hi : i < n) (b : Bool) : putBit x i b < 2 ^ n := putBits_lt hx hi _

/-- A register holds a word. -/
theorem kreg_lt (s : State) (o : Nat) : s.kreg o < 2 ^ 64 := (Tab.getD s.kpr o 0).isLt

/-- A register reads what was set, if that is a word. -/
theorem kreg_setKreg_self (s : State) {o v : Nat} (h : v < 2 ^ 64) : (s.setKreg o v).kreg o = v := by
  rw [kreg_setKreg, if_pos rfl, Nat.mod_eq_of_lt h]

theorem kreg_setKreg_other (s : State) {o j : Nat} (v : Nat) (h : j ≠ o) : (s.setKreg o v).kreg j = s.kreg j := by
  rw [kreg_setKreg, if_neg h]

end Sys2Proof.Proofs.BitFields
end

section
/-! Optical ports: their control register, beacons out, the loss-of-light input (O45). -/

namespace Sys2Proof.Proofs.OpticControl

open Sys2Proof Sys2Proof.Machine Sys2Proof.Claims Sys2Proof.Laws Sys2Proof.Proofs.Basic Sys2Proof.Proofs.Layer Sys2Proof.Proofs.Resets
open Sys2Proof.Proofs.BitFields Sys2Proof.Proofs.Skew

/-! Ports. -/

theorem optic_modOptic_self (s : State) (p : Nat) (f : OptPort → OptPort) : (s.modOptic p f).optic p = f (s.optic p) := tab_getD_set_self ..

theorem optic_modOptic_other (s : State) {p q : Nat} (f : OptPort → OptPort) (h : q ≠ p) : (s.modOptic p f).optic q = s.optic q :=
  tab_getD_set_other _ _ _ _ _ h

theorem send_optics (s : State) (m : Msg) : (s.send m).optics = s.optics := rfl

theorem optic_congr {s t : State} (h : t.optics = s.optics) (p : Nat) : t.optic p = s.optic p := by rw [State.optic, State.optic, h]

/-- The ports of a list change in one way; nothing else does. -/
theorem foldl_modOptic (l : List Nat) (f : OptPort → OptPort) (hf : ∀ o, f (f o) = f o) (s : State) :
    (∃ o, l.foldl (fun acc p => acc.modOptic p f) s = { s with optics := o }) ∧
    ∀ p, (l.foldl (fun acc p => acc.modOptic p f) s).optic p = if p ∈ l then f (s.optic p) else s.optic p := by
  induction l generalizing s with
  | nil => exact ⟨⟨_, rfl⟩, fun p => by rw [if_neg List.not_mem_nil]; rfl⟩
  | cons q r ih =>
    obtain ⟨⟨o, honly⟩, hport⟩ := ih (s.modOptic q f)
    rw [List.foldl_cons]
    refine ⟨⟨o, honly⟩, fun p => ?_⟩
    rw [hport]
    by_cases hp : p = q
    · rw [hp, optic_modOptic_self, hf, ite_self, if_pos List.mem_cons_self]
    · rw [optic_modOptic_other _ _ hp]
      simp [hp]

/-! The control register. -/

section
variable {s : State} {port : Fin 4} (hport : s.portUp port.val = true)

/-- A write that leaves `group` as it is. -/
theorem opCtlWrite_group {data : Nat} (h : bits data 31 16 = bits (s.kreg 0x800) 31 16) : s.opCtlWrite data =
    let s3 := (if bitAt data 2 then s.opReadmit else s).opEnable (bitAt data 0)
    if bitAt data 1 = bitAt (s.kreg 0x800) 1 then s3 else s3.opUp (bitAt data 1) := by
  rw [State.opCtlWrite]
  simp [h]

/-- Setting `enable` as it is does nothing. -/
theorem opEnable_same {on : Bool} (h : bitAt (s.kreg 0x800) 0 = on) : s.opEnable on = s := by
  rw [State.opEnable, h]
  cases on
  · rfl
  · rfl

include hport

theorem exec_opEnable (on : Bool) : exec (.opEnable port on) s = .next (s.opEnable on) := by
  have hexec : exec (.opEnable port on) s = .next (s.opCtlWrite (putBit (putBit (s.kreg 0x800) 2 false) 0 on)) := if_pos hport
  rw [hexec, opCtlWrite_group]
  · rw [bitAt_putBit_other _ _ (by decide), bitAt_putBit_self, bitAt_putBit_self, bitAt_putBit_other _ _ (by decide),
      bitAt_putBit_other _ _ (by decide)]
    simp
  · rw [bits_putBit_of_off _ _ (by decide), bits_putBit_of_off _ _ (by decide)]

theorem exec_opUp (on : Bool) : exec (.opUp port on) s = .next (if bitAt (s.kreg 0x800) 1 = on then s else s.opUp on) := by
  have hexec : exec (.opUp port on) s = .next (s.opCtlWrite (putBit (putBit (s.kreg 0x800) 2 false) 1 on)) := if_pos hport
  rw [hexec, opCtlWrite_group]
  · rw [bitAt_putBit_other _ _ (by decide), bitAt_putBit_self, bitAt_putBit_self, bitAt_putBit_other _ _ (by decide),
      bitAt_putBit_other _ _ (by decide)]
    simp only [Bool.false_eq_true, if_false]
    rw [opEnable_same rfl]
    by_cases h : bitAt (s.kreg 0x800) 1 = on
    · rw [if_pos h, if_pos h.symm]
    · rw [if_neg h, if_neg (Ne.symm h)]
  · rw [bits_putBit_of_off _ _ (by decide), bits_putBit_of_off _ _ (by decide)]

theorem exec_readmit : exec (.readmit port) s = .next s.opReadmit := by
  have hexec : exec (.readmit port) s = .next (s.opCtlWrite (putBit (s.kreg 0x800) 2 true)) := if_pos hport
  have henable : bitAt (s.opReadmit.kreg 0x800) 0 = bitAt (s.kreg 0x800) 0 := by
    rw [State.opReadmit, kreg_setKreg_self _ (putBits_lt (kreg_lt ..) (by decide) _), bitAt_putBits_of_off _ _ (by decide)]
  rw [hexec, opCtlWrite_group]
  · rw [bitAt_putBit_self, bitAt_putBit_other _ _ (by decide), bitAt_putBit_other _ _ (by decide)]
    simp only [if_true]
    rw [opEnable_same henable]
  · rw [bits_putBit_of_off _ _ (by decide)]

/-- A port whose beacons begin anew. -/
def beaconsAnew (tick : Nat) (o : OptPort) : OptPort := { o with bseq := 0, nextBeacon := tick + 1000 }

/-- The state in which `enable` is set and each port's beacons begin anew. -/
def enabled (s : State) : State :=
  (List.range 6).foldl (fun acc p => acc.modOptic p (beaconsAnew s.kTick)) (s.setKreg 0x800 (putBit (s.kreg 0x800) 0 true))

theorem enableLights (p : Fin 6) (hoff : bitAt (s.kreg 0x800) 0 = false) : Completes (.opEnable port true) s (fun t =>
    t.kreg 0x800 = putBit (s.kreg 0x800) 0 true ∧ (t.optic p.val).bseq = 0 ∧ (t.optic p.val).nextBeacon = s.kTick + 1000 ∧
    t.out = s.out ++ (if t.lit then (List.range 6).map (fun q => Msg.laser q true) else []) ∧
    t = { s with kpr := t.kpr, optics := t.optics, out := t.out }) := by
  have heq : s.opEnable true = if (enabled s).lit then (List.range 6).foldl (fun acc p => acc.send (.laser p true)) (enabled s) else enabled s := by
    rw [State.opEnable, hoff]
    rfl
  obtain ⟨⟨o, honly⟩, hports⟩ := foldl_modOptic (List.range 6) (beaconsAnew s.kTick) (fun _ => rfl) (s.setKreg 0x800 (putBit (s.kreg 0x800) 0 true))
  have hport6 : (enabled s).optic p.val = beaconsAnew s.kTick ((s.setKreg 0x800 (putBit (s.kreg 0x800) 0 true)).optic p.val) :=
    (hports p.val).trans (if_pos (List.mem_range.mpr p.isLt))
  have hkreg : (enabled s).kreg 0x800 = putBit (s.kreg 0x800) 0 true := by
    have hset : (enabled s).kreg 0x800 = (s.setKreg 0x800 (putBit (s.kreg 0x800) 0 true)).kreg 0x800 := by
      rw [enabled, honly]
      rfl
    rw [hset, kreg_setKreg_self _ (putBit_lt (kreg_lt ..) (by decide) _)]
  have honly' : enabled s = { s with kpr := (enabled s).kpr, optics := (enabled s).optics } := by
    rw [enabled, honly]
    rfl
  have hout : (enabled s).out = s.out := by rw [honly']
  refine completes_of_exec (exec_opEnable hport true) ?_
  rw [heq, foldl_send]
  generalize enabled s = u at *
  have hbseq : (u.optic p.val).bseq = 0 := congrArg OptPort.bseq hport6
  have hnext : (u.optic p.val).nextBeacon = s.kTick + 1000 := congrArg OptPort.nextBeacon hport6
  split
  · rename_i hlit
    have hlit' : (State.lit { u with out := u.out ++ (List.range 6).map (fun q => Msg.laser q true) }) = true := hlit
    refine ⟨hkreg, hbseq, hnext, ?_, ?_⟩
    · rw [if_pos hlit', hout]
    · rw [honly']
  · rename_i hdark
    refine ⟨hkreg, hbseq, hnext, ?_, ?_⟩
    · rw [hout]
      exact (List.append_nil _).symm
    · rw [hout]
      exact honly'

theorem disableDarkens (hon : bitAt (s.kreg 0x800) 0 = true) : Completes (.opEnable port false) s (fun t =>
    t.kreg 0x800 = putBit (s.kreg 0x800) 0 false ∧ t.out = s.out ++ (if s.lit then (List.range 6).map (fun q => Msg.laser q false) else []) ∧
    t = { s with kpr := t.kpr, out := t.out }) := by
  have heq : s.opEnable false = s.darken.setKreg 0x800 (putBit (s.kreg 0x800) 0 false) := by
    rw [State.opEnable, hon]
    rfl
  refine completes_of_exec (exec_opEnable hport false) ?_
  rw [heq, darken_eq]
  exact ⟨kreg_setKreg_self _ (putBit_lt (kreg_lt ..) (by decide) _), rfl, rfl⟩

end

/-! Presence. -/

/-- What a port's presence rests on: all of it but what is sent and kept. -/
def seen (o : OptPort) : OptPort :=
  { o with txSeq := 0, replay := [], waiting := [], bseq := 0, rxSeq := 0, nakGap := 0, unacked := 0, retry := 0, deny := 0 }

/-- What sending frames and forgetting frames leaves alone. -/
structure SameSeen (s t : State) : Prop where
  ports : ∀ p, seen (t.optic p) = seen (s.optic p)
  kpr : t.kpr = s.kpr
  boot : t.boot = s.boot
  power : t.powered = s.powered ∧ t.trip = s.trip
  links : t.links = s.links
  declared : t.declared = s.declared
  visible : t.visible = s.visible
  pairs : t.lostPairs = s.lostPairs
  errs : t.errs = s.errs
  dev : t.dev = s.dev
  cmds : t.cmds = s.cmds

theorem SameSeen.refl (s : State) : SameSeen s s := ⟨fun _ => rfl, rfl, rfl, ⟨rfl, rfl⟩, rfl, rfl, rfl, rfl, rfl, rfl, rfl⟩

theorem SameSeen.trans {s t u : State} (h1 : SameSeen s t) (h2 : SameSeen t u) : SameSeen s u :=
  ⟨fun p => (h2.ports p).trans (h1.ports p), h2.kpr.trans h1.kpr, h2.boot.trans h1.boot,
    ⟨h2.power.1.trans h1.power.1, h2.power.2.trans h1.power.2⟩, h2.links.trans h1.links, h2.declared.trans h1.declared,
    h2.visible.trans h1.visible, h2.pairs.trans h1.pairs, h2.errs.trans h1.errs, h2.dev.trans h1.dev, h2.cmds.trans h1.cmds⟩

theorem foldl_sameSeen {α : Type} (f : State → α → State) (h : ∀ s a, SameSeen s (f s a)) (l : List α) (s : State) : SameSeen s (l.foldl f s) :=
  foldl_rel SameSeen .refl .trans f h l s

theorem modOptic_sameSeen (s : State) (p : Nat) {f : OptPort → OptPort} (hf : ∀ o, seen (f o) = seen o) : SameSeen s (s.modOptic p f) := by
  refine ⟨fun q => ?_, rfl, rfl, ⟨rfl, rfl⟩, rfl, rfl, rfl, rfl, rfl, rfl, rfl⟩
  by_cases hq : q = p
  · rw [hq, optic_modOptic_self, hf]
  · rw [optic_modOptic_other _ _ hq]

theorem send_sameSeen (s : State) (m : Msg) : SameSeen s (s.send m) := ⟨fun _ => rfl, rfl, rfl, ⟨rfl, rfl⟩, rfl, rfl, rfl, rfl, rfl, rfl, rfl⟩

theorem sendFrame_sameSeen (s : State) (p : Nat) (f : Frame) : SameSeen s (s.sendFrame p f) := by
  unfold State.sendFrame
  dsimp only
  split
  · refine SameSeen.trans (modOptic_sameSeen s p ?_) (send_sameSeen ..)
    exact fun _ => rfl
  · exact modOptic_sameSeen s p fun _ => rfl

theorem beaconOut_sameSeen (s : State) (p : Nat) (change : Bool) : SameSeen s (s.beaconOut p change) := by
  unfold State.beaconOut
  split
  · exact .refl s
  · exact (sendFrame_sameSeen ..).trans (modOptic_sameSeen _ p fun _ => rfl)

theorem holdArrival_sameSeen (s : State) (a : Nat × Word) : SameSeen s (s.holdArrival a) := by
  unfold State.holdArrival
  dsimp only
  split
  · exact .refl s
  · split
    · exact ⟨fun _ => rfl, rfl, rfl, ⟨rfl, rfl⟩, rfl, rfl, rfl, rfl, rfl, rfl, rfl⟩
    · exact ⟨fun _ => rfl, rfl, rfl, ⟨rfl, rfl⟩, rfl, rfl, rfl, rfl, rfl, rfl, rfl⟩

theorem holdPending_sameSeen (s : State) (e : Nat) : SameSeen s (s.holdPending e) := by
  unfold State.holdPending
  refine SameSeen.trans ?_ (foldl_sameSeen _ (fun s c => ?_) _ _)
  · exact ⟨fun _ => rfl, rfl, rfl, ⟨rfl, rfl⟩, rfl, rfl, rfl, rfl, rfl, rfl, rfl⟩
  · split
    · split
      · exact holdArrival_sameSeen ..
      · exact .refl s
    · exact .refl s

theorem dropFrames_sameSeen (s : State) (e : Nat) : SameSeen s (s.dropFrames e) := by
  unfold State.dropFrames
  refine foldl_sameSeen _ (fun s p => modOptic_sameSeen s p ?_) _ s
  exact fun _ => rfl

theorem dropSource_sameSeen (s : State) (e : Nat) : SameSeen s (s.dropSource e) :=
  ⟨fun _ => rfl, rfl, rfl, ⟨rfl, rfl⟩, rfl, rfl, rfl, rfl, rfl, rfl, rfl⟩

/-- What a port is seen with decides whether it is usable. -/
theorem seen_fields {o o' : OptPort} (h : seen o = seen o') : o.partner = o'.partner ∧ o.present = o'.present ∧ o.beacon = o'.beacon ∧
    o.lock = o'.lock ∧ o.lambda = o'.lambda ∧ o.dead = o'.dead ∧ o.run = o'.run := by
  cases o
  cases o'
  simp only [seen, OptPort.mk.injEq] at h
  simp_all

section
variable {s t : State} (h : SameSeen s t)
include h

theorem SameSeen.kreg (o : Nat) : t.kreg o = s.kreg o := by rw [State.kreg, State.kreg, h.kpr]

theorem SameSeen.self : t.self = s.self := by rw [State.self, State.self, h.boot]

theorem SameSeen.usable (p : Nat) : t.usable p = s.usable p := by
  have hlive : t.live = s.live := by rw [State.live, State.live, h.power.1, h.power.2, h.boot]
  obtain ⟨-, hpresent, -, hlock, hlambda, hdead, -⟩ := seen_fields (h.ports p)
  rw [State.usable, State.usable, State.portDown, State.portDown, State.portFit, State.portFit, State.attached, State.attached, hpresent, hlock,
    hlambda, hdead, hlive, h.boot, State.link, State.link, h.links]

theorem SameSeen.routeEntry (e : Nat) : t.routeEntry e = s.routeEntry e := by rw [State.routeEntry, State.routeEntry, h.kreg]

theorem SameSeen.routePort (e : Nat) : t.routePort e = s.routePort e := by
  rw [State.routePort, State.routePort, h.routeEntry, h.usable, h.usable]

theorem SameSeen.partnerPort (e : Nat) : t.partnerPort e = s.partnerPort e := by
  have hsame : ∀ p, (t.optic p).partner = (s.optic p).partner := fun p => (seen_fields (h.ports p)).1
  simp only [State.partnerPort, hsame]

theorem SameSeen.tracked (e : Nat) : t.tracked e = s.tracked e := by
  have hpresent : ∀ p, (t.optic p).present = (s.optic p).present := fun p => (seen_fields (h.ports p)).2.1
  have hbeacon : ∀ p, (t.optic p).beacon = (s.optic p).beacon := fun p => (seen_fields (h.ports p)).2.2.1
  simp only [State.tracked, h.partnerPort, h.routePort, hpresent, hbeacon]

theorem SameSeen.presenceMap : t.presenceMap = s.presenceMap := by
  simp only [State.presenceMap, h.kreg, h.self, h.tracked, h.routePort]

end

/-- The state in which a new presence map is declared. -/
def Declares (s t : State) : Prop := t.declared = s.presenceMap ∧ SameSeen { s with declared := t.declared } t

/-- The keeper's map follows, and the host's view, memory, commands and what the ports have seen stay. -/
theorem presence_declares (s : State) (cause : Nat) : Declares s (s.presence cause) := by
  unfold State.presence
  dsimp only
  split
  · rename_i h
    exact ⟨h.symm, .refl s⟩
  · generalize (List.range 256).filter (fun e => bitAt s.presenceMap e != bitAt s.declared e) = diff
    have hrest : SameSeen { s with declared := s.presenceMap } ((List.range 6).foldl (fun acc p => acc.beaconOut p true)
        ((diff.filter (fun e => !bitAt s.presenceMap e)).foldl (fun acc e => ((acc.holdPending e).dropFrames e).dropSource e)
          { s with
            declared := s.presenceMap, lostMap := diff.foldl (fun acc e => putBit acc e (!bitAt s.presenceMap e)) s.lostMap,
            lossAdopt := s.lossAdopt ++ [{
              map := s.presenceMap,
              changes := diff.map (fun e => (e, bitAt s.presenceMap e, if (s.partnerPort e).isNone then 6 else cause)) }] })) := by
      refine SameSeen.trans ?_ (foldl_sameSeen _ (fun s p => beaconOut_sameSeen s p true) _ _)
      refine SameSeen.trans ?_ (foldl_sameSeen _ (fun s e =>
        (holdPending_sameSeen s e).trans ((dropFrames_sameSeen ..).trans (dropSource_sameSeen ..))) _ _)
      exact ⟨fun _ => rfl, rfl, rfl, ⟨rfl, rfl⟩, rfl, rfl, rfl, rfl, rfl, rfl, rfl⟩
    exact ⟨hrest.declared, by rw [hrest.declared]; exact hrest⟩

/-- After a publication the map is what the keeper finds then. -/
theorem Declares.declared_eq {s t : State} (h : Declares s t) : t.declared = t.presenceMap := by
  obtain ⟨hdeclared, hseen⟩ := h
  rw [hseen.presenceMap, hdeclared]
  rfl

theorem presenceMap_down {t : State} (h : bitAt (t.kreg 0x800) 1 = false) : t.presenceMap = 0 := by
  rw [State.presenceMap, h]
  rfl

section
variable {s : State} {port : Fin 4} (hport : s.portUp port.val = true)
include hport

theorem opUp_declares (on : Bool) (h : bitAt (s.kreg 0x800) 1 = !on) : Completes (.opUp port on) s (fun t =>
    bitAt (t.kreg 0x800) 1 = on ∧ t.declared = t.presenceMap ∧ t.cmds = s.cmds ∧ t.dev = s.dev ∧ t.visible = s.visible) := by
  have hexec : exec (.opUp port on) s = .next ((s.setKreg 0x800 (putBit (s.kreg 0x800) 1 on)).presence 0) := by
    rw [exec_opUp hport, if_neg (by rw [h]; cases on <;> decide)]
    rfl
  have hdeclares := presence_declares (s.setKreg 0x800 (putBit (s.kreg 0x800) 1 on)) 0
  obtain ⟨-, hseen⟩ := id hdeclares
  refine completes_of_exec hexec ⟨?_, hdeclares.declared_eq, hseen.cmds, hseen.dev, hseen.visible⟩
  have hkreg : ((s.setKreg 0x800 (putBit (s.kreg 0x800) 1 on)).presence 0).kreg 0x800 = putBit (s.kreg 0x800) 1 on := by
    rw [State.kreg, hseen.kpr]
    exact kreg_setKreg_self s (putBit_lt (kreg_lt ..) (by decide) _)
  rw [hkreg, bitAt_putBit_self]

/-- A sum within the readmission count is the sum modulo 65,536. -/
theorem readmitAdds : Completes (.readmit port) s (fun t => t = s.setKreg 0x800 (t.kreg 0x800) ∧
    bits (t.kreg 0x800) 47 32 = (bits (s.kreg 0x800) 47 32 + 1) % 65536 ∧ bits (t.kreg 0x800) 31 0 = bits (s.kreg 0x800) 31 0) := by
  have hkreg : s.opReadmit.kreg 0x800 = putBits (s.kreg 0x800) 47 32 (bits (s.kreg 0x800) 47 32 + 1) := by
    rw [State.opReadmit, kreg_setKreg_self _ (putBits_lt (kreg_lt ..) (by decide) _)]
  refine completes_of_exec (exec_readmit hport) ⟨?_, ?_, ?_⟩
  · rw [hkreg]
    rfl
  · rw [hkreg, bits_putBits_self]
    norm_num
  · rw [hkreg, bits_putBits_of_off _ _ (by decide)]

end

/-! Beacons out (R333, Table 14-9). -/

/-- A frame's bytes: header, `seq`, payload, padding and check. -/
theorem stampFrame_frameOf (dst src cls len hops seq : Nat) {payload : List Byte} (h : payload.length ≤ 244) :
    ∃ check : List Byte, check.length = 4 ∧ stampFrame (frameOf dst src cls len hops payload) seq =
      (natLE 1 dst ++ natLE 1 src ++ natLE 2 (cls % 16 + len % 256 * 16 + hops % 8 * 4096) ++ natLE 2 seq ++ [0, 0]) ++
        (payload ++ (List.replicate (244 - payload.length) 0 ++ check)) := by
  have htake : payload.take 244 = payload := List.take_of_length_le h
  have hbody : ((frameOf dst src cls len hops payload).drop 8).take 244 = payload ++ List.replicate (244 - payload.length) 0 := by
    have hhead : (natLE 1 dst ++ natLE 1 src ++ natLE 2 (cls % 16 + len % 256 * 16 + hops % 8 * 4096) ++ [0, 0, 0, 0] : List Byte).length = 8 := rfl
    have hpad : (payload ++ List.replicate (244 - payload.length) (0 : Byte)).length = 244 := by simp; omega
    rw [frameOf, padTo, htake, List.drop_left' hhead, List.take_of_length_le hpad.le]
  have hhead : (frameOf dst src cls len hops payload).take 4 =
      natLE 1 dst ++ natLE 1 src ++ natLE 2 (cls % 16 + len % 256 * 16 + hops % 8 * 4096) := by
    simp [frameOf, natLE]
  refine ⟨natLE 4 (crc32c (natLE 1 dst ++ natLE 1 src ++ natLE 2 (cls % 16 + len % 256 * 16 + hops % 8 * 4096) ++ natLE 2 seq ++ [0, 0] ++
    (payload ++ List.replicate (244 - payload.length) 0))), natLE_length .., ?_⟩
  rw [stampFrame, hbody, hhead]
  simp only [List.append_assoc]

theorem beaconBytes_length (s : State) (p : Nat) (change : Bool) : (s.beaconBytes p change).length = 48 := by
  simp [State.beaconBytes, natLE_length]

/-- The frame of a periodic beacon. -/
def beaconFrame (s : State) (p : Nat) : List Byte := stampFrame (frameOf 0xFF s.self 0 48 0 (s.beaconBytes p false)) (s.optic p).txSeq

/-- The header of that frame. -/
def beaconFrameHead (s : State) (p : Nat) : List Byte :=
  natLE 1 0xFF ++ natLE 1 s.self ++ natLE 2 (0 % 16 + 48 % 256 * 16 + 0 % 8 * 4096) ++ natLE 2 (s.optic p).txSeq ++ [0, 0]

/-- What stands before `bseq` in the payload. -/
def beaconHead (s : State) : List Byte :=
  natLE 2 (bits (s.kreg 0x800) 31 16) ++ natLE 1 s.self ++ natLE 1 (if bitAt (s.kreg 0x800) 1 then 1 else 0) ++
  natLE 4 (s.kreg 0x808) ++ natLE 2 (bits (s.kreg 0x800) 47 32) ++ [0, 0]

theorem beaconFrame_spec (s : State) (p : Nat) : (beaconFrame s p).length = 256 ∧
    (beaconOf (beaconFrame s p)).bseq = (s.optic p).bseq % 2 ^ 32 ∧ (beaconOf (beaconFrame s p)).engine = s.self % 256 := by
  have hlen := beaconBytes_length s p false
  obtain ⟨check, hcheck, heq⟩ := stampFrame_frameOf 0xFF s.self 0 48 0 (s.optic p).txSeq (payload := s.beaconBytes p false) (by omega)
  rw [beaconFrame, heq]
  refine ⟨?_, ?_, ?_⟩
  · simp only [List.length_append, natLE_length, List.length_replicate, hlen, hcheck, List.length_cons, List.length_nil]
  · have hsplit : beaconFrameHead s p ++ (s.beaconBytes p false ++ (List.replicate (244 - (s.beaconBytes p false).length) 0 ++ check)) =
        (beaconFrameHead s p ++ beaconHead s) ++ (natLE 4 (s.optic p).bseq ++
          (natLE 32 (putBit s.declared s.self true) ++ (List.replicate (244 - (s.beaconBytes p false).length) 0 ++ check))) := by
      simp only [State.beaconBytes, beaconHead, List.append_assoc, Bool.false_eq_true, if_false, Nat.add_zero]
    exact (congrArg (field · 20 4) hsplit).trans (field_natLE _ _ 20 4 _ rfl)
  · have hsplit : beaconFrameHead s p ++ (s.beaconBytes p false ++ (List.replicate (244 - (s.beaconBytes p false).length) 0 ++ check)) =
        (beaconFrameHead s p ++ natLE 2 (bits (s.kreg 0x800) 31 16)) ++ (natLE 1 s.self ++
          ((s.beaconBytes p false).drop 3 ++ (List.replicate (244 - (s.beaconBytes p false).length) 0 ++ check))) := by
      have hbytes : s.beaconBytes p false = natLE 2 (bits (s.kreg 0x800) 31 16) ++ natLE 1 s.self ++ (s.beaconBytes p false).drop 3 :=
        (List.take_append_drop 3 (s.beaconBytes p false)).symm
      simp only [List.append_assoc]
      rw [← List.append_assoc (natLE 1 s.self), ← List.append_assoc (natLE 2 _), ← List.append_assoc (natLE 2 _), ← hbytes]
    exact (congrArg (field · 10 1) hsplit).trans (field_natLE _ _ 10 1 _ rfl)

variable {s : State} {p : Nat}

theorem sendFrame_room (h : (s.optic p).replay.length < 640) (f : Frame) : s.sendFrame p f =
    (s.modOptic p (fun o => { o with txSeq := (o.txSeq + 1) % 65536, replay := o.replay ++ [(o.txSeq, f, 1)] })).send (f.msg p (s.optic p).txSeq) :=
  if_pos h

theorem beaconOut_due (hlit : s.lit = true) (hatt : s.attached p = true) (hroom : (s.optic p).replay.length < 640) :
    ((s.beaconOut p false).optic p).bseq = ((s.optic p).bseq + 1) % 2 ^ 32 ∧ ((s.beaconOut p false).optic p).nextBeacon = (s.optic p).nextBeacon ∧
    s.beaconOut p false = { s with optics := (s.beaconOut p false).optics, out := s.out ++ [.frame p (beaconFrame s p)] } := by
  have heq : s.beaconOut p false = (s.sendFrame p (.bytes (frameOf 0xFF s.self 0 48 0 (s.beaconBytes p false)))).modOptic p
      (fun o => { o with bseq := (o.bseq + 1) % 2 ^ 32 }) := by
    rw [State.beaconOut, hlit, hatt]
    rfl
  rw [heq, sendFrame_room hroom, optic_modOptic_self, optic_congr (send_optics ..), optic_modOptic_self]
  exact ⟨rfl, rfl, rfl⟩

theorem beaconSend_due {p : Fin 6} (hlit : s.lit = true) (hatt : s.attached p.val = true) (hdue : (s.optic p.val).nextBeacon ≤ s.kTick)
    (hroom : (s.optic p.val).replay.length < 640) :
    Completes (.beaconSend p) s (fun t => (t.optic p.val).nextBeacon = (s.optic p.val).nextBeacon + 1000 ∧
      (t.optic p.val).bseq = ((s.optic p.val).bseq + 1) % 2 ^ 32 ∧ (∃ f, t.out = s.out ++ [.frame p.val f] ∧ f.length = 256 ∧
        (beaconOf f).bseq = (s.optic p.val).bseq % 2 ^ 32 ∧ (beaconOf f).engine = s.self % 256) ∧ t = { s with optics := t.optics, out := t.out }) := by
  have hexec : exec (.beaconSend p) s =
      .next ((s.beaconOut p.val false).modOptic p.val (fun o => { o with nextBeacon := o.nextBeacon + 1000 })) := by
    refine if_neg ?_
    simp [hlit, hatt, hdue]
  obtain ⟨hlen, hframeSeq, hengine⟩ := beaconFrame_spec s p.val
  obtain ⟨hbseq, hnext, honly⟩ := beaconOut_due hlit hatt hroom
  refine completes_of_exec hexec ?_
  rw [optic_modOptic_self]
  generalize s.beaconOut p.val false = u at *
  refine ⟨congrArg (· + 1000) hnext, hbseq, ⟨_, ?_, hlen, hframeSeq, hengine⟩, ?_⟩
  · rw [honly]
    rfl
  · rw [honly]
    rfl

theorem beaconSend_early {p : Fin 6} (h : s.kTick < (s.optic p.val).nextBeacon) : Gives (.beaconSend p) s s := by
  refine if_pos ?_
  simp [h]

theorem opLos_followed {p : Fin 6} (hlive : s.live = true) (dark : Bool) : Completes (.opLos p dark) s (fun t => (t.optic p.val).los = dark ∧
    (dark = true → (s.optic p.val).los = false → (t.optic p.val).losSince = s.kTick) ∧
    (∀ q, q ≠ p.val → t.optic q = s.optic q) ∧ t = { s with optics := t.optics }) := by
  have hexec : exec (.opLos p dark) s =
      .next (s.modOptic p.val (fun o => { o with los := dark, losSince := if dark && !o.los then s.kTick else o.losSince })) := by
    refine if_neg ?_
    simp [hlive]
  refine completes_of_exec hexec ⟨?_, fun hdark hbright => ?_, fun q hq => optic_modOptic_other _ _ hq, rfl⟩
  · rw [optic_modOptic_self]
  · rw [optic_modOptic_self]
    simp [hdark, hbright]

/-- Settles O45: each control write through the reserved bits it leaves alone, and the beacon's frame field by field. -/
theorem opticalPortsAreControlled : Obligations.OpticalPortsAreControlled := by
  unfold Obligations.OpticalPortsAreControlled
  intro s port p hport hlive
  refine ⟨enableLights hport p, disableDarkens hport, fun h => ?_, fun h => ?_, fun on h => ?_, fun on h => ?_, readmitAdds hport, beaconSend_due,
    beaconSend_early, opLos_followed hlive⟩
  · obtain ⟨t, hexec, hup, hdeclared, hsame⟩ := opUp_declares hport false h
    exact ⟨t, hexec, hup, hdeclared.trans (presenceMap_down hup), hsame⟩
  · exact opUp_declares hport true h
  · exact (exec_opEnable hport on).trans (congrArg _ (opEnable_same h))
  · exact (exec_opUp hport on).trans (congrArg _ (if_pos h))

end Sys2Proof.Proofs.OpticControl
end

section
/-! Presence of partners, and its adoption by the slices (O46). -/

namespace Sys2Proof.Proofs.Presence

open Sys2Proof Sys2Proof.Machine Sys2Proof.Claims Sys2Proof.Laws Sys2Proof.Proofs.Basic Sys2Proof.Proofs.Layer Sys2Proof.Proofs.BitFields
open Sys2Proof.Proofs.LinkLayer Sys2Proof.Proofs.Restarts Sys2Proof.Proofs.OpticControl

/-- A publication leaves what the ports have seen. -/
theorem Declares.ports {s t : State} (h : Declares s t) (p : Nat) : (t.optic p).present = (s.optic p).present ∧
    (t.optic p).beacon = (s.optic p).beacon ∧ (t.optic p).lock = (s.optic p).lock ∧ (t.optic p).lambda = (s.optic p).lambda ∧
    (t.optic p).run = (s.optic p).run := by
  obtain ⟨-, hseen⟩ := h
  obtain ⟨-, hpresent, hbeacon, hlock, hlambda, -, hrun⟩ := seen_fields (hseen.ports p)
  exact ⟨hpresent, hbeacon, hlock, hlambda, hrun⟩

/-! A partner is lost. -/

/-- A port without its partner: what follows of it. -/
structure Parted (p : Nat) (s t : State) : Prop where
  absent : (t.optic p).present = false
  lambda : (t.optic p).lambda = (s.optic p).lambda
  lock : (t.optic p).lock = (s.optic p).lock
  errs : t.errs = s.errs
  dev : t.dev = s.dev
  cmds : t.cmds = s.cmds
  declared : (s.optic p).present = true → t.declared = t.presenceMap
  pair : (s.optic p).present = true → ∀ e b, (s.optic p).partner = some e → (s.optic p).beacon = some b →
    Tab.get? t.lostPairs e = some (b.inc, b.admitNo)

/-- A port whose partner was lost. -/
def lostPort (o : OptPort) : OptPort := { o with present := false, run := 0, replay := [], waiting := [] }

theorem loseDirect_parted (s : State) (p cause : Nat) : Parted p s (s.loseDirect p cause) := by
  cases hpresent : (s.optic p).present with
  | false =>
    have heq : s.loseDirect p cause = s := by
      rw [State.loseDirect, hpresent]
      rfl
    rw [heq]
    exact ⟨hpresent, rfl, rfl, rfl, rfl, rfl, fun h => absurd (hpresent.symm.trans h) (by decide), fun h => absurd (hpresent.symm.trans h) (by decide)⟩
  | true =>
    obtain ⟨pairs, heq, hpairs⟩ : ∃ pairs, s.loseDirect p cause = (({ s with lostPairs := pairs } : State).modOptic p lostPort).presence cause ∧
        ∀ e b, (s.optic p).partner = some e → (s.optic p).beacon = some b → Tab.get? pairs e = some (b.inc, b.admitNo) := by
      unfold State.loseDirect
      dsimp only
      rw [hpresent]
      refine ⟨_, rfl, fun e b he hb => ?_⟩
      rw [he, hb]
      exact tab_get?_set_self ..
    have hdeclares := presence_declares (({ s with lostPairs := pairs } : State).modOptic p lostPort) cause
    have hport : (({ s with lostPairs := pairs } : State).modOptic p lostPort).optic p = lostPort (s.optic p) := optic_modOptic_self ..
    rw [heq]
    generalize (({ s with lostPairs := pairs } : State).modOptic p lostPort).presence cause = t at *
    obtain ⟨-, hseen⟩ := id hdeclares
    obtain ⟨habsent, -, hlock, hlambda, -⟩ := Declares.ports hdeclares p
    exact ⟨habsent.trans (congrArg OptPort.present hport), hlambda.trans ((congrArg OptPort.lambda hport).trans rfl), hlock.trans ((congrArg OptPort.lock hport).trans rfl), hseen.errs, hseen.dev, hseen.cmds,
      fun _ => hdeclares.declared_eq, fun _ e b he hb => (congrArg (Tab.get? · e) hseen.pairs).trans (hpairs e b he hb)⟩

/-- An entry of the error record leaves ports, memory and commands. -/
theorem errEntry_leaves (s : State) (a c r : Nat) (d : List Byte) : (s.errEntry a c r d).optics = s.optics ∧ (s.errEntry a c r d).dev = s.dev ∧
    (s.errEntry a c r d).cmds = s.cmds := by simp

theorem opticDown_spec (s : State) (p : Nat) : ((s.opticDown p).optic p).present = false ∧
    ((s.opticDown p).optic p).lambda = (s.optic p).lambda ∧ ((s.opticDown p).optic p).lock = (s.optic p).lock ∧
    (s.opticDown p).errs.total = s.errs.total + 1 ∧ (s.opticDown p).dev = s.dev ∧ (s.opticDown p).cmds = s.cmds ∧
    ((s.optic p).present = true → (s.opticDown p).declared = (s.opticDown p).presenceMap) := by
  obtain ⟨hoptics, hdev, hcmds⟩ := errEntry_leaves s 4 0x13 1 (natLE 1 p)
  have htotal := errEntry_total s 4 0x13 1 (natLE 1 p)
  have hparted := loseDirect_parted (s.errEntry 4 0x13 1 (natLE 1 p)) p 3
  rw [State.opticDown]
  generalize s.errEntry 4 0x13 1 (natLE 1 p) = u at *
  have hport := optic_congr hoptics p
  exact ⟨hparted.absent, hparted.lambda.trans (by rw [hport]), hparted.lock.trans (by rw [hport]), by rw [hparted.errs, htotal],
    hparted.dev.trans hdev, hparted.cmds.trans hcmds, fun h => hparted.declared (by rw [hport]; exact h)⟩

/-! Beacons in. -/

section
variable {s : State} {p : Fin 6}

/-- The port that has taken its partner's third beacon. -/
def greeted (b : Beacon) (tick : Nat) (o : OptPort) : OptPort := { o with beacon := some b, heard := tick, run := 3 }

def welcomed (o : OptPort) : OptPort := { o with present := true, dead := false }

theorem thirdBeacon {a b : Beacon} (hatt : s.attached p.val = true) (hadmits : s.admits p.val 0 b.engine = true)
    (hgroup : b.group = bits (s.kreg 0x800) 31 16) (hpartner : (s.optic p.val).partner = some b.engine) (hbeacon : (s.optic p.val).beacon = some a)
    (hrun : (s.optic p.val).run = 2) (habsent : (s.optic p.val).present = false) (haup : bitAt a.state 0 = true) (hbup : bitAt b.state 0 = true)
    (hseq : b.bseq = (a.bseq + 1) % 2 ^ 32) (hself : bitAt b.presence s.self = true)
    (hpair : Tab.get? s.lostPairs b.engine ≠ some (b.inc, b.admitNo)) (hfit : s.portFit p.val = true) :
    Completes (.beaconReceive p b) s (fun t => (t.optic p.val).present = true ∧ (t.optic p.val).beacon = some b ∧ (t.optic p.val).run = 3 ∧
      t.declared = t.presenceMap ∧ t.dev = s.dev ∧ t.cmds = s.cmds) := by
  have hfresh : (Tab.get? s.lostPairs b.engine != some (b.inc, b.admitNo)) = true := bne_iff_ne.mpr hpair
  have hin : s.beaconIn p.val b = ((s.modOptic p.val (greeted b s.kTick)).modOptic p.val welcomed).presence 0 := by
    rw [State.beaconIn, if_pos hpartner]
    rw [hbeacon, habsent, hrun, hbup, hfit]
    dsimp only
    simp only [haup, hself, hseq, hfresh, beq_self_eq_true, Bool.not_true, Bool.and_false, Bool.and_self, Bool.false_eq_true, if_false, if_true,
      Bool.not_false, Bool.true_and, Bool.and_true]
    rfl
  have hexec : exec (.beaconReceive p b) s = .next (((s.modOptic p.val (greeted b s.kTick)).modOptic p.val welcomed).presence 0) := by
    rw [show exec (.beaconReceive p b) s = execBeaconReceive p b s from rfl, execBeaconReceive, hatt, hadmits, hgroup, beq_self_eq_true, hin]
    rfl
  have hport : ((s.modOptic p.val (greeted b s.kTick)).modOptic p.val welcomed).optic p.val = welcomed (greeted b s.kTick (s.optic p.val)) := by
    rw [optic_modOptic_self, optic_modOptic_self]
  have hdeclares := presence_declares ((s.modOptic p.val (greeted b s.kTick)).modOptic p.val welcomed) 0
  refine completes_of_exec hexec ?_
  obtain ⟨-, hseen⟩ := id hdeclares
  obtain ⟨hpresent, hheard, -, -, hruns⟩ := Declares.ports hdeclares p.val
  exact ⟨hpresent.trans (congrArg _ hport), hheard.trans (congrArg _ hport), hruns.trans (congrArg _ hport), hdeclares.declared_eq, hseen.dev, hseen.cmds⟩

theorem beacon_denied {b : Beacon} (hatt : s.attached p.val = true) (h : s.admits p.val 0 b.engine = false ∨ b.group ≠ bits (s.kreg 0x800) 31 16) :
    Gives (.beaconReceive p b) s (s.modOptic p.val (fun o => { o with deny := satTo 65535 (o.deny + 1) })) := by
  have hno : ¬ (s.admits p.val 0 b.engine && b.group == bits (s.kreg 0x800) 31 16) = true := by
    rcases h with h | h
    · simp [h]
    · simp [h]
  have hexec : exec (.beaconReceive p b) s = _ := if_neg (by simp [hatt])
  exact hexec.trans (if_neg hno)

/-! Timeouts, light, lock and wavelengths. -/

theorem missTimeout_parts (hpresent : (s.optic p.val).present = true) (hdue : (s.optic p.val).heard + 4000 ≤ s.kTick) :
    Completes (.missTimeout p) s (fun t => (t.optic p.val).present = false ∧ t.declared = t.presenceMap ∧
      (∀ e b, (s.optic p.val).partner = some e → (s.optic p.val).beacon = some b → Tab.get? t.lostPairs e = some (b.inc, b.admitNo)) ∧
      t.dev = s.dev ∧ t.cmds = s.cmds) := by
  have hexec : exec (.missTimeout p) s = _ := if_pos (decide_eq_true hdue)
  have hparted := loseDirect_parted s p.val 1
  exact completes_of_exec hexec ⟨hparted.absent, hparted.declared hpresent, hparted.pair hpresent, hparted.dev, hparted.cmds⟩

theorem lossOfLight_parts (hlive : s.live = true) (hpresent : (s.optic p.val).present = true) (hlos : (s.optic p.val).los = true)
    (hdue : (s.optic p.val).losSince + 100 ≤ s.kTick) : Completes (.lossOfLight p) s (fun t =>
      (t.optic p.val).present = false ∧ t.declared = t.presenceMap ∧ t.dev = s.dev ∧ t.cmds = s.cmds) := by
  have hexec : exec (.lossOfLight p) s = .next (s.loseDirect p.val 2) := if_pos (by simp [hlive, hlos, hdue])
  have hparted := loseDirect_parted s p.val 2
  exact completes_of_exec hexec ⟨hparted.absent, hparted.declared hpresent, hparted.dev, hparted.cmds⟩

/-- The lock input of a port. -/
def locks (locked : Bool) (o : OptPort) : OptPort := { o with lock := locked }

theorem lockLost_parts (hlive : s.live = true) (hpresent : (s.optic p.val).present = true) (hlock : (s.optic p.val).lock = true) :
    Completes (.opLock p false) s (fun t => (t.optic p.val).lock = false ∧ (t.optic p.val).present = false ∧
      t.declared = t.presenceMap ∧ t.errs.total = s.errs.total + 1 ∧ t.dev = s.dev ∧ t.cmds = s.cmds) := by
  have hexec : exec (.opLock p false) s = .next ((s.modOptic p.val (locks false)).opticDown p.val) := by
    rw [show exec (.opLock p false) s = execOpLock p false s from rfl, execOpLock, hlive, hlock]
    rfl
  have hport : (s.modOptic p.val (locks false)).optic p.val = locks false (s.optic p.val) := optic_modOptic_self ..
  obtain ⟨habsent, -, hunlocked, htotal, hdev, hcmds, hdeclared⟩ := opticDown_spec (s.modOptic p.val (locks false)) p.val
  exact completes_of_exec hexec ⟨hunlocked.trans (congrArg _ hport), habsent, hdeclared ((congrArg _ hport).trans hpresent), htotal, hdev, hcmds⟩

theorem locked_presence (hlive : s.live = true) : Completes (.opLock p true) s (fun t => (t.optic p.val).lock = true ∧
    t.declared = t.presenceMap ∧ t.dev = s.dev ∧ t.cmds = s.cmds) := by
  have hexec : exec (.opLock p true) s = .next ((s.modOptic p.val (locks true)).presence 0) := by
    rw [show exec (.opLock p true) s = execOpLock p true s from rfl, execOpLock, hlive]
    simp
    rfl
  have hport : (s.modOptic p.val (locks true)).optic p.val = locks true (s.optic p.val) := optic_modOptic_self ..
  have hdeclares := presence_declares (s.modOptic p.val (locks true)) 0
  obtain ⟨-, hseen⟩ := id hdeclares
  obtain ⟨-, -, hlock, -, -⟩ := Declares.ports hdeclares p.val
  exact completes_of_exec hexec ⟨hlock.trans (congrArg OptPort.lock hport), hdeclares.declared_eq, hseen.dev, hseen.cmds⟩

/-- A new count of working wavelengths, with its entry in the error record. -/
def recounted (s : State) (p n : Nat) : State := (s.modOptic p (fun o => { o with lambda := n })).errEntry 4 0x12 1 (natLE 1 p ++ natLE 1 n)

theorem recounted_spec (s : State) (p n : Nat) : ((recounted s p n).optic p).lambda = n ∧ (recounted s p n).errs.total = s.errs.total + 1 ∧
    (recounted s p n).dev = s.dev ∧ (recounted s p n).cmds = s.cmds := by
  obtain ⟨hoptics, hdev, hcmds⟩ := errEntry_leaves (s.modOptic p (fun o => { o with lambda := n })) 4 0x12 1 (natLE 1 p ++ natLE 1 n)
  have htotal := errEntry_total (s.modOptic p (fun o => { o with lambda := n })) 4 0x12 1 (natLE 1 p ++ natLE 1 n)
  refine ⟨?_, htotal, hdev, hcmds⟩
  rw [recounted, optic_congr hoptics, optic_modOptic_self]

theorem wavelengths_counted (hlive : s.live = true) (n : Fin 17) (hne : (s.optic p.val).lambda ≠ n.val) :
    Completes (.wavelengthChange p n) s (fun t => (t.optic p.val).lambda = n.val ∧
      t.errs.total = s.errs.total + (if 8 ≤ (s.optic p.val).lambda ∧ n.val < 8 then 2 else 1) ∧
      (8 ≤ (s.optic p.val).lambda → n.val < 8 → (t.optic p.val).present = false) ∧ t.dev = s.dev ∧ t.cmds = s.cmds) := by
  have hexec : exec (.wavelengthChange p n) s = if 8 ≤ (s.optic p.val).lambda ∧ n.val < 8 then .next ((recounted s p.val n.val).opticDown p.val)
      else .next ((recounted s p.val n.val).presence 0) := if_neg (by simp [hlive, hne])
  obtain ⟨hlambda, htotal, hdev, hcmds⟩ := recounted_spec s p.val n.val
  by_cases hdown : 8 ≤ (s.optic p.val).lambda ∧ n.val < 8
  · rw [if_pos hdown] at hexec
    obtain ⟨habsent, hlambda', -, htotal', hdev', hcmds', -⟩ := opticDown_spec (recounted s p.val n.val) p.val
    exact completes_of_exec hexec ⟨hlambda'.trans hlambda, by rw [htotal', htotal, if_pos hdown], fun _ _ => habsent, hdev'.trans hdev, hcmds'.trans hcmds⟩
  · rw [if_neg hdown] at hexec
    have hdeclares := presence_declares (recounted s p.val n.val) 0
    obtain ⟨-, hseen⟩ := id hdeclares
    obtain ⟨-, -, -, hlambda', -⟩ := Declares.ports hdeclares p.val
    exact completes_of_exec hexec ⟨hlambda'.trans hlambda, by rw [hseen.errs, if_neg hdown]; exact htotal,
      fun h8 hn => absurd ⟨h8, hn⟩ hdown, hseen.dev.trans hdev, hseen.cmds.trans hcmds⟩

end

theorem presenceFollowsBeacons : Sys2Proof.Claims.PresenceFollowsBeacons := by
  intro s p hlive
  refine ⟨fun b a hatt hadmits hgroup hpartner hbeacon hrun habsent haup hbup hseq hself hpair hfit =>
      thirdBeacon hatt hadmits hgroup hpartner hbeacon hrun habsent haup hbup hseq hself hpair hfit,
    fun b hatt h => beacon_denied hatt h,
    fun hpresent => ⟨missTimeout_parts hpresent, lossOfLight_parts hlive hpresent, lockLost_parts hlive hpresent⟩,
    fun h => if_neg (by simp; omega), locked_presence hlive, wavelengths_counted hlive⟩

/-! Adoption. -/

/-- A trace record leaves every register but the trace control. -/
theorem kreg_traceRec (s : State) (a k x q n o c : Nat) (l : List Byte) {r : Nat} (hr : r ≠ 0x8000) : (s.traceRec a k x q n o c l).kreg r = s.kreg r := by
  unfold State.traceRec
  dsimp only
  split
  · rfl
  · generalize (if bitAt (s.kreg 0x8000) 62 = true then 524288 else 262144) = size
    split
    · rfl
    · split
      · rfl
      · exact kreg_setKreg_other _ _ hr

/-- Nothing but trace, its control and messages differs. -/
structure Told (s t : State) : Prop where
  eq : t = { s with kpr := t.kpr, trace := t.trace, out := t.out, msiWait := t.msiWait }
  regs : ∀ r, r ≠ 0x8000 → t.kreg r = s.kreg r

theorem Told.refl (s : State) : Told s s := ⟨rfl, fun _ _ => rfl⟩

theorem Told.trans {s t u : State} (h1 : Told s t) (h2 : Told t u) : Told s u :=
  ⟨by rw [h2.eq, h1.eq], fun r hr => (h2.regs r hr).trans (h1.regs r hr)⟩

theorem traceRec_told (s : State) (a k x q n o c : Nat) (l : List Byte) : Told s (s.traceRec a k x q n o c l) :=
  ⟨by rw [state_eq_iff]; simp, fun _ hr => kreg_traceRec _ _ _ _ _ _ _ _ _ hr⟩

theorem msix_told (s : State) (v : Nat) : Told s (s.msix v) := by
  unfold State.msix
  split
  · exact ⟨rfl, fun _ _ => rfl⟩
  · exact ⟨rfl, fun _ _ => rfl⟩

/-- The capability table is written where the host may see it. -/
def capsShown (s : State) : State := if s.boot.ready && s.sliceUp 0 then s.writeCaps else s

theorem capsShown_eq (s : State) : capsShown s = { s with dev := (capsShown s).dev } := by
  unfold capsShown
  split
  · exact writeCaps_eq s
  · rfl

theorem byte_capsShown_of_off (s : State) {a : Nat} (h : off Config.capPtr 192 a) : (capsShown s).dev.byte a = s.dev.byte a := by
  unfold capsShown
  split
  · exact byte_writeCaps_of_off s h
  · rfl

/-- What the last step of a publication leaves. -/
theorem lossShown_spec (s : State) (p : LossPub) : (s.lossShown p).visible = p.map ∧ (s.lossShown p).slices = s.slices ∧
    (s.lossShown p).cmds = s.cmds ∧ (s.lossShown p).declared = s.declared ∧ (s.lossShown p).lossAdopt = s.lossAdopt ∧
    (s.lossShown p).kreg 0x220 = (s.kreg 0x220 + p.changes.length) % 2 ^ 32 ∧
    (∀ a, off Config.capPtr 192 a → (s.lossShown p).dev.byte a = s.dev.byte a) := by
  have hcaps := capsShown_eq { s with visible := p.map }
  have hbyte := fun a => byte_capsShown_of_off { s with visible := p.map } (a := a)
  have heq : s.lossShown p = (p.changes.foldl (fun acc c => acc.traceRec 4 4 0 0 0 0 0 (natLE 1 c.1 ++ natLE 1 (if c.2.1 then 1 else 0) ++ natLE 1 c.2.2))
      ((capsShown { s with visible := p.map }).setKreg 0x220 (((capsShown { s with visible := p.map }).kreg 0x220 + p.changes.length) % 2 ^ 32))).msix 0 := rfl
  rw [heq]
  generalize capsShown { s with visible := p.map } = u at *
  have hvisible : u.visible = p.map := by rw [hcaps]
  have hslices : u.slices = s.slices := by rw [hcaps]
  have hcmds : u.cmds = s.cmds := by rw [hcaps]
  have hdeclared : u.declared = s.declared := by rw [hcaps]
  have hlossAdopt : u.lossAdopt = s.lossAdopt := by rw [hcaps]
  have htold : Told (u.setKreg 0x220 ((u.kreg 0x220 + p.changes.length) % 2 ^ 32)) _ :=
    (foldl_rel Told .refl .trans (fun acc (c : Nat × Bool × Nat) =>
      acc.traceRec 4 4 0 0 0 0 0 (natLE 1 c.1 ++ natLE 1 (if c.2.1 then 1 else 0) ++ natLE 1 c.2.2)) (fun s _ => traceRec_told s ..) p.changes _).trans
      (msix_told _ 0)
  refine ⟨?_, ?_, ?_, ?_, ?_, ?_, fun a ha => ?_⟩
  · rw [htold.eq]
    exact hvisible
  · rw [htold.eq]
    exact hslices
  · rw [htold.eq]
    exact hcmds
  · rw [htold.eq]
    exact hdeclared
  · rw [htold.eq]
    exact hlossAdopt
  · have hkreg : u.kreg 0x220 = s.kreg 0x220 := by rw [hcaps]; rfl
    rw [htold.regs _ (by decide), kreg_setKreg_self _ (lt_trans (Nat.mod_lt _ (by decide)) (by decide)), hkreg]
  · rw [htold.eq]
    exact hbyte a ha

section
variable {s : State} {n : Fin 4} {p : LossPub} (hturn : s.lossAdopt.find? (fun q => q.next == n.val) = some p)
  (hdone : ∀ c ∈ s.cmds, c.2.slice = n.val → c.2.phase = .done)

/-- A slice that has adopted a map. -/
def mapTaken (map : Nat) (l : Slice) : Slice := { l with loss := map }

def adopted (s : State) (n map : Nat) : State := s.modSlice n (mapTaken map)

include hturn hdone

/-- With no running command the slice takes the map, and only that. -/
theorem exec_lossStateAdopt : exec (.lossStateAdopt n) s =
    if n.val < 3 then .next { adopted s n.val p.map with lossAdopt := s.lossAdopt.map (fun q => if q == p then { q with next := q.next + 1 } else q) }
    else .next (({ adopted s n.val p.map with lossAdopt := s.lossAdopt.erase p } : State).lossShown p) := by
  have hquiet : ∀ c ∈ s.cmds, (c.2.slice == n.val && !c.2.ended) = false := fun c hc => by
    by_cases hslice : c.2.slice = n.val
    · simp [Cmd.ended, hdone c hc hslice]
    · simp [hslice]
  have hmap : ∀ f : Nat × Cmd → Cmd, s.cmds.map (fun c => (c.1, if c.2.slice == n.val && !c.2.ended then f c else c.2)) = s.cmds := fun f => by
    refine (List.map_congr_left fun c hc => ?_).trans (List.map_id s.cmds)
    rw [hquiet c hc]
    rfl
  have hnone : s.cmds.filter (fun c => c.2.slice == n.val && !c.2.ended) = [] :=
    List.filter_eq_nil_iff.mpr fun c hc => by rw [hquiet c hc]; decide
  have hcmds : (s.modSlice n.val (fun l => { l with loss := p.map })).cmds = s.cmds := rfl
  rw [show exec (.lossStateAdopt n) s = execLossStateAdopt n s from rfl, execLossStateAdopt, hturn]
  dsimp only
  rw [hcmds, hmap, hnone]
  rfl

end

theorem lossStatesAreAdopted : Sys2Proof.Claims.LossStatesAreAdopted := by
  intro s n p hlen hturn hdone
  have hexec := exec_lossStateAdopt hturn hdone
  have hslc : ∀ m, (adopted s n.val p.map).slc m = if m = n.val then mapTaken p.map (s.slc n.val) else s.slc m :=
    fun m => slc_modSlice s n.val m _ (by rw [hlen]; exact n.isLt)
  by_cases hn : n.val < 3
  · rw [if_pos hn] at hexec
    refine completes_of_exec hexec ⟨?_, fun m hm => ?_, rfl, rfl, fun _ => ⟨rfl, rfl, ?_⟩, fun h => absurd h (by omega)⟩
    · exact congrArg Slice.loss ((hslc n.val).trans (if_pos rfl))
    · exact (hslc m).trans (if_neg hm)
    · refine List.mem_map.mpr ⟨p, List.mem_of_find?_eq_some hturn, ?_⟩
      rw [if_pos (beq_self_eq_true p)]
  · rw [if_neg hn] at hexec
    obtain ⟨hvisible, hslices, hcmds, hdeclared, hadopt, hseq, hbyte⟩ :=
      lossShown_spec { adopted s n.val p.map with lossAdopt := s.lossAdopt.erase p } p
    refine completes_of_exec hexec ?_
    generalize State.lossShown { adopted s n.val p.map with lossAdopt := s.lossAdopt.erase p } p = t at *
    have hslct : ∀ m, t.slc m = (adopted s n.val p.map).slc m := fun m => by
      rw [State.slc, hslices]
      rfl
    refine ⟨?_, fun m hm => ?_, hcmds, hdeclared, fun h => absurd h hn, fun _ => ⟨hvisible, hadopt, hseq, fun _ => hbyte⟩⟩
    · exact (congrArg Slice.loss (hslct n.val)).trans (congrArg Slice.loss ((hslc n.val).trans (if_pos rfl)))
    · exact (hslct m).trans ((hslc m).trans (if_neg hm))

/-- Settles O46: what a publication leaves alone, through `Declares`, and the slices' turns. -/
theorem presenceIsTrackedAndPublished : Obligations.PresenceIsTrackedAndPublished := ⟨presenceFollowsBeacons, lossStatesAreAdopted⟩

end Sys2Proof.Proofs.Presence
end

section
/-! Frames in and out of the optical ports (O47). -/

namespace Sys2Proof.Proofs.Frames

open Sys2Proof Sys2Proof.Machine Sys2Proof.Claims Sys2Proof.Laws Sys2Proof.Proofs.Basic Sys2Proof.Proofs.Layer Sys2Proof.Proofs.Resets
open Sys2Proof.Proofs.OpticControl

/-! Words of a frame's header. -/

/-- A field of two bytes, of which the lower one is the field of one. -/
theorem field_two (f : List Byte) (o : Nat) : field f o 2 = field f o 1 + 256 * field f (o + 1) 1 := by
  have hdrop : f.drop (o + 1) = (f.drop o).drop 1 := (List.drop_drop ..).symm
  rw [field, field, field, slice, slice, slice, hdrop]
  match f.drop o with
  | [] => rfl
  | [_] => rfl
  | _ :: _ :: _ => rfl

theorem class_of_word (f : List Byte) : field f 2 2 % 16 = field f 2 1 % 16 := by
  rw [field_two]
  omega

/-! What frames change. -/

/-- Nothing but the ports and what has left differs. -/
def PortsAndOut (s t : State) : Prop := t = { s with optics := t.optics, out := t.out }

theorem PortsAndOut.refl (s : State) : PortsAndOut s s := rfl

theorem PortsAndOut.trans {s t u : State} (h1 : PortsAndOut s t) (h2 : PortsAndOut t u) : PortsAndOut s u := by
  rw [PortsAndOut] at h1 h2 ⊢
  rw [h2, h1]

theorem modOptic_portsAndOut (s : State) (p : Nat) (f : OptPort → OptPort) : PortsAndOut s (s.modOptic p f) := rfl

theorem send_portsAndOut (s : State) (m : Msg) : PortsAndOut s (s.send m) := rfl

theorem sendFrame_portsAndOut (s : State) (p : Nat) (f : Frame) : PortsAndOut s (s.sendFrame p f) := by
  unfold State.sendFrame
  dsimp only
  split
  · exact (modOptic_portsAndOut ..).trans (send_portsAndOut ..)
  · exact modOptic_portsAndOut ..

/-! The firewall's tests do not depend on the counts of a port. -/

theorem passes_sameSeen {s t : State} (h : SameSeen s t) (p : Nat) (f : List Byte) : t.passes p f = s.passes p f := by
  have hadmits : ∀ c e, t.admits p c e = s.admits p c e := fun c e => by
    rw [State.admits, State.admits, h.kreg, h.kreg, h.self]
  simp only [State.passes, hadmits, h.kreg, h.self, h.tracked, h.routeEntry]

/-! Frames in. -/

section
variable {s : State} {p : Nat} {f : List Byte}

/-- A port that has taken the expected frame. -/
def taken (due : Bool) (o : OptPort) : OptPort :=
  { o with rxSeq := (o.rxSeq + 1) % 65536, unacked := if due then 0 else o.unacked + 1, nakGap := o.nakGap + 1 }

/-- Whether a frame's acknowledgement is due (R329). -/
def ackDue (s : State) (p : Nat) : Bool := decide (32 ≤ (s.optic p).unacked + 1)

/-- The state in which the expected frame was taken, with its acknowledgement if one is due. -/
def received (s : State) (p : Nat) : State :=
  if ackDue s p then (s.modOptic p (taken (ackDue s p))).frameCtl p false (((s.optic p).rxSeq + 1) % 65536) else s.modOptic p (taken (ackDue s p))

theorem received_sameSeen (s : State) (p : Nat) : SameSeen s (received s p) := by
  unfold received
  split
  · refine (modOptic_sameSeen s p ?_).trans (send_sameSeen ..)
    exact fun _ => rfl
  · exact modOptic_sameSeen s p fun _ => rfl

theorem received_portsAndOut (s : State) (p : Nat) : PortsAndOut s (received s p) := by
  unfold received
  split
  · exact (modOptic_portsAndOut ..).trans (send_portsAndOut ..)
  · exact modOptic_portsAndOut ..

theorem received_ports (s : State) (p : Nat) : (received s p).optics = (s.modOptic p (taken (ackDue s p))).optics := by
  unfold received
  split
  · rfl
  · rfl

theorem received_out (s : State) (p : Nat) : ∃ acks, (received s p).out = s.out ++ acks := by
  unfold received
  split
  · exact ⟨_, rfl⟩
  · exact ⟨[], (List.append_nil _).symm⟩

theorem optic_received (s : State) (p : Nat) : (received s p).optic p = taken (ackDue s p) (s.optic p) := by
  rw [optic_congr (received_ports s p), optic_modOptic_self]

/-- What a port keeps of frames of its own, when it takes one. -/
theorem replay_received (s : State) (p q : Nat) : ((received s p).optic q).replay = (s.optic q).replay ∧
    ((received s p).optic q).txSeq = (s.optic q).txSeq := by
  rw [optic_congr (received_ports s p)]
  by_cases hq : q = p
  · rw [hq, optic_modOptic_self]
    exact ⟨rfl, rfl⟩
  · rw [optic_modOptic_other _ _ hq]
    exact ⟨rfl, rfl⟩

variable (hatt : s.attached p = true) (hlen : f.length = 256)
include hatt hlen

theorem frameReceive_expected (hcrc : crc32c (f.take 252) = field f 252 4) (hctl : field f 2 1 % 16 ≠ 15) (hseq : field f 4 2 = (s.optic p).rxSeq) :
    s.frameReceive p f = (received s p).frameIn p f := by
  have hgo : ¬ (!s.attached p || f.length != 256) = true := by simp [hatt, hlen]
  rw [State.frameReceive, if_neg hgo, if_neg (not_not.mpr hcrc), if_neg hctl, if_neg (not_not.mpr hseq)]
  rfl

theorem frameReceive_unexpected (h : crc32c (f.take 252) ≠ field f 252 4 ∨ (field f 2 1 % 16 ≠ 15 ∧ field f 4 2 ≠ (s.optic p).rxSeq)) :
    s.frameReceive p f = s.frameNak p := by
  have hgo : ¬ (!s.attached p || f.length != 256) = true := by simp [hatt, hlen]
  rw [State.frameReceive, if_neg hgo]
  by_cases hcrc : crc32c (f.take 252) = field f 252 4
  · obtain ⟨hctl, hseq⟩ := h.resolve_left (not_not.mpr hcrc)
    rw [if_neg (not_not.mpr hcrc), if_neg hctl, if_pos hseq]
  · rw [if_pos hcrc]

theorem frameReceive_control (hcrc : crc32c (f.take 252) = field f 252 4) (hctl : field f 2 1 % 16 = 15) :
    s.frameReceive p f = if s.passes p f then s.frameControl p (bitAt (field f 10 1) 0) (field f 8 2) else s.deny p := by
  have hgo : ¬ (!s.attached p || f.length != 256) = true := by simp [hatt, hlen]
  rw [State.frameReceive, if_neg hgo, if_neg (not_not.mpr hcrc), if_pos hctl]

end

/-- A naked frame leaves what is expected, and at most a nak leaves. -/
theorem frameNak_spec (s : State) (p : Nat) : ((s.frameNak p).optic p).rxSeq = (s.optic p).rxSeq ∧ PortsAndOut s (s.frameNak p) ∧
    ((s.frameNak p).out = s.out ∨ (s.frameNak p).out = s.out ++ [.frame p (stampFrame (frameOf ((s.optic p).partner.getD 0xFF) s.self 0xF 3 0
      (natLE 2 (s.optic p).rxSeq ++ [1])) 0)]) := by
  unfold State.frameNak
  dsimp only
  split
  · rw [State.frameCtl, optic_congr (send_optics ..), optic_modOptic_self]
    exact ⟨rfl, rfl, .inr rfl⟩
  · rw [optic_modOptic_self]
    exact ⟨rfl, rfl, .inl rfl⟩

/-! Acknowledgements and naks. -/

section
variable {s : State} {p next : Nat} {rest : List (Nat × Frame × Nat)}

/-- A port whose replay buffer keeps `rest`, of which `again` frames were sent again. -/
def acked (rest : List (Nat × Frame × Nat)) (again : Nat) (o : OptPort) : OptPort :=
  { o with replay := rest, retry := satTo 65535 (o.retry + again) }

/-- A frame sent once more. -/
def sentAgain (x : Nat × Frame × Nat) : Nat × Frame × Nat := (x.1, x.2.1, x.2.2 + 1)

theorem foldl_sendAll {α : Type} (l : List α) (f : α → Msg) (s : State) :
    l.foldl (fun acc x => acc.send (f x)) s = { s with out := s.out ++ l.map f } := by
  induction l generalizing s with
  | nil => simp
  | cons x r ih =>
    rw [List.foldl_cons, ih]
    simp [State.send]

theorem frameControl_stale {nak : Bool} (h : ackedBefore next (s.optic p).txSeq (s.optic p).replay = none) : s.frameControl p nak next = s := by
  rw [State.frameControl, h]

theorem frameControl_ack (h : ackedBefore next (s.optic p).txSeq (s.optic p).replay = some rest) (hwait : (s.optic p).waiting = []) :
    ((s.frameControl p false next).optic p).replay = rest ∧ (s.frameControl p false next).out = s.out ∧
    s.frameControl p false next = { s with optics := (s.frameControl p false next).optics } := by
  have heq : s.frameControl p false next = s.modOptic p (acked rest 0) := by
    have hnone : ((s.modOptic p (acked rest 0)).optic p).waiting = [] := by
      rw [optic_modOptic_self]
      exact hwait
    rw [State.frameControl, h]
    show (s.modOptic p (acked rest 0)).sendWaiting p ((s.modOptic p (acked rest 0)).optic p).waiting.length = _
    rw [hnone]
    rfl
  rw [heq, optic_modOptic_self]
  exact ⟨rfl, rfl, rfl⟩

theorem frameControl_nak (h : ackedBefore next (s.optic p).txSeq (s.optic p).replay = some rest) (hwait : (s.optic p).waiting = [])
    (hfew : ∀ x ∈ rest, x.2.2 < 16) :
    ((s.frameControl p true next).optic p).replay = rest.map (fun x => (x.1, x.2.1, x.2.2 + 1)) ∧
    (s.frameControl p true next).out = s.out ++ rest.map (fun x => x.2.1.msg p x.1) ∧ PortsAndOut s (s.frameControl p true next) := by
  have hany : rest.any (fun x => decide (16 ≤ x.2.2)) = false :=
    List.any_eq_false.mpr fun x hx => by simpa using hfew x hx
  have heq : s.frameControl p true next =
      { s.modOptic p (acked (rest.map sentAgain) rest.length) with out := s.out ++ rest.map (fun x => x.2.1.msg p x.1) } := by
    have hnone : ((s.modOptic p (acked (rest.map sentAgain) rest.length)).optic p).waiting = [] := by
      rw [optic_modOptic_self]
      exact hwait
    rw [State.frameControl, h]
    show (if (true && rest.any (fun x => decide (16 ≤ x.2.2))) = true then _
      else (rest.foldl (fun acc x => acc.send (x.2.1.msg p x.1)) (s.modOptic p (acked (rest.map sentAgain) rest.length))).sendWaiting p
        ((s.modOptic p (acked (rest.map sentAgain) rest.length)).optic p).waiting.length) = _
    rw [hany, hnone, foldl_sendAll]
    rfl
  rw [heq]
  exact ⟨congrArg OptPort.replay (optic_modOptic_self ..), rfl, rfl⟩

/-! The claim. -/

end

section
variable {s : State} {p : Fin 6} {f : List Byte} (hatt : s.attached p.val = true) (hlen : f.length = 256)
include hatt hlen

theorem frame_taken (hcrc : crc32c (f.take 252) = field f 252 4) (hseq : field f 4 2 = (s.optic p.val).rxSeq) (hlow : 1 ≤ field f 2 2 % 16)
    (hhigh : field f 2 2 % 16 ≤ 8) (hself : field f 0 1 = s.self) (hadmits : s.admits p.val (field f 2 2 % 16) (field f 1 1) = true)
    (htracked : s.tracked (field f 1 1) = true) : Completes (.frameReceive p f) s (fun t =>
      (t.optic p.val).rxSeq = ((s.optic p.val).rxSeq + 1) % 65536 ∧
      (∃ acks, t.out = s.out ++ acks ++ [.payload (16 + p.val) ((f.drop 8).take (field f 2 2 / 16 % 256))]) ∧
      t = { s with optics := t.optics, out := t.out }) := by
  have hctl : field f 2 1 % 16 ≠ 15 := by
    rw [← class_of_word]
    omega
  have hseen := received_sameSeen s p.val
  have hpasses : (received s p.val).passes p.val f = true := by
    rw [passes_sameSeen hseen, State.passes, hadmits, if_neg (by omega), if_pos hself, htracked]
    rfl
  have hin : (received s p.val).frameIn p.val f =
      (received s p.val).send (.payload (16 + p.val) ((f.drop 8).take (field f 2 2 / 16 % 256))) := by
    have hno : ¬ (!(received s p.val).passes p.val f) = true := by simp [hpasses]
    rw [State.frameIn, if_neg hno, if_neg (by omega), if_pos (by rw [hseen.self]; exact hself), if_neg (by omega)]
  have hexec : exec (.frameReceive p f) s = .next (s.frameReceive p.val f) := rfl
  rw [frameReceive_expected hatt hlen hcrc hctl hseq, hin] at hexec
  obtain ⟨acks, hout⟩ := received_out s p.val
  have hport := optic_received s p.val
  have honly := received_portsAndOut s p.val
  refine completes_of_exec hexec ?_
  generalize received s p.val = u at *
  exact ⟨congrArg OptPort.rxSeq hport, ⟨acks, congrArg (· ++ _) hout⟩, honly.trans (send_portsAndOut ..)⟩

theorem frame_forwarded {q : Nat} (hcrc : crc32c (f.take 252) = field f 252 4) (hseq : field f 4 2 = (s.optic p.val).rxSeq)
    (hlow : 1 ≤ field f 2 2 % 16) (hctl : field f 2 1 % 16 ≠ 15) (hother : field f 0 1 ≠ s.self) (hpasses : s.passes p.val f = true)
    (hroute : s.routePort (field f 0 1) = some q) (hroom : (s.optic q).replay.length < 640) : Completes (.frameReceive p f) s (fun t =>
      (t.optic p.val).rxSeq = ((s.optic p.val).rxSeq + 1) % 65536 ∧
      (∃ acks, t.out = s.out ++ acks ++ [.frame q (stampFrame (f.take 2 ++ natLE 2 (field f 2 2 + 4096) ++ f.drop 4) (s.optic q).txSeq)]) ∧
      t = { s with optics := t.optics, out := t.out }) := by
  have hseen := received_sameSeen s p.val
  obtain ⟨hreplay, htx⟩ := replay_received s p.val q
  have hin : (received s p.val).frameIn p.val f =
      (received s p.val).sendFrame q (.bytes (f.take 2 ++ natLE 2 (field f 2 2 + 4096) ++ f.drop 4)) := by
    have hno : ¬ (!(received s p.val).passes p.val f) = true := by simp [passes_sameSeen hseen, hpasses]
    rw [State.frameIn, if_neg hno, if_neg (by omega), if_neg (by rw [hseen.self]; exact hother), hseen.routePort, hroute]
  have hexec : exec (.frameReceive p f) s = .next (s.frameReceive p.val f) := rfl
  rw [frameReceive_expected hatt hlen hcrc hctl hseq, hin, sendFrame_room (by rw [hreplay]; exact hroom), htx] at hexec
  obtain ⟨acks, hout⟩ := received_out s p.val
  have hport := optic_received s p.val
  have honly := received_portsAndOut s p.val
  refine completes_of_exec hexec ?_
  generalize received s p.val = u at *
  refine ⟨?_, ⟨acks, congrArg (· ++ _) hout⟩, honly.trans ((modOptic_portsAndOut ..).trans (send_portsAndOut ..))⟩
  rw [optic_congr (send_optics ..)]
  by_cases hp : p.val = q
  · rw [← hp, optic_modOptic_self]
    exact congrArg OptPort.rxSeq hport
  · rw [optic_modOptic_other _ _ hp]
    exact congrArg OptPort.rxSeq hport

theorem frame_refused (h : crc32c (f.take 252) ≠ field f 252 4 ∨ (field f 2 1 % 16 ≠ 15 ∧ field f 4 2 ≠ (s.optic p.val).rxSeq)) :
    Completes (.frameReceive p f) s (fun t =>
      (t.optic p.val).rxSeq = (s.optic p.val).rxSeq ∧ t = { s with optics := t.optics, out := t.out } ∧
      (t.out = s.out ∨ t.out = s.out ++ [.frame p.val (stampFrame (frameOf ((s.optic p.val).partner.getD 0xFF) s.self 0xF 3 0
        (natLE 2 (s.optic p.val).rxSeq ++ [1])) 0)])) := by
  have hexec : exec (.frameReceive p f) s = .next (s.frameReceive p.val f) := rfl
  rw [frameReceive_unexpected hatt hlen h] at hexec
  exact completes_of_exec hexec (frameNak_spec s p.val)

theorem exec_linkControl {h b : List Byte} (hf : f = h ++ b) (hcrc : crc32c (f.take 252) = field f 252 4) (hctl : field f 2 1 % 16 = 15) :
    exec (.linkControlFrame p h b) s =
      .next (if s.passes p.val f then s.frameControl p.val (bitAt (field f 10 1) 0) (field f 8 2) else s.deny p.val) := by
  subst hf
  have hexec : exec (.linkControlFrame p h b) s = _ := if_pos ⟨hctl, hcrc⟩
  rw [hexec, frameReceive_control hatt hlen hcrc hctl]

end

theorem framesAreDelivered : Sys2Proof.Claims.FramesAreDelivered := by
  intro s p f hatt hlen
  refine ⟨frame_taken hatt hlen, fun q => frame_forwarded hatt hlen, frame_refused hatt hlen, fun h b hf hcrc hctl => ?_, fun h b hf hbad => ?_⟩
  · have hexec := exec_linkControl hatt hlen hf hcrc hctl
    refine ⟨fun hpasses => ⟨fun rest hacked hwait => ⟨fun hack => ?_, fun hnak hfew => ?_⟩, fun hstale => ?_⟩, fun hdenied => ?_⟩
    · rw [if_pos hpasses, hack] at hexec
      exact completes_of_exec hexec (frameControl_ack hacked hwait)
    · rw [if_pos hpasses, hnak] at hexec
      exact completes_of_exec hexec (frameControl_nak hacked hwait hfew)
    · rw [if_pos hpasses, frameControl_stale hstale] at hexec
      exact hexec
    · rw [if_neg (by rw [hdenied]; decide)] at hexec
      exact hexec
  · subst hf
    refine if_neg fun hgood => ?_
    obtain ⟨hctl, hcrc⟩ := hgood
    exact hbad.elim (fun hne => hne hcrc) (fun hne => hne hctl)

/-! Frames out. -/

section
variable {s : State} {e : Nat} {m : PeerMsg}

theorem toPeer_routed {q : Nat} (hpresent : presentIn s.self s.declared e = true) (hroute : s.routePort e = some q) :
    s.toPeer e m = s.sendFrame q (.peer e m) := by
  have hdst : (Frame.peer e m).dst = e := rfl
  rw [State.toPeer, if_pos hpresent, State.sendRouted, hdst, hroute]

theorem toPeer_unrouted (hroute : s.routePort e = none) : s.toPeer e m = s := by
  have hdst : (Frame.peer e m).dst = e := rfl
  rw [State.toPeer, State.sendRouted, hdst, hroute]
  exact ite_self s

theorem toPeer_room {q : Nat} (hpresent : presentIn s.self s.declared e = true) (hroute : s.routePort e = some q)
    (hroom : (s.optic q).replay.length < 640) : (s.toPeer e m).out = s.out ++ [.toPeer q (s.optic q).txSeq e m] ∧
      ((s.toPeer e m).optic q).replay = (s.optic q).replay ++ [((s.optic q).txSeq, .peer e m, 1)] ∧
      ((s.toPeer e m).optic q).txSeq = ((s.optic q).txSeq + 1) % 65536 ∧
      s.toPeer e m = { s with optics := (s.toPeer e m).optics, out := (s.toPeer e m).out } := by
  rw [toPeer_routed hpresent hroute, sendFrame_room hroom, optic_congr (send_optics ..), optic_modOptic_self]
  exact ⟨rfl, rfl, rfl, rfl⟩

theorem toPeer_full {q : Nat} (hpresent : presentIn s.self s.declared e = true) (hroute : s.routePort e = some q)
    (hfull : 640 ≤ (s.optic q).replay.length) : ((s.toPeer e m).optic q).waiting = (s.optic q).waiting ++ [.peer e m] ∧
      s.toPeer e m = { s with optics := (s.toPeer e m).optics } := by
  have hsent : s.sendFrame q (.peer e m) = s.modOptic q (fun o => { o with waiting := o.waiting ++ [.peer e m] }) := if_neg (by omega)
  rw [toPeer_routed hpresent hroute, hsent, optic_modOptic_self]
  exact ⟨rfl, rfl⟩

theorem ownTrafficIsRouted : Sys2Proof.Claims.OwnTrafficIsRouted := by
  intro s e m
  refine ⟨fun h => if_pos h, fun h1 h2 => ?_, fun h1 h2 => toPeer_unrouted ?_, fun h => ?_, fun q hpresent hroute =>
    ⟨toPeer_room hpresent hroute, toPeer_full hpresent hroute⟩⟩
  · rw [State.routePort, if_neg (by rw [h1]; decide), if_pos h2]
  · rw [State.routePort, if_neg (by rw [h1]; decide), if_neg (by rw [h2]; decide)]
  · exact if_neg (by rw [h]; decide)

/-- Settles O47: what a taken, refused or control frame leaves at its port, and the route of the engine's own. -/
theorem framesAreTaken : Obligations.FramesAreTaken := ⟨framesAreDelivered, ownTrafficIsRouted⟩

end

end Sys2Proof.Proofs.Frames
end

section
/-! Seals of training steps (O49). -/

namespace Sys2Proof.Proofs.Seals

open Sys2Proof Sys2Proof.Machine Sys2Proof.Claims Sys2Proof.Laws Sys2Proof.Proofs.Basic Sys2Proof.Proofs.Layer Sys2Proof.Proofs.Frames
open Sys2Proof.Proofs.Scatter

theorem toPeer_portsAndOut (s : State) (e : Nat) (m : PeerMsg) : PortsAndOut s (s.toPeer e m) := by
  rw [PortsAndOut, state_eq_iff]
  simp

theorem foldl_toPeer_portsAndOut {α : Type} (l : List α) (e : α → Nat) (m : α → PeerMsg) (s : State) :
    PortsAndOut s (l.foldl (fun acc x => acc.toPeer (e x) (m x)) s) :=
  foldl_rel PortsAndOut .refl .trans (fun acc x => acc.toPeer (e x) (m x)) (fun s x => toPeer_portsAndOut s (e x) (m x)) l s

section
variable {s : State} {h : Nat} {c : Cmd} {t : Table}

/-- A step lacks a seal while an expected engine has neither sealed it nor been lost. -/
theorem sealed_of_missing {e : Nat} (he : e ∈ peersOf c.image) (hkept : e ∉ c.lost) (hpresent : presentIn s.self (s.slc c.slice).loss e = true)
    (hseal : (e, t.step) ∉ t.seals) (hdropped : (e, t.step) ∉ t.dropped) : s.sealed c t = false := by
  have hmissing : (t.seals.contains (e, t.step) || s.unsealed c t e) = false := by
    simp [State.unsealed, hseal, hdropped, hkept, hpresent]
  rw [State.sealed, Bool.and_eq_false_iff]
  exact .inr (List.all_eq_false.mpr ⟨e, he, by rw [hmissing]; decide⟩)

/-- A command whose step lacks a seal applies nothing. -/
theorem applyTry_unsealed (hcmd : Tab.get? s.cmds h = some c) (htable : Tab.get? s.tables c.table = some t) (hseal : s.sealed c t = false) :
    s.applyTry h = s := by
  unfold State.applyTry
  split
  · rfl
  · rename_i c' hrun
    obtain ⟨hcmd', -⟩ := running_eq_some hrun
    obtain rfl := Option.some.inj (hcmd.symm.trans hcmd')
    split
    · rfl
    · rename_i t' y hview
      obtain ⟨htable', -⟩ := table_of_viewOf hview
      obtain rfl := Option.some.inj (htable.symm.trans htable')
      exact if_pos (.inr (.inl (by rw [hseal]; rfl)))

/-- A table that holds one more seal. -/
def held (src : Nat) (step : Word) (t : Table) : Table := { t with seals := t.seals ++ [(src, step)] }

/-- A command that waits for the seals of others. -/
def waiting (c : Cmd) : Cmd := { c with phase := .stage 1 }

/-- The command waits with its own seal held. -/
def sealHeld (s : State) (h : Nat) (c : Cmd) (src : Nat) (step : Word) : State := (s.modTable c.table (held src step)).modCmd h waiting

/-- With another seal missing that is all. -/
theorem sealHeld_spec {v : State} {src : Nat} {step : Word} (hsent : PortsAndOut s v) (hcmd : Tab.get? s.cmds h = some c)
    (htable : Tab.get? s.tables c.table = some t) {e : Nat} (he : e ∈ peersOf c.image) (hother : e ≠ src) (hkept : e ∉ c.lost)
    (hpresent : presentIn s.self (s.slc c.slice).loss e = true) (hseal : (e, t.step) ∉ t.seals) (hdropped : (e, t.step) ∉ t.dropped) :
    (sealHeld v h c src step).applyTry h = sealHeld v h c src step ∧ Tab.get? (sealHeld v h c src step).tables c.table = some (held src step t) ∧
    Tab.get? (sealHeld v h c src step).cmds h = some (waiting c) := by
  have hcmd' : Tab.get? (sealHeld v h c src step).cmds h = some (waiting c) := by
    refine get?_modCmd_self waiting ?_
    rw [hsent]
    exact hcmd
  have htable' : Tab.get? (sealHeld v h c src step).tables c.table = some (held src step t) := by
    have htables : v.tables = s.tables := by rw [hsent]
    have hmod : (sealHeld v h c src step).tables = Tab.modify s.tables c.table (held src step) := by
      rw [← htables]
      rfl
    rw [hmod, tab_get?_modify, if_pos rfl, htable]
    rfl
  have hmissing : (sealHeld v h c src step).sealed (waiting c) (held src step t) = false := by
    refine sealed_of_missing he hkept ?_ ?_ hdropped
    · have hslices : v.slices = s.slices := by rw [hsent]
      have hself : v.self = s.self := by rw [hsent]; rfl
      show presentIn v.self (v.slc c.slice).loss e = true
      rw [State.slc, hslices, hself]
      exact hpresent
    · simp only [held, List.mem_append, List.mem_singleton, Prod.mk.injEq]
      exact fun hmem => hmem.elim hseal (fun heq => hother heq.1)
  exact ⟨applyTry_unsealed hcmd' htable' hmissing, htable', hcmd'⟩

/-- The state in which a step is sealed to the peers. -/
def sealSent (s : State) (c : Cmd) (step : Word) : State := (peersOf c.image).foldl (fun acc e => acc.toPeer e (.seal c.table step)) s

theorem sealSend_waits (htable : Tab.get? s.tables c.table = some t) (hrun : s.running h 5 = some c) (hready : c.phase = .ready)
    (hquiet : ∀ p ∈ s.cmds, p.2.opcode = 4 → p.2.table = c.table → p.2.fld 0x10 8 = c.fld 0x10 8 → p.2.phase = .done)
    {e : Nat} (he : e ∈ peersOf c.image) (hother : e ≠ s.self) (hkept : e ∉ c.lost) (hpresent : presentIn s.self (s.slc c.slice).loss e = true)
    (hseal : (e, t.step) ∉ t.seals) (hdropped : (e, t.step) ∉ t.dropped) :
    Completes (.sealSend h) s (fun u =>
      Tab.get? u.tables c.table = some { t with seals := t.seals ++ [(s.self, BitVec.ofNat 64 (c.fld 0x10 8))] } ∧
      Tab.get? u.cmds h = some { c with phase := .stage 1 } ∧
      u = { (peersOf c.image).foldl (fun acc e => acc.toPeer e (.seal c.table (BitVec.ofNat 64 (c.fld 0x10 8)))) s with
        tables := u.tables, cmds := u.cmds }) := by
  have hbusy : s.cmds.any (fun p => p.2.opcode == 4 && !p.2.ended && p.2.table == c.table && p.2.fld 0x10 8 == c.fld 0x10 8) = false := by
    refine List.any_eq_false.mpr fun p hp hbusy => ?_
    simp only [Bool.and_eq_true, beq_iff_eq, Bool.not_eq_true'] at hbusy
    obtain ⟨⟨⟨hop, hend⟩, htab⟩, hstep⟩ := hbusy
    rw [Cmd.ended, hquiet p hp hop htab hstep] at hend
    exact absurd hend (by decide)
  have hexec : exec (.sealSend h) s =
      .next ((sealHeld (sealSent s c (BitVec.ofNat 64 (c.fld 0x10 8))) h c s.self (BitVec.ofNat 64 (c.fld 0x10 8))).applyTry h) := by
    have hgo : ¬ (c.phase ≠ .ready ∨
        s.cmds.any (fun p => p.2.opcode == 4 && !p.2.ended && p.2.table == c.table && p.2.fld 0x10 8 == c.fld 0x10 8) = true) := by
      simp [hready, hbusy]
    rw [show exec (.sealSend h) s = execSealSend h s from rfl, execSealSend, hrun]
    exact if_neg hgo
  have hsent : PortsAndOut s (sealSent s c (BitVec.ofNat 64 (c.fld 0x10 8))) := foldl_toPeer_portsAndOut (peersOf c.image) id _ s
  obtain ⟨hcmd, -⟩ := running_eq_some hrun
  obtain ⟨hstill, htable', hcmd'⟩ := sealHeld_spec (step := BitVec.ofNat 64 (c.fld 0x10 8)) hsent hcmd htable he hother hkept hpresent hseal hdropped
  rw [hstill] at hexec
  refine completes_of_exec hexec ?_
  have hfold : (peersOf c.image).foldl (fun acc e => acc.toPeer e (.seal c.table (BitVec.ofNat 64 (c.fld 0x10 8)))) s =
      sealSent s c (BitVec.ofNat 64 (c.fld 0x10 8)) := rfl
  rw [hfold]
  generalize sealSent s c (BitVec.ofNat 64 (c.fld 0x10 8)) = v at *
  exact ⟨htable', hcmd', rfl⟩

theorem sealArrival_held {src : Nat} {step : Word} {table : Nat} (htable : Tab.get? s.tables table = some t)
    (hpresent : presentIn s.self s.declared src = true)
    (hquiet : ∀ p ∈ s.cmds, p.2.opcode = 5 → p.2.table = table → p.2.phase = .done) : Completes (.sealArrival src table step) s (fun u =>
      Tab.get? u.tables table = some { t with seals := t.seals ++ [(src, step)] } ∧ u = { s with tables := u.tables }) := by
  have hnone : s.cmds.find? (fun p => p.2.opcode == 5 && p.2.table == table && !p.2.ended) = none := by
    refine List.find?_eq_none.mpr fun p hp hbusy => ?_
    simp only [Bool.and_eq_true, beq_iff_eq, Bool.not_eq_true'] at hbusy
    obtain ⟨⟨hop, htab⟩, hend⟩ := hbusy
    rw [Cmd.ended, hquiet p hp hop htab] at hend
    exact absurd hend (by decide)
  have hexec : exec (.sealArrival src table step) s = .next (s.modTable table (held src step)) := by
    have hcmds : (s.modTable table (fun t => { t with seals := t.seals ++ [(src, step)] })).cmds = s.cmds := rfl
    rw [show exec (.sealArrival src table step) s = execSealArrival src table step s from rfl, execSealArrival, hpresent]
    dsimp only
    rw [hcmds, hnone]
    rfl
  refine completes_of_exec hexec ⟨?_, rfl⟩
  refine (tab_get?_modify ..).trans ?_
  rw [if_pos rfl, htable]
  rfl

theorem sealTimeout_ends (htable : Tab.get? s.tables c.table = some t) (hcmd : Tab.get? s.cmds h = some c) (hop : c.opcode = 5)
    (hphase : c.phase = .ready ∨ c.phase = .stage 1) (hseal : s.sealed c t = false) (hlimit : c.fld 0xC 4 ≠ 0)
    (hdue : c.tick + c.fld 0xC 4 ≤ (s.slc c.slice).tick) : Completes (.sealTimeout h) s (fun u => u.dev = s.dev ∧ u.tables = s.tables ∧
      ∃ d, Done u h d ∧ d.status = 0x14 ∧ d.detail = 0) := by
  have hgo : (c.opcode == 5 && (c.phase == .ready || c.phase == .stage 1) && !s.sealed c t && c.fld 0xC 4 != 0 &&
      decide (c.tick + c.fld 0xC 4 ≤ (s.slc c.slice).tick)) = true := by
    simp [hop, hphase, hseal, hlimit, hdue]
  have hexec : exec (.sealTimeout h) s = .next ((s.endWith h 0x14 0).release (.cmd h)) := by
    rw [show exec (.sealTimeout h) s = execSealTimeout h s from rfl, execSealTimeout, hcmd]
    dsimp only
    rw [htable]
    exact if_pos hgo
  exact completes_of_exec hexec ⟨rfl, rfl, _, done_endCmd_release _ _ hcmd, rfl, rfl⟩

end

/-- Settles O49: an engine whose seal is missing holds the step back, in the send as in the timeout. -/
theorem sealsAreHeld : Obligations.SealsAreHeld := by
  unfold Obligations.SealsAreHeld
  intro s h c t htable
  refine ⟨fun hrun hready hquiet ⟨e, he, hother, hkept, hpresent, hseal, hdropped⟩ =>
    sealSend_waits htable hrun hready hquiet he hother hkept hpresent hseal hdropped, fun _ _ => sealArrival_held htable, sealTimeout_ends htable⟩

end Sys2Proof.Proofs.Seals
end

section
/-! Bias requests (O41). -/

namespace Sys2Proof.Proofs.BiasFlips

open Sys2Proof Sys2Proof.Machine Sys2Proof.Claims Sys2Proof.Laws Sys2Proof.Proofs.Basic Sys2Proof.Proofs.Layer Sys2Proof.Proofs.BitFields
open Sys2Proof.Proofs.Fences Sys2Proof.Proofs.Skew

/-! Numbers in memory. -/

theorem leNat_lt (l : List Byte) : leNat l < 256 ^ l.length := by
  induction l with
  | nil => decide
  | cons b r ih =>
    have hb := b.isLt
    rw [leNat, List.length_cons, pow_succ]
    omega

theorem biasEntry_lt (s : State) (p : Nat) : s.biasEntry p < 2 ^ 32 := by
  have h := leNat_lt (s.dev.bytes (Config.biasBase + 4 * p) 4)
  rw [show (s.dev.bytes (Config.biasBase + 4 * p) 4).length = 4 by simp [Mem.bytes]] at h
  exact h

/-! The status register. -/

theorem biasStatus_bits (s : State) {result flipped : Nat} (hr : result < 4) (hf : flipped < 8192) :
    bits ((s.biasStatus result flipped).kreg 0x108) 33 32 = result ∧ bits ((s.biasStatus result flipped).kreg 0x108) 12 0 = flipped := by
  have hword : ∀ o : Nat, o = 2 ^ 62 ∨ o = 0 → bits (flipped % 8192 + result * 2 ^ 32 + o) 33 32 = result ∧
      bits (flipped % 8192 + result * 2 ^ 32 + o) 12 0 = flipped ∧ flipped % 8192 + result * 2 ^ 32 + o < 2 ^ 64 := fun o ho => by
    rw [bits, bits]
    norm_num
    rcases ho with rfl | rfl
    · omega
    · omega
  have hover : (if bitAt (s.kreg 0x108) 62 = true then 2 ^ 62 else 0) = 2 ^ 62 ∨ (if bitAt (s.kreg 0x108) 62 = true then 2 ^ 62 else 0) = 0 :=
    (ite_eq_or_eq ..)
  obtain ⟨hres, hcount, hlt⟩ := hword _ hover
  rw [State.biasStatus, kreg_setKreg_self s hlt]
  exact ⟨hres, hcount⟩

/-! Pages. -/

/-- The entry that a request gives a page. -/
def flipped (b : BiasReq) (e : Nat) : Nat :=
  if b.toDevice then biasOwned e b else putBit (putBit (putBit e 0 false) 2 false) 31 false

theorem flipped_toDevice {b : BiasReq} (h : b.toDevice = true) (e : Nat) : flipped b e = biasOwned e b := if_pos h

theorem flipped_lt {e : Nat} (h : e < 2 ^ 32) (b : BiasReq) : flipped b e < 2 ^ 32 := by
  unfold flipped biasOwned
  split
  · dsimp only
    split
    · exact putBit_lt (putBits_lt (putBit_lt (putBit_lt h (by decide) _) (by decide) _) (by decide) _) (by decide) _
    · exact putBit_lt (putBit_lt (putBit_lt h (by decide) _) (by decide) _) (by decide) _
  · exact putBit_lt (putBit_lt (putBit_lt h (by decide) _) (by decide) _) (by decide) _

/-- What the entry of a page that came to device bias says. -/
theorem biasOwned_spec (e : Nat) (b : BiasReq) : bitAt (biasOwned e b) 0 = true ∧ bitAt (biasOwned e b) 31 = b.own ∧
    (b.own = true → bits (biasOwned e b) 27 16 = b.owner % 4096) := by
  unfold biasOwned
  dsimp only
  cases b.own with
  | true =>
    rw [if_pos rfl]
    refine ⟨?_, bitAt_putBit_self .., fun _ => ?_⟩
    · rw [bitAt_putBit_other _ _ (by decide), bitAt_putBits_of_off _ _ (by decide), bitAt_putBit_other _ _ (by decide), bitAt_putBit_self]
    · rw [bits_putBit_of_off _ _ (by decide), bits_putBits_self]
      norm_num
  | false =>
    rw [if_neg (by decide)]
    refine ⟨?_, bitAt_putBit_self .., fun h => absurd h (by decide)⟩
    rw [bitAt_putBit_other _ _ (by decide), bitAt_putBit_other _ _ (by decide), bitAt_putBit_self]

theorem biasEntry_setBias_self (s : State) (hs : s.inv) (p : Nat) {e : Nat} (he : e < 2 ^ 32) : (s.setBias p e).biasEntry p = e := by
  rw [State.biasEntry, State.setBias, num_devPut_self s hs]
  exact Nat.mod_eq_of_lt he

theorem biasEntry_setBias_other (s : State) {p q : Nat} (e : Nat) (h : q ≠ p) : (s.setBias p e).biasEntry q = s.biasEntry q := by
  rw [State.biasEntry, State.setBias, num_devPut_off _ _ _ _ _ (by rw [natLE_length]; omega)]
  rfl

theorem byte_setBias_of_off (s : State) (p e : Nat) {a : Nat} (h : off (Config.biasBase + 4 * p) 4 a) : (s.setBias p e).dev.byte a = s.dev.byte a :=
  byte_devPut_of_off s _ a _ (by rw [natLE_length]; exact h)

/-! A request that meets no host line. -/

/-- The request after its page. -/
def nextPage (b : BiasReq) : BiasReq := { b with page := b.page + 1, asked := 0, granted := 0 }

/-- The state after the request's page. -/
def pageFlipped (s : State) (b : BiasReq) : State :=
  ({ s.setBias b.page (flipped b (s.biasEntry b.page)) with biasReq := some (nextPage b) } : State).biasStatus 0 (b.page - b.first + 1)

section
variable {s : State} {b : BiasReq}

theorem biasGo_done (hreq : s.biasReq = some b) (hend : b.page - b.first = b.count) (fuel : Nat) :
    s.biasGo (fuel + 1) = ({ s with biasReq := none } : State).biasStatus 0 (b.page - b.first) := by
  rw [State.biasGo, hreq]
  exact if_pos hend

theorem biasGo_page (hreq : s.biasReq = some b) (hmore : b.page - b.first ≠ b.count) (hup : s.sliceUp 0 = true)
    (hready : b.toDevice = true → bitAt (s.biasEntry b.page) 0 = true) (fuel : Nat) : s.biasGo (fuel + 1) = (pageFlipped s b).biasGo fuel := by
  have hnow : ¬ (b.toDevice && !bitAt (s.biasEntry b.page) 0) = true := by
    cases hdev : b.toDevice with
    | false => simp
    | true => simp [hready hdev]
  rw [State.biasGo, hreq]
  dsimp only
  rw [if_neg hmore, hup, if_neg (by decide), if_neg hnow]
  have hset : (if b.toDevice = true then s.setBias b.page (biasOwned (s.biasEntry b.page) b) else s.pageToHost b.page) =
      s.setBias b.page (flipped b (s.biasEntry b.page)) := by
    unfold flipped
    split
    · rfl
    · rfl
  rw [hset]
  rfl

/-- The states a request leaves: `n` pages from its page on are flipped, and nothing else in memory. -/
structure Flips (s t : State) (b : BiasReq) (n : Nat) : Prop where
  entry : ∀ i, i < n → t.biasEntry (b.page + i) = flipped b (s.biasEntry (b.page + i))
  bytes : sameBytes (off (Config.biasBase + 4 * b.page) (4 * n)) s t
  count : bits (t.kreg 0x108) 12 0 = b.count
  result : bits (t.kreg 0x108) 33 32 = 0
  eq : t = { s with kpr := t.kpr, dev := t.dev, biasReq := none }

theorem pageFlipped_inv (hs : s.inv) (b : BiasReq) : (pageFlipped s b).inv := devPut_inv s _ _ hs

theorem biasGo_flips (n : Nat) : ∀ {s : State} {b : BiasReq} (fuel : Nat), s.inv → s.biasReq = some b → s.sliceUp 0 = true →
    b.first ≤ b.page → b.page - b.first + n = b.count → b.count < 8192 → (b.toDevice = true → ∀ i, i < n → bitAt (s.biasEntry (b.page + i)) 0 = true) →
    n ≤ fuel → Flips s (s.biasGo (fuel + 1)) b n := by
  induction n with
  | zero =>
    intro s b fuel hs hreq hup hfirst hend hcount hready hfuel
    rw [biasGo_done hreq (by omega)]
    obtain ⟨hres, hnum⟩ := biasStatus_bits { s with biasReq := none } (result := 0) (flipped := b.page - b.first) (by decide) (by omega)
    exact ⟨fun i hi => absurd hi (by omega), fun _ _ => rfl, hnum.trans (by omega), hres, rfl⟩
  | succ n ih =>
    intro s b fuel hs hreq hup hfirst hend hcount hready hfuel
    obtain ⟨k, rfl⟩ : ∃ k, fuel = k + 1 := ⟨fuel - 1, by omega⟩
    have hother : ∀ q, q ≠ b.page → (pageFlipped s b).biasEntry q = s.biasEntry q := fun q hq => biasEntry_setBias_other s _ hq
    have hown : (pageFlipped s b).biasEntry b.page = flipped b (s.biasEntry b.page) :=
      biasEntry_setBias_self s hs b.page (flipped_lt (biasEntry_lt s b.page) b)
    have hbyte : ∀ a, off (Config.biasBase + 4 * b.page) 4 a → (pageFlipped s b).dev.byte a = s.dev.byte a := fun a ha => byte_setBias_of_off s _ _ ha
    have honly : pageFlipped s b = { s with kpr := (pageFlipped s b).kpr, dev := (pageFlipped s b).dev, biasReq := some (nextPage b) } := rfl
    have hinv := pageFlipped_inv hs b
    rw [biasGo_page hreq (by omega) hup (fun hdev => hready hdev 0 (by omega))]
    generalize pageFlipped s b = u at *
    have hreq' : u.biasReq = some (nextPage b) := by rw [honly]
    have hup' : u.sliceUp 0 = true := by rw [honly]; exact hup
    have hpage : (nextPage b).page = b.page + 1 := rfl
    have hnext : b.page + 1 - b.first + n = b.count := by omega
    have hrest := ih k hinv hreq' hup' (Nat.le_succ_of_le hfirst) hnext hcount
      (fun hdev i hi => by
        rw [hpage, hother _ (by omega), Nat.add_assoc, Nat.add_comm 1 i]
        exact hready hdev (i + 1) (by omega)) (by omega)
    obtain ⟨hentry, hbytes, hcount', hresult, heq⟩ := hrest
    refine ⟨fun i hi => ?_, fun a ha => ?_, hcount', hresult, by rw [heq, honly]⟩
    · cases i with
      | zero =>
        have hkept : (u.biasGo (k + 1)).biasEntry b.page = u.biasEntry b.page :=
          num_congr fun j hj => hbytes _ (by unfold off; rw [hpage]; omega)
        exact hkept.trans hown
      | succ j =>
        have h := hentry j (by omega)
        rw [hpage, hother _ (by omega), Nat.add_assoc, Nat.add_comm 1 j] at h
        exact h
    · unfold off at ha
      rw [hbytes a (by unfold off; rw [hpage]; omega), hbyte a (by unfold off; omega)]

end

/-! The request begins. -/

section
variable {s : State} {first count : Nat} {owner : Fin 4096} {own toDevice : Bool}

/-- The request that a write names. -/
def asked (first count owner : Nat) (toDevice own : Bool) : BiasReq :=
  { first := first, count := count, toDevice := toDevice, owner := owner, own := own, page := first }

theorem biasWrite_begins {port : Nat} (hport : s.portUp port = true) (hreq : s.biasReq = none) (hwait : s.biasWait = []) (hfirst : first < 2 ^ 19)
    (hcount : count < 2 ^ 13) : s.biasWrite port first count owner.val toDevice own = s.biasBegin (asked first count owner.val toDevice own) := by
  have hbusy : ¬ (s.biasReq.isSome || !s.biasWait.isEmpty) = true := by
    rw [hreq, hwait]
    decide
  rw [State.biasWrite, hport, if_neg (by decide), if_neg hbusy]
  dsimp only
  rw [Nat.mod_eq_of_lt hfirst, Nat.mod_eq_of_lt hcount, Nat.mod_eq_of_lt owner.isLt]
  rfl

/-- An answer in the status register. -/
theorem biasStatus_answers {i : Instr} {r : Nat} (hr : r < 4) (hexec : exec i s = .next (s.biasStatus r 0)) :
    Completes i s (fun t => bits (t.kreg 0x108) 33 32 = r ∧ t = { s with kpr := t.kpr }) := by
  obtain ⟨hres, -⟩ := biasStatus_bits s hr (flipped := 0) (by decide)
  exact completes_of_exec hexec ⟨hres, rfl⟩

theorem biasBegin_illegal (h : count = 0 ∨ 4096 < count ∨ 294912 < first + count) :
    s.biasBegin (asked first count owner.val toDevice own) = s.biasStatus 1 0 := if_pos h

theorem biasDenied_iff : s.biasDenied (asked first count owner.val toDevice own) = true ↔ ¬ MayFlip s first count owner.val := by
  unfold State.biasDenied MayFlip asked
  simp only [List.any_eq_true, List.mem_range, Bool.or_eq_true, Bool.and_eq_true, bne_iff_ne, not_forall, not_and_or, exists_prop, Bool.not_eq_false,
    ne_eq]
  constructor
  · rintro ⟨i, hi, (h1 | h2) | ⟨⟨h0, h31⟩, hne⟩⟩
    · exact ⟨i, hi, .inl h1⟩
    · exact ⟨i, hi, .inr (.inl h2)⟩
    · exact ⟨i, hi, .inr (.inr ⟨h0, h31, hne⟩)⟩
  · rintro ⟨i, hi, h1 | h2 | ⟨h0, h31, hne⟩⟩
    · exact ⟨i, hi, .inl (.inl h1)⟩
    · exact ⟨i, hi, .inl (.inr h2)⟩
    · exact ⟨i, hi, .inr ⟨⟨h0, h31⟩, hne⟩⟩

variable (hup : s.sliceUp 0 = true) (hlow : 1 ≤ count) (hhigh : count ≤ 4096) (hend : first + count ≤ 294912)
include hup hlow hhigh hend

theorem biasBegin_denied (h : ¬ MayFlip s first count owner.val) :
    s.biasBegin (asked first count owner.val toDevice own) = s.biasStatus 2 0 := by
  have hlegal : ¬ (count = 0 ∨ 4096 < count ∨ 294912 < first + count) := by omega
  have hstart : s.biasBegin (asked first count owner.val toDevice own) = _ := if_neg hlegal
  rw [hstart, hup, if_neg (by decide), if_pos (biasDenied_iff.mpr h)]

/-- The state in which a request is in progress. -/
def requested (s : State) (b : BiasReq) : State := { s with biasReq := some b }

theorem biasBegin_allowed (h : MayFlip s first count owner.val) :
    s.biasBegin (asked first count owner.val toDevice own) = (requested s (asked first count owner.val toDevice own)).biasGo (count + 1) := by
  have hlegal : ¬ (count = 0 ∨ 4096 < count ∨ 294912 < first + count) := by omega
  have hstart : s.biasBegin (asked first count owner.val toDevice own) = _ := if_neg hlegal
  rw [hstart, hup, if_neg (by decide), if_neg (fun hd => biasDenied_iff.mp hd h)]
  rfl

theorem biasBegin_flips (hs : s.inv) (hreq : s.biasReq = none) (h : MayFlip s first count owner.val)
    (hready : toDevice = true → ∀ i, i < count → bitAt (s.biasEntry (first + i)) 0 = true) :
    ∃ t, s.biasBegin (asked first count owner.val toDevice own) = t ∧ Flips s t (asked first count owner.val toDevice own) count ∧
      t = { s with kpr := t.kpr, dev := t.dev } := by
  rw [biasBegin_allowed hup hlow hhigh hend h]
  have hflips := biasGo_flips count (s := requested s (asked first count owner.val toDevice own)) count hs rfl hup le_rfl
    (show first - first + count = count by omega) (show count < 8192 by omega) hready le_rfl
  generalize (requested s (asked first count owner.val toDevice own)).biasGo (count + 1) = t at *
  obtain ⟨hentry, hbytes, hcount, hresult, heq⟩ := hflips
  refine ⟨t, rfl, ⟨hentry, hbytes, hcount, hresult, heq⟩, ?_⟩
  rw [← hreq] at heq
  exact heq

/-- What is asked for a line of the request's page. -/
def askLine (b : BiasReq) (i : Nat) : LineReq :=
  { slice := sliceOf (64 * (b.page * pageLines + i)), who := .bias, device := true, own := true, line := b.page * pageLines + i }

omit hup hlow hhigh hend in
theorem foldl_biasAsk (b : BiasReq) (l : List Nat) (s : State) :
    l.foldl (fun acc i => acc.biasAsk b i) s = { s with lineReqs := s.lineReqs ++ l.map (askLine b) } := by
  induction l generalizing s with
  | nil => simp
  | cons i r ih =>
    rw [List.foldl_cons, ih]
    simp [State.biasAsk, askLine]

/-- The page of a request that waits for its lines. -/
def pageAsked (s : State) (b : BiasReq) : State :=
  { (s.setBias b.page (putBit (s.biasEntry b.page) 2 true)).biasStatus 0 (b.page - b.first) with
    biasReq := some { b with asked := 512 }, lineReqs := s.lineReqs ++ (List.range 512).map (askLine b) }

theorem biasBegin_asks (hhost : bitAt (s.biasEntry first) 0 = false) (h : MayFlip s first count owner.val) :
    s.biasBegin (asked first count owner.val true own) =
      pageAsked (requested s (asked first count owner.val true own)) (asked first count owner.val true own) := by
  rw [biasBegin_allowed hup hlow hhigh hend h]
  have hfold := foldl_biasAsk (asked first count owner.val true own)
  generalize hb : asked first count owner.val true own = b at *
  have hpage : b.page = first := by rw [← hb]; rfl
  have hdev : b.toDevice = true := by rw [← hb]; rfl
  have hmore : ¬ b.page - b.first = b.count := by
    have hfirst : b.first = first := by rw [← hb]; rfl
    have hcount : b.count = count := by rw [← hb]; rfl
    omega
  have hnone : ¬ b.asked ≠ 0 := by rw [← hb]; exact not_not.mpr rfl
  have hentry : bitAt ((requested s b).biasEntry b.page) 0 = false := by rw [hpage]; exact hhost
  have hup' : (requested s b).sliceUp 0 = true := hup
  have hwaits : (b.toDevice && !bitAt ((requested s b).biasEntry b.page) 0) = true := by
    rw [hdev, hentry]
    rfl
  rw [State.biasGo, show (requested s b).biasReq = some b from rfl]
  dsimp only
  rw [if_neg hmore, hup', if_neg (by decide), if_pos hwaits, if_neg hnone, hfold]
  rfl

omit hup hlow hhigh hend in
theorem pageAsked_spec (hs : s.inv) (b : BiasReq) : bitAt ((pageAsked (requested s b) b).biasEntry b.page) 2 = true ∧
    (pageAsked (requested s b) b).biasReq.isSome = true ∧ sameBytes (off (Config.biasBase + 4 * b.page) 4) s (pageAsked (requested s b) b) ∧
    (pageAsked (requested s b) b).lineReqs = s.lineReqs ++ (List.range 512).map (askLine b) := by
  refine ⟨?_, rfl, fun a ha => byte_setBias_of_off (requested s b) _ _ ha, rfl⟩
  have hentry : (pageAsked (requested s b) b).biasEntry b.page = putBit (s.biasEntry b.page) 2 true :=
    biasEntry_setBias_self (requested s b) hs b.page (putBit_lt (biasEntry_lt s b.page) (by decide) _)
  rw [hentry, bitAt_putBit_self]

end

/-- Settles O41: a request page by page (`biasGo_flips`), and the page in host bias at which it waits. -/
theorem biasRequestsFlipPages : Obligations.BiasRequestsFlipPages := by
  unfold Obligations.BiasRequestsFlipPages
  intro s port first count owner own hs hport hreq hwait hup hfirst hcount
  have htoHost : exec (.biasToHost port first count owner own) s = .next (s.biasBegin (asked first count owner.val false own)) :=
    congrArg Host.Outcome.next (biasWrite_begins hport hreq hwait hfirst hcount)
  have htoDevice : exec (.biasToDevice port first count owner own) s = .next (s.biasBegin (asked first count owner.val true own)) :=
    congrArg Host.Outcome.next (biasWrite_begins hport hreq hwait hfirst hcount)
  refine ⟨fun h => ?_, fun hlow hhigh hend h => ?_, fun hlow hhigh hend h => ⟨?_, fun hready => ?_, fun hhost => ?_⟩⟩
  · rw [biasBegin_illegal h] at htoHost htoDevice
    exact ⟨biasStatus_answers (by decide) htoHost, biasStatus_answers (by decide) htoDevice⟩
  · rw [biasBegin_denied hup hlow hhigh hend h] at htoHost htoDevice
    exact ⟨biasStatus_answers (by decide) htoHost, biasStatus_answers (by decide) htoDevice⟩
  · obtain ⟨t, heq, hflips, honly⟩ := biasBegin_flips (toDevice := false) (own := own) hup hlow hhigh hend hs hreq h (fun hd => absurd hd (by decide))
    exact ⟨t, htoHost.trans (congrArg _ heq), hflips.entry, hflips.bytes, hflips.count, hflips.result, honly⟩
  · obtain ⟨t, heq, hflips, honly⟩ := biasBegin_flips (toDevice := true) (own := own) hup hlow hhigh hend hs hreq h (fun _ => hready)
    refine ⟨t, htoDevice.trans (congrArg _ heq), fun i hi => ?_, hflips.bytes, hflips.count, honly⟩
    obtain ⟨hbias, hown, howner⟩ := biasOwned_spec (s.biasEntry (first + i)) (asked first count owner.val true own)
    have hentry : t.biasEntry (first + i) = _ := hflips.entry i hi
    rw [hentry, flipped_toDevice rfl]
    exact ⟨hbias, hown, fun h => (howner h).trans (Nat.mod_eq_of_lt owner.isLt)⟩
  · rw [biasBegin_asks hup hlow hhigh hend hhost h] at htoDevice
    obtain ⟨hflip, hsome, hbytes, hreqs⟩ := pageAsked_spec hs (asked first count owner.val true own)
    refine completes_of_exec htoDevice ?_
    generalize pageAsked (requested s (asked first count owner.val true own)) (asked first count owner.val true own) = t at *
    refine ⟨hflip, hsome, hbytes, ?_, fun r hr => ?_⟩
    · rw [hreqs, List.length_append, List.length_map, List.length_range]
    · rw [hreqs]
      exact List.mem_append_left _ hr

end Sys2Proof.Proofs.BiasFlips
end

section
/-! The power manager (O51). -/

namespace Sys2Proof.Proofs.PowerCap

open Sys2Proof Sys2Proof.Machine Sys2Proof.Claims Sys2Proof.Laws Sys2Proof.Proofs.Basic Sys2Proof.Proofs.Layer Sys2Proof.Proofs.BitFields
open Sys2Proof.Proofs.Resets Sys2Proof.Proofs.LinkLayer Sys2Proof.Proofs.Presence Sys2Proof.Proofs.Skew

/-! Registers set one after another. -/

theorem foldl_setKreg (l : List Nat) (o v : Nat → Nat) (s : State) : ∃ k, l.foldl (fun acc i => acc.setKreg (o i) (v i)) s = { s with kpr := k } := by
  refine List.foldlRecOn l _ (motive := fun t : State => ∃ k, t = { s with kpr := k }) ⟨_, rfl⟩ ?_
  rintro t ⟨k, rfl⟩ i -
  exact ⟨_, rfl⟩

theorem kreg_foldl_setKreg_other (l : List Nat) (o : Nat → Nat) (v : Nat → Nat) {j : Nat} (h : ∀ i ∈ l, j ≠ o i) (s : State) :
    (l.foldl (fun acc i => acc.setKreg (o i) (v i)) s).kreg j = s.kreg j := by
  refine List.foldlRecOn l _ (motive := fun t : State => t.kreg j = s.kreg j) rfl fun t ht i hi => ?_
  rw [kreg_setKreg_other _ _ (h i hi), ht]

theorem keepTemps_eq (s : State) (l : List (Option Nat)) : ∃ k, s.keepTemps l = { s with kpr := k } := by
  refine List.foldlRecOn (List.range 10) _ (motive := fun t : State => ∃ k, t = { s with kpr := k }) ⟨_, rfl⟩ ?_
  rintro t ⟨k, rfl⟩ i -
  split
  · exact ⟨_, rfl⟩
  · exact ⟨_, rfl⟩

/-! The cap. -/

theorem clamp_cap (cap : Nat) : min 260 (max 100 cap) = if cap < 100 then 100 else if 260 < cap then 260 else cap := by
  split
  · omega
  · split
    · omega
    · omega

section
variable {s : State}

theorem powerLimit_kept {port : Fin 4} {cap : BitVec 16} (hport : s.portUp port.val = true) : Completes (.powerLimitWrite port cap) s (fun t =>
    t.kreg 0x240 = (if cap.toNat < 100 then 100 else if 260 < cap.toNat then 260 else cap.toNat) ∧ t.windowCap = s.windowCap ∧
    t = { s with kpr := t.kpr, power := { s.power with capAt := some (s.kTick, s.windowCap) } }) := by
  have hexec : exec (.powerLimitWrite port cap) s = .next (s.powerLimit cap.toNat) := if_pos hport
  refine completes_of_exec hexec ⟨?_, ?_, rfl⟩
  · rw [State.powerLimit, kreg_setKreg_self _ (by omega), clamp_cap]
  · exact if_pos rfl

/-! Samples. -/

theorem traceThrottle_told (s : State) (old : Power) (sensor : Nat) : Told s (s.traceThrottle old sensor) := by
  unfold State.traceThrottle
  split
  · exact .refl s
  · exact traceRec_told ..

/-- What a hot junction withholds from the next sample on. -/
theorem heat_steps (p : Power) (v : Nat) : (105 ≤ v → (p.heat v).nextJunction = 15) ∧ (100 ≤ v → v < 103 → (p.heat v).nextJunction = 8) ∧
    (95 ≤ v → v < 98 → (p.heat v).nextJunction = 4) ∧ (v < 93 → (p.heat v).nextJunction = 0) := by
  refine ⟨fun h => ?_, fun h1 h2 => ?_, fun h1 h2 => ?_, fun h => ?_⟩
  · simp [Power.heat, threshold, junctionWithheld, h]
  · have h3 : ¬ 105 ≤ v := by omega
    simp [Power.heat, threshold, junctionWithheld, h1, h2, h3]
  · have h3 : ¬ 105 ≤ v := by omega
    have h4 : ¬ 100 ≤ v := by omega
    have h5 : v < 103 := by omega
    simp [Power.heat, threshold, junctionWithheld, h1, h2, h3, h4, h5]
  · have h3 : ¬ 105 ≤ v := by omega
    have h4 : ¬ 100 ≤ v := by omega
    have h5 : v < 103 := by omega
    have h6 : ¬ 95 ≤ v := by omega
    have h7 : v < 98 := by omega
    simp [Power.heat, threshold, junctionWithheld, h, h3, h4, h5, h6, h7]

theorem heat_first105 (p : Power) (v : Nat) : ((p.heat v).hot105 && !p.hot105) = decide (105 ≤ v ∧ p.hot105 = false) := by
  cases h : p.hot105 with
  | true => simp
  | false =>
    by_cases h5 : 105 ≤ v
    · simp [Power.heat, threshold, h5]
    · simp [Power.heat, threshold, h5, h]

/-- The state in which a sample is counted and a change of what is withheld is traced. -/
def sampled (s : State) (rails : List (Nat × Nat)) (junctions : List (Option Nat)) (v sensor : Nat) : State :=
  (({ s with power := (s.power.add rails).heat v } : State).keepTemps junctions).traceThrottle s.power sensor

theorem sampled_eq (s : State) (rails : List (Nat × Nat)) (junctions : List (Option Nat)) (v sensor : Nat) :
    sampled s rails junctions v sensor = { s with
      power := (s.power.add rails).heat v, kpr := (sampled s rails junctions v sensor).kpr,
      trace := (sampled s rails junctions v sensor).trace, out := (sampled s rails junctions v sensor).out,
      msiWait := (sampled s rails junctions v sensor).msiWait } := by
  obtain ⟨k, hk⟩ := keepTemps_eq { s with power := (s.power.add rails).heat v } junctions
  have htold := traceThrottle_told (({ s with power := (s.power.add rails).heat v } : State).keepTemps junctions) s.power sensor
  unfold sampled
  rw [hk] at htold ⊢
  exact htold.eq

theorem sample_counts (hlive : s.live = true) {rails : List (Nat × Nat)} {junctions : List (Option Nat)} {v : Nat} (hv : hottestOf junctions = some v)
    (hcool : v < 110) : Completes (.powerSample rails junctions) s (fun t =>
      t.power.samples = s.power.samples + 1 ∧ t.power.sum = s.power.sum + railPower rails 0 18 ∧
      t.power.withheld = s.power.withheld ∧ t.power.junction = s.power.nextJunction ∧ (105 ≤ v → t.power.nextJunction = 15) ∧
      (100 ≤ v → v < 103 → t.power.nextJunction = 8) ∧ (95 ≤ v → v < 98 → t.power.nextJunction = 4) ∧ (v < 93 → t.power.nextJunction = 0) ∧
      t.errs.total = s.errs.total + (if 105 ≤ v ∧ s.power.hot105 = false then 1 else 0) ∧ t.dev = s.dev ∧ t.cmds = s.cmds ∧ t.boot = s.boot) := by
  obtain ⟨sensor, hexec⟩ : ∃ sensor, exec (.powerSample rails junctions) s =
      if ((s.power.add rails).heat v).hot105 && !s.power.hot105 then
        .next ((sampled s rails junctions v sensor).errEntry 4 0x26 1 (natLE 1 sensor ++ natLE 1 v)) else .next (sampled s rails junctions v sensor) := by
    refine ⟨((List.range 10).find? (fun i => junctions.getD i none == some v)).getD 0, ?_⟩
    rw [show exec (.powerSample rails junctions) s = execPowerSample rails junctions s from rfl, execPowerSample, hlive, hv]
    exact if_neg (not_le.mpr hcool)
  obtain ⟨h15, h8, h4, h0⟩ := heat_steps (s.power.add rails) v
  have hfirst : (((s.power.add rails).heat v).hot105 && !s.power.hot105) = decide (105 ≤ v ∧ s.power.hot105 = false) := heat_first105 (s.power.add rails) v
  have heq := sampled_eq s rails junctions v sensor
  rw [hfirst] at hexec
  generalize sampled s rails junctions v sensor = u at *
  have hpower : u.power = (s.power.add rails).heat v := by rw [heq]
  have herrs : u.errs = s.errs := by rw [heq]
  have hkept : u.dev = s.dev ∧ u.cmds = s.cmds ∧ u.boot = s.boot := by
    rw [heq]
    exact ⟨rfl, rfl, rfl⟩
  obtain ⟨hdev, hcmds, hboot⟩ := hkept
  by_cases hnew : 105 ≤ v ∧ s.power.hot105 = false
  · rw [if_pos (decide_eq_true hnew)] at hexec
    have hentry := errEntry_linksOnly u 4 0x26 1 (natLE 1 sensor ++ natLE 1 v)
    have htotal := errEntry_total u 4 0x26 1 (natLE 1 sensor ++ natLE 1 v)
    refine completes_of_exec hexec ?_
    generalize u.errEntry 4 0x26 1 (natLE 1 sensor ++ natLE 1 v) = t at *
    obtain ⟨honly, -⟩ := hentry
    have hpower' : t.power = (s.power.add rails).heat v := by rw [honly]; exact hpower
    rw [hpower', htotal, herrs, if_pos hnew]
    refine ⟨rfl, rfl, rfl, rfl, h15, h8, h4, h0, rfl, ?_, ?_, ?_⟩
    · rw [honly]; exact hdev
    · rw [honly]; exact hcmds
    · rw [honly]; exact hboot
  · rw [if_neg (by simpa using hnew)] at hexec
    refine completes_of_exec hexec ?_
    rw [hpower, herrs, if_neg hnew]
    exact ⟨rfl, rfl, rfl, rfl, h15, h8, h4, h0, rfl, hdev, hcmds, hboot⟩

theorem sample_trips (hlive : s.live = true) {rails : List (Nat × Nat)} {junctions : List (Option Nat)} {v : Nat} (hv : hottestOf junctions = some v)
    (hhot : 110 ≤ v) : Completes (.powerSample rails junctions) s (fun t => t.trip = true ∧ t.boot.step = 0 ∧ t.cmds = [] ∧ t.tables = [] ∧
      (∀ a, t.dev.byte a = 0) ∧ t.pending = s.pending) := by
  have hexec : exec (.powerSample rails junctions) s = .next { s.resetAll with trip := true } := by
    rw [show exec (.powerSample rails junctions) s = execPowerSample rails junctions s from rfl, execPowerSample, hlive, hv]
    exact if_pos hhot
  rw [resetAll_eq] at hexec
  exact completes_of_exec hexec ⟨rfl, rfl, rfl, rfl, fun _ => rfl, rfl⟩

/-! Windows. -/

theorem capStep_cases (withheld uw cap : Nat) : (cap * 1000000 < uw → capStep withheld uw cap = min 15 (withheld + 1)) ∧
    (uw ≤ cap * 1000000 → cap * 1000000 ≤ uw + 10000000 → capStep withheld uw cap = withheld) ∧
    (uw + 10000000 < cap * 1000000 → capStep withheld uw cap = withheld - 1) := by
  refine ⟨fun h => if_pos h, fun h1 h2 => ?_, fun h => ?_⟩
  · rw [capStep, if_neg (by omega), if_neg (by omega)]
  · rw [capStep, if_neg (by omega), if_pos h]

/-- The status of a millisecond of mean `w` watts (Table 16-9). -/
def windowStat (old w : Nat) (hit : Bool) : Nat :=
  satTo 65535 w + max (bits old 31 16) (satTo 65535 w) * 2 ^ 16 + (if hit then 2 ^ 38 else 0)

theorem bits_windowStat (old w : Nat) (hit : Bool) : bits (windowStat old w hit % 2 ^ 64) 15 0 = min 65535 w := by
  rw [windowStat, satTo_eq_min, bits]
  cases hit
  · simp only [Bool.false_eq_true, if_false]
    omega
  · simp only [if_true]
    omega

/-- The power manager after a window. -/
def windowed (s : State) : Power :=
  { s.power with withheld := capStep s.power.withheld (s.power.sum / s.power.samples) s.windowCap, samples := 0, sum := 0, sliceSum := [0, 0, 0, 0],
                 sliceAmp := [0, 0, 0, 0], slewHit := false }

/-- The status of a slice (Table 16-9). -/
def sliceStat (s : State) (n : Nat) : Nat :=
  satTo 65535 (s.power.sliceSum.getD n 0 / s.power.samples / 100000) + satTo 65535 (s.power.sliceAmp.getD n 0 / s.power.samples / 100) * 2 ^ 16

/-- The state after a window, with its status. -/
def statShown (s : State) : State :=
  ({ s with power := windowed s } : State).setKreg 0x248 (windowStat (s.kreg 0x248) (s.power.sum / s.power.samples / 1000000) s.power.slewHit)

def windowShown (s : State) : State :=
  ((List.range 4).foldl (fun acc n => acc.setKreg (0x250 + 8 * n) (sliceStat s n)) (statShown s)).traceThrottle s.power 0

theorem windowShown_spec (s : State) : (windowShown s).power = windowed s ∧ (windowShown s).dev = s.dev ∧ (windowShown s).cmds = s.cmds ∧
    (windowShown s).kreg 0x248 = windowStat (s.kreg 0x248) (s.power.sum / s.power.samples / 1000000) s.power.slewHit % 2 ^ 64 := by
  obtain ⟨k, heq⟩ := foldl_setKreg (List.range 4) (fun n => 0x250 + 8 * n) (sliceStat s) (statShown s)
  have hreg := kreg_foldl_setKreg_other (List.range 4) (fun n => 0x250 + 8 * n) (sliceStat s) (j := 0x248) (fun i _ => by omega) (statShown s)
  have htold := traceThrottle_told ((List.range 4).foldl (fun acc n => acc.setKreg (0x250 + 8 * n) (sliceStat s n)) (statShown s)) s.power 0
  have hstat : (statShown s).kreg 0x248 = windowStat (s.kreg 0x248) (s.power.sum / s.power.samples / 1000000) s.power.slewHit % 2 ^ 64 :=
    (kreg_setKreg ..).trans (if_pos rfl)
  obtain ⟨hpower, hdev, hcmds⟩ : (statShown s).power = windowed s ∧ (statShown s).dev = s.dev ∧ (statShown s).cmds = s.cmds := ⟨rfl, rfl, rfl⟩
  rw [windowShown]
  generalize statShown s = u at *
  generalize (List.range 4).foldl (fun acc n => acc.setKreg (0x250 + 8 * n) (sliceStat s n)) u = v at *
  generalize v.traceThrottle s.power 0 = t at *
  refine ⟨?_, ?_, ?_, ?_⟩
  · rw [htold.eq, heq]
    exact hpower
  · rw [htold.eq, heq]
    exact hdev
  · rw [htold.eq, heq]
    exact hcmds
  · rw [htold.regs _ (by decide), hreg, hstat]

theorem window_ends (hlive : s.live = true) (hany : s.power.samples ≠ 0) : Completes .powerWindow s (fun t => t.power.samples = 0 ∧ t.power.sum = 0 ∧
    (s.windowCap * 1000000 < s.power.sum / s.power.samples → t.power.withheld = min 15 (s.power.withheld + 1)) ∧
    (s.power.sum / s.power.samples ≤ s.windowCap * 1000000 → s.windowCap * 1000000 ≤ s.power.sum / s.power.samples + 10000000 →
      t.power.withheld = s.power.withheld) ∧
    (s.power.sum / s.power.samples + 10000000 < s.windowCap * 1000000 → t.power.withheld = s.power.withheld - 1) ∧
    bits (t.kreg 0x248) 15 0 = min 65535 (s.power.sum / s.power.samples / 1000000) ∧ t.dev = s.dev ∧ t.cmds = s.cmds) := by
  have hexec : exec .powerWindow s = .next (windowShown s) := if_neg (by simp [hlive, hany])
  obtain ⟨hpower, hdev, hcmds, hstat⟩ := windowShown_spec s
  obtain ⟨hraise, hkeep, hlower⟩ := capStep_cases s.power.withheld (s.power.sum / s.power.samples) s.windowCap
  refine completes_of_exec hexec ?_
  rw [hpower, hstat, bits_windowStat]
  exact ⟨rfl, rfl, hraise, hkeep, hlower, rfl, hdev, hcmds⟩

/-! The slew governor. -/

/-- An estimate that follows its demand. -/
def slewTo (old demand : Nat) : Nat := if old + 60 < demand then old + 60 else if demand + 60 < old then old - 60 else demand

theorem slewTo_near (old demand : Nat) : slewTo old demand ≤ old + 60 ∧ old ≤ slewTo old demand + 60 ∧
    (demand ≤ old + 60 → old ≤ demand + 60 → slewTo old demand = demand) := by
  unfold slewTo
  split
  · omega
  · split
    · omega
    · omega

theorem slew_follows {n : Fin 4} {demand : Nat} (hup : s.sliceUp n.val = true) (hlen : s.power.slew.length = 4) :
    Completes (.slewPeriod n demand) s (fun t =>
      t.power.slew.getD n.val 0 ≤ s.power.slew.getD n.val 0 + 60 ∧ s.power.slew.getD n.val 0 ≤ t.power.slew.getD n.val 0 + 60 ∧
      (demand ≤ s.power.slew.getD n.val 0 + 60 → s.power.slew.getD n.val 0 ≤ demand + 60 → t.power.slew.getD n.val 0 = demand) ∧
      (∀ m, m ≠ n.val → t.power.slew.getD m 0 = s.power.slew.getD m 0) ∧ t = { s with power := t.power }) := by
  have hexec : exec (.slewPeriod n demand) s = _ := if_neg (by simp [hup])
  obtain ⟨habove, hbelow, hexact⟩ := slewTo_near (s.power.slew.getD n.val 0) demand
  have hself : (s.power.slew.set n.val (slewTo (s.power.slew.getD n.val 0) demand)).getD n.val 0 = slewTo (s.power.slew.getD n.val 0) demand := by
    rw [List.getD_eq_getElem?_getD, List.getElem?_set_self (by omega)]
    rfl
  have hother : ∀ m, m ≠ n.val → (s.power.slew.set n.val (slewTo (s.power.slew.getD n.val 0) demand)).getD m 0 = s.power.slew.getD m 0 := fun m hm => by
    rw [List.getD_eq_getElem?_getD, List.getElem?_set_ne (Ne.symm hm), List.getD_eq_getElem?_getD]
  refine completes_of_exec hexec ⟨?_, ?_, ?_, hother, rfl⟩
  · exact hself.trans_le habove
  · exact hbelow.trans_eq (congrArg (· + 60) hself.symm)
  · exact fun h1 h2 => hself.trans (hexact h1 h2)

end

/-- Settles O51: cap, sample, window and slew estimate, one after the other. -/
theorem powerManagerKeepsItsCap : Obligations.PowerManagerKeepsItsCap := by
  unfold Obligations.PowerManagerKeepsItsCap
  intro s hlive
  exact ⟨fun _ _ => powerLimit_kept, fun _ _ _ hv => ⟨sample_counts hlive hv, sample_trips hlive hv⟩, window_ends hlive, fun _ _ => slew_follows⟩

end Sys2Proof.Proofs.PowerCap
end

section
/-! The skew ring and the merge of skew windows (O58). -/

namespace Sys2Proof.Proofs.SkewRing

open Sys2Proof Sys2Proof.Machine Sys2Proof.Claims Sys2Proof.Laws Sys2Proof.Proofs.Basic Sys2Proof.Proofs.Layer Sys2Proof.Proofs.BitFields
open Sys2Proof.Proofs.HostMem Sys2Proof.Proofs.Presence Sys2Proof.Proofs.Skew

section
variable {s : State} {port : Fin 4}

/-! The ring's control. -/

/-- A control write while the ring is disabled. -/
theorem exec_skewEnable {data : Word} (hport : s.portUp port.val = true) (hoff : bitAt (s.kreg 0x188) 8 = false) (hon : bitAt data.toNat 8 = true) :
    exec (.skewEnable port data) s = .next (if data.toNat % 32 < 4 ∨ 16 < data.toNat % 32 ∨ s.kreg 0x180 = 0
      then (s.setKreg 0x188 (data.toNat % 32)).kregEvt
      else (((s.setKreg 0x188 (data.toNat % 32)).setKreg 0x188 (data.toNat % 32 + 256)).setKreg 0x190 0).setKreg 0x198 0) := by
  have hexec : exec (.skewEnable port data) s = .next (s.skewCtl data.toNat) := if_pos hport
  rw [hexec, State.skewCtl, hoff, hon]
  rfl

theorem skewEnable_legal {data : Word} (hport : s.portUp port.val = true) (hoff : bitAt (s.kreg 0x188) 8 = false) (hon : bitAt data.toNat 8 = true)
    (hlow : 4 ≤ data.toNat % 32) (hhigh : data.toNat % 32 ≤ 16) (hbase : s.kreg 0x180 ≠ 0) : Completes (.skewEnable port data) s (fun t =>
      t.kreg 0x188 = data.toNat % 32 + 256 ∧ t.kreg 0x190 = 0 ∧ t.kreg 0x198 = 0 ∧ t = { s with kpr := t.kpr }) := by
  have hexec := exec_skewEnable hport hoff hon
  rw [if_neg (by omega)] at hexec
  refine completes_of_exec hexec ⟨?_, ?_, kreg_setKreg_self _ (by decide), rfl⟩
  · rw [kreg_setKreg_other _ _ (by decide), kreg_setKreg_other _ _ (by decide), kreg_setKreg_self _ (by omega)]
  · rw [kreg_setKreg_other _ _ (by decide), kreg_setKreg_self _ (by decide)]

theorem kreg_kregEvt (s : State) : s.kregEvt.kreg 0x28 = min 0xFFFFFFFF (s.kreg 0x28 + 1) := by
  rw [State.kregEvt, satTo_eq_min, kreg_setKreg_self _ (by omega)]

theorem skewEnable_illegal {data : Word} (hport : s.portUp port.val = true) (hoff : bitAt (s.kreg 0x188) 8 = false) (hon : bitAt data.toNat 8 = true)
    (hbad : data.toNat % 32 < 4 ∨ 16 < data.toNat % 32 ∨ s.kreg 0x180 = 0) : Completes (.skewEnable port data) s (fun t =>
      bitAt (t.kreg 0x188) 8 = false ∧ t.kreg 0x28 = min 0xFFFFFFFF (s.kreg 0x28 + 1) ∧ t = { s with kpr := t.kpr }) := by
  have hexec := exec_skewEnable hport hoff hon
  rw [if_pos hbad] at hexec
  refine completes_of_exec hexec ⟨?_, ?_, rfl⟩
  · have hsmall : data.toNat % 32 / 2 ^ 8 = 0 := Nat.div_eq_of_lt (by omega)
    rw [State.kregEvt, kreg_setKreg_other _ _ (by decide), kreg_setKreg_self _ (by omega), bitAt, hsmall]
    rfl
  · rw [kreg_kregEvt, kreg_setKreg_other _ _ (by decide)]

theorem skewRelease_taken {tail : BitVec 32} (hport : s.portUp port.val = true)
    (h : (s.kreg 0x190 + 2 ^ 32 - tail.toNat) % 2 ^ 32 ≤ 2 ^ (s.kreg 0x188 % 32)) :
    Gives (.skewRelease port tail) s (s.setKreg 0x198 tail.toNat) := by
  have hexec : exec (.skewRelease port tail) s = .next (s.skewTail tail.toNat) := if_pos hport
  exact hexec.trans (congrArg _ (if_neg (not_lt.mpr h)))

theorem skewRelease_ignored {tail : BitVec 32} (hport : s.portUp port.val = true)
    (h : 2 ^ (s.kreg 0x188 % 32) < (s.kreg 0x190 + 2 ^ 32 - tail.toNat) % 2 ^ 32) :
    Gives (.skewRelease port tail) s (s.setKreg 0x28 (satTo 0xFFFFFFFF (s.kreg 0x28 + 1))) := by
  have hexec : exec (.skewRelease port tail) s = .next (s.skewTail tail.toNat) := if_pos hport
  exact hexec.trans (congrArg _ (if_pos h))

/-! Windows. -/

theorem exec_skewWindowEnd {n : Fin 4} (hup : s.sliceUp n.val = true) : exec (.skewWindowEnd n) s = .next (s.rollWindow n.val) := if_pos hup

theorem skewWindow_over {n : Fin 4} (hup : s.sliceUp n.val = true) (hlen : s.slices.length = 4)
    (hover : (s.slc n.val).window < (s.slc n.val).tick / 100000000) : Completes (.skewWindowEnd n) s (fun t => (t.slc n.val).skew = [] ∧
      (t.slc n.val).window = (s.slc n.val).tick / 100000000 ∧
      (t.slc n.val).ended = (s.slc n.val).ended ++ [{ num := (s.slc n.val).window, counts := (s.slc n.val).skew, warm := (s.slc n.val).warm }] ∧
      t = { s with slices := t.slices }) := by
  have hroll : s.rollWindow n.val = _ := if_neg (by simp [State.windowOver, hover])
  refine completes_of_exec (exec_skewWindowEnd hup) ?_
  rw [hroll, slc_modSlice _ _ _ _ (by omega), if_pos rfl]
  exact ⟨rfl, rfl, rfl, rfl⟩

theorem skewWindow_runs {n : Fin 4} (hup : s.sliceUp n.val = true) (hruns : (s.slc n.val).tick / 100000000 ≤ (s.slc n.val).window) :
    Gives (.skewWindowEnd n) s s :=
  (exec_skewWindowEnd hup).trans (congrArg _ (if_pos (by simp [State.windowOver, hruns])))

/-! The merge. -/

/-- Writes of the engine's own touch no slice and no command. -/
structure Records (s t : State) : Prop where
  slices : t.slices = s.slices
  cmds : t.cmds = s.cmds

theorem Records.refl (s : State) : Records s s := ⟨rfl, rfl⟩

theorem Records.trans {s t u : State} (h1 : Records s t) (h2 : Records t u) : Records s u :=
  ⟨h2.slices.trans h1.slices, h2.cmds.trans h1.cmds⟩

theorem workLand_records (s : State) (w : EngWr) : Records s (s.workLand w) := by
  unfold State.workLand
  split
  · exact ⟨rfl, rfl⟩
  · exact ⟨rfl, rfl⟩
  · split
    · exact .refl s
    · split
      · exact ⟨rfl, rfl⟩
      · constructor <;> simp

theorem engineWrite_records (s : State) (w : EngWr) : Records s (s.engineWrite w) := by
  unfold State.engineWrite
  dsimp only
  split
  · exact workLand_records s w
  · constructor <;> simp

/-- A record that is not made leaves everything. -/
theorem engineWrite_void {w : EngWr} (hact : w.act = .skew) (hoff : bitAt (s.kreg 0x188) 8 = false) (hwork : s.work = []) : s.engineWrite w = s := by
  have hneeds : s.workNeeds w = [] := if_pos (by simp [State.workVoid, hact, hoff])
  have hland : s.workLand w = s := by
    rw [State.workLand, hact]
    exact if_pos (by simp [hoff])
  have hgo : ((s.workNeeds w).isEmpty && !s.work.any (fun v => v.act == w.act)) = true := by rw [hneeds, hwork]; rfl
  rw [State.engineWrite]
  dsimp only
  rw [if_pos hgo, hland]

/-- The slices without their windows of number `num`. -/
def mergedSlices (s : State) (num : Nat) : List Slice := s.slices.map (fun l => { l with ended := l.ended.filter (fun w => w.num != num) })

theorem skewMerge_takes {num : Nat} (hdue : s.mergeDue = some num) : Completes .skewMerge s (fun t => (∀ l ∈ t.slices, ∀ w ∈ l.ended, w.num ≠ num) ∧
    (∀ l ∈ s.slices, ∀ w ∈ l.ended, w.num ≠ num → ∃ l' ∈ t.slices, w ∈ l'.ended) ∧ t.cmds = s.cmds ∧
    (bitAt (s.kreg 0x188) 8 = false → s.work = [] → t = { s with slices := t.slices })) := by
  obtain ⟨t, hexec, hrec, hvoid⟩ : ∃ t, exec .skewMerge s = .next t ∧ Records { s with slices := mergedSlices s num } t ∧
      (bitAt (s.kreg 0x188) 8 = false → s.work = [] → t = { s with slices := mergedSlices s num }) := by
    rw [show exec .skewMerge s = execSkewMerge s from rfl, execSkewMerge, hdue]
    refine ⟨_, rfl, ?_, fun hoff hwork => ?_⟩
    · refine List.foldlRecOn _ _ (motive := fun t : State => Records { s with slices := mergedSlices s num } t) ⟨rfl, rfl⟩ fun t ht a _ => ?_
      dsimp only
      split
      · exact ht
      · exact ht.trans (engineWrite_records ..)
    · refine List.foldlRecOn _ _ (motive := fun t : State => t = { s with slices := mergedSlices s num }) rfl fun t ht a _ => ?_
      subst ht
      dsimp only
      split
      · rfl
      · exact engineWrite_void rfl hoff hwork
  refine completes_of_exec hexec ⟨fun l hl w hw => ?_, fun l hl w hw hne => ?_, hrec.cmds, fun hoff hwork => ?_⟩
  · rw [hrec.slices] at hl
    obtain ⟨l', -, rfl⟩ := List.mem_map.mp hl
    obtain ⟨-, hkept⟩ := List.mem_filter.mp hw
    exact bne_iff_ne.mp hkept
  · rw [hrec.slices]
    exact ⟨_, List.mem_map.mpr ⟨l, hl, rfl⟩, List.mem_filter.mpr ⟨hw, bne_iff_ne.mpr hne⟩⟩
  · rw [hvoid hoff hwork]

/-! Records. -/

theorem skewFree_eq (hpend : s.pending = []) : s.skewFree =
    (decide ((s.kreg 0x190 + 2 ^ 32 - s.kreg 0x198) % 2 ^ 32 ≠ 2 ^ (s.kreg 0x188 % 32)) && inDevice s.skewSlot 256) := by
  rw [State.skewFree, State.skewTailNow, hpend]
  rfl

theorem skewRecord_lost {bytes : List Byte} (hon : bitAt (s.kreg 0x188) 8 = true) (hpend : s.pending = [])
    (hfull : (s.kreg 0x190 + 2 ^ 32 - s.kreg 0x198) % 2 ^ 32 = 2 ^ (s.kreg 0x188 % 32)) :
    s.workLand { act := .skew, addr := 0, bytes := bytes } = s.setKreg 0x1A0 (satTo 0xFFFFFFFF (s.kreg 0x1A0 + 1)) := by
  have hno : s.skewFree = false := by
    rw [skewFree_eq hpend, decide_eq_false (not_not.mpr hfull)]
    rfl
  rw [State.workLand]
  dsimp only
  rw [hon, hno]
  rfl

theorem skewRecord_enters {bytes : List Byte} (hs : s.inv) (hlen : bytes.length = 256) (hon : bitAt (s.kreg 0x188) 8 = true) (hpend : s.pending = [])
    (hroom : (s.kreg 0x190 + 2 ^ 32 - s.kreg 0x198) % 2 ^ 32 ≠ 2 ^ (s.kreg 0x188 % 32)) (hslot : s.skewSlot + 256 ≤ Config.devBytes) {t : State}
    (ht : t = s.workLand { act := .skew, addr := 0, bytes := bytes }) : t.kreg 0x190 = (s.kreg 0x190 + 1) % 2 ^ 32 ∧
      (∀ i, i < 256 → t.dev.byte (s.skewSlot + i) = bytes.getD i 0) ∧ sameBytes (off s.skewSlot 256) s t := by
  have hyes : s.skewFree = true := by
    rw [skewFree_eq hpend, decide_eq_true hroom, inDevice, decide_eq_true hslot]
    rfl
  have heq : t = ((s.devPut s.skewSlot bytes).setKreg 0x190 ((s.kreg 0x190 + 1) % 2 ^ 32)).msix 3 := by
    rw [ht, State.workLand]
    dsimp only
    rw [hon, hyes]
    rfl
  have htold := msix_told ((s.devPut s.skewSlot bytes).setKreg 0x190 ((s.kreg 0x190 + 1) % 2 ^ 32)) 3
  rw [← heq] at htold
  have hdev : t.dev = s.dev.writeClean s.skewSlot bytes := by rw [htold.eq]; rfl
  refine ⟨?_, fun i hi => ?_, fun a ha => ?_⟩
  · rw [htold.regs _ (by decide), kreg_setKreg_self _ (by omega)]
  · rw [hdev, Mem.writeClean, byte_write _ _ _ _ hs, if_pos (by rw [cleanBytes_length]; omega), Nat.add_sub_cancel_left, dataOf_cleanBytes]
  · rw [hdev]
    exact byte_devPut_of_off s _ a bytes (by rw [hlen]; exact ha)

end

/-- Settles O58: control, windows, the merge through what a record leaves alone, and the record's slot. -/
theorem skewWindowsAreMerged : Obligations.SkewWindowsAreMerged := by
  unfold Obligations.SkewWindowsAreMerged
  intro s port hs hport
  exact ⟨fun data hoff hon => ⟨skewEnable_legal hport hoff hon, skewEnable_illegal hport hoff hon⟩,
    fun tail => ⟨skewRelease_taken hport, skewRelease_ignored hport⟩, fun n hup hlen => ⟨skewWindow_over hup hlen, skewWindow_runs hup⟩,
    fun num => skewMerge_takes, fun bytes t hlen hon hpend ht => ⟨fun hfull => ht.trans (skewRecord_lost hon hpend hfull),
      fun hroom hslot => ⟨rfl, skewRecord_enters hs hlen hon hpend hroom hslot ht⟩⟩⟩

end Sys2Proof.Proofs.SkewRing
end

section
/-! The dual-clock queues (O59). -/

namespace Sys2Proof.Proofs.Crossing

open Sys2Proof Sys2Proof.Machine Sys2Proof.Claims Sys2Proof.Laws Sys2Proof.Proofs.Basic Sys2Proof.Proofs.Layer

/-! Gray codes. -/

theorem gray_xor (a b : Nat) : gray a ^^^ gray b = gray (a ^^^ b) := by
  rw [gray, gray, gray, Nat.xor_div_two]
  ac_rfl

theorem gray_eq_zero {a : Nat} (h : gray a = 0) : a = 0 := by
  have hhalf : a = a / 2 := Nat.xor_eq_zero_iff.mp h
  omega

theorem gray_inj (a b : Nat) : gray a = gray b ↔ a = b := by
  refine ⟨fun h => ?_, fun h => congrArg gray h⟩
  have hzero : gray (a ^^^ b) = 0 := by rw [← gray_xor, h, Nat.xor_self]
  exact Nat.xor_eq_zero_iff.mp (gray_eq_zero hzero)

/-! Queues of a state. -/

theorem queue_setQueue (s : State) (q : Nat) (c : Cdc) : (s.setQueue q c).queue q = c := tab_getD_set_self ..

/-- What an end that runs needs is not in the queues. -/
theorem setQueue_ups (s : State) (q : Nat) (c : Cdc) : (s.setQueue q c).writerUp q = s.writerUp q ∧ (s.setQueue q c).readerUp q = s.readerUp q :=
  ⟨rfl, rfl⟩

section
variable {s : State} {q : Nat}

theorem lt_of_readerUp (h : s.readerUp q = true) : cdcOk q = true ∧ q / 16 < 4 := by
  rw [State.readerUp, Bool.and_eq_true] at h
  obtain ⟨hok, -⟩ := h
  have hlt := of_decide_eq_true hok
  exact ⟨hok, by omega⟩

/-! Writes. -/

/-- The word that a write presents. -/
def written (q : Nat) (word : List Byte) (vbytes psec : Nat) (last : Bool) : QWord :=
  { data := padTo (cdcShape (q % 16)).1 0 word, vbytes := if last then min vbytes (cdcShape (q % 16)).1 else (cdcShape (q % 16)).1, eop := last,
    psec := psec }

/-- A queue that holds a word. -/
def holding (c : Cdc) (w : QWord) : Cdc := { c with held := [w] }

theorem exec_queueWrite {word : List Byte} {vbytes psec : Nat} {last : Bool} (hwriter : s.writerUp q = true) (hreader : s.readerUp q = true)
    (hheld : (s.queue q).held = []) : exec (.queueWrite q word vbytes psec last) s =
      .next (s.setQueue q (((holding (s.queue q) (written q word vbytes psec last)).present q true).writeEdge (s.queue q).rGray)) := by
  rw [show exec (.queueWrite q word vbytes psec last) s = execQueueWrite q word vbytes psec last s from rfl, execQueueWrite, hwriter, hreader]
  dsimp only
  rw [hheld]
  rfl

theorem present_full {c : Cdc} {w : QWord} (h : c.full q = true) : (holding c w).present q true = holding c w :=
  if_pos (by rw [Bool.not_true, Bool.false_or]; exact h)

theorem present_room {c : Cdc} {w : QWord} (h : c.full q = false) : (holding c w).present q true = { (holding c w).push q w with held := [] } :=
  if_neg (by rw [Bool.not_true, Bool.false_or]; exact fun hfull => Bool.false_ne_true (h.symm.trans hfull))

/-- A word as wide as the queue's entries goes to the slot of the write pointer. -/
theorem push_whole {c : Cdc} {w : QWord} (hshape : (cdcShape (q % 16)).1 = (cdcShape (q % 16)).2.1) (hpack : c.pack = []) : c.push q w =
    { c with pack := [], entries := Tab.set c.entries (c.wptr % (ptrMod q / 2)) (wideWord q [w]), wptr := (c.wptr + 1) % ptrMod q,
             wGray := gray ((c.wptr + 1) % ptrMod q) } := by
  have hgo : (w.eop || (c.pack ++ [w]).length * (cdcShape (q % 16)).1 == (cdcShape (q % 16)).2.1) = true := by
    rw [hpack, hshape]
    simp
  rw [Cdc.push]
  dsimp only
  rw [if_pos hgo, hpack]
  rfl

theorem wideWord_one {word : List Byte} {vbytes psec : Nat} {last : Bool} (hlen : word.length = (cdcShape (q % 16)).1)
    (hshape : (cdcShape (q % 16)).1 = (cdcShape (q % 16)).2.1) : (wideWord q [written q word vbytes psec last]).eop = last ∧
      (wideWord q [written q word vbytes psec last]).vbytes = (written q word vbytes psec last).vbytes ∧
      (last = false → (wideWord q [written q word vbytes psec last]).data = word) := by
  refine ⟨rfl, Nat.add_zero _, fun hlast => ?_⟩
  have hpad : padTo (cdcShape (q % 16)).1 0 word = word := by simp [padTo, hlen]
  have htake : word.take (cdcShape (q % 16)).1 = word := List.take_of_length_le hlen.le
  show padTo (cdcShape (q % 16)).2.1 0 (padTo (cdcShape (q % 16)).1 0 ((padTo (cdcShape (q % 16)).1 0 word).take
    (if last = true then min vbytes (cdcShape (q % 16)).1 else (cdcShape (q % 16)).1)) ++ []) = word
  rw [hlast, if_neg (by decide), List.append_nil, hpad, htake, hpad, ← hshape, hpad]

theorem queueWrite_enters {word : List Byte} {vbytes psec : Nat} {last : Bool} (hwriter : s.writerUp q = true) (hreader : s.readerUp q = true)
    (hlen : word.length = (cdcShape (q % 16)).1) (hshape : (cdcShape (q % 16)).1 = (cdcShape (q % 16)).2.1) (hpack : (s.queue q).pack = [])
    (hheld : (s.queue q).held = []) (hroom : (s.queue q).full q = false) : Completes (.queueWrite q word vbytes psec last) s (fun t =>
      (t.queue q).wptr = ((s.queue q).wptr + 1) % ptrMod q ∧ (t.queue q).wGray = gray (t.queue q).wptr ∧ (t.queue q).rptr = (s.queue q).rptr ∧
      (∃ w, Tab.get? (t.queue q).entries ((s.queue q).wptr % (ptrMod q / 2)) = some w ∧ w.eop = last ∧
        w.vbytes = (if last then min vbytes (cdcShape (q % 16)).1 else (cdcShape (q % 16)).1) ∧ (last = false → w.data = word)) ∧
      (t.queue q).held = [] ∧ t = { s with cdc := t.cdc }) := by
  have hexec := exec_queueWrite (word := word) (vbytes := vbytes) (psec := psec) (last := last) hwriter hreader hheld
  have hpush := push_whole (c := holding (s.queue q) (written q word vbytes psec last)) (w := written q word vbytes psec last) hshape hpack
  obtain ⟨heop, hbytes, hdata⟩ := wideWord_one (vbytes := vbytes) (psec := psec) (last := last) hlen hshape
  rw [present_room hroom, hpush] at hexec
  refine completes_of_exec hexec ?_
  rw [queue_setQueue]
  exact ⟨rfl, rfl, rfl, ⟨_, tab_get?_set_self .., heop, hbytes, hdata⟩, rfl, rfl⟩

/-- The words that a queue holds after the next cycle. -/
theorem held_cdcCycle {c : Cdc} (hwriter : s.writerUp q = true) (hreader : s.readerUp q = true) (hget : Tab.get? s.cdc q = some c) : ((s.cdcCycle q).queue q).held = (c.present q true).held := by
  have hcycle : s.cdcCycle q = s.setQueue q ((((c.present q true).writeEdge c.rGray).discard q).readEdge c.wGray) := by
    rw [State.cdcCycle, hget, hwriter, hreader]
    rfl
  have hdiscard : ∀ d : Cdc, (d.discard q).held = d.held := fun d => by
    unfold Cdc.discard
    split
    · rfl
    · split
      · rfl
      · rfl
  rw [hcycle, queue_setQueue]
  exact hdiscard _

theorem queueWrite_held {word : List Byte} {vbytes psec : Nat} {last : Bool} (hwriter : s.writerUp q = true) (hreader : s.readerUp q = true)
    (hlen : word.length = (cdcShape (q % 16)).1) (hheld : (s.queue q).held = []) (hfull : (s.queue q).full q = true) :
    Completes (.queueWrite q word vbytes psec last) s (fun t => (t.queue q).wptr = (s.queue q).wptr ∧
      (t.queue q).entries = (s.queue q).entries ∧ (t.queue q).rSync = ((s.queue q).rGray, (s.queue q).rSync.1) ∧
      (∃ w, (t.queue q).held = [w] ∧ w.data = word ∧ w.eop = last ∧
        (((t.queue q).full q = true → ((t.cdcCycle q).queue q).held = [w]) ∧ ((t.queue q).full q = false → ((t.cdcCycle q).queue q).held = []))) ∧
      t = { s with cdc := t.cdc }) := by
  have hexec := exec_queueWrite (word := word) (vbytes := vbytes) (psec := psec) (last := last) hwriter hreader hheld
  rw [present_full hfull] at hexec
  have hpad : padTo (cdcShape (q % 16)).1 0 word = word := by simp [padTo, hlen]
  have hnext := held_cdcCycle (s := s.setQueue q ((holding (s.queue q) (written q word vbytes psec last)).writeEdge (s.queue q).rGray)) (q := q)
    hwriter hreader (tab_get?_set_self ..)
  refine completes_of_exec hexec ?_
  rw [queue_setQueue, hnext]
  refine ⟨rfl, rfl, rfl, ⟨written q word vbytes psec last, rfl, hpad, rfl, fun hstill => ?_, fun hfree => ?_⟩, rfl⟩
  · exact congrArg Cdc.held (present_full (c := (s.queue q).writeEdge (s.queue q).rGray) hstill)
  · exact congrArg Cdc.held (present_room (c := (s.queue q).writeEdge (s.queue q).rGray) hfree)

/-! Reads. -/

theorem queueRead_word (hwriter : s.writerUp q = true) (hreader : s.readerUp q = true) (hkeep : (s.queue q).dropping = false)
    (hany : (s.queue q).empty = false) : Completes (.queueRead q) s (fun t =>
      (t.queue q).rptr = ((s.queue q).rptr + 1) % ptrMod q ∧ (t.queue q).rGray = gray (t.queue q).rptr ∧
      t.out = s.out ++ [.queueWord q ((s.queue q).head q).data (queueTag ((s.queue q).head q))] ∧
      (t.queue q).wSync = ((s.queue q).wGray, (s.queue q).wSync.1) ∧ (t.queue q).inPkt = !((s.queue q).head q).eop ∧
      t = { s with cdc := t.cdc, out := t.out }) := by
  obtain ⟨hok, -⟩ := lt_of_readerUp hreader
  have hexec : exec (.queueRead q) s =
      .next ((s.setQueue q { (((s.queue q).pop q).readEdge (s.queue q).wGray) with inPkt := !((s.queue q).head q).eop }).send
        (.queueWord q ((s.queue q).head q).data (queueTag ((s.queue q).head q)))) := by
    rw [show exec (.queueRead q) s = execQueueRead q s from rfl, execQueueRead, hok, hreader, hwriter]
    dsimp only
    rw [hkeep, hany]
    rfl
  have hqueue : ∀ (c : Cdc) (m : Msg), ((s.setQueue q c).send m).queue q = c := fun c m => queue_setQueue s q c
  refine completes_of_exec hexec ?_
  rw [hqueue]
  exact ⟨rfl, rfl, rfl, rfl, rfl, rfl⟩

theorem queueRead_nothing (hwriter : s.writerUp q = true) (hreader : s.readerUp q = true) (hkeep : (s.queue q).dropping = false)
    (hempty : (s.queue q).empty = true) : Completes (.queueRead q) s (fun t =>
      (t.queue q).rptr = (s.queue q).rptr ∧ (∃ z, t.out = s.out ++ [.queueWord q z (2 ^ 15)] ∧ ∀ b ∈ z, b = 0) ∧
      (t.queue q).wSync = ((s.queue q).wGray, (s.queue q).wSync.1) ∧ t = { s with cdc := t.cdc, out := t.out }) := by
  obtain ⟨hok, -⟩ := lt_of_readerUp hreader
  have hexec : exec (.queueRead q) s = .next ((s.setQueue q ((s.queue q).readEdge (s.queue q).wGray)).notValid q) := by
    rw [show exec (.queueRead q) s = execQueueRead q s from rfl, execQueueRead, hok, hreader, hwriter]
    dsimp only
    rw [hkeep, hempty]
    rfl
  have hqueue : ∀ c : Cdc, ((s.setQueue q c).notValid q).queue q = c := fun c => queue_setQueue s q c
  refine completes_of_exec hexec ?_
  rw [hqueue]
  exact ⟨rfl, ⟨_, rfl, fun b hb => List.eq_of_mem_replicate hb⟩, rfl, rfl⟩

/-! Drops. -/

theorem queueDrop_counted (hwriter : s.writerUp q = true) (hreader : s.readerUp q = true) (hlen : s.slices.length = 4)
    (hkeep : (s.queue q).dropping = false) (hout : (s.queue q).inPkt = false) : Completes (.queueDrop q) s (fun t =>
      t.sreg (q / 16) 0x4100 = (s.sreg (q / 16) 0x4100 + 1) % 2 ^ 64 ∧ (t.queue q).rptr = (s.queue q).rptr ∧
      t = { s with cdc := t.cdc, slices := t.slices }) := by
  obtain ⟨-, hslice⟩ := lt_of_readerUp hreader
  have hexec : exec (.queueDrop q) s = .next ((s.setQueue q ((s.queue q).readEdge (s.queue q).wGray)).addSreg (q / 16) 0x4100 1) := by
    rw [show exec (.queueDrop q) s = execQueueDrop q s from rfl, execQueueDrop, hreader, hwriter]
    dsimp only
    rw [hkeep, hout]
    rfl
  have hqueue : ∀ c : Cdc, ((s.setQueue q c).addSreg (q / 16) 0x4100 1).queue q = c := fun c => queue_setQueue s q c
  refine completes_of_exec hexec ?_
  rw [hqueue]
  refine ⟨?_, rfl, rfl⟩
  rw [State.sreg, State.addSreg, State.setSreg, slc_modSlice _ _ _ _ (by rw [show (s.setQueue q ((s.queue q).readEdge (s.queue q).wGray)).slices = s.slices from rfl, hlen]; exact hslice),
    if_pos rfl, tab_getD_set_self]
  exact BitVec.toNat_ofNat ..

theorem discard_dropping (c : Cdc) (q : Nat) : (c.empty = true → (({ c with dropping := true } : Cdc).discard q) = { c with dropping := true }) ∧
    (c.empty = false → ((({ c with dropping := true } : Cdc).discard q).rptr = (c.rptr + 1) % ptrMod q ∧
      (({ c with dropping := true } : Cdc).discard q).dropping = !(c.head q).eop)) := by
  refine ⟨fun hempty => if_pos (by rw [Bool.not_true, Bool.false_or]; exact hempty), fun hany => ?_⟩
  have hgo : ({ c with dropping := true } : Cdc).discard q = _ :=
    if_neg (by rw [Bool.not_true, Bool.false_or]; exact fun hempty => Bool.false_ne_true (hany.symm.trans hempty))
  have hhead : ({ c with dropping := true } : Cdc).head q = c.head q := rfl
  rw [hgo, hhead]
  cases (c.head q).eop with
  | true => exact ⟨rfl, rfl⟩
  | false => exact ⟨rfl, rfl⟩

theorem queueDrop_packet (hwriter : s.writerUp q = true) (hreader : s.readerUp q = true) (hin : (s.queue q).inPkt = true) :
    Completes (.queueDrop q) s (fun t =>
      ((s.queue q).empty = true → (t.queue q).dropping = true ∧ (t.queue q).rptr = (s.queue q).rptr) ∧
      ((s.queue q).empty = false → (t.queue q).rptr = ((s.queue q).rptr + 1) % ptrMod q ∧ (t.queue q).dropping = !((s.queue q).head q).eop) ∧
      t = { s with cdc := t.cdc }) := by
  have hexec : exec (.queueDrop q) s =
      .next (s.setQueue q ((({ s.queue q with dropping := true } : Cdc).discard q).readEdge (s.queue q).wGray)) := by
    rw [show exec (.queueDrop q) s = execQueueDrop q s from rfl, execQueueDrop, hreader, hwriter]
    dsimp only
    rw [hin, Bool.or_true]
    rfl
  obtain ⟨hnone, hword⟩ := discard_dropping (s.queue q) q
  refine completes_of_exec hexec ?_
  rw [queue_setQueue]
  refine ⟨fun hempty => ?_, hword, rfl⟩
  rw [hnone hempty]
  exact ⟨rfl, rfl⟩

/-! Cycles. -/

/-- A queue after one edge of each side. -/
def edged (c : Cdc) : Cdc := { c with rSync := (c.rGray, c.rSync.1), wSync := (c.wGray, c.wSync.1) }

theorem cdcCycle_quiet {c : Cdc} (hwriter : s.writerUp q = true) (hreader : s.readerUp q = true) (hget : Tab.get? s.cdc q = some c)
    (hheld : c.held = []) (hkeep : c.dropping = false) : s.cdcCycle q = s.setQueue q (edged c) := by
  have hpresent : c.present q true = c := by rw [Cdc.present, hheld]
  have hdiscard : (c.writeEdge c.rGray).discard q = c.writeEdge c.rGray :=
    if_pos (by rw [show (c.writeEdge c.rGray).dropping = c.dropping from rfl, hkeep]; rfl)
  have hcycle : s.cdcCycle q = s.setQueue q ((((c.present q true).writeEdge c.rGray).discard q).readEdge c.wGray) := by
    rw [State.cdcCycle, hget, hwriter, hreader]
    rfl
  rw [hcycle, hpresent, hdiscard]
  rfl

theorem cdcCycle_two_edges {c : Cdc} (hwriter : s.writerUp q = true) (hreader : s.readerUp q = true) (hget : Tab.get? s.cdc q = some c)
    (hheld : c.held = []) (hkeep : c.dropping = false) :
    ((s.cdcCycle q).queue q) = { c with rSync := (c.rGray, c.rSync.1), wSync := (c.wGray, c.wSync.1) } ∧
    (((s.cdcCycle q).cdcCycle q).queue q) = { c with rSync := (c.rGray, c.rGray), wSync := (c.wGray, c.wGray) } := by
  rw [cdcCycle_quiet hwriter hreader hget hheld hkeep]
  refine ⟨queue_setQueue .., ?_⟩
  rw [cdcCycle_quiet (s := s.setQueue q (edged c)) (c := edged c) hwriter hreader (tab_get?_set_self ..) hheld hkeep, queue_setQueue]
  rfl

end

/-- Settles O59: pointers, words and edges of a queue, each from what its side does in a cycle. -/
theorem queuesMoveWords : Obligations.QueuesMoveWords := by
  unfold Obligations.QueuesMoveWords
  refine ⟨gray_inj, fun s q hwriter hreader hlen => ⟨fun word vbytes psec last hword hshape hpack hheld =>
      ⟨queueWrite_enters hwriter hreader hword hshape hpack hheld, queueWrite_held hwriter hreader hword hheld⟩,
    queueRead_word hwriter hreader, queueRead_nothing hwriter hreader, queueDrop_counted hwriter hreader hlen,
    fun _ => queueDrop_packet hwriter hreader, fun c => cdcCycle_two_edges hwriter hreader⟩⟩

end Sys2Proof.Proofs.Crossing
end

section
/-! Reads of sectors and the patrol (O53). -/

namespace Sys2Proof.Proofs.Scrubbing

open Sys2Proof Sys2Proof.Machine Sys2Proof.Claims Sys2Proof.Laws Sys2Proof.Proofs.Basic Sys2Proof.Proofs.Layer Sys2Proof.Proofs.LinkLayer
open Sys2Proof.Proofs.Thermal

/-! Channels. -/

theorem chan_congr {s t : State} (h : t.chans = s.chans) (k : Nat) : t.chan k = s.chan k := by rw [State.chan, State.chan, h]

/-- Marking leaves a channel but for its marks. -/
theorem markRow_chan (s : State) (k : Nat) (d : DRow) (unc : Bool) : ∃ m, (s.markRow k d unc).chan k = { s.chan k with marks := m } := by
  unfold State.markRow
  dsimp only
  split
  · exact ⟨_, rfl⟩
  · exact ⟨_, chan_modChan_self ..⟩

/-- A row that is not retired is marked from then on. -/
theorem markRow_marks {s : State} {k : Nat} {d : DRow} (unc : Bool) (h : d ∉ (s.chan k).retired) : ∃ b, (d, b) ∈ ((s.markRow k d unc).chan k).marks := by
  unfold State.markRow
  dsimp only
  split
  · rename_i hheld
    rw [Bool.or_eq_true, List.contains_iff_mem, List.any_eq_true] at hheld
    obtain ⟨⟨d', b⟩, hmem, heq⟩ := hheld.resolve_left h
    obtain rfl := eq_of_beq heq
    exact ⟨b, hmem⟩
  · rw [chan_modChan_self]
    exact ⟨unc, List.mem_append_right _ (List.mem_singleton.mpr rfl)⟩

/-- A sector that reads uncorrectable from now on. -/
theorem sector_insNat_bad (m : Mem) (j x : Nat) : ({ m with bad := insNat m.bad j } : Mem).sector x = if x = j then 2 else m.sector x := by
  unfold Mem.sector
  by_cases hx : x = j
  · rw [if_pos hx, if_pos (List.contains_iff_mem.mpr ((mem_insNat ..).mpr (.inl hx)))]
  · rw [if_neg hx]
    have hsame : (insNat m.bad j).contains x = m.bad.contains x := by
      simp [hx]
    rw [hsame]

/-! Outcomes of a read. -/

/-- A read that found its sector uncorrectable. -/
structure Hurt (k o : Nat) (s t : State) : Prop where
  dev : t.dev = { s.dev with bad := insNat s.dev.bad ((k * Config.stackBytes + o) / 32) }
  errs : t.errs.total = s.errs.total + 1
  cmds : t.cmds = s.cmds
  chan : ∃ m, t.chan k = { s.chan k with marks := m }
  marks : (placeOf o).1 ∉ (s.chan k).retired → ∃ b, ((placeOf o).1, b) ∈ (t.chan k).marks

section
variable (s : State) (k o : Nat)

/-- The state in which a sector is bad. -/
def badNow : State := { s with dev := { s.dev with bad := insNat s.dev.bad ((k * Config.stackBytes + o) / 32) } }

theorem uncorrectable_hurt : Hurt k o s (s.uncorrectable k o) := by
  obtain ⟨m, hchan⟩ := markRow_chan (badNow s k o) k (placeOf o).1 true
  have hmarks := markRow_marks (s := badNow s k o) (k := k) (d := (placeOf o).1) true
  have hentry := errEntry_total (((badNow s k o).markRow k (placeOf o).1 true).countMc k 7) (k / 3) 0x01 2 (natLE 1 k ++ natLE 8 (k * Config.stackBytes + o))
  have hchans : (s.uncorrectable k o).chans = ((badNow s k o).markRow k (placeOf o).1 true).chans := by simp [State.uncorrectable, badNow]
  refine ⟨by simp [State.uncorrectable], ?_, by simp [State.uncorrectable], ⟨m, ?_⟩, fun h => ?_⟩
  · refine hentry.trans ?_
    simp [badNow]
  · rw [chan_congr hchans]
    exact hchan
  · rw [chan_congr hchans]
    exact hmarks h

theorem parityError_hurt : Hurt k o s (s.parityError k o) := by
  obtain ⟨m, hchan⟩ := markRow_chan (badNow (s.countMc k 9) k o) k (placeOf o).1 true
  have hmarks := markRow_marks (s := badNow (s.countMc k 9) k o) (k := k) (d := (placeOf o).1) true
  have hentry := errEntry_total ((badNow (s.countMc k 9) k o).markRow k (placeOf o).1 true) (k / 3) 0x02 2
    (natLE 1 k ++ natLE 8 (k * Config.stackBytes + o))
  have hchans : (s.parityError k o).chans = ((badNow (s.countMc k 9) k o).markRow k (placeOf o).1 true).chans := by simp [State.parityError, badNow]
  refine ⟨by simp [State.parityError], ?_, by simp [State.parityError], ⟨m, ?_⟩, fun h => ?_⟩
  · refine hentry.trans ?_
    simp [badNow]
  · rw [chan_congr hchans]
    exact hchan
  · rw [chan_congr hchans]
    exact hmarks h

end

/-- A read that did not: what every other outcome leaves. -/
structure Sound (s t : State) (r : SectorResult) : Prop where
  chans : t.chans = s.chans
  cmds : t.cmds = s.cmds
  errs : t.errs = s.errs
  bytes : r ≠ .escaped → t.dev = s.dev

section
variable {s : State} {k o : Nat} {r : SectorResult}

/-- Whether an outcome leaves a sector uncorrectable. -/
def hurts (s : State) (k o : Nat) (r : SectorResult) : Bool :=
  r == .uncorrectable || r == .parity || (r == .corrected && s.dev.sector ((k * Config.stackBytes + o) / 32) == 4)

theorem sectorSeen_hurt (h : hurts s k o r = true) : Hurt k o s (s.sectorSeen k o r) := by
  cases r with
  | clean => exact absurd h Bool.false_ne_true
  | corrected =>
    have h4 : s.dev.sector ((k * Config.stackBytes + o) / 32) = 4 := eq_of_beq h
    have heq : s.sectorSeen k o .corrected = s.uncorrectable k o := if_pos h4
    rw [heq]
    exact uncorrectable_hurt s k o
  | uncorrectable => exact uncorrectable_hurt s k o
  | escaped => exact absurd h Bool.false_ne_true
  | parity => exact parityError_hurt s k o

theorem countMc_sound (s : State) (k i : Nat) (r : SectorResult) : Sound s (s.countMc k i) r := ⟨by simp, by simp, by simp, fun _ => by simp⟩

theorem sectorSeen_sound (h : hurts s k o r = false) : Sound s (s.sectorSeen k o r) r := by
  unfold State.sectorSeen
  cases r with
  | clean =>
    dsimp only
    split
    · exact countMc_sound ..
    · exact ⟨rfl, rfl, rfl, fun _ => rfl⟩
  | corrected =>
    have h4 : ¬ s.dev.sector ((k * Config.stackBytes + o) / 32) = 4 := fun h4 => Bool.false_ne_true (h.symm.trans (beq_iff_eq.mpr h4))
    dsimp only
    rw [if_neg h4]
    exact countMc_sound ..
  | uncorrectable => simp [hurts] at h
  | escaped =>
    dsimp only
    split
    · exact ⟨rfl, rfl, rfl, fun _ => rfl⟩
    · exact ⟨by simp, by simp, by simp, fun hne => absurd rfl hne⟩
  | parity => simp [hurts] at h

end

/-! Reads that are asked for. -/

section
variable {s : State} {k : Fin 12} {o : Nat} {r : SectorResult} {p : Bool}

/-- The state in which a retry is counted. -/
def retryNoted (s : State) (k : Nat) (r : SectorResult) (p : Bool) : State := if p && r != .parity then s.countMc k 9 else s

theorem retryNoted_slicesOnly (s : State) (k : Nat) (r : SectorResult) (p : Bool) : SlicesOnly s (retryNoted s k r p) := by
  unfold retryNoted
  split
  · exact rfl
  · exact rfl

/-- A read's outcome, with the mark of a sector that is met once more. -/
def readSector (s u : State) (k o : Nat) (r : SectorResult) : State :=
  if s.corrects k o r && (s.chan k).again ((k * Config.stackBytes + o) / 32) then (u.sectorSeen k o r).markRow k (placeOf o).1 false
  else u.sectorSeen k o r

theorem exec_sectorRead (hup : s.sliceUp (k.val / 3) = true) (ho : o < Config.stackBytes) :
    exec (.sectorRead k o r p) s = .next (readSector s (retryNoted s k.val r p) k.val o r) := by
  have hgo : ¬ (!s.sliceUp (k.val / 3) || decide (Config.stackBytes ≤ o)) = true := by
    rw [hup, decide_eq_false (not_le.mpr ho)]
    decide
  have hexec : exec (.sectorRead k o r p) s = _ := if_neg hgo
  rw [hexec, readSector]
  split
  · rfl
  · rfl

theorem readSector_uncorrected {u : State} {k : Nat} (h : s.corrects k o r = false) : readSector s u k o r = u.sectorSeen k o r := by
  rw [readSector, h]
  rfl

theorem clean_read (hup : s.sliceUp (k.val / 3) = true) (ho : o < Config.stackBytes) :
    Completes (.sectorRead k o .clean p) s (fun t => t = { s with slices := t.slices }) := by
  refine completes_of_exec (exec_sectorRead hup ho) ?_
  rw [readSector_uncorrected rfl, State.sectorSeen]
  split
  · exact (retryNoted_slicesOnly ..).trans rfl
  · exact retryNoted_slicesOnly ..

theorem corrected_read (hup : s.sliceUp (k.val / 3) = true) (ho : o < Config.stackBytes)
    (h : s.dev.sector ((k.val * Config.stackBytes + o) / 32) ≠ 4) :
    Completes (.sectorRead k o .corrected p) s (fun t => t.dev = s.dev ∧ t.cmds = s.cmds ∧ t.errs = s.errs) := by
  have honly := retryNoted_slicesOnly s k.val .corrected p
  refine completes_of_exec (exec_sectorRead hup ho) ?_
  generalize retryNoted s k.val .corrected p = u at *
  have hsound : Sound u (u.sectorSeen k.val o .corrected) .corrected := sectorSeen_sound (by
    rw [hurts, honly]
    simp [h])
  have hkept : (u.sectorSeen k.val o .corrected).dev = s.dev ∧ (u.sectorSeen k.val o .corrected).cmds = s.cmds ∧
      (u.sectorSeen k.val o .corrected).errs = s.errs := by
    rw [hsound.bytes (by decide), hsound.cmds, hsound.errs, honly]
    exact ⟨rfl, rfl, rfl⟩
  unfold readSector
  split
  · simpa using hkept
  · exact hkept

theorem hurt_read (hup : s.sliceUp (k.val / 3) = true) (ho : o < Config.stackBytes) {a : Nat} (ha : a = k.val * Config.stackBytes + o)
    (hr : r = .uncorrectable ∨ r = .parity ∨ (r = .corrected ∧ s.dev.sector (a / 32) = 4)) : Completes (.sectorRead k o r p) s (fun t =>
      t.dev.sector (a / 32) = 2 ∧ (∀ x, x ≠ a / 32 → t.dev.sector x = s.dev.sector x) ∧
      (∀ x, t.dev.byte x = s.dev.byte x) ∧ t.errs.total = s.errs.total + 1 ∧ t.cmds = s.cmds ∧
      ((placeOf o).1 ∉ (s.chan k.val).retired → ∃ b, ((placeOf o).1, b) ∈ (t.chan k.val).marks)) := by
  subst ha
  have honly := retryNoted_slicesOnly s k.val r p
  have hno : s.corrects k.val o r = false := by
    rcases hr with rfl | rfl | ⟨rfl, h4⟩
    · rfl
    · rfl
    · simp [State.corrects, h4]
  have hhurts : hurts s k.val o r = true := by
    rcases hr with rfl | rfl | ⟨rfl, h4⟩
    · simp [hurts]
    · simp [hurts]
    · simp [hurts, h4]
  refine completes_of_exec (exec_sectorRead hup ho) ?_
  rw [readSector_uncorrected hno]
  generalize retryNoted s k.val r p = u at *
  have hhurt : Hurt k.val o u (u.sectorSeen k.val o r) := sectorSeen_hurt (by rw [honly]; exact hhurts)
  obtain ⟨hdev, herrs, hcmds, -, hmarks⟩ := hhurt
  have hsector := sector_insNat_bad s.dev ((k.val * Config.stackBytes + o) / 32)
  have hdev' : u.dev = s.dev := by rw [honly]
  rw [hdev'] at hdev
  rw [hdev]
  refine ⟨(hsector _).trans (if_pos rfl), fun x hx => (hsector x).trans (if_neg hx), fun x => rfl, ?_, ?_, fun h => hmarks ?_⟩
  · rw [herrs, honly]
  · rw [hcmds, honly]
  · rw [honly]
    exact h

theorem escaped_read (hs : s.inv) (hup : s.sliceUp (k.val / 3) = true) (ho : o < Config.stackBytes) {a : Nat} (ha : a = k.val * Config.stackBytes + o)
    (h : s.dev.sector (a / 32) = 0) : Completes (.sectorRead k o .escaped p) s (fun t =>
      (∀ i, i < 32 → t.dev.byte (a / 32 * 32 + i) = Config.freeByte (s.freeCtr + i)) ∧
      sameBytes (off (a / 32 * 32) 32) s t ∧ t = { s with dev := t.dev, freeCtr := s.freeCtr + 32, slices := t.slices }) := by
  subst ha
  have honly := retryNoted_slicesOnly s k.val .escaped p
  refine completes_of_exec (exec_sectorRead hup ho) ?_
  rw [readSector_uncorrected rfl]
  generalize retryNoted s k.val .escaped p = u at *
  have hdev : u.dev = s.dev := by rw [honly]
  have hfree : u.freeBytes 32 = s.freeBytes 32 := by rw [honly]; rfl
  have hlen : (s.freeBytes 32).length = 32 := by simp [State.freeBytes]
  have hseen : u.sectorSeen k.val o .escaped =
      { (u.devPut ((k.val * Config.stackBytes + o) / 32 * 32) (s.freeBytes 32)) with freeCtr := u.freeCtr + 32 } := by
    rw [State.sectorSeen]
    dsimp only
    rw [hdev, if_neg (not_not.mpr h), hfree]
  rw [hseen]
  generalize (k.val * Config.stackBytes + o) / 32 * 32 = b at *
  have hget : ∀ i, i < 32 → (s.freeBytes 32).getD i 0 = Config.freeByte (s.freeCtr + i) := fun i hi => by simp [State.freeBytes, hi]
  generalize s.freeBytes 32 = l at *
  refine ⟨fun i hi => ?_, fun x hx => ?_, ?_⟩
  · show (u.dev.writeClean b l).byte (b + i) = _
    rw [hdev, Mem.writeClean, byte_write _ _ _ _ hs, if_pos (by rw [cleanBytes_length]; omega), Nat.add_sub_cancel_left, dataOf_cleanBytes]
    exact hget i hi
  · exact (byte_devPut_of_off u b x _ (by rw [hlen]; exact hx)).trans (by rw [hdev])
  · rw [honly]
    rfl

theorem escaped_read_poisoned (hup : s.sliceUp (k.val / 3) = true) (ho : o < Config.stackBytes) {a : Nat} (ha : a = k.val * Config.stackBytes + o)
    (h : s.dev.sector (a / 32) ≠ 0) : Completes (.sectorRead k o .escaped p) s (fun t => t = { s with slices := t.slices }) := by
  subst ha
  have honly := retryNoted_slicesOnly s k.val .escaped p
  refine completes_of_exec (exec_sectorRead hup ho) ?_
  rw [readSector_uncorrected rfl]
  generalize retryNoted s k.val .escaped p = u at *
  have hdev : u.dev = s.dev := by rw [honly]
  have hseen : u.sectorSeen k.val o .escaped = u := by
    rw [State.sectorSeen]
    dsimp only
    rw [hdev, if_pos h]
  rw [hseen]
  exact honly

end

/-! The patrol. -/

section
variable {s : State} {k : Fin 12} {r : SectorResult}

/-- A read leaves the patrol and the commands, and one that detects what it meets leaves the data. -/
theorem sectorSeen_leaves (s : State) (k o : Nat) (r : SectorResult) : ((s.sectorSeen k o r).chan k).patrol = (s.chan k).patrol ∧
    (r ≠ .escaped → ∀ x, (s.sectorSeen k o r).dev.byte x = s.dev.byte x) ∧ (s.sectorSeen k o r).cmds = s.cmds := by
  cases hh : hurts s k o r with
  | true =>
    obtain ⟨hdev, -, hcmds, ⟨m, hchan⟩, -⟩ := sectorSeen_hurt hh
    refine ⟨by rw [hchan], fun _ x => ?_, hcmds⟩
    rw [hdev]
    rfl
  | false =>
    obtain ⟨hchans, hcmds, -, hdev⟩ := sectorSeen_sound hh
    exact ⟨by rw [chan_congr hchans], fun hne x => by rw [hdev hne], hcmds⟩

theorem patrolFix_leaves (s : State) (k : Nat) : ((s.patrolFix k).chan k).patrol = (s.chan k).patrol ∧ (s.patrolFix k).dev = s.dev ∧
    (s.patrolFix k).cmds = s.cmds := by
  unfold State.patrolFix
  dsimp only
  generalize insNat (s.chan k).fixed (k * stackSectors + (s.chan k).patrol) = fixed
  split
  · obtain ⟨m, hm⟩ := markRow_chan (s.modChan k (fun c => { c with fixed := fixed })) k (placeOf (32 * (s.chan k).patrol)).1 false
    rw [hm, chan_modChan_self]
    refine ⟨rfl, ?_, ?_⟩
    · simp [State.modChan]
    · simp [State.modChan]
  · rw [chan_modChan_self]
    exact ⟨rfl, rfl, rfl⟩

theorem patrolOn_next (s : State) (k : Nat) :
    ((s.patrolOn k).chan k).patrol = (if (s.chan k).patrol + 1 < stackSectors then (s.chan k).patrol + 1 else 0) ∧
    (s.patrolOn k).dev = s.dev ∧ (s.patrolOn k).cmds = s.cmds := by
  unfold State.patrolOn
  dsimp only
  split
  · rw [chan_modChan_self]
    exact ⟨rfl, rfl, rfl⟩
  · rw [chan_modChan_self]
    exact ⟨rfl, rfl, rfl⟩

/-- The patrol's read, with what a correction leads to. -/
def patrolRead (s : State) (k : Nat) (r : SectorResult) : State :=
  if s.corrects k (32 * (s.chan k).patrol) r then (s.sectorSeen k (32 * (s.chan k).patrol) r).patrolFix k
  else s.sectorSeen k (32 * (s.chan k).patrol) r

theorem patrolRead_leaves (s : State) (k : Nat) (r : SectorResult) : ((patrolRead s k r).chan k).patrol = (s.chan k).patrol ∧
    (r ≠ .escaped → ∀ x, (patrolRead s k r).dev.byte x = s.dev.byte x) ∧ (patrolRead s k r).cmds = s.cmds := by
  obtain ⟨hpatrol, hbytes, hcmds⟩ := sectorSeen_leaves s k (32 * (s.chan k).patrol) r
  unfold patrolRead
  generalize s.sectorSeen k (32 * (s.chan k).patrol) r = u at *
  split
  · obtain ⟨hpatrol', hdev, hcmds'⟩ := patrolFix_leaves u k
    exact ⟨hpatrol'.trans hpatrol, fun hne x => by rw [hdev]; exact hbytes hne x, hcmds'.trans hcmds⟩
  · exact ⟨hpatrol, hbytes, hcmds⟩

theorem patrol_goes_on (hup : s.sliceUp (k.val / 3) = true) (hready : s.boot.ready = true) (hcool : (s.chan k.val).state ≠ 3) :
    Completes (.scrubPatrol k r) s (fun t =>
      (t.chan k.val).patrol = (if (s.chan k.val).patrol + 1 < stackSectors then (s.chan k.val).patrol + 1 else 0) ∧
      (r ≠ .escaped → ∀ x, t.dev.byte x = s.dev.byte x) ∧ t.cmds = s.cmds) := by
  have hgo : ¬ (!s.sliceUp (k.val / 3) || !s.boot.ready || (s.chan k.val).state == 3) = true := by simp [hup, hready, hcool]
  have hexec : exec (.scrubPatrol k r) s = .next ((patrolRead s k.val r).patrolOn k.val) := if_neg hgo
  obtain ⟨hpatrol, hbytes, hcmds⟩ := patrolRead_leaves s k.val r
  obtain ⟨hnext, hdev, hcmds'⟩ := patrolOn_next (patrolRead s k.val r) k.val
  refine completes_of_exec hexec ?_
  generalize patrolRead s k.val r = u at *
  refine ⟨by rw [hnext, hpatrol], fun hne x => ?_, hcmds'.trans hcmds⟩
  rw [hdev, hbytes hne x]

theorem patrol_rests (hhot : (s.chan k.val).state = 3) : Gives (.scrubPatrol k r) s s := if_pos (by simp [hhot])

theorem late_once (hup : s.sliceUp (k.val / 3) = true) (hready : s.boot.ready = true) (hnew : (s.chan k.val).late = false)
    (hlong : (s.chan k.val).passStart + 43200000000000 ≤ (s.slc (k.val / 3)).tick) :
    Completes (.scrubLate k) s (fun t => t.chan k.val = { s.chan k.val with late := true } ∧ t.errs.total = s.errs.total + 1 ∧ t.dev = s.dev ∧
      Gives (.scrubLate k) t t) := by
  have hexec : exec (.scrubLate k) s =
      .next ((s.modChan k.val (fun c => { c with late := true })).errEntry (k.val / 3) 0x07 0 (natLE 1 k.val)) :=
    if_pos (by simp [hup, hready, hnew, hlong])
  have hframe : ((s.modChan k.val (fun c => { c with late := true })).errEntry (k.val / 3) 0x07 0 (natLE 1 k.val)).chans =
      (s.modChan k.val (fun c => { c with late := true })).chans := by simp
  have hchan := (chan_congr hframe k.val).trans (chan_modChan_self ..)
  have htotal := errEntry_total (s.modChan k.val (fun c => { c with late := true })) (k.val / 3) 0x07 0 (natLE 1 k.val)
  have hdev : ((s.modChan k.val (fun c => { c with late := true })).errEntry (k.val / 3) 0x07 0 (natLE 1 k.val)).dev = s.dev := by
    simp [State.modChan]
  refine completes_of_exec hexec ⟨hchan, htotal, hdev, if_neg ?_⟩
  rw [hchan]
  simp

end

/-- Settles O53: each outcome of a read through what it hurts, and the patrol's round. -/
theorem sectorReadsAndPatrol : Obligations.SectorReadsAndPatrol := by
  unfold Obligations.SectorReadsAndPatrol
  intro s k hs hup
  refine ⟨fun o a ho ha => ⟨fun p => clean_read hup ho, fun p h => corrected_read hup ho (by rw [← ha]; exact h), fun p r hr => hurt_read hup ho ha hr,
    fun p h => escaped_read hs hup ho ha h, fun p h => escaped_read_poisoned hup ho ha h⟩,
    fun hready hcool r => patrol_goes_on hup hready hcool, fun hhot r => patrol_rests hhot, late_once hup⟩

end Sys2Proof.Proofs.Scrubbing
end

section
/-! Registers written under a mask, and the registers of a slice page. -/

namespace Sys2Proof.Proofs.MaskedWrites

open Sys2Proof Sys2Proof.Machine Sys2Proof.Claims Sys2Proof.Laws Sys2Proof.Proofs.Basic Sys2Proof.Proofs.Layer Sys2Proof.Proofs.BitFields

/-! Sums of numbers without a common bit. -/

theorem add_eq_or_of_disjoint {a b : Nat} (h : a &&& b = 0) : a + b = a ||| b := by
  have hsum : a + b < 2 ^ (a + b + 1) := (Nat.lt_succ_self _).trans Nat.lt_two_pow_self
  have ha : a < 2 ^ (a + b + 1) := by omega
  have hb : b < 2 ^ (a + b + 1) := by omega
  have hand : BitVec.ofNat (a + b + 1) a &&& BitVec.ofNat (a + b + 1) b = 0#(a + b + 1) := by
    rw [← BitVec.ofNat_and, h]
  have heq := congrArg BitVec.toNat (BitVec.add_eq_or_of_and_eq_zero _ _ hand)
  rw [BitVec.toNat_add, BitVec.toNat_or, BitVec.toNat_ofNat, BitVec.toNat_ofNat, Nat.mod_eq_of_lt ha, Nat.mod_eq_of_lt hb, Nat.mod_eq_of_lt hsum] at heq
  exact heq

/-- `v` with the bits of `m` taken from `d`. -/
def masked (v m d : Nat) : Nat := v - (v &&& m) + (d &&& m)

/-- The bits of a number outside a mask. -/
theorem sub_and_mask (v m : Nat) : v - (v &&& m) = v ^^^ (v &&& m) := by
  have hdisjoint : (v ^^^ (v &&& m)) &&& (v &&& m) = 0 := by
    refine Nat.eq_of_testBit_eq fun i => ?_
    simp only [Nat.testBit_and, Nat.testBit_xor, Nat.zero_testBit]
    cases v.testBit i <;> cases m.testBit i <;> rfl
  have hall : (v ^^^ (v &&& m)) ||| (v &&& m) = v := by
    refine Nat.eq_of_testBit_eq fun i => ?_
    simp only [Nat.testBit_or, Nat.testBit_and, Nat.testBit_xor]
    cases v.testBit i <;> cases m.testBit i <;> rfl
  have hsum := add_eq_or_of_disjoint hdisjoint
  omega

theorem testBit_masked (v m d i : Nat) : (masked v m d).testBit i = if m.testBit i then d.testBit i else v.testBit i := by
  have hdisjoint : (v ^^^ (v &&& m)) &&& (d &&& m) = 0 := by
    refine Nat.eq_of_testBit_eq fun i => ?_
    simp only [Nat.testBit_and, Nat.testBit_xor, Nat.zero_testBit]
    cases v.testBit i <;> cases m.testBit i <;> simp
  rw [masked, sub_and_mask, add_eq_or_of_disjoint hdisjoint]
  simp only [Nat.testBit_or, Nat.testBit_and, Nat.testBit_xor]
  cases v.testBit i <;> cases m.testBit i <;> simp

theorem masked_lt {v m d n : Nat} (hv : v < 2 ^ n) (hm : m < 2 ^ n) : masked v m d < 2 ^ n := by
  refine Nat.lt_pow_two_of_testBit _ fun i hi => ?_
  have hle : 2 ^ n ≤ 2 ^ i := Nat.pow_le_pow_right (by decide) hi
  rw [testBit_masked, Nat.testBit_lt_two_pow (hm.trans_le hle), Nat.testBit_lt_two_pow (hv.trans_le hle)]
  rfl

theorem bitAt_masked_in (v d : Nat) {m i : Nat} (h : m.testBit i = true) : bitAt (masked v m d) i = bitAt d i := by
  rw [bitAt_eq_testBit, testBit_masked, if_pos h, bitAt_eq_testBit]

theorem bitAt_masked_off (v d : Nat) {m i : Nat} (h : m.testBit i = false) : bitAt (masked v m d) i = bitAt v i := by
  rw [bitAt_eq_testBit, testBit_masked, h, if_neg (by decide), bitAt_eq_testBit]

/-! Slice pages. -/

theorem sreg_lt (s : State) (n o : Nat) : s.sreg n o < 2 ^ 64 := (Tab.getD (s.slc n).regs o 0).isLt

section
variable {s : State} {n : Nat} (hn : n < s.slices.length)
include hn

theorem sreg_setSreg (o j v : Nat) : (s.setSreg n o v).sreg n j = if j = o then v % 2 ^ 64 else s.sreg n j := by
  rw [State.sreg, State.setSreg, slc_modSlice _ _ _ _ hn, if_pos rfl]
  by_cases hj : j = o
  · rw [if_pos hj, hj, tab_getD_set_self, BitVec.toNat_ofNat]
  · rw [if_neg hj, tab_getD_set_other _ _ _ _ _ hj]
    rfl

theorem sreg_setSreg_self (o : Nat) {v : Nat} (h : v < 2 ^ 64) : (s.setSreg n o v).sreg n o = v := by
  rw [sreg_setSreg hn, if_pos rfl, Nat.mod_eq_of_lt h]

theorem sreg_setSreg_other {o j : Nat} (v : Nat) (h : j ≠ o) : (s.setSreg n o v).sreg n j = s.sreg n j := by
  rw [sreg_setSreg hn, if_neg h]

end

theorem setSreg_slicesOnly (s : State) (n o v : Nat) : SlicesOnly s (s.setSreg n o v) := rfl

/-- A write to a slice page leaves its slices in number. -/
@[simp] theorem length_setSreg (s : State) (n o v : Nat) : (s.setSreg n o v).slices.length = s.slices.length := List.length_set ..

end Sys2Proof.Proofs.MaskedWrites
end

section
/-! Temperature, the split and the traffic generator (O55). -/

namespace Sys2Proof.Proofs.ChannelTests

open Sys2Proof Sys2Proof.Machine Sys2Proof.Claims Sys2Proof.Laws Sys2Proof.Proofs.Basic Sys2Proof.Proofs.Layer Sys2Proof.Proofs.BitFields
open Sys2Proof.Proofs.MaskedWrites Sys2Proof.Proofs.Thermal Sys2Proof.Proofs.Scrubbing Sys2Proof.Proofs.Skew

/-! Temperature. -/

theorem chan_modChan_other (s : State) {k j : Nat} (f : Chan → Chan) (h : j ≠ k) : (s.modChan k f).chan j = s.chan j :=
  tab_getD_set_other _ _ _ _ _ h

/-- Nothing but channels and what a report leaves differs. -/
structure SampleOnly (k : Nat) (s t : State) : Prop where
  others : ∀ j, j ≠ k → t.chan j = s.chan j
  dev : t.dev = s.dev
  cmds : t.cmds = s.cmds

theorem sampleOnly_of_frame {k : Nat} {s t u : State} (h : SampleOnly k s t) (hchans : u.chans = t.chans) (hdev : u.dev = t.dev) (hcmds : u.cmds = t.cmds) :
    SampleOnly k s u :=
  ⟨fun j hj => (chan_congr hchans j).trans (h.others j hj), hdev.trans h.dev, hcmds.trans h.cmds⟩

/-- A sample leaves the other channels, memory and the commands. -/
theorem thermalSample_only (s : State) (k : Fin 12) (value : Option Nat) : Completes (.thermalSample k value) s (SampleOnly k.val s) := by
  have hexec : exec (.thermalSample k value) s = execThermalSample k value s := rfl
  rw [Completes, hexec]
  unfold execThermalSample
  lift_lets
  extract_lets k' c c1 s1 s2 s3
  have h1 : SampleOnly k' s s1 := ⟨fun j hj => chan_modChan_other s _ hj, rfl, rfl⟩
  have h2 : SampleOnly k' s s2 := by
    by_cases hthird : c1.badReads = 3
    · simp only [s2, if_pos hthird]
      exact sampleOnly_of_frame h1 (by simp) (by simp) (by simp)
    · simpa only [s2, if_neg hthird] using h1
  have h3 : SampleOnly k' s s3 := by
    by_cases hsame : c1.state = c.state
    · simpa only [s3, if_pos hsame] using h2
    · simp only [s3, if_neg hsame]
      exact sampleOnly_of_frame h2 (by simp) (by simp) (by simp)
  by_cases hup : (!s.sliceUp (k' / 3)) = true
  · exact ⟨s, if_pos hup, fun _ _ => rfl, rfl, rfl⟩
  · rw [if_neg hup]
    by_cases hnormal : c1.state = 0
    · exact ⟨s3, if_pos hnormal, h3⟩
    · exact ⟨_, if_neg hnormal, sampleOnly_of_frame h3 rfl rfl rfl⟩

/-! A reading below 95 °C, state by state. -/

section
variable {v : Nat} (h : v < 95)
include h

theorem thermal_low (a b c : Nat) : (if 100 ≤ v then a else if 95 ≤ v then b else c) = c := by
  rw [if_neg (by omega), if_neg (by omega)]

theorem thermalNext_three : thermalNext 3 v = 2 := thermal_low h ..

theorem thermalNext_two : thermalNext 2 v = if v < 93 then 1 else 2 := thermal_low h ..

theorem thermalNext_one : thermalNext 1 v = if v < 83 then 0 else 1 := thermal_low h ..

theorem thermalNext_zero : thermalNext 0 v = if 85 ≤ v then 1 else 0 := thermal_low h ..

end

/-- The steps of Table 13-3. -/
theorem thermalNext_steps (st v : Nat) : (100 ≤ v → thermalNext st v = 3) ∧ (95 ≤ v → v < 100 → 2 ≤ thermalNext st v) ∧
    (93 ≤ v → v < 95 → st = 2 → thermalNext st v = 2) ∧ (v < 93 → st = 2 → thermalNext st v = 1) ∧
    (83 ≤ v → v < 95 → st = 1 → thermalNext st v = 1) ∧ (v < 83 → st = 1 → thermalNext st v = 0) ∧
    (85 ≤ v → v < 95 → st = 0 → thermalNext st v = 1) ∧ (v < 85 → st = 0 → thermalNext st v = 0) ∧
    (v < 95 → st = 3 → thermalNext st v = 2) := by
  refine ⟨fun h => if_pos h, fun h1 h2 => ?_, fun h1 h2 hst => ?_, fun h hst => ?_, fun h1 h2 hst => ?_, fun h hst => ?_, fun h1 h2 hst => ?_, fun h hst => ?_,
    fun h hst => ?_⟩
  · unfold thermalNext
    rw [if_neg (by omega), if_pos h1]
    exact le_max_right ..
  · rw [hst, thermalNext_two h2]
    exact if_neg (by omega)
  · rw [hst, thermalNext_two (by omega)]
    exact if_pos h
  · rw [hst, thermalNext_one h2]
    exact if_neg (by omega)
  · rw [hst, thermalNext_one (by omega)]
    exact if_pos h
  · rw [hst, thermalNext_zero h2]
    exact if_pos h1
  · rw [hst, thermalNext_zero (by omega)]
    exact if_neg (by omega)
  · rw [hst, thermalNext_three h]

/-! The split. -/

theorem tab_getD_map {α β : Type} (t : Tab α) (f : α → β) (k : Nat) (d : α) : Tab.getD (t.map (fun p => (p.1, f p.2))) k (f d) = f (Tab.getD t k d) := by
  unfold Tab.getD
  induction t with
  | nil => rfl
  | cons p r ih =>
    rw [List.map_cons, Tab.get?, Tab.get?]
    split
    · rfl
    · exact ih

/-- A channel in its next frame. -/
def framed (c : Chan) : Chan :=
  match c.nextSplit with
  | some v => { c with split := v, nextSplit := none }
  | none => c

theorem chan_frames (s : State) (k : Nat) : s.frames.chan k = framed (s.chan k) := tab_getD_map s.chans framed k {}

theorem split_selected {s : State} {k : Fin 12} (hup : s.sliceUp (k.val / 3) = true) {plans : List Nat} {p : Nat} {v : PlanSlot} (hmin : plans.min? = some p)
    (hplan : Tab.get? s.plans p = some v) : Completes (.splitReselect k plans) s (fun t =>
      t.chan k.val = { s.chan k.val with nextSplit := some (field v.image 0x18 4) } ∧ (t.frames.chan k.val).split = field v.image 0x18 4 ∧
      t = { s with chans := t.chans }) := by
  have hexec : exec (.splitReselect k plans) s = .next (s.modChan k.val (fun c => { c with nextSplit := some (field v.image 0x18 4) })) := by
    rw [show exec (.splitReselect k plans) s = execSplitReselect k plans s from rfl, execSplitReselect, hup, hmin]
    dsimp only
    rw [hplan]
    rfl
  refine completes_of_exec hexec ⟨chan_modChan_self .., ?_, rfl⟩
  rw [chan_frames, chan_modChan_self]
  rfl

theorem channelsAreSampled : Sys2Proof.Claims.ChannelsAreSampled := by
  intro s k hup
  refine ⟨fun v _ => ?_, fun plans p v => split_selected hup⟩
  obtain ⟨t, hexec, htakes⟩ := thermalSample_takesSample s k (some v) hup
  obtain ⟨t', hexec', honly⟩ := thermalSample_only s k (some v)
  obtain rfl : t = t' := Host.Outcome.next.inj (hexec.symm.trans hexec')
  obtain ⟨-, hstate⟩ := htakes.good_read
  refine ⟨t, hexec, ?_⟩
  dsimp only
  rw [hstate]
  obtain ⟨h1, h2, h3, h4, h5, h6, h7, h8, h9⟩ := thermalNext_steps (s.chan k.val).thermal v
  exact ⟨h1, h2, h3, h4, h5, h6, h7, h8, h9, honly.others, honly.dev, honly.cmds⟩

/-! Starts and stops of the generator. -/

theorem tgReg_ne (i : Nat) {a b : Nat} (h : a ≠ b) : tgReg i a ≠ tgReg i b := by
  unfold tgReg
  omega

section
variable {s : State} {n : Fin 4} {i : Fin 3} {data : Word} (hport : s.portUp n.val = true) (hlen : s.slices.length = 4)

/-- The last stage of a control write: the quasi-static fields. -/
def tgFielded (s : State) (n i data : Nat) : State := s.setSreg n (tgReg i 0) (masked (s.sreg n (tgReg i 0)) tgFields data)

theorem tgFielded_bit {s : State} {n : Nat} (hn : n < s.slices.length) (i data j : Nat) (hj : Nat.testBit tgFields j = false) :
    bitAt ((tgFielded s n i data).sreg n (tgReg i 0)) j = bitAt (s.sreg n (tgReg i 0)) j := by
  rw [tgFielded, sreg_setSreg_self hn _ (masked_lt (sreg_lt ..) (by decide)), bitAt_masked_off _ _ hj]

theorem tgFielded_other {s : State} {n : Nat} (hn : n < s.slices.length) (i data : Nat) {o : Nat} (ho : o ≠ 0) :
    (tgFielded s n i data).sreg n (tgReg i o) = s.sreg n (tgReg i o) := sreg_setSreg_other hn _ (tgReg_ne i ho)

theorem chan_tgFielded (s : State) (n i data k : Nat) : (tgFielded s n i data).chan k = s.chan k := chan_congr (by simp [tgFielded]) k

/-- A run that has just begun. -/
def begun (s : State) (n i : Nat) : TgRun :=
  { lo := s.sreg n (tgReg i 8), hi := s.sreg n (tgReg i 0x10), check := bitAt (s.sreg n (tgReg i 0)) 33, rdPct := bits (s.sreg n (tgReg i 0)) 55 48,
    size := bits (s.sreg n (tgReg i 0)) 47 42, pattern := bits (s.sreg n (tgReg i 0)) 39 36, seed := s.sreg n (tgReg i 0x18),
    left := if s.sreg n (tgReg i 0) % 2 ^ 32 = 0 then none else some (s.sreg n (tgReg i 0) % 2 ^ 32),
    fill := if bitAt (s.sreg n (tgReg i 0)) 33 then s.sreg n (tgReg i 8) else s.sreg n (tgReg i 0x10), pos := s.sreg n (tgReg i 8) }

/-- The state with the registers of a run that begins. -/
def resultsCleared (s : State) (n i : Nat) : State := (s.setSreg n (tgReg i 0x20) 0).setSreg n (tgReg i 0x28) 0

def startShown (s : State) (n i : Nat) : State :=
  (resultsCleared s n i).setSreg n (tgReg i 0) (putBit (putBit (s.sreg n (tgReg i 0)) 63 true) 62 true)

/-- A channel with a run in progress. -/
def runs (g : TgRun) (c : Chan) : Chan := { c with tg := some g }

theorem tgStart_eq (s : State) (n i : Nat) : s.tgStart n i = (startShown s n i).modChan (3 * n + i) (runs (begun s n i)) := rfl

theorem sreg_modChan (s : State) (k n o : Nat) (f : Chan → Chan) : (s.modChan k f).sreg n o = s.sreg n o := rfl

theorem length_tgStart (s : State) (n i : Nat) : (s.tgStart n i).slices.length = s.slices.length := by
  have hframe : (s.tgStart n i).slices = (startShown s n i).slices := rfl
  rw [hframe, startShown, length_setSreg, resultsCleared, length_setSreg, length_setSreg]

theorem chan_tgStart (s : State) (n i : Nat) : (s.tgStart n i).chan (3 * n + i) = runs (begun s n i) (s.chan (3 * n + i)) := by
  have hchan : (startShown s n i).chan (3 * n + i) = s.chan (3 * n + i) := rfl
  rw [tgStart_eq, chan_modChan_self, hchan]

theorem tgStart_ctl {s : State} {n : Nat} (hn : n < s.slices.length) (i : Nat) :
    (s.tgStart n i).sreg n (tgReg i 0) = putBit (putBit (s.sreg n (tgReg i 0)) 63 true) 62 true := by
  have hlen : n < (resultsCleared s n i).slices.length := by rw [resultsCleared, length_setSreg, length_setSreg]; exact hn
  rw [tgStart_eq, sreg_modChan, startShown, sreg_setSreg_self hlen _ (putBit_lt (putBit_lt (sreg_lt ..) (by decide) _) (by decide) _)]

theorem tgStart_result {s : State} {n : Nat} (hn : n < s.slices.length) (i : Nat) {o : Nat} (ho : o = 0x20 ∨ o = 0x28) :
    (s.tgStart n i).sreg n (tgReg i o) = 0 := by
  have hone : n < (s.setSreg n (tgReg i 0x20) 0).slices.length := by rw [length_setSreg]; exact hn
  have hlen : n < (resultsCleared s n i).slices.length := by rw [resultsCleared, length_setSreg]; exact hone
  rw [tgStart_eq, sreg_modChan, startShown, sreg_setSreg_other hlen _ (tgReg_ne _ (by omega)), resultsCleared]
  rcases ho with rfl | rfl
  · rw [sreg_setSreg_other hone _ (tgReg_ne _ (by decide)), sreg_setSreg_self hn _ (by decide)]
  · rw [sreg_setSreg_self hone _ (by decide)]

theorem tgStart_only (s : State) (n i : Nat) : s.tgStart n i = { s with slices := (s.tgStart n i).slices, chans := (s.tgStart n i).chans } := rfl

theorem begun_spec (s : State) (n i : Nat) : (begun s n i).lo = s.sreg n (tgReg i 8) ∧ (begun s n i).hi = s.sreg n (tgReg i 0x10) ∧
    (begun s n i).seed = s.sreg n (tgReg i 0x18) ∧ (begun s n i).size = bits (s.sreg n (tgReg i 0)) 47 42 ∧
    (begun s n i).check = bitAt (s.sreg n (tgReg i 0)) 33 ∧ (begun s n i).fill = (if (begun s n i).check then (begun s n i).lo else (begun s n i).hi) :=
  ⟨rfl, rfl, rfl, rfl, rfl, rfl⟩

include hport

theorem exec_tgRun (hidle : bitAt (s.sreg n.val (tgReg i.val 0)) 62 = false) (hkeep : bitAt data.toNat 61 = false) : exec (.tgRun n i data) s =
    .next (tgFielded (if s.tgAllowed n.val i.val then s.tgStart n.val i.val
      else s.setSreg n.val (tgReg i.val 0) (putBit (s.sreg n.val (tgReg i.val 0)) 61 true)) n.val i.val (putBit data.toNat 63 true)) := by
  have hexec : exec (.tgRun n i data) s = .next (s.tgWrite n.val i.val (putBit data.toNat 63 true)) := if_pos hport
  have h61 : bitAt (putBit data.toNat 63 true) 61 = false := by rw [bitAt_putBit_other _ _ (by decide), hkeep]
  have h63 : bitAt (putBit data.toNat 63 true) 63 = true := bitAt_putBit_self ..
  rw [hexec, State.tgWrite]
  generalize putBit data.toNat 63 true = d at *
  rw [hidle, h61, h63]
  rfl

include hlen

theorem tgRun_refused (hidle : bitAt (s.sreg n.val (tgReg i.val 0)) 62 = false) (hkeep : bitAt data.toNat 61 = false)
    (hno : s.tgAllowed n.val i.val = false) : Completes (.tgRun n i data) s (fun t => bitAt (t.sreg n.val (tgReg i.val 0)) 61 = true ∧
      t.dev = s.dev ∧ t = { s with slices := t.slices }) := by
  have hn : n.val < s.slices.length := by omega
  have hexec := exec_tgRun hport hidle hkeep
  rw [hno, if_neg (by decide)] at hexec
  refine completes_of_exec hexec ⟨?_, rfl, rfl⟩
  rw [tgFielded_bit (by rw [length_setSreg]; exact hn) _ _ _ (by decide), sreg_setSreg_self hn _ (putBit_lt (sreg_lt ..) (by decide) _),
    bitAt_putBit_self]

theorem tgRun_starts (hidle : bitAt (s.sreg n.val (tgReg i.val 0)) 62 = false) (hkeep : bitAt data.toNat 61 = false)
    (hyes : s.tgAllowed n.val i.val = true) : Completes (.tgRun n i data) s (fun t =>
      (∃ g, (t.chan (3 * n.val + i.val)).tg = some g ∧ g.lo = s.sreg n.val (tgReg i.val 8) ∧ g.hi = s.sreg n.val (tgReg i.val 0x10) ∧
        g.seed = s.sreg n.val (tgReg i.val 0x18) ∧ g.size = bits (s.sreg n.val (tgReg i.val 0)) 47 42 ∧
        g.check = bitAt (s.sreg n.val (tgReg i.val 0)) 33 ∧ g.fill = (if g.check then g.lo else g.hi)) ∧
      t.sreg n.val (tgReg i.val 0x20) = 0 ∧ t.sreg n.val (tgReg i.val 0x28) = 0 ∧ bitAt (t.sreg n.val (tgReg i.val 0)) 63 = true ∧
      bitAt (t.sreg n.val (tgReg i.val 0)) 62 = true ∧ t = { s with slices := t.slices, chans := t.chans }) := by
  have hexec := exec_tgRun hport hidle hkeep
  rw [hyes, if_pos rfl] at hexec
  have hn : n.val < s.slices.length := by omega
  have hnv : n.val < (s.tgStart n.val i.val).slices.length := by rw [length_tgStart]; exact hn
  have hctl := tgStart_ctl hn i.val
  have h20 := tgStart_result hn i.val (.inl rfl)
  have h28 := tgStart_result hn i.val (.inr rfl)
  have hchan := chan_tgStart s n.val i.val
  have honly := tgStart_only s n.val i.val
  refine completes_of_exec hexec ?_
  generalize s.tgStart n.val i.val = v at *
  refine ⟨⟨begun s n.val i.val, congrArg Chan.tg ((chan_tgFielded ..).trans hchan), begun_spec s n.val i.val⟩, ?_, ?_, ?_, ?_, ?_⟩
  · rw [tgFielded_other hnv _ _ (by decide), h20]
  · rw [tgFielded_other hnv _ _ (by decide), h28]
  · rw [tgFielded_bit hnv _ _ _ (by decide), hctl, bitAt_putBit_other _ _ (by decide), bitAt_putBit_self]
  · rw [tgFielded_bit hnv _ _ _ (by decide), hctl, bitAt_putBit_self]
  · rw [honly]
    rfl

omit hport hlen in
/-- The end of a run. -/
theorem tgEnd_spec {u : State} (hu : SlicesOnly s u) (hnu : n.val < u.slices.length) :
    bitAt ((u.tgEnd n.val i.val).sreg n.val (tgReg i.val 0)) 62 = false ∧ bitAt ((u.tgEnd n.val i.val).sreg n.val (tgReg i.val 0)) 63 = false ∧
    ((u.tgEnd n.val i.val).chan (3 * n.val + i.val)).tg = none ∧
    u.tgEnd n.val i.val = { s with slices := (u.tgEnd n.val i.val).slices, chans := (u.tgEnd n.val i.val).chans } := by
  have hctl : (u.tgEnd n.val i.val).sreg n.val (tgReg i.val 0) = putBit (putBit (u.sreg n.val (tgReg i.val 0)) 63 false) 62 false :=
    sreg_setSreg_self hnu _ (putBit_lt (putBit_lt (sreg_lt ..) (by decide) _) (by decide) _)
  rw [hctl]
  refine ⟨bitAt_putBit_self .., ?_, congrArg Chan.tg (chan_modChan_self ..), ?_⟩
  · rw [bitAt_putBit_other _ _ (by decide), bitAt_putBit_self]
  · rw [hu]
    rfl

theorem tgStop_ends (hbusy : bitAt (s.sreg n.val (tgReg i.val 0)) 62 = true) : Completes (.tgStop n i data) s (fun t =>
      bitAt (t.sreg n.val (tgReg i.val 0)) 62 = false ∧ bitAt (t.sreg n.val (tgReg i.val 0)) 63 = false ∧
      (t.chan (3 * n.val + i.val)).tg = none ∧ t = { s with slices := t.slices, chans := t.chans }) := by
  have hn : n.val < s.slices.length := by omega
  obtain ⟨u, hexec, honly, hlen'⟩ : ∃ u, exec (.tgStop n i data) s = .next (u.tgEnd n.val i.val) ∧ SlicesOnly s u ∧ u.slices.length = s.slices.length := by
    have hexec : exec (.tgStop n i data) s = .next (s.tgWrite n.val i.val (putBit data.toNat 63 false)) := if_pos hport
    have h63 : bitAt (putBit data.toNat 63 false) 63 = false := bitAt_putBit_self ..
    rw [hexec, State.tgWrite]
    generalize putBit data.toNat 63 false = d at *
    rw [hbusy, h63]
    dsimp only
    refine ⟨_, rfl, ?_, ?_⟩
    · split
      · split
        · exact rfl
        · exact rfl
      · split
        · exact rfl
        · exact rfl
    · split
      · split
        · exact length_setSreg ..
        · rfl
      · split
        · exact (length_setSreg ..).trans (length_setSreg ..)
        · exact length_setSreg ..
  exact completes_of_exec hexec (tgEnd_spec honly (by omega))

end

/-! The fill pass. -/

theorem length_tgSector (seed o : Nat) : (tgSector seed o).length = 32 := by
  simp [tgSector]

theorem tgPut_inv {s : State} (hs : s.inv) (k seed o : Nat) : (s.tgPut k seed o).inv := by
  rw [State.tgPut]
  exact devPut_inv _ _ _ hs

/-- Sectors that are apart are put one after the other. -/
theorem foldl_tgPut (k seed : Nat) (l : List Nat) : ∀ s : State, s.inv → l.Pairwise (fun a b => a + 32 ≤ b) →
    (∀ o ∈ l, ∀ b, b < 32 → (l.foldl (fun acc o => acc.tgPut k seed o) s).dev.byte (k * Config.stackBytes + o + b) = (tgSector seed o).getD b 0) ∧
    (∀ x, (∀ o ∈ l, off (k * Config.stackBytes + o) 32 x) → (l.foldl (fun acc o => acc.tgPut k seed o) s).dev.byte x = s.dev.byte x) ∧
    l.foldl (fun acc o => acc.tgPut k seed o) s = { s with dev := (l.foldl (fun acc o => acc.tgPut k seed o) s).dev } := by
  induction l with
  | nil => exact fun s _ _ => ⟨fun o ho => absurd ho List.not_mem_nil, fun _ _ => rfl, rfl⟩
  | cons o r ih =>
    intro s hs hapart
    obtain ⟨hfirst, hrest⟩ := List.pairwise_cons.mp hapart
    obtain ⟨hput, hkeep, honly⟩ := ih (s.tgPut k seed o) (tgPut_inv hs k seed o) hrest
    obtain ⟨m, hm⟩ : ∃ m, s.tgPut k seed o = { s with dev := m } := ⟨_, rfl⟩
    rw [List.foldl_cons]
    have hnow : ∀ b, b < 32 → (s.tgPut k seed o).dev.byte (k * Config.stackBytes + o + b) = (tgSector seed o).getD b 0 := fun b hb => by
      have hdev : (s.tgPut k seed o).dev = s.dev.write (k * Config.stackBytes + o) (cleanBytes (tgSector seed o)) := rfl
      rw [hdev, byte_write _ _ _ _ hs, if_pos (by rw [cleanBytes_length, length_tgSector]; omega), Nat.add_sub_cancel_left, dataOf_cleanBytes]
    refine ⟨fun o' ho' b hb => ?_, fun x hx => ?_, by rw [hm] at honly ⊢; exact honly⟩
    · rcases List.mem_cons.mp ho' with rfl | hmem
      · have hclear : ∀ o'' ∈ r, off (k * Config.stackBytes + o'') 32 (k * Config.stackBytes + o' + b) := fun o'' ho'' => by
          have hfar := hfirst o'' ho''
          unfold off
          omega
        rw [hkeep _ hclear, hnow b hb]
      · exact hput o' hmem b hb
    · rw [hkeep x fun o' ho' => hx o' (List.mem_cons_of_mem _ ho')]
      exact byte_devPut_of_off s _ x _ (by rw [length_tgSector]; exact hx o List.mem_cons_self)

/-- The sectors of an access at stack offset `o`, within the range. -/
def sectorsFrom (g : TgRun) (o : Nat) : List Nat := ((List.range g.size).map (fun j => o + 32 * j)).filter (fun x => decide (x < g.hi))

theorem sectorsFrom_apart (g : TgRun) (o : Nat) : (sectorsFrom g o).Pairwise (fun a b => a + 32 ≤ b) := by
  refine List.Pairwise.filter _ ?_
  rw [List.pairwise_map]
  exact List.pairwise_lt_range.imp fun h => by omega

theorem mem_sectorsFrom {g : TgRun} {o x : Nat} : x ∈ sectorsFrom g o ↔ ∃ j, j < g.size ∧ o + 32 * j = x ∧ x < g.hi := by
  simp only [sectorsFrom, List.mem_filter, List.mem_map, List.mem_range, decide_eq_true_eq]
  constructor
  · rintro ⟨⟨j, hj, rfl⟩, hx⟩
    exact ⟨j, hj, rfl, hx⟩
  · rintro ⟨j, hj, rfl, hx⟩
    exact ⟨⟨j, hj, rfl⟩, hx⟩

/-- A run after one access of its fill pass. -/
def fillOn (g : TgRun) : TgRun := { g with fill := g.fill + 32 * g.size }

theorem fill_goes_on {s : State} {k : Fin 12} {g : TgRun} (hs : s.inv) (hup : s.sliceUp (k.val / 3) = true) (hcool : (s.chan k.val).state ≠ 3)
    (hrun : (s.chan k.val).tg = some g) (hmore : g.fill < g.hi) {t : State} (ht : t = s.tgCycle k.val) :
    (∀ j b, j < g.size → g.fill + 32 * j < g.hi → b < 32 →
      t.dev.byte (k.val * Config.stackBytes + g.fill + 32 * j + b) = (tgSector g.seed (g.fill + 32 * j)).getD b 0) ∧
    sameBytes (off (k.val * Config.stackBytes + g.fill) (32 * g.size)) s t ∧
    (t.chan k.val).tg = some { g with fill := g.fill + 32 * g.size } ∧ t = { s with dev := t.dev, chans := t.chans } := by
  have hgo : ¬ (!s.sliceUp (k.val / 3) || (s.chan k.val).state == 3) = true := by simp [hup, hcool]
  have heq : t = ((sectorsFrom g g.fill).foldl (fun acc o => acc.tgPut k.val g.seed o) s).modChan k.val (fun c => { c with tg := some (fillOn g) }) := by
    rw [ht, State.tgCycle, hrun]
    dsimp only
    rw [if_neg hgo, if_pos hmore]
    rfl
  obtain ⟨hput, hkeep, honly⟩ := foldl_tgPut k.val g.seed (sectorsFrom g g.fill) s hs (sectorsFrom_apart ..)
  generalize (sectorsFrom g g.fill).foldl (fun acc o => acc.tgPut k.val g.seed o) s = u at *
  subst heq
  refine ⟨fun j b hj hin hb => ?_, fun x hx => hkeep x fun o ho => ?_, congrArg Chan.tg (chan_modChan_self ..), ?_⟩
  · rw [Nat.add_assoc (k.val * Config.stackBytes)]
    exact hput _ (mem_sectorsFrom.mpr ⟨j, hj, rfl, hin⟩) b hb
  · obtain ⟨j, hj, rfl, -⟩ := mem_sectorsFrom.mp ho
    unfold off at hx ⊢
    omega
  · rw [honly]
    rfl

/-! The checker. -/

section
variable {s : State} {k : Fin 12} {g : TgRun} {o : Nat} (hlen : s.slices.length = 4) (hcheck : g.check = true)
include hlen hcheck

/-- The results of a run: words that differ below, sectors not checked above. -/
def resultReg (k : Nat) : Nat := tgReg (k % 3) 0x20

theorem read_poisoned (h : s.dev.sector ((k.val * Config.stackBytes + o) / 32) ≠ 0) :
    (s.tgRead k.val g o).sreg (k.val / 3) (resultReg k.val) = s.sreg (k.val / 3) (resultReg k.val) % 2 ^ 32 +
      min 0xFFFFFFFF (s.sreg (k.val / 3) (resultReg k.val) / 2 ^ 32 + 1) * 2 ^ 32 := by
  have hn : k.val / 3 < s.slices.length := by omega
  have heq : s.tgRead k.val g o = s.setSreg (k.val / 3) (resultReg k.val) (s.sreg (k.val / 3) (resultReg k.val) % 2 ^ 32 +
      satTo 0xFFFFFFFF (s.sreg (k.val / 3) (resultReg k.val) / 2 ^ 32 + 1) * 2 ^ 32) := by
    rw [State.tgRead, hcheck, if_neg (by decide), if_pos h, resultReg]
  rw [heq, satTo_eq_min, sreg_setSreg_self hn _ (by omega)]

/-- The words of a sector that differ from the pattern. -/
def differing (s : State) (k : Nat) (g : TgRun) (o : Nat) : List Nat :=
  (List.range 4).filter (fun w => s.dev.num (k * Config.stackBytes + o + 8 * w) 8 != g.seed ^^^ (o + 8 * w))

/-- The state after a comparison: the place of the first word that differs is kept. -/
def comparedWith (s1 : State) (l : List Nat) (n reg o : Nat) (held : Bool) : State :=
  match l with
  | w :: _ => if held then s1 else s1.setSreg n reg (o + 8 * w + 2 ^ 63)
  | [] => s1

theorem read_compared (h : s.dev.sector ((k.val * Config.stackBytes + o) / 32) = 0) :
    (s.tgRead k.val g o).sreg (k.val / 3) (resultReg k.val) =
      min 0xFFFFFFFF (s.sreg (k.val / 3) (resultReg k.val) % 2 ^ 32 + (differing s k.val g o).length) +
        s.sreg (k.val / 3) (resultReg k.val) / 2 ^ 32 * 2 ^ 32 := by
  have hn : k.val / 3 < s.slices.length := by omega
  have hlt := sreg_lt s (k.val / 3) (resultReg k.val)
  have hset : (s.setSreg (k.val / 3) (resultReg k.val) (satTo 0xFFFFFFFF (s.sreg (k.val / 3) (resultReg k.val) % 2 ^ 32 +
      (differing s k.val g o).length) + s.sreg (k.val / 3) (resultReg k.val) / 2 ^ 32 * 2 ^ 32)).sreg (k.val / 3) (resultReg k.val) =
      min 0xFFFFFFFF (s.sreg (k.val / 3) (resultReg k.val) % 2 ^ 32 + (differing s k.val g o).length) +
        s.sreg (k.val / 3) (resultReg k.val) / 2 ^ 32 * 2 ^ 32 := by
    rw [satTo_eq_min, sreg_setSreg_self hn _ (by omega)]
  have hread : s.tgRead k.val g o = comparedWith (s.setSreg (k.val / 3) (resultReg k.val) (satTo 0xFFFFFFFF
      (s.sreg (k.val / 3) (resultReg k.val) % 2 ^ 32 + (differing s k.val g o).length) + s.sreg (k.val / 3) (resultReg k.val) / 2 ^ 32 * 2 ^ 32))
      (differing s k.val g o) (k.val / 3) (tgReg (k.val % 3) 0x28) o (bitAt (s.sreg (k.val / 3) (tgReg (k.val % 3) 0x28)) 63) := by
    have hdiffer : (List.range 4).filter (fun w => s.dev.num (k.val * Config.stackBytes + o + 8 * w) 8 != g.seed ^^^ (o + 8 * w)) =
        differing s k.val g o := rfl
    rw [State.tgRead, hcheck, if_neg (by decide), if_neg (not_not.mpr h), hdiffer, resultReg]
    cases differing s k.val g o with
    | nil => rfl
    | cons w l => rfl
  rw [hread]
  unfold comparedWith
  split
  · split
    · exact hset
    · exact (sreg_setSreg_other (by rw [length_setSreg]; exact hn) _ (tgReg_ne (k.val % 3) (a := 0x20) (b := 0x28) (by decide))).trans hset
  · exact hset

theorem read_matches (h : s.dev.sector ((k.val * Config.stackBytes + o) / 32) = 0)
    (hall : ∀ w, w < 4 → s.dev.num (k.val * Config.stackBytes + o + 8 * w) 8 = g.seed ^^^ (o + 8 * w)) :
    (s.tgRead k.val g o).sreg (k.val / 3) (resultReg k.val) = s.sreg (k.val / 3) (resultReg k.val) := by
  have hnone : differing s k.val g o = [] := List.filter_eq_nil_iff.mpr fun w hw => by simp [hall w (List.mem_range.mp hw)]
  rw [read_compared hlen hcheck h, hnone, List.length_nil]
  omega

theorem read_differs (h : s.dev.sector ((k.val * Config.stackBytes + o) / 32) = 0)
    (hall : ∀ w, w < 4 → s.dev.num (k.val * Config.stackBytes + o + 8 * w) 8 ≠ g.seed ^^^ (o + 8 * w)) :
    (s.tgRead k.val g o).sreg (k.val / 3) (resultReg k.val) = min 0xFFFFFFFF (s.sreg (k.val / 3) (resultReg k.val) % 2 ^ 32 + 4) +
      s.sreg (k.val / 3) (resultReg k.val) / 2 ^ 32 * 2 ^ 32 := by
  have hfour : differing s k.val g o = List.range 4 := List.filter_eq_self.mpr fun w hw => by simpa using hall w (List.mem_range.mp hw)
  rw [read_compared hlen hcheck h, hfour, List.length_range]

end

theorem generatorRuns : Sys2Proof.Claims.GeneratorRuns := by
  refine ⟨fun s n i data _ hport hlen => ⟨fun hidle hkeep => ⟨tgRun_refused hport hlen hidle hkeep, tgRun_starts hport hlen hidle hkeep⟩,
    tgStop_ends hport hlen⟩, fun s k g hs hup hcool hrun hmore _ t ht => fill_goes_on hs hup hcool hrun hmore ht, ?_⟩
  rintro s k g o a res hlen hcheck rfl rfl
  exact ⟨read_poisoned hlen hcheck, read_matches hlen hcheck, read_differs hlen hcheck⟩

/-- Settles O55: samples through Table 13-3, and a generator's run from its start to its checks. -/
theorem channelsAreSampledAndTested : Obligations.ChannelsAreSampledAndTested := ⟨channelsAreSampled, generatorRuns⟩

end Sys2Proof.Proofs.ChannelTests
end

section
/-! Observation: counters, trace and the test port (O56). -/

namespace Sys2Proof.Proofs.Observing

open Sys2Proof Sys2Proof.Machine Sys2Proof.Claims Sys2Proof.Laws Sys2Proof.Proofs.Basic Sys2Proof.Proofs.Layer Sys2Proof.Proofs.BitFields
open Sys2Proof.Proofs.MaskedWrites Sys2Proof.Proofs.HostMem Sys2Proof.Proofs.Skew

section
variable {s : State} {port : Fin 4} (hport : s.portUp port.val = true)

/-! The trace control. -/

/-- The control register after a write of its quasi-static fields. -/
def traceFielded (s : State) (data : Nat) : State := s.setKreg 0x8000 (masked (s.kreg 0x8000) traceFields data)

theorem traceFielded_kreg (s : State) (data : Nat) : (traceFielded s data).kreg 0x8000 = masked (s.kreg 0x8000) traceFields data :=
  kreg_setKreg_self s (masked_lt (kreg_lt ..) (by decide))

/-- A control write while trace does not run. -/
theorem traceCtl_idle {data : Nat} (hidle : bitAt (s.kreg 0x8000) 63 = false) : s.traceCtl data =
    if bitAt data 63 then (if bitAt data 62 then traceFielded s data else (traceFielded s data).traceUndeep).traceBegin
    else if bitAt data 62 then traceFielded s data else (traceFielded s data).traceUndeep := by
  rw [State.traceCtl, hidle]
  rfl

/-- Giving up deep trace changes nothing but the staging SRAM and the records it held. -/
theorem traceUndeep_spec (s : State) : s.traceUndeep = { s with trace := s.traceUndeep.trace, staging := s.traceUndeep.staging } ∧
    (s.staging = 1 → s.traceUndeep.staging = 0 ∧ s.traceUndeep.trace.recs = s.trace.recs.take 262144) ∧
    (s.staging ≠ 1 → s.traceUndeep = s) := by
  unfold State.traceUndeep
  split
  · rename_i h
    exact ⟨rfl, fun _ => ⟨rfl, rfl⟩, fun hne => absurd h hne⟩
  · rename_i h
    exact ⟨rfl, fun h1 => absurd h1 h, fun _ => rfl⟩

/-- Trace starts empty. -/
theorem traceBegin_starts (h : bitAt (s.kreg 0x8000) 62 = false ∨ (s.staging < 2 ∧ s.claimComes = false)) :
    s.traceBegin.trace.recs = [] ∧ bitAt (s.traceBegin.kreg 0x8000) 63 = true ∧
    s.traceBegin.staging = (if bitAt (s.kreg 0x8000) 62 then 1 else s.staging) ∧
    s.traceBegin = { s with kpr := s.traceBegin.kpr, trace := s.traceBegin.trace, staging := s.traceBegin.staging } := by
  have hno : ¬ (bitAt (s.kreg 0x8000) 62 && (decide (2 ≤ s.staging) || s.claimComes)) = true := by
    rcases h with h | ⟨hlt, hclaim⟩
    · simp [h]
    · simp [hclaim, hlt]
  have heq : s.traceBegin = ({ s with
      staging := if bitAt (s.kreg 0x8000) 62 then 1 else s.staging, trace := { s.trace with recs := [], tseq := [0, 0, 0, 0, 0] } } : State).setKreg
      0x8000 (putBit (putBits (s.kreg 0x8000) 55 48 0) 63 true) := if_neg hno
  rw [heq, kreg_setKreg_self _ (putBit_lt (putBits_lt (kreg_lt ..) (by decide) _) (by decide) _), bitAt_putBit_self]
  exact ⟨rfl, rfl, rfl, rfl⟩

theorem traceBegin_refused (hdeep : bitAt (s.kreg 0x8000) 62 = true) (hheld : 2 ≤ s.staging ∨ s.claimComes = true) :
    s.traceBegin = s.setKreg 0x8000 (putBits (s.kreg 0x8000) 55 48 1) := by
  refine if_pos ?_
  rcases hheld with h | h
  · simp [hdeep, h]
  · simp [hdeep, h]

/-- What a claim in this cycle rests on is not the trace control. -/
theorem claimComes_traceFielded (s : State) (data : Nat) : (traceFielded s data).claimComes = s.claimComes := rfl

include hport

theorem exec_traceStart {data : Word} (hidle : bitAt (s.kreg 0x8000) 63 = false) : exec (.traceStart port data) s =
    .next (if bitAt data.toNat 62 then traceFielded s (putBit data.toNat 63 true) else (traceFielded s (putBit data.toNat 63 true)).traceUndeep).traceBegin := by
  have hexec : exec (.traceStart port data) s = .next (s.traceCtl (putBit data.toNat 63 true)) := if_pos hport
  rw [hexec, traceCtl_idle hidle, bitAt_putBit_self, if_pos rfl, bitAt_putBit_other _ _ (by decide)]

theorem traceStart_starts {data : Word} (hidle : bitAt (s.kreg 0x8000) 63 = false)
    (h : bitAt data.toNat 62 = false ∨ (s.staging < 2 ∧ s.claimComes = false)) : Completes (.traceStart port data) s (fun t =>
      t.trace.recs = [] ∧ bitAt (t.kreg 0x8000) 63 = true ∧ (bitAt data.toNat 62 = true → t.staging = 1) ∧
      (bitAt data.toNat 62 = false → 2 ≤ s.staging → t.staging = s.staging) ∧
      t = { s with kpr := t.kpr, trace := t.trace, staging := t.staging }) := by
  have hexec := exec_traceStart hport hidle (data := data)
  have hdeep : bitAt ((traceFielded s (putBit data.toNat 63 true)).kreg 0x8000) 62 = bitAt data.toNat 62 := by
    rw [traceFielded_kreg, bitAt_masked_in _ _ (by decide), bitAt_putBit_other _ _ (by decide)]
  have hclaim := claimComes_traceFielded s (putBit data.toNat 63 true)
  have honly : traceFielded s (putBit data.toNat 63 true) = { s with kpr := (traceFielded s (putBit data.toNat 63 true)).kpr } := rfl
  generalize traceFielded s (putBit data.toNat 63 true) = u at *
  have hstaging : u.staging = s.staging := by rw [honly]
  cases hdata : bitAt data.toNat 62 with
  | false =>
    rw [hdata, if_neg (by decide)] at hexec
    obtain ⟨hundeep, -, hsame⟩ := traceUndeep_spec u
    have hkreg : bitAt (u.traceUndeep.kreg 0x8000) 62 = false := by
      rw [hundeep]
      exact hdeep.trans hdata
    obtain ⟨hrecs, hrun, hst, heq⟩ := traceBegin_starts (.inl hkreg)
    rw [hkreg, if_neg (by decide)] at hst
    refine completes_of_exec hexec ⟨hrecs, hrun, fun h1 => absurd h1 (by decide), fun _ h2 => ?_, ?_⟩
    · rw [hst, hsame (by omega), hstaging]
    · rw [heq, hundeep, honly]
  | true =>
    rw [hdata, if_pos rfl] at hexec
    obtain ⟨hlt, hnone⟩ := h.resolve_left (by rw [hdata]; decide)
    obtain ⟨hrecs, hrun, hst, heq⟩ := traceBegin_starts (.inr ⟨hstaging.trans_lt hlt, hclaim.trans hnone⟩)
    rw [hdeep, hdata, if_pos rfl] at hst
    refine completes_of_exec hexec ⟨hrecs, hrun, fun _ => hst, fun h1 => absurd h1 (by decide), ?_⟩
    rw [heq, honly]

theorem traceStart_refused {data : Word} (hidle : bitAt (s.kreg 0x8000) 63 = false) (hdata : bitAt data.toNat 62 = true)
    (hheld : 2 ≤ s.staging ∨ s.claimComes = true) : Completes (.traceStart port data) s (fun t => bitAt (t.kreg 0x8000) 63 = false ∧
      bits (t.kreg 0x8000) 55 48 = 1 ∧ t = { s with kpr := t.kpr }) := by
  have hexec := exec_traceStart hport hidle (data := data)
  have hdeep : bitAt ((traceFielded s (putBit data.toNat 63 true)).kreg 0x8000) 62 = true := by
    rw [traceFielded_kreg, bitAt_masked_in _ _ (by decide), bitAt_putBit_other _ _ (by decide), hdata]
  have hoff : bitAt ((traceFielded s (putBit data.toNat 63 true)).kreg 0x8000) 63 = false := by
    rw [traceFielded_kreg, bitAt_masked_off _ _ (by decide), hidle]
  have hclaim := claimComes_traceFielded s (putBit data.toNat 63 true)
  have honly : traceFielded s (putBit data.toNat 63 true) = { s with kpr := (traceFielded s (putBit data.toNat 63 true)).kpr } := rfl
  generalize traceFielded s (putBit data.toNat 63 true) = u at *
  have hheld' : 2 ≤ u.staging ∨ u.claimComes = true := by
    rw [hclaim, honly]
    exact hheld
  rw [hdata, if_pos rfl, traceBegin_refused hdeep hheld'] at hexec
  refine completes_of_exec hexec ?_
  rw [kreg_setKreg_self _ (putBits_lt (kreg_lt ..) (by decide) _), bitAt_putBits_of_off _ _ (by decide), bits_putBits_self]
  refine ⟨hoff, by norm_num, ?_⟩
  rw [honly]
  rfl

theorem deepRelease_gives {data : Word} (hidle : bitAt (s.kreg 0x8000) 63 = false) (hheld : s.staging = 1) :
    Completes (.traceDeepRelease port data) s (fun t => t.staging = 0 ∧ t.trace.recs = s.trace.recs.take 262144 ∧
      t = { s with kpr := t.kpr, trace := t.trace, staging := t.staging }) := by
  have hexec : exec (.traceDeepRelease port data) s = .next (s.traceCtl (putBit (putBit data.toNat 63 false) 62 false)) := if_pos hport
  have h62 : bitAt (putBit (putBit data.toNat 63 false) 62 false) 62 = false := bitAt_putBit_self ..
  have h63 : bitAt (putBit (putBit data.toNat 63 false) 62 false) 63 = false := by rw [bitAt_putBit_other _ _ (by decide), bitAt_putBit_self]
  rw [traceCtl_idle hidle] at hexec
  generalize putBit (putBit data.toNat 63 false) 62 false = d at *
  rw [h63, h62, if_neg (by decide), if_neg (by decide)] at hexec
  have honly : traceFielded s d = { s with kpr := (traceFielded s d).kpr } := rfl
  obtain ⟨hundeep, hgiven, -⟩ := traceUndeep_spec (traceFielded s d)
  generalize traceFielded s d = u at *
  obtain ⟨hstaging, hrecs⟩ := hgiven (by rw [honly]; exact hheld)
  refine completes_of_exec hexec ⟨hstaging, ?_, ?_⟩
  · rw [hrecs, honly]
  · rw [hundeep, honly]

/-! Dumps. -/

omit hport in
theorem length_traceBytes (r : TraceRec) : (traceBytes r).length = 32 := by
  simp [traceBytes, padTo]
  omega

omit hport in
theorem length_dump (l : List TraceRec) : (l.flatMap traceBytes).length = 32 * l.length := by
  rw [List.length_flatMap]
  simp [length_traceBytes]
  omega

/-- The dump of every record. -/
def dumpOf (s : State) (addr : Nat) : EngWr := { act := .dump, addr := addr, bytes := s.trace.recs.flatMap traceBytes }

theorem exec_traceDump {addr : Word} (hidle : bitAt (s.kreg 0x8000) 63 = false) (hline : addr.toNat % 64 = 0)
    (hin : addr.toNat + 32 * s.trace.recs.length ≤ Config.devBytes) (hnone : s.dumping = false) : exec (.traceDump port addr) s =
    .next (if s.workNeeds (dumpOf s addr.toNat) = [] then s.workLand (dumpOf s addr.toNat)
      else { (s.askAll 0 (s.workNeeds (dumpOf s addr.toNat))) with work := s.work ++ [dumpOf s addr.toNat] }) := by
  have hgo : ¬ (bitAt (s.kreg 0x8000) 63 || addr.toNat % 64 != 0 || !inDevice addr.toNat (32 * s.trace.recs.length) || s.dumping) = true := by
    simp [hidle, hline, inDevice, hin, hnone]
  have hexec : exec (.traceDump port addr) s = .next (s.traceDump addr.toNat) := if_pos hport
  have hdump : s.traceDump addr.toNat = s.engineWrite (dumpOf s addr.toNat) := if_neg hgo
  have hfree : (s.work.any fun v => v.act == (dumpOf s addr.toNat).act) = false := hnone
  rw [hexec, hdump, State.engineWrite]
  dsimp only
  rw [hfree]
  by_cases hneeds : s.workNeeds (dumpOf s addr.toNat) = []
  · rw [hneeds, if_pos rfl]
    rfl
  · rw [if_neg hneeds, if_neg (by simpa using hneeds)]

theorem dump_lands (hs : s.inv) {addr : Word} (hidle : bitAt (s.kreg 0x8000) 63 = false) (hline : addr.toNat % 64 = 0)
    (hin : addr.toNat + 32 * s.trace.recs.length ≤ Config.devBytes) (hnone : s.dumping = false) (hneeds : s.workNeeds (dumpOf s addr.toNat) = []) :
    Completes (.traceDump port addr) s (fun t =>
      (∀ i, i < 32 * s.trace.recs.length → t.dev.byte (addr.toNat + i) = (dumpOf s addr.toNat).bytes.getD i 0) ∧
      sameBytes (off addr.toNat (32 * s.trace.recs.length)) s t ∧ t.trace = { s.trace with copied := s.trace.recs.length } ∧
      t = { s with dev := t.dev, trace := t.trace }) := by
  have hexec := exec_traceDump hport hidle hline hin hnone
  have hlen : (dumpOf s addr.toNat).bytes.length = 32 * s.trace.recs.length := length_dump _
  have hland : s.workLand (dumpOf s addr.toNat) =
      { (s.devPut addr.toNat (dumpOf s addr.toNat).bytes) with trace := { s.trace with copied := (dumpOf s addr.toNat).bytes.length / 32 } } := rfl
  rw [if_pos hneeds, hland] at hexec
  refine completes_of_exec hexec ?_
  generalize (dumpOf s addr.toNat).bytes = bs at *
  refine ⟨fun i hi => ?_, fun x hx => ?_, ?_, rfl⟩
  · show (s.dev.write addr.toNat (cleanBytes bs)).byte (addr.toNat + i) = _
    rw [byte_write _ _ _ _ hs, if_pos (by rw [cleanBytes_length]; omega), Nat.add_sub_cancel_left, dataOf_cleanBytes]
  · exact byte_devPut_of_off s _ x _ (by rw [hlen]; exact hx)
  · rw [hlen, Nat.mul_div_cancel_left _ (by decide)]

theorem dump_waits {addr : Word} (hidle : bitAt (s.kreg 0x8000) 63 = false) (hline : addr.toNat % 64 = 0)
    (hin : addr.toNat + 32 * s.trace.recs.length ≤ Config.devBytes) (hnone : s.dumping = false) (hneeds : s.workNeeds (dumpOf s addr.toNat) ≠ []) :
    Completes (.traceDump port addr) s (fun t => t.work = s.work ++ [dumpOf s addr.toNat] ∧ t.dev = s.dev ∧ t.trace = s.trace ∧ t.cmds = s.cmds) := by
  have hexec := exec_traceDump hport hidle hline hin hnone
  rw [if_neg hneeds] at hexec
  exact completes_of_exec hexec ⟨rfl, by simp, by simp, by simp⟩

theorem dump_ignored {addr : Word} (h : addr.toNat % 64 ≠ 0 ∨ Config.devBytes < addr.toNat + 32 * s.trace.recs.length ∨ s.dumping = true) :
    Gives (.traceDump port addr) s (s.setKreg 0x28 (satTo 0xFFFFFFFF (s.kreg 0x28 + 1))) := by
  have hexec : exec (.traceDump port addr) s = .next (s.traceDump addr.toNat) := if_pos hport
  refine hexec.trans (congrArg _ (if_pos ?_))
  rcases h with h | h | h
  · simp [h]
  · simp [inDevice, h]
  · simp [h]

/-! Marks. -/

theorem exec_traceMark (v : Word) : exec (.traceMark port v) s = .next (s.traceRec 4 9 0 0 0 0 0 (natLE 8 v.toNat)) := if_pos hport

theorem mark_masked {v : Word} (h : bitAt (s.kreg 0x8000) 63 = false ∨ bitAt (s.kreg 0x8000) 9 = false) : Gives (.traceMark port v) s s := by
  refine (exec_traceMark hport v).trans (congrArg _ (if_pos ?_))
  rcases h with h | h
  · simp [h]
  · simp [h]

theorem mark_recorded {v : Word} (hrun : bitAt (s.kreg 0x8000) 63 = true) (hmask : bitAt (s.kreg 0x8000) 9 = true)
    (hroom : s.trace.recs.length < 262144) : Completes (.traceMark port v) s (fun t =>
      ∃ r, t.trace.recs = s.trace.recs ++ [r] ∧ r.kind = 9 ∧ r.tick = s.kTick ∧ r.payload = natLE 8 v.toNat ++ [0, 0, 0, 0] ∧
        t = { s with trace := t.trace }) := by
  have hgo : ¬ (!bitAt (s.kreg 0x8000) 63 || !bitAt (s.kreg 0x8000) 9) = true := by simp [hrun, hmask]
  have hsize : s.trace.recs.length < (if bitAt (s.kreg 0x8000) 62 = true then 524288 else 262144) := by
    split
    · omega
    · exact hroom
  have hpad : padTo 12 0 (natLE 8 v.toNat) = natLE 8 v.toNat ++ [0, 0, 0, 0] := rfl
  obtain ⟨t, heq, ht⟩ : ∃ t, s.traceRec 4 9 0 0 0 0 0 (natLE 8 v.toNat) = t ∧ ∃ r : TraceRec, t.trace.recs = s.trace.recs ++ [r] ∧ r.kind = 9 ∧
      r.tick = s.kTick ∧ r.payload = natLE 8 v.toNat ++ [0, 0, 0, 0] ∧ t = { s with trace := t.trace } := by
    refine ⟨_, rfl, ?_⟩
    rw [State.traceRec]
    dsimp only
    rw [if_neg hgo, if_pos hsize]
    exact ⟨_, rfl, rfl, rfl, hpad, rfl⟩
  exact completes_of_exec ((exec_traceMark hport v).trans (congrArg _ heq)) ht

end

/-! Counters. -/

theorem getD_addCounts_off (inc : Tab Nat) {x : Nat} (h : x ∉ inc.map Prod.fst) : ∀ t : Tab Nat, Tab.getD (addCounts t inc) x 0 = Tab.getD t x 0 := by
  induction inc with
  | nil => exact fun _ => rfl
  | cons p r ih =>
    intro t
    have hne : x ≠ p.1 := List.ne_of_not_mem_cons h
    have hrest : x ∉ r.map Prod.fst := List.not_mem_of_not_mem_cons h
    have hstep : addCounts t (p :: r) = addCounts (Tab.set t p.1 ((Tab.getD t p.1 0 + p.2) % 2 ^ 64)) r := rfl
    rw [hstep, ih hrest, tab_getD_set_other _ _ _ _ _ hne]

theorem getD_addCounts (inc : Tab Nat) {x : Nat} (hx : x ∈ inc.map Prod.fst) (hnodup : (inc.map Prod.fst).Nodup) :
    ∀ t : Tab Nat, Tab.getD (addCounts t inc) x 0 = (Tab.getD t x 0 + Tab.getD inc x 0) % 2 ^ 64 := by
  induction inc with
  | nil => exact absurd hx List.not_mem_nil
  | cons p r ih =>
    intro t
    obtain ⟨hfresh, hrest⟩ := List.nodup_cons.mp hnodup
    have hstep : addCounts t (p :: r) = addCounts (Tab.set t p.1 ((Tab.getD t p.1 0 + p.2) % 2 ^ 64)) r := rfl
    have hget : Tab.getD (p :: r) x 0 = if p.1 = x then p.2 else Tab.getD r x 0 := by
      unfold Tab.getD
      rw [Tab.get?]
      split
      · rfl
      · rfl
    rw [hstep, hget]
    by_cases hpx : p.1 = x
    · rw [if_pos hpx, ← hpx, getD_addCounts_off r hfresh, tab_getD_set_self]
    · rw [if_neg hpx, ih ((List.mem_cons.mp hx).resolve_left (Ne.symm hpx)) hrest, tab_getD_set_other _ _ _ _ _ (Ne.symm hpx)]

/-- The keeper's counters with what a slice forwards. -/
def countsAdded (s : State) (n : Nat) : State :=
  { s with cntCtx := addCounts s.cntCtx (s.slc n).incCtx, cntTbl := addCounts s.cntTbl (s.slc n).incTbl }

/-- A slice that has forwarded its increments. -/
def countsGiven (l : Slice) : Slice := { l with incCtx := [], incTbl := [] }

theorem counters_forwarded {s : State} {n : Fin 4} (hup : s.sliceUp n.val = true) (hlen : s.slices.length = 4)
    (hctx : ((s.slc n.val).incCtx.map Prod.fst).Nodup) (htbl : ((s.slc n.val).incTbl.map Prod.fst).Nodup) : Completes (.counterForward n) s (fun t =>
      (∀ x, x ∈ (s.slc n.val).incCtx.map Prod.fst → Tab.getD t.cntCtx x 0 = (Tab.getD s.cntCtx x 0 + Tab.getD (s.slc n.val).incCtx x 0) % 2 ^ 64) ∧
      (∀ x, x ∉ (s.slc n.val).incCtx.map Prod.fst → Tab.getD t.cntCtx x 0 = Tab.getD s.cntCtx x 0) ∧
      (∀ x, x ∈ (s.slc n.val).incTbl.map Prod.fst → Tab.getD t.cntTbl x 0 = (Tab.getD s.cntTbl x 0 + Tab.getD (s.slc n.val).incTbl x 0) % 2 ^ 64) ∧
      t.slc n.val = { s.slc n.val with incCtx := [], incTbl := [] } ∧ t = { s with cntCtx := t.cntCtx, cntTbl := t.cntTbl, slices := t.slices }) := by
  have hexec : exec (.counterForward n) s = .next ((countsAdded s n.val).modSlice n.val countsGiven) := if_neg (by simp [hup])
  refine completes_of_exec hexec ⟨fun x hx => getD_addCounts _ hx hctx _, fun x hx => getD_addCounts_off _ hx _, fun x hx => getD_addCounts _ hx htbl _, ?_, rfl⟩
  have hn : n.val < s.slices.length := by omega
  exact (slc_modSlice (countsAdded s n.val) n.val n.val countsGiven hn).trans (if_pos rfl)

/-! The test port. -/

theorem tap_answers {s : State} (hlive : s.live = true) (data : Nat) : Gives (.tapInstruction 0 data) s { s with out := s.out ++ [.tap 0 Config.idcode] } ∧
    Gives (.tapInstruction 1 data) s { s with out := s.out ++ [.tap 1 data] } ∧
    (∀ code, code = 2 ∨ code = 3 → Gives (.tapInstruction code data) s
      { s with out := s.out ++ [.tap code (Config.freeNat s.freeCtr)], freeCtr := s.freeCtr + 1 }) ∧
    (∀ code, 4 ≤ code → Gives (.tapInstruction code data) s
      { s.setKreg 0x8400 (satTo 65535 (s.kreg 0x8400 + 1)) with out := s.out ++ [.tap 1 data] }) := by
  have hgo : ∀ (x y : Host.Outcome State Fault Refusal), (if (!s.live) = true then x else y) = y := fun x y => if_neg (by simp [hlive])
  refine ⟨hgo _ _, hgo _ _, fun code hcode => ?_, fun code hcode => ?_⟩
  · rcases hcode with rfl | rfl
    · exact hgo _ _
    · exact hgo _ _
  · obtain ⟨m, rfl⟩ : ∃ m, code = m + 4 := ⟨code - 4, by omega⟩
    exact hgo _ _

/-- Settles O56: trace, dumps, marks, counters and the test port, each by its command. -/
theorem observationCommandsAct : Obligations.ObservationCommandsAct := by
  unfold Obligations.ObservationCommandsAct
  intro s port hs hport hlive
  refine ⟨fun data hidle => ⟨traceStart_starts hport hidle, traceStart_refused hport hidle, deepRelease_gives hport hidle, ?_, fun addr => dump_ignored hport⟩,
    fun v => ⟨mark_masked hport, mark_recorded hport⟩, fun n => counters_forwarded, tap_answers hlive⟩
  rintro addr w rfl hline hin hnone
  exact ⟨dump_lands hport hs hidle hline hin hnone, dump_waits hport hidle hline hin hnone⟩

end Sys2Proof.Proofs.Observing
end

section
/-! Epochs, their adoption and their drains (O37). -/

namespace Sys2Proof.Proofs.Epochs

open Sys2Proof Sys2Proof.Machine Sys2Proof.Claims Sys2Proof.Laws Sys2Proof.Proofs.Basic Sys2Proof.Proofs.Layer

/-! Adoption. -/

/-- The slice whose turn it is has installed the layers of a publication. -/
def installed (s : State) (n : Nat) (p : Pub) : State := s.modSlice n (fun l => { l with layers := Tab.set l.layers p.table p.layer })

/-- The publications when the next slice has its turn for `p`. -/
def passedOn (l : List Pub) (p : Pub) : List Pub := l.map (fun q => if q == p then { q with next := q.next + 1 } else q)

/-- The drain that begins with the completion of `p`. -/
def drainOf (s : State) (p : Pub) : Drain where
  table := p.table
  num := p.layer.num
  waits := s.drainWaits p.table p.layer.num p.maker
  oldHots := p.oldHots
  oldOvr := p.oldOvr
  oldRows := p.oldRows

theorem mem_passedOn {l : List Pub} {p : Pub} (h : p ∈ l) : { p with next := p.next + 1 } ∈ passedOn l p :=
  List.mem_map.mpr ⟨p, h, by simp⟩

theorem layers_installed {s : State} {n : Nat} (p : Pub) (h : n < s.slices.length) :
    Tab.get? ((installed s n p).slc n).layers p.table = some p.layer := by
  rw [installed, slc_modSlice s n n _ h, if_pos rfl]
  exact tab_get?_set_self ..

theorem slc_installed_other {s : State} {n m : Nat} (p : Pub) (h : n < s.slices.length) (hm : m ≠ n) : (installed s n p).slc m = s.slc m := by
  rw [installed, slc_modSlice s n m _ h, if_neg hm]

/-- What an adoption leaves, whether it is the last or not. -/
theorem exec_epochAdopt {s : State} {num : Nat} {n : Fin 4} {p : Pub} (hfind : s.adopt.find? (fun a => a.table == num) = some p)
    (hturn : p.next = n.val) : exec (.epochAdopt n num) s = .next (if n.val < 3 then { installed s n p with adopt := passedOn s.adopt p }
      else { installed s n p with adopt := s.adopt.erase p, drains := s.drains ++ [drainOf s p] }) := by
  obtain rfl : p.table = num := by simpa using List.find?_some hfind
  rw [show exec (.epochAdopt n p.table) s = execEpochAdopt n p.table s from rfl, execEpochAdopt, hfind]
  dsimp only
  rw [if_neg (not_not_intro hturn)]
  by_cases hlast : n.val < 3
  · rw [if_pos hlast, if_pos hlast]; rfl
  · rw [if_neg hlast, if_neg hlast]; rfl

theorem epochAdopts {s : State} {num : Nat} {n : Fin 4} {p : Pub} (hfour : s.slices.length = 4)
    (hfind : s.adopt.find? (fun a => a.table == num) = some p) (hturn : p.next = n.val) :
    Completes (.epochAdopt n num) s (fun t =>
      Tab.get? (t.slc n.val).layers num = some p.layer ∧ t.dev = s.dev ∧ t.tables = s.tables ∧
      (∀ m, m ≠ n.val → t.slc m = s.slc m) ∧ (n.val = 3 → t.adopt = s.adopt.erase p ∧ t.drains.length = s.drains.length + 1) ∧
      (n.val < 3 → t.drains = s.drains ∧ ∃ q ∈ t.adopt, q = { p with next := p.next + 1 })) := by
  have hn : n.val < s.slices.length := by omega
  obtain rfl : p.table = num := by simpa using List.find?_some hfind
  refine completes_of_exec (exec_epochAdopt hfind hturn) ?_
  by_cases hlast : n.val < 3
  · rw [if_pos hlast]
    exact ⟨layers_installed p hn, rfl, rfl, fun m hm => slc_installed_other p hn hm, fun h3 => by omega,
      fun _ => ⟨rfl, _, mem_passedOn (List.mem_of_find?_eq_some hfind), rfl⟩⟩
  · rw [if_neg hlast]
    exact ⟨layers_installed p hn, rfl, rfl, fun m hm => slc_installed_other p hn hm, fun _ => ⟨rfl, List.length_append⟩,
      fun h3 => absurd h3 hlast⟩

/-! The end of a drain. -/

/-- The first that passes a test, and one more that it passes, is the first that passes both. -/
theorem find?_and {α : Type} {p q : α → Bool} {l : List α} {a : α} (h : l.find? p = some a) (ha : q a = true) :
    l.find? (fun x => p x && q x) = some a := by
  obtain ⟨hp, as, bs, rfl, has⟩ := List.find?_eq_some_iff_append.mp h
  refine List.find?_eq_some_iff_append.mpr ⟨by simp [hp, ha], as, bs, rfl, fun x hx => ?_⟩
  have := has x hx
  simp_all

/-- A command that has ended, and a request of a peer that is neither held nor stalled, holds no drain back. -/
theorem drained_of_over {s : State} {num h : Nat} (hcmd : ∀ c, Tab.get? s.cmds h = some c → c.phase = .done) (hheld : ∀ p ∈ s.heldPeer, p.id ≠ h)
    (hstalled : ∀ t, Tab.get? s.tables num = some t → ∀ k ∈ t.stalled, k.1.id ≠ h) : s.drained num h = true := by
  have hover : s.heldPeer.any (fun p => p.id == h) = false := List.any_eq_false.mpr (fun p hp => by simpa using hheld p hp)
  have hfree : ((Tab.get? s.tables num).map (fun t => t.stalled.any (fun k => k.1.id == h))).getD false = false := by
    cases ht : Tab.get? s.tables num with
    | none => rfl
    | some t => exact List.any_eq_false.mpr (fun k hk => by simpa using hstalled t ht k hk)
  unfold State.drained
  rw [hover, hfree]
  cases hc : Tab.get? s.cmds h with
  | none => simp
  | some c => simp [Cmd.ended, hcmd c hc]

theorem drainCompletes {s : State} {num : Nat} {d : Drain} (hfind : s.drains.find? (fun d => d.table == num) = some d)
    (hover : ∀ h ∈ d.waits, s.drained num h = true) : Completes (.drainComplete num) s (fun t =>
      t.drains = s.drains.erase d ∧ t = { s with drains := t.drains, journal := t.journal }) := by
  have hfirst := find?_and (q := fun d => d.waits.all (s.drained num)) hfind (List.all_eq_true.mpr hover)
  have hexec : exec (.drainComplete num) s = .next { s with
      drains := s.drains.erase d, journal := s.journal.filter (fun j => !(j.table == num && j.stamp == d.num)) } := by
    rw [show exec (.drainComplete num) s = execDrainComplete num s from rfl, execDrainComplete, hfirst]
  exact completes_of_exec hexec ⟨rfl, rfl⟩

/-- Settles O37: the slice whose turn it is installs the layers, the fourth begins the drain, and a drain that nothing holds back is over. -/
theorem epochsAreAdoptedAndDrained : Obligations.EpochsAreAdoptedAndDrained := by
  unfold Obligations.EpochsAreAdoptedAndDrained
  intro s num
  refine ⟨fun n p hfour hfind hturn => epochAdopts hfour hfind hturn, fun d hfind hover => drainCompletes hfind fun h hh => ?_⟩
  obtain ⟨hcmd, hheld, hstalled⟩ := hover h hh
  exact drained_of_over hcmd hheld hstalled

end Sys2Proof.Proofs.Epochs
end

section
/-! What a publication leaves (R171). -/

namespace Sys2Proof.Proofs.Publishing

open Sys2Proof Sys2Proof.Machine Sys2Proof.Claims Sys2Proof.Laws Sys2Proof.Proofs.Basic Sys2Proof.Proofs.Layer

/-- The layers that a publication by `f` gives a table. -/
def nextLayer (f : Layer → Layer) (t : Table) : Layer := { f t.layer with num := t.nextStamp }

/-- A table with new layers. -/
def withLayer (t : Table) (y : Layer) : Table := { t with layer := y }

theorem nextStamp_eq (t : Table) : t.nextStamp = (t.layer.num + 1) % 2 ^ 32 := rfl

theorem tables_traceRec (s : State) (a k x q n o c : Nat) (p : List Byte) : (s.traceRec a k x q n o c p).tables = s.tables := by simp

theorem tables_publish {s : State} {num : Nat} {t : Table} (f : Layer → Layer) (m : Option Nat) (ht : Tab.get? s.tables num = some t) :
    (s.publish num f m).tables = Tab.modify s.tables num (fun u => withLayer u (nextLayer f t)) := by
  unfold State.publish
  rw [ht]
  exact tables_traceRec ..

theorem table_publish_self {s : State} {num : Nat} {t : Table} (f : Layer → Layer) (m : Option Nat) (ht : Tab.get? s.tables num = some t) :
    Tab.get? (s.publish num f m).tables num = some (withLayer t (nextLayer f t)) := by
  rw [tables_publish f m ht, tab_get?_modify, if_pos rfl, ht]
  rfl

theorem table_modTable_self {s : State} {num : Nat} {t : Table} (f : Table → Table) (ht : Tab.get? s.tables num = some t) :
    Tab.get? (s.modTable num f).tables num = some (f t) := by
  rw [State.modTable, tab_get?_modify, if_pos rfl, ht]
  rfl

theorem table_publish_other {s : State} {num n : Nat} (f : Layer → Layer) (m : Option Nat) (hn : n ≠ num) :
    Tab.get? (s.publish num f m).tables n = Tab.get? s.tables n := by
  cases ht : Tab.get? s.tables num with
  | none => rw [State.publish, ht]
  | some t => rw [tables_publish f m ht, tab_get?_modify, if_neg hn]

theorem adopt_publish {s : State} {num : Nat} {t : Table} (f : Layer → Layer) (m : Option Nat) (ht : Tab.get? s.tables num = some t) :
    ∃ p, (s.publish num f m).adopt = s.adopt ++ [p] ∧ p.table = num ∧ p.layer = nextLayer f t ∧ p.maker = m ∧ p.next = 0 := by
  unfold State.publish
  rw [ht]
  exact ⟨_, rfl, rfl, rfl, rfl, rfl⟩

theorem cmds_publish (s : State) (num : Nat) (f : Layer → Layer) (m : Option Nat) : (s.publish num f m).cmds = s.cmds := by simp

theorem dev_publish (s : State) (num : Nat) (f : Layer → Layer) (m : Option Nat) : (s.publish num f m).dev = s.dev := by simp

theorem staging_publish (s : State) (num : Nat) (f : Layer → Layer) (m : Option Nat) : (s.publish num f m).staging = s.staging := by simp

/-! Version publications. -/

/-- A table whose writes are published at tick `k`. -/
def versioned (k : Nat) (t : Table) : Table := { t with unpublished := false, lastVersion := k }

theorem table_versionPublish {s : State} {num : Nat} {t : Table} (m : Option Nat) (ht : Tab.get? s.tables num = some t) :
    Tab.get? (s.versionPublish num m).tables num = some (versioned s.kTick (withLayer t (nextLayer id t))) :=
  table_modTable_self _ (table_publish_self id m ht)

theorem versionPublish_keeps (s : State) (num : Nat) (m : Option Nat) :
    (s.versionPublish num m).dev = s.dev ∧ (s.versionPublish num m).cmds = s.cmds ∧ (s.versionPublish num m).staging = s.staging := by
  simp [State.versionPublish]

/-! The command that publishes: it waits, and ends with what it has. -/

theorem waits_modCmd {s : State} {h k : Nat} {c : Cmd} (f : Cmd → Cmd) (hc : Tab.get? s.cmds h = some c) (hf : (f c).phase = .stage k) :
    Waits (s.modCmd h f) h k := ⟨f c, get?_modCmd_self f hc, hf⟩

theorem endPublished_done {s : State} {h : Nat} {c : Cmd} {drain : Bool}
    (hover : (if drain then s.drainDone c.table c.pubNum else s.pubDone c.table c.pubNum) = true) :
    s.endPublished h c drain = (s.endCmd h id).release (.cmd h) := if_pos hover

/-- What a command that only ends leaves. -/
theorem ends_done {s : State} {h : Nat} {c : Cmd} (hc : Tab.get? s.cmds h = some c) :
    Done ((s.endCmd h id).release (.cmd h)) h { c with phase := .done, doneAt := s.nextCmd } := done_endCmd_release id _ hc

end Sys2Proof.Proofs.Publishing
end

section
/-! TABLE_OPEN and TABLE_CLOSE (O38). -/

namespace Sys2Proof.Proofs.TableLife

open Sys2Proof Sys2Proof.Machine Sys2Proof.Claims Sys2Proof.Laws Sys2Proof.Proofs.Basic Sys2Proof.Proofs.Layer Sys2Proof.Proofs.Publishing
open Sys2Proof.Proofs.Frames Sys2Proof.Proofs.Seals

/-! TABLE_OPEN. -/

/-- What a running packet of TABLE_OPEN's opcode is. -/
theorem openRunning_eq_some {s : State} {h fn : Nat} {c : Cmd} (hrun : s.openRunning h fn = some c) :
    s.running h 0x21 = some c ∧ c.fld 0xA 1 = fn := by
  unfold State.openRunning at hrun
  cases hr : s.running h 0x21 with
  | none => simp [hr] at hrun
  | some d =>
    rw [hr] at hrun
    dsimp only at hrun
    split at hrun
    · next hfn => cases hrun; exact ⟨rfl, hfn⟩
    · cases hrun

theorem cmd_of_openRunning {s : State} {h fn : Nat} {c : Cmd} (hrun : s.openRunning h fn = some c) : Tab.get? s.cmds h = some c :=
  (running_eq_some (openRunning_eq_some hrun).1).1

/-- A command that waits for its publication. -/
def awaiting (d : Cmd) : Cmd := { d with phase := .stage 1 }

/-- The state of an OPEN when its command waits and a trace record has been made. -/
def openTraced (s : State) (h num : Nat) : State := ((s.clearTableCounts num).modCmd h awaiting).traceRec 4 3 0 0 0 0 0 (natLE 2 num)

/-- The state after the OPEN of a table. -/
def opened (s u : State) (h num : Nat) (t : Table) : State :=
  { u with
    tables := Tab.set s.tables num t
    adopt := s.adopt ++ [{ table := num, layer := t.layer, maker := some h }] }

theorem exec_tableOpen_ready {s : State} {h : Nat} {c : Cmd} (hrun : s.openRunning h 0 = some c) (hphase : c.phase = .ready)
    (hneeds : (s.checkOpen (s.actor h c) c.slice c).needs = []) (hval : (s.checkOpen (s.actor h c) c.slice c).val = none) :
    exec (.tableOpen h) s = .next (opened s (openTraced s h c.table) h c.table
      (tableOf (dataOf (s.openRead (s.actor h c) c.slice c).val.1) (dataOf (s.openRead (s.actor h c) c.slice c).val.2))) := by
  rw [show exec (.tableOpen h) s = execTableOpen h s from rfl, execTableOpen, hrun]
  dsimp only
  rw [if_neg (not_not_intro hphase), hneeds, hval]
  rfl

theorem openTraced_places (s : State) (h num : Nat) : SamePlaces s (openTraced s h num) := by
  simp [SamePlaces, SameInside, openTraced, State.clearTableCounts]

theorem tableOpenOpens : Claims.TableOpenOpens := by
  unfold Claims.TableOpenOpens
  intro s h c hrun
  have hget := cmd_of_openRunning hrun
  refine ⟨fun hphase hneeds hval => completes_of_exec (exec_tableOpen_ready hrun hphase hneeds hval) ?_, fun hphase hover => ?_⟩
  · have hcmds : (openTraced s h c.table).cmds = Tab.modify s.cmds h awaiting := by simp [openTraced, State.clearTableCounts, State.modCmd]
    have hdev : (openTraced s h c.table).dev = s.dev := by simp [openTraced, State.clearTableCounts]
    have hplaces := openTraced_places s h c.table
    generalize openTraced s h c.table = u at hcmds hdev hplaces ⊢
    refine ⟨⟨awaiting c, ?_, rfl⟩, hdev, hplaces, ⟨_, _, tab_get?_set_self .., rfl, rfl, rfl⟩, fun n hn => tab_get?_set_other _ _ _ _ hn⟩
    rw [opened, hcmds, tab_get?_modify, if_pos rfl, hget]
    rfl
  · have hexec : exec (.tableOpen h) s = .next ((s.endCmd h id).release (.cmd h)) := by
      rw [show exec (.tableOpen h) s = execTableOpen h s from rfl, execTableOpen, hrun]
      dsimp only
      rw [if_pos (by simp [hphase]), endPublished_done (drain := false) hover]
    exact completes_of_exec hexec ⟨⟨_, ends_done hget, rfl⟩, rfl, rfl, by simp [SamePlaces, SameInside]⟩

/-! TABLE_CLOSE. -/

/-- A table whose close has begun. -/
def shut (t : Table) : Table := { t with closing := true }

/-- Layers under which a table closes. -/
def shutLayer (y : Layer) : Layer := { y with closing := true }

/-- The APPLY_STEPs of a closing table that have not begun to apply end. -/
def abortApply (num : Nat) (acc : State) (p : Nat × Cmd) : State :=
  if p.2.opcode == 5 && p.2.table == num && !p.2.ended && p.2.phase != .stage 2 then (acc.endWith p.1 0x14 0).release (.cmd p.1) else acc

/-- What the ends of other commands leave: memory, tables, and every command's place. -/
def Kept (s t : State) : Prop := t.dev = s.dev ∧ t.tables = s.tables ∧ ∀ h, (Tab.get? s.cmds h).isSome → (Tab.get? t.cmds h).isSome

theorem isSome_end {s : State} {h j : Nat} (f : Cmd → Cmd) (w : Who) (hh : (Tab.get? s.cmds j).isSome) :
    (Tab.get? ((s.endCmd h f).release w).cmds j).isSome := by
  have hget : Tab.get? ((s.endCmd h f).release w).cmds j = if j = h then (Tab.get? s.cmds h).map _ else Tab.get? s.cmds j := get?_modCmd ..
  rw [hget]
  split
  · next heq => rw [Option.isSome_map, ← heq]; exact hh
  · exact hh

theorem abortApply_kept (num : Nat) (s : State) (p : Nat × Cmd) : Kept s (abortApply num s p) := by
  unfold abortApply
  split
  · exact ⟨by simp, by simp, fun h hh => isSome_end _ _ hh⟩
  · exact ⟨rfl, rfl, fun _ hh => hh⟩

theorem foldl_abortApply_kept (num : Nat) (l : List (Nat × Cmd)) (s : State) : Kept s (l.foldl (abortApply num) s) :=
  foldl_rel Kept (fun _ => ⟨rfl, rfl, fun _ hh => hh⟩)
    (fun ⟨hdev, htables, hcmds⟩ ⟨hdev', htables', hcmds'⟩ => ⟨hdev'.trans hdev, htables'.trans htables, fun h hh => hcmds' h (hcmds h hh)⟩)
    (abortApply num) (fun t p => abortApply_kept num t p) l s

/-- A TABLE_CLOSE that waits for the epoch that it published. -/
def closingUnder (k : Nat) (d : Cmd) : Cmd := { d with phase := .stage 1, pubNum := k }

/-- The state in which a TABLE_CLOSE has published that its table closes. -/
def shutPublished (s : State) (h num : Nat) : State := (s.modTable num shut).publish num shutLayer (some h)

theorem exec_tableClose_ready {s : State} {h : Nat} {c : Cmd} {t : Table} (hrun : s.running h 0x22 = some c)
    (ht : Tab.get? s.tables c.table = some t) (hphase : c.phase = .ready) : exec (.tableClose h) s =
      .next (((shutPublished s h c.table).cmds.foldl (abortApply c.table) (shutPublished s h c.table)).modCmd h (closingUnder t.nextStamp)) := by
  rw [show exec (.tableClose h) s = execTableClose h s from rfl, execTableClose, hrun]
  dsimp only
  rw [ht]
  dsimp only
  rw [if_pos hphase]
  rfl

theorem closeBegins {s : State} {h : Nat} {c : Cmd} {t : Table} (hrun : s.running h 0x22 = some c)
    (ht : Tab.get? s.tables c.table = some t) (hphase : c.phase = .ready) :
    Completes (.tableClose h) s (fun u => Waits u h 1 ∧ u.dev = s.dev ∧ ∃ t', Tab.get? u.tables c.table = some t' ∧
      t'.closing = true ∧ t'.layer.closing = true ∧ t'.layer.num = (t.layer.num + 1) % 2 ^ 32) := by
  refine completes_of_exec (exec_tableClose_ready hrun ht hphase) ?_
  have hdev : (shutPublished s h c.table).dev = s.dev := dev_publish ..
  have hcmds : (shutPublished s h c.table).cmds = s.cmds := cmds_publish ..
  have htable := table_publish_self shutLayer (some h) (table_modTable_self shut ht)
  obtain ⟨hdev', htables', hcmds'⟩ := foldl_abortApply_kept c.table (shutPublished s h c.table).cmds (shutPublished s h c.table)
  have hsome := hcmds' h (by rw [hcmds, (running_eq_some hrun).1]; rfl)
  rw [show (s.modTable c.table shut).publish c.table shutLayer (some h) = shutPublished s h c.table from rfl, ← htables'] at htable
  rw [hdev] at hdev'
  generalize (shutPublished s h c.table).cmds.foldl (abortApply c.table) (shutPublished s h c.table) = u at hdev' htable hsome ⊢
  obtain ⟨d, hd⟩ := Option.isSome_iff_exists.mp hsome
  exact ⟨waits_modCmd _ hd rfl, hdev', _, htable, rfl, rfl, rfl⟩

/-- The refusals that the stalled contributions of a closed table are answered with. -/
def refuse (acc : State) (k : Contrib × Nat) : State := acc.toPeer k.1.engine (.reply k.2 .refused)

theorem foldl_refuse_portsAndOut (l : List (Contrib × Nat)) (s : State) : PortsAndOut s (l.foldl refuse s) :=
  foldl_rel PortsAndOut PortsAndOut.refl PortsAndOut.trans refuse (fun t k => toPeer_portsAndOut t k.1.engine (.reply k.2 .refused)) l s

/-- What a TABLE_CLOSE ends with. -/
def counted (n : Nat) (d : Cmd) : Cmd := { d with c0 := n }

theorem exec_tableClose_settled {s : State} {h : Nat} {c : Cmd} {t : Table} (hrun : s.running h 0x22 = some c)
    (ht : Tab.get? s.tables c.table = some t) (hphase : c.phase = .stage 1) (hsettled : s.settled c.table = true) (hcmds : s.cmds = [(h, c)]) :
    exec (.tableClose h) s = .next ((((t.stalled.foldl refuse s).dropTable c.table t.layer.replacing).endCmd h
      (counted (t.contribs.length + t.stalled.length))).release (.cmd h)) := by
  have hnone : s.discardWaiting c.table = (s, 0) := by
    simp [State.discardWaiting, hcmds, (running_eq_some hrun).2.1]
  rw [show exec (.tableClose h) s = execTableClose h s from rfl, execTableClose, hrun]
  dsimp only
  rw [ht]
  dsimp only
  rw [if_neg (by simp [hphase]), if_neg (by simp [hsettled]), hnone]
  rfl

theorem closeEnds {s : State} {h : Nat} {c : Cmd} {t : Table} (hrun : s.running h 0x22 = some c)
    (ht : Tab.get? s.tables c.table = some t) (hphase : c.phase = .stage 1) (hsettled : s.settled c.table = true) (hcmds : s.cmds = [(h, c)]) :
    Completes (.tableClose h) s (fun u =>
      Tab.get? u.tables c.table = none ∧ (∀ n, n ≠ c.table → Tab.get? u.tables n = Tab.get? s.tables n) ∧
      (∀ l ∈ u.slices, Tab.get? l.layers c.table = none) ∧ u.dev = s.dev ∧
      ∃ d, Done u h d ∧ d.c0 = t.contribs.length + t.stalled.length) := by
  refine completes_of_exec (exec_tableClose_settled hrun ht hphase hsettled hcmds) ?_
  have hports := foldl_refuse_portsAndOut t.stalled s
  have hget := (running_eq_some hrun).1
  generalize t.stalled.foldl refuse s = u at hports ⊢
  have htables : u.tables = s.tables := by rw [hports]
  have hdev : u.dev = s.dev := by rw [hports]
  have hget' : Tab.get? (u.dropTable c.table t.layer.replacing).cmds h = some c := by rw [State.dropTable, hports]; exact hget
  have herased : ∀ n, Tab.get? (u.dropTable c.table t.layer.replacing).tables n = if n = c.table then none else Tab.get? s.tables n := by
    intro n
    rw [← htables]
    exact tab_get?_filter_ne ..
  have hlayers : ∀ l ∈ (u.dropTable c.table t.layer.replacing).slices, Tab.get? l.layers c.table = none := by
    intro l hl
    obtain ⟨l0, -, rfl⟩ := List.mem_map.mp hl
    exact (tab_get?_filter_ne ..).trans (if_pos rfl)
  have hdropped : (u.dropTable c.table t.layer.replacing).dev = s.dev := hdev
  generalize u.dropTable c.table t.layer.replacing = v at hget' herased hlayers hdropped ⊢
  exact ⟨(herased _).trans (if_pos rfl), fun n hn => (herased n).trans (if_neg hn), hlayers, hdropped, _, done_endCmd_release _ _ hget', rfl⟩

/-- Settles O38: an OPEN publishes the table it describes, a CLOSE publishes that it closes, and each ends when its publication lets it. -/
theorem tablesOpenAndClose : Obligations.TablesOpenAndClose :=
  ⟨tableOpenOpens, fun _ _ _ _ hrun ht => ⟨fun hphase => closeBegins hrun ht hphase,
    fun hphase hsettled hcmds => closeEnds hrun ht hphase hsettled hcmds⟩⟩

end Sys2Proof.Proofs.TableLife
end

section
/-! HOT_LOAD, MIGRATE and REPLICATE (O39). -/

namespace Sys2Proof.Proofs.Layers

open Sys2Proof Sys2Proof.Machine Sys2Proof.Claims Sys2Proof.Laws Sys2Proof.Proofs.Basic Sys2Proof.Proofs.Layer Sys2Proof.Proofs.Publishing
open Sys2Proof.Proofs.Scatter

/-! HOT_LOAD: which rows become hot. -/

/-- One row of a HOT_LOAD list, copied to its slice if it fits there. -/
def hotStep (s : State) (c : Cmd) (t : Table) (y : Layer) (acc : List (List Nat)) (p : Nat × Nat) : List (List Nat) :=
  let here := acc.getD p.2 []
  let present := (t.layer.hots.getD p.2 []).contains p.1
  let bytes := s.dev.read (t.addrOf (t.owner y c.table p.1) false) t.stored
  let fits := decide (s.hotUsed p.2 + (here.length + 1) * t.stored ≤ Config.hotBytes) &&
    decide (s.hotCount p.2 + here.length + 1 ≤ Config.hotRows)
  if !present && fits && !bytes.any (fun b => b.p == 2) then acc.set p.2 (here ++ [p.1]) else acc

theorem hotCopies_eq (s : State) (c : Cmd) (t : Table) (y : Layer) (l : List (Nat × Nat)) :
    s.hotCopies c t y l = l.foldl (hotStep s c t y) [[], [], [], []] := rfl

/-- Every row of every slice's list is a listed row of that slice. -/
def AllListed (l : List (Nat × Nat)) (acc : List (List Nat)) : Prop := ∀ n, ∀ x ∈ acc.getD n [], (x, n) ∈ l

theorem hotStep_allListed {s : State} {c : Cmd} {t : Table} {y : Layer} {l : List (Nat × Nat)} {acc : List (List Nat)} {p : Nat × Nat}
    (hp : p ∈ l) (h : AllListed l acc) : AllListed l (hotStep s c t y acc p) := by
  unfold hotStep
  dsimp only
  split
  · intro n x hx
    rw [List.getD_eq_getElem?_getD, List.getElem?_set] at hx
    by_cases hn : p.2 = n
    · subst hn
      by_cases hlt : p.2 < acc.length
      · simp only [if_true, hlt, Option.getD_some, List.mem_append, List.mem_singleton] at hx
        rcases hx with hx | rfl
        · exact h _ _ hx
        · exact hp
      · simp [hlt] at hx
    · rw [if_neg hn, ← List.getD_eq_getElem?_getD] at hx
      exact h _ _ hx
  · exact h

theorem hotCopies_allListed (s : State) (c : Cmd) (t : Table) (y : Layer) (l : List (Nat × Nat)) : AllListed l (s.hotCopies c t y l) := by
  rw [hotCopies_eq]
  refine List.foldlRecOn l _ (motive := AllListed l) (fun n x hx => ?_) (fun acc h p hp => hotStep_allListed hp h)
  match n with
  | 0 | 1 | 2 | 3 => cases hx
  | n + 4 => cases hx

/-- The hot set of slice `n` that a HOT_LOAD of a mode leaves. -/
def hotSet (mode : Nat) (t : Table) (num : Nat) (listed : List (Nat × Nat)) (new : List (List Nat)) (n : Nat) : List Nat :=
  let old := t.layer.hots.getD n []
  let add := (new.getD n []).filter (fun r => (t.owner t.layer num r).stack / 3 == n)
  match mode with
  | 0 => old.filter (fun r => listed.contains (r, n)) ++ add
  | 1 => old ++ add
  | _ => old.filter (fun r => !listed.contains (r, n))

theorem mem_hotSet_zero {t : Table} {num : Nat} {listed : List (Nat × Nat)} {new : List (List Nat)} (hnew : AllListed listed new) {n x : Nat}
    (hx : x ∈ hotSet 0 t num listed new n) : (x, n) ∈ listed := by
  simp only [hotSet, List.mem_append, List.mem_filter, List.contains_iff_mem] at hx
  rcases hx with ⟨-, hl⟩ | ⟨hadd, -⟩
  · exact hl
  · exact hnew n x hadd

theorem mem_hotSet_two {t : Table} {num : Nat} {listed : List (Nat × Nat)} {new : List (List Nat)} {n x : Nat} :
    x ∈ hotSet 2 t num listed new n ↔ x ∈ t.layer.hots.getD n [] ∧ (x, n) ∉ listed := by
  simp [hotSet]

/-- The hot sets that a HOT_LOAD publishes. -/
def newHots (s : State) (c : Cmd) (t : Table) (y : Layer) (idx : List Idx) : List (List Nat) :=
  (List.range 4).map (hotSet (c.fld 0xA 1) t c.table (s.hotListed c t y idx) (s.hotCopies c t y (s.hotListed c t y idx)))

theorem getD_newHots (s : State) (c : Cmd) (t : Table) (y : Layer) (idx : List Idx) {n : Nat} (hn : n < 4) : (newHots s c t y idx).getD n [] =
    hotSet (c.fld 0xA 1) t c.table (s.hotListed c t y idx) (s.hotCopies c t y (s.hotListed c t y idx)) n := by
  simp [newHots, List.getD_eq_getElem?_getD, List.getElem?_map, List.getElem?_range hn]

/-! HOT_LOAD: the command. -/

/-- A layer with new hot sets. -/
def withHots (hots : List (List Nat)) (y : Layer) : Layer := { y with hots := hots }

/-- A HOT_LOAD that waits for its drain, with its counts. -/
def hotBegun (k rows left dropped : Nat) (d : Cmd) : Cmd :=
  { d with phase := .stage 1, pubNum := k, c0 := rows, c1 := left, c2 := dropped, status := firstStatus [(dropped != 0, 1)] }

/-- The rows of a HOT_LOAD list that its new hot sets leave out. -/
def leftOut (s : State) (c : Cmd) (t : Table) (y : Layer) (idx : List Idx) : Nat :=
  if c.fld 0xA 1 = 2 then 0
  else (nubNat (validRows idx)).length - ((s.hotListed c t y idx).filter (fun p => ((newHots s c t y idx).getD p.2 []).contains p.1)).length

/-- The state in which a HOT_LOAD has counted its dropped words. -/
def hotCounted (s : State) (c : Cmd) (r : Acc (List Idx)) (w : Acc (List (Option Nat))) : State := (s.faults c (r.evs ++ w.evs)).wheyAdd w.val

section
variable {s : State} {h : Nat} {c : Cmd} {t : Table} {y : Layer} {r : Acc (List Idx)} {w : Acc (List (Option Nat))}

theorem exec_hotLoad_ready (hrun : s.running h 0x23 = some c) (hview : s.viewOf c = some (t, y)) (hphase : c.phase = .ready)
    (hr : r = Acc.list ((List.range (c.fld 0xC 4)).map (fun i => (s.devRead (s.actor h c) c.slice 0 [i] (c.fld 0x10 8 + 8 * i) 8).map (fun l =>
      { word := leNat (dataOf l), poisoned := anyPoison l, drop := dropReason c.table (some t.rows) (anyPoison l) (leNat (dataOf l)) }))))
    (hw : w = s.wheyAll (s.actor h c) c.slice (s.wheyBase c) r.val) (hneeds : r.needs ++ w.needs = [])
    (hcopies : ∀ p ∈ s.hotListed c t y r.val, s.devNeeds (.cmd h) false (t.addrOf (t.owner y c.table p.1) false) t.stored = []) :
    exec (.hotLoad h) s = .next (((hotCounted s c r w).publish c.table (withHots (newHots s c t y r.val)) (some h)).modCmd h
      (hotBegun t.nextStamp ((newHots s c t y r.val).map List.length).sum (leftOut s c t y r.val) (droppedCount r.val))) := by
  obtain ⟨hrneeds, hwneeds⟩ := List.append_eq_nil_iff.mp hneeds
  have hcopied := List.flatMap_eq_nil_iff.mpr hcopies
  rw [show exec (.hotLoad h) s = execHotLoad h s from rfl, execHotLoad, hrun]
  dsimp only
  rw [if_neg (not_not_intro hphase), hview]
  subst hr hw
  exact if_neg (by rw [Option.map_some, hrneeds, hwneeds, hcopied]; simp)

theorem hotLoadBegins (hrun : s.running h 0x23 = some c) (hview : s.viewOf c = some (t, y)) (hphase : c.phase = .ready)
    (hr : r = Acc.list ((List.range (c.fld 0xC 4)).map (fun i => (s.devRead (s.actor h c) c.slice 0 [i] (c.fld 0x10 8 + 8 * i) 8).map (fun l =>
      { word := leNat (dataOf l), poisoned := anyPoison l, drop := dropReason c.table (some t.rows) (anyPoison l) (leNat (dataOf l)) }))))
    (hw : w = s.wheyAll (s.actor h c) c.slice (s.wheyBase c) r.val) (hneeds : r.needs ++ w.needs = [])
    (hcopies : ∀ p ∈ s.hotListed c t y r.val, s.devNeeds (.cmd h) false (t.addrOf (t.owner y c.table p.1) false) t.stored = []) :
    Completes (.hotLoad h) s (fun u => Waits u h 1 ∧ (∀ a, offWhey w.val a → u.dev.byte a = s.dev.byte a) ∧
      ∃ t', Tab.get? u.tables c.table = some t' ∧ t'.layer.num = (t.layer.num + 1) % 2 ^ 32 ∧
        (c.fld 0xA 1 = 0 → ∀ n, n < 4 → ∀ x ∈ t'.layer.hots.getD n [], (x, n) ∈ s.hotListed c t y r.val) ∧
        (c.fld 0xA 1 = 2 → ∀ n, n < 4 → ∀ x, x ∈ t'.layer.hots.getD n [] ↔ x ∈ t.layer.hots.getD n [] ∧ (x, n) ∉ s.hotListed c t y r.val)) := by
  refine completes_of_exec (exec_hotLoad_ready hrun hview hphase hr hw hneeds hcopies) ?_
  have htable : Tab.get? (hotCounted s c r w).tables c.table = some t := by simpa [hotCounted] using (table_of_viewOf hview).1
  have hcmd : Tab.get? (hotCounted s c r w).cmds h = some c := by simpa [hotCounted] using (running_eq_some hrun).1
  have hbyte : ∀ a, offWhey w.val a → (hotCounted s c r w).dev.byte a = s.dev.byte a := fun a hoff =>
    (byte_wheyAdd_of_off _ _ a hoff).trans (congrArg (Mem.byte · a) (by simp))
  generalize hotCounted s c r w = u at htable hcmd hbyte ⊢
  refine ⟨waits_modCmd _ ((congrArg (Tab.get? · h) (cmds_publish ..)).trans hcmd) rfl,
    fun a hoff => (congrArg (Mem.byte · a) (dev_publish ..)).trans (hbyte a hoff), _, table_publish_self _ _ htable, rfl,
    fun hmode n hn x hx => ?_, fun hmode n hn x => ?_⟩
  · rw [show (withLayer t (nextLayer (withHots (newHots s c t y r.val)) t)).layer.hots = newHots s c t y r.val from rfl,
      getD_newHots _ _ _ _ _ hn, hmode] at hx
    exact mem_hotSet_zero (hotCopies_allListed _ _ _ _ _) hx
  · rw [show (withLayer t (nextLayer (withHots (newHots s c t y r.val)) t)).layer.hots = newHots s c t y r.val from rfl,
      getD_newHots _ _ _ _ _ hn, hmode]
    exact mem_hotSet_two

end

theorem hotLoadPublishes : Claims.HotLoadPublishes := by
  unfold Claims.HotLoadPublishes
  intro s h c t y r w hrun hview
  refine ⟨fun hphase hr hw hneeds hcopies => hotLoadBegins hrun hview hphase hr hw hneeds hcopies, fun hphase hover => ?_⟩
  have hexec : exec (.hotLoad h) s = .next ((s.endCmd h id).release (.cmd h)) := by
    rw [show exec (.hotLoad h) s = execHotLoad h s from rfl, execHotLoad, hrun]
    dsimp only
    rw [if_pos (by simp [hphase]), endPublished_done (drain := true) hover]
  exact completes_of_exec hexec ⟨⟨_, ends_done (running_eq_some hrun).1, rfl, rfl⟩, rfl, rfl⟩

/-! MIGRATE. -/

/-- A MIGRATE that waits for its publication, with its counts. -/
def moveBegun (k moved left : Nat) (d : Cmd) : Cmd := { d with phase := .stage 1, pubNum := k, c0 := moved, c1 := left }

/-- A layer with moves that hold from a step on. -/
def withPending (moves : List Ovr) (step : Word) (y : Layer) : Layer :=
  { y with pend := y.pend.filter (fun o => !moves.any (fun m => m.row == o.row)) ++ moves, pendStep := step }

section
variable {s : State} {h : Nat} {c : Cmd} {t : Table}

theorem exec_migrate_pending (hrun : s.running h 7 = some c) (ht : Tab.get? s.tables c.table = some t) (hphase : c.phase = .ready)
    (hmode : c.fld 0xA 1 % 2 = 0) : exec (.migrate h) s =
      .next ((s.publish c.table (withPending c.moves (BitVec.ofNat 64 (c.fld 0x10 8))) (some h)).modCmd h
        (moveBegun t.nextStamp c.moves.length (c.fld 0xC 2 - c.moves.length))) := by
  rw [show exec (.migrate h) s = execMigrate h s from rfl, execMigrate, hrun]
  dsimp only
  rw [ht]
  dsimp only
  rw [if_neg (not_not_intro hphase), if_pos hmode]
  rfl

theorem exec_migrate_now (hrun : s.running h 7 = some c) (ht : Tab.get? s.tables c.table = some t) (hphase : c.phase = .ready)
    (hmode : c.fld 0xA 1 % 2 = 1) (hwrites : s.writesBefore h c.table = false) (hadopting : s.adopting c.table = false)
    (hslot : s.slotHeld c.table c.moves = false) (hneeds : s.moveNeeds (.cmd h) c.table t c.moves = []) : exec (.migrate h) s =
      .next (((s.handover c.table t c.moves).publish c.table (fun y => y.moved c.moves) (some h)).modCmd h
        (moveBegun t.nextStamp c.moves.length (c.fld 0xC 2 - c.moves.length))) := by
  rw [show exec (.migrate h) s = execMigrate h s from rfl, execMigrate, hrun]
  dsimp only
  rw [ht]
  dsimp only
  rw [if_neg (not_not_intro hphase), if_neg (by omega), if_neg (by simp [hwrites, hadopting, hslot]), hneeds]
  rfl

theorem exec_migrate_adopted (hrun : s.running h 7 = some c) (ht : Tab.get? s.tables c.table = some t) (hphase : c.phase = .stage 1)
    (hover : s.pubDone c.table c.pubNum = true) : exec (.migrate h) s = .next ((s.endCmd h id).release (.cmd h)) := by
  rw [show exec (.migrate h) s = execMigrate h s from rfl, execMigrate, hrun]
  dsimp only
  rw [ht]
  dsimp only
  rw [if_pos (by simp [hphase]), endPublished_done (drain := false) hover]

end

theorem migratePublishes : Claims.MigratePublishes := by
  unfold Claims.MigratePublishes
  intro s h c t hrun ht
  have hcmd := (running_eq_some hrun).1
  refine ⟨fun hphase hmode => completes_of_exec (exec_migrate_pending hrun ht hphase hmode) ?_,
    fun hphase hmode hwrites hadopting hslot hneeds =>
      completes_of_exec (exec_migrate_now hrun ht hphase hmode hwrites hadopting hslot hneeds) ?_,
    fun hphase hover => completes_of_exec (exec_migrate_adopted hrun ht hphase hover) ⟨⟨_, ends_done hcmd, rfl, rfl⟩, rfl, rfl⟩⟩
  · exact ⟨waits_modCmd _ ((congrArg (Tab.get? · h) (cmds_publish ..)).trans hcmd) rfl, dev_publish .., _, table_publish_self _ _ ht,
      rfl, rfl, rfl, rfl⟩
  · have htables : (s.handover c.table t c.moves).tables = s.tables := by simp
    have hcmds : (s.handover c.table t c.moves).cmds = s.cmds := by simp
    generalize s.handover c.table t c.moves = u at htables hcmds ⊢
    exact ⟨waits_modCmd _ ((congrArg (Tab.get? · h) ((cmds_publish ..).trans hcmds)).trans hcmd) rfl, _,
      table_publish_self _ _ (htables ▸ ht), rfl, rfl⟩

/-! REPLICATE. -/

/-- A REPLICATE that has copied no row and waits for its drain. -/
def replicaBegun (k : Nat) (d : Cmd) : Cmd := { d with phase := .stage 1, pubNum := k, c0 := 0, c1 := 0, status := 0 }

/-- A layer with new replica positions. -/
def withReplicas (reps : List Nat) (sets : List (List Nat)) (y : Layer) : Layer := { y with reps := reps, sets := sets }

/-- A table whose new positions are those of its layer. -/
def filled (t : Table) : Table := { t with newReps := [], newSets := [] }

section
variable {s : State} {h : Nat} {c : Cmd} {t : Table} {y : Layer}

theorem exec_replicate_ready (hrun : s.running h 8 = some c) (hview : s.viewOf c = some (t, y)) (hphase : c.phase = .ready)
    (hfills : t.fills y s.self = []) : exec (.replicate h) s =
      .next (((s.publish c.table (withReplicas t.newReps t.newSets) (some h)).modTable c.table filled).modCmd h (replicaBegun t.nextStamp)) := by
  rw [show exec (.replicate h) s = execReplicate h s from rfl, execReplicate, hrun]
  dsimp only
  rw [hview]
  dsimp only
  rw [if_neg (not_not_intro hphase), hfills]
  rfl

theorem exec_replicate_drained (hrun : s.running h 8 = some c) (hview : s.viewOf c = some (t, y)) (hphase : c.phase = .stage 1)
    (hover : s.drainDone c.table c.pubNum = true) : exec (.replicate h) s = .next ((s.endCmd h id).release (.cmd h)) := by
  rw [show exec (.replicate h) s = execReplicate h s from rfl, execReplicate, hrun]
  dsimp only
  rw [hview]
  dsimp only
  rw [if_pos (by simp [hphase]), endPublished_done (drain := true) hover]

end

theorem replicatePublishes : Claims.ReplicatePublishes := by
  unfold Claims.ReplicatePublishes
  intro s h c t y hrun hview
  have hcmd := (running_eq_some hrun).1
  refine ⟨fun hphase hfills => completes_of_exec (exec_replicate_ready hrun hview hphase hfills) ?_,
    fun hphase hover => completes_of_exec (exec_replicate_drained hrun hview hphase hover) ⟨⟨_, ends_done hcmd, rfl, rfl, rfl⟩, rfl, rfl⟩⟩
  exact ⟨waits_modCmd _ ((congrArg (Tab.get? · h) (cmds_publish ..)).trans hcmd) rfl, dev_publish .., _,
    table_modTable_self filled (table_publish_self _ _ (table_of_viewOf hview).1), rfl, rfl, rfl, rfl, rfl, rfl⟩

/-- Settles O39: each of the three publishes the layer that its list describes, and ends when its publication lets it. -/
theorem layersArePublished : Obligations.LayersArePublished := ⟨hotLoadPublishes, migratePublishes, replicatePublishes⟩

end Sys2Proof.Proofs.Layers
end

section
/-! REPLACE_BEGIN, version publications and REPLACE_COMMIT (O40). -/

namespace Sys2Proof.Proofs.Replacing

open Sys2Proof Sys2Proof.Machine Sys2Proof.Claims Sys2Proof.Laws Sys2Proof.Proofs.Basic Sys2Proof.Proofs.Layer Sys2Proof.Proofs.Publishing
open Sys2Proof.Proofs.TableLife

/-! REPLACE_BEGIN. -/

/-- A replacing layer, with empty hot sets. -/
def startReplacing (y : Layer) : Layer := { y with replacing := true, hots := [[], [], [], []] }

/-- A version entry stamped with the next epoch. -/
def stamp (t : Table) (acc : State) (a : Nat) : State := acc.devPut a (natLE 4 (t.nextStamp % 2 ^ 31 * 2))

/-- The state in which every version entry of a table is stamped. -/
def stamped (s : State) (t : Table) : State :=
  ((t.versioned s.self).map (t.versionAddr s.self t.layer.reps t.layer.sets)).foldl (stamp t) s.staged

/-- The state after the claim of a REPLACE_BEGIN. -/
def claimed (u : State) (num : Nat) : State := { u with staging := 2 + num }

theorem stamped_keeps (s : State) (t : Table) : (stamped s t).tables = s.tables ∧ (stamped s t).cmds = s.cmds := by
  have hstaged : s.staged.tables = s.tables ∧ s.staged.cmds = s.cmds := by
    unfold State.staged State.traceUndeep
    split
    · split
      · exact ⟨rfl, rfl⟩
      · exact ⟨rfl, rfl⟩
    · exact ⟨rfl, rfl⟩
  obtain ⟨htables, hcmds⟩ := hstaged
  exact ⟨(foldl_field (stamp t) State.tables (fun u a => rfl) _ _).trans htables,
    (foldl_field (stamp t) State.cmds (fun u a => rfl) _ _).trans hcmds⟩

/-- No claim stands in the way where the staging SRAM is free. -/
theorem staged_free {s : State} (h : s.staging = 0) : s.staged.staging = 0 := by
  unfold State.staged State.traceUndeep
  split
  · rw [if_neg (by omega)]; exact h
  · exact h

section
variable {s : State} {h : Nat} {c : Cmd} {t : Table}

theorem exec_replaceBegin_ready (hrun : s.openRunning h 1 = some c) (ht : Tab.get? s.tables c.table = some t) (hphase : c.phase = .ready)
    (hfree : s.staging = 0) (hneeds : s.stampNeeds h t = []) : exec (.replaceBegin h) s =
      .next (claimed (((stamped s t).publish c.table startReplacing (some h)).modCmd h (closingUnder t.nextStamp)) c.table) := by
  rw [show exec (.replaceBegin h) s = execReplaceBegin h s from rfl, execReplaceBegin, hrun]
  dsimp only
  rw [ht]
  dsimp only
  rw [if_neg (not_not_intro hphase), if_neg (not_not_intro (staged_free hfree)), hneeds]
  rfl

theorem exec_replaceBegin_held (hrun : s.openRunning h 1 = some c) (ht : Tab.get? s.tables c.table = some t) (hphase : c.phase = .ready)
    (hheld : s.staged.staging ≠ 0) : exec (.replaceBegin h) s = .next ((s.endWith h 0x19 1).release (.cmd h)) := by
  rw [show exec (.replaceBegin h) s = execReplaceBegin h s from rfl, execReplaceBegin, hrun]
  dsimp only
  rw [ht]
  dsimp only
  rw [if_neg (not_not_intro hphase), if_pos hheld]

theorem exec_replaceBegin_adopted (hrun : s.openRunning h 1 = some c) (ht : Tab.get? s.tables c.table = some t) (hphase : c.phase = .stage 1)
    (hover : s.pubDone c.table c.pubNum = true) : exec (.replaceBegin h) s = .next ((s.endCmd h id).release (.cmd h)) := by
  rw [show exec (.replaceBegin h) s = execReplaceBegin h s from rfl, execReplaceBegin, hrun]
  dsimp only
  rw [ht]
  dsimp only
  rw [if_pos (by simp [hphase]), endPublished_done (drain := false) hover]

theorem replaceBegins (hrun : s.openRunning h 1 = some c) (ht : Tab.get? s.tables c.table = some t) (hphase : c.phase = .ready)
    (hfree : s.staging = 0) (hneeds : s.stampNeeds h t = []) : Completes (.replaceBegin h) s (fun u =>
      Waits u h 1 ∧ u.staging = 2 + c.table ∧ ∃ t', Tab.get? u.tables c.table = some t' ∧ t'.layer.replacing = true ∧
        t'.layer.hots = [[], [], [], []] ∧ t'.layer.num = (t.layer.num + 1) % 2 ^ 32) := by
  refine completes_of_exec (exec_replaceBegin_ready hrun ht hphase hfree hneeds) ?_
  obtain ⟨htables, hcmds⟩ := stamped_keeps s t
  generalize stamped s t = u at htables hcmds ⊢
  exact ⟨waits_modCmd _ ((congrArg (Tab.get? · h) ((cmds_publish ..).trans hcmds)).trans (cmd_of_openRunning hrun)) rfl, rfl, _,
    table_publish_self _ _ (htables ▸ ht), rfl, rfl, rfl⟩

/-! Version publications. -/

theorem exec_versionPublication {num : Nat} (ht : Tab.get? s.tables num = some t) (hreplacing : t.layer.replacing = true)
    (hwritten : t.unpublished = true) (hdue : t.lastVersion + 10000 ≤ s.kTick) (hadopting : s.adopting num = false) :
    exec (.versionPublication num) s = .next (s.versionPublish num none) := by
  rw [show exec (.versionPublication num) s = execVersionPublication num s from rfl, execVersionPublication, ht]
  dsimp only
  rw [if_pos (by simp [hreplacing, hwritten, hdue, hadopting])]

theorem versionPublishes {num : Nat} (ht : Tab.get? s.tables num = some t) (hreplacing : t.layer.replacing = true)
    (hwritten : t.unpublished = true) (hdue : t.lastVersion + 10000 ≤ s.kTick) (hadopting : s.adopting num = false) :
    Completes (.versionPublication num) s (fun u => u.dev = s.dev ∧ u.cmds = s.cmds ∧ ∃ t', Tab.get? u.tables num = some t' ∧
      t'.unpublished = false ∧ t'.lastVersion = s.kTick ∧ t'.layer = { t.layer with num := (t.layer.num + 1) % 2 ^ 32 }) := by
  obtain ⟨hdev, hcmds, -⟩ := versionPublish_keeps s num none
  exact completes_of_exec (exec_versionPublication ht hreplacing hwritten hdue hadopting)
    ⟨hdev, hcmds, _, table_versionPublish none ht, rfl, rfl, rfl⟩

/-! REPLACE_COMMIT. -/

theorem exec_replaceCommit_ready (hrun : s.openRunning h 2 = some c) (ht : Tab.get? s.tables c.table = some t) (hphase : c.phase = .ready)
    (hwrites : ∀ p ∈ s.cmds, p.2.opcode = 6 → p.2.table = c.table → p.2.phase ≠ .ready) (hadopting : s.adopting c.table = false) :
    exec (.replaceCommit h) s = .next ((s.versionPublish c.table (some h)).modCmd h (closingUnder t.nextStamp)) := by
  have hnone : s.cmds.any (fun p => p.2.opcode == 6 && p.2.table == c.table && p.2.phase == .ready) = false :=
    List.any_eq_false.mpr (fun p hp => by simpa using fun hop htab => hwrites p hp hop htab)
  rw [show exec (.replaceCommit h) s = execReplaceCommit h s from rfl, execReplaceCommit, hrun]
  dsimp only
  rw [ht]
  dsimp only
  rw [hphase, hnone, hadopting]
  rfl

theorem exec_replaceCommit_drained (hrun : s.openRunning h 2 = some c) (ht : Tab.get? s.tables c.table = some t) (hphase : c.phase = .stage 2)
    (hover : s.drainDone c.table c.pubNum = true) :
    exec (.replaceCommit h) s = .next { ((s.endCmd h id).release (.cmd h)) with staging := 0 } := by
  rw [show exec (.replaceCommit h) s = execReplaceCommit h s from rfl, execReplaceCommit, hrun]
  dsimp only
  rw [ht]
  dsimp only
  rw [hphase, hover]
  rfl

theorem replaceCommits (hrun : s.openRunning h 2 = some c) (ht : Tab.get? s.tables c.table = some t) (hphase : c.phase = .ready)
    (hwrites : ∀ p ∈ s.cmds, p.2.opcode = 6 → p.2.table = c.table → p.2.phase ≠ .ready) (hadopting : s.adopting c.table = false) :
    Completes (.replaceCommit h) s (fun u => Waits u h 1 ∧ u.dev = s.dev ∧ u.staging = s.staging ∧
      ∃ t', Tab.get? u.tables c.table = some t' ∧ t'.unpublished = false ∧ t'.layer.num = (t.layer.num + 1) % 2 ^ 32) := by
  obtain ⟨hdev, hcmds, hstaging⟩ := versionPublish_keeps s c.table (some h)
  exact completes_of_exec (exec_replaceCommit_ready hrun ht hphase hwrites hadopting)
    ⟨waits_modCmd _ ((congrArg (Tab.get? · h) hcmds).trans (cmd_of_openRunning hrun)) rfl, hdev, hstaging, _,
      table_versionPublish (some h) ht, rfl, rfl⟩

end

/-- Settles O40: the claim and the first publication of REPLACE_BEGIN, the keeper's version publications, and both ends of REPLACE_COMMIT. -/
theorem replacementRuns : Obligations.ReplacementRuns := by
  unfold Obligations.ReplacementRuns
  intro s h c t ht
  refine ⟨fun hrun hphase hfree hneeds => replaceBegins hrun ht hphase hfree hneeds,
    fun hrun hphase hheld => completes_of_exec (exec_replaceBegin_held hrun ht hphase hheld)
      ⟨⟨_, done_endCmd_release _ _ (cmd_of_openRunning hrun), rfl, rfl⟩, rfl, rfl, rfl⟩,
    fun hrun hphase hover => completes_of_exec (exec_replaceBegin_adopted hrun ht hphase hover)
      ⟨⟨_, ends_done (cmd_of_openRunning hrun), rfl⟩, rfl, rfl, rfl⟩,
    fun hreplacing hwritten hdue hadopting => versionPublishes ht hreplacing hwritten hdue hadopting,
    fun hrun hphase hwrites hadopting => replaceCommits hrun ht hphase hwrites hadopting,
    fun hrun hphase hover => completes_of_exec (exec_replaceCommit_drained hrun ht hphase hover)
      ⟨⟨_, ends_done (cmd_of_openRunning hrun), rfl, rfl⟩, rfl, rfl, rfl⟩⟩

end Sys2Proof.Proofs.Replacing
end

section
/-! Moves off retired rows (O54): a stack without a retired row still ends the move of a table that holds its work. -/

namespace Sys2Proof.Proofs.Retiring

open Sys2Proof Sys2Proof.Machine Sys2Proof.Claims Sys2Proof.Laws Sys2Proof.Proofs.Basic Sys2Proof.Proofs.Layer

/-- A table whose row 5 moves off a retired DRAM row when a TABLE_CLOSE of it is admitted. -/
def closingShifting : Table :=
  { desc := [], mapId := 0, fmt := 0, dim := 8, rows := 8, mbits := 3, stride := 32, key := [], buckets := [0], train := false, replace := false,
    ripen := false, step := 0, closing := true, shift := [5] }

/-- All four slices run, no stack has a retired row, and the one open table is `closingShifting`. -/
def shiftingState : State := { State.reset with
  slices := [{ run := 2 }, { run := 2 }, { run := 2 }, { run := 2 }]
  tables := [(0, closingShifting)] }

/-- RETIRE_MOVE discards the rows that the closing table was to move: it looks at the table's work before the stack's retired rows. -/
theorem retireMove_shiftingState : exec (.retireMove 0) shiftingState = .next { shiftingState with
    tables := [(0, { closingShifting with shift := [] })] } := rfl

/-- Refutes O54: RETIRE_MOVE of a stack without a retired row does not leave every state as it is. In `shiftingState`, whose memory is
canonical and whose slices run, it empties the `shift` of the closing table. -/
theorem not_repairsAndRetirements : ¬ Obligations.RepairsAndRetirements := by
  unfold Obligations.RepairsAndRetirements
  intro h
  obtain ⟨-, -, hidle, -⟩ := h shiftingState 0 (by decide) rfl
  have hsame : exec (.retireMove 0) shiftingState = .next shiftingState := hidle rfl
  rw [retireMove_shiftingState] at hsame
  have htables := congrArg State.tables (Host.Outcome.next.inj hsame)
  exact absurd htables (by decide)

end Sys2Proof.Proofs.Retiring
end

section
/-! Rows and contributions that peers ask for and send (O50, first part). -/

namespace Sys2Proof.Proofs.PeerRows

open Sys2Proof Sys2Proof.Machine Sys2Proof.Claims Sys2Proof.Laws Sys2Proof.Proofs.Basic Sys2Proof.Proofs.Layer Sys2Proof.Proofs.Scatter

/-! A message to a peer looks at neither the slices nor the tables. -/

/-- A state with other slices and tables. -/
def aside (s : State) (l : List Slice) (t : Tab Table) : State := { s with slices := l, tables := t }

theorem sendFrame_aside (s : State) (l : List Slice) (t : Tab Table) (p : Nat) (f : Frame) :
    (aside s l t).sendFrame p f = aside (s.sendFrame p f) l t := by
  by_cases hroom : (s.optic p).replay.length < 640
  · rw [show s.sendFrame p f = _ from if_pos hroom, show (aside s l t).sendFrame p f = _ from if_pos hroom]
    rfl
  · rw [show s.sendFrame p f = _ from if_neg hroom, show (aside s l t).sendFrame p f = _ from if_neg hroom]
    rfl

theorem sendRouted_aside (s : State) (l : List Slice) (t : Tab Table) (f : Frame) : (aside s l t).sendRouted f = aside (s.sendRouted f) l t := by
  have hroute : (aside s l t).routePort f.dst = s.routePort f.dst := rfl
  unfold State.sendRouted
  rw [hroute]
  cases s.routePort f.dst with
  | none => rfl
  | some p => exact sendFrame_aside s l t p f

theorem toPeer_aside (s : State) (l : List Slice) (t : Tab Table) (e : Nat) (m : PeerMsg) :
    (aside s l t).toPeer e m = aside (s.toPeer e m) l t := by
  by_cases hpresent : presentIn s.self s.declared e = true
  · rw [show s.toPeer e m = _ from if_pos hpresent, show (aside s l t).toPeer e m = _ from if_pos hpresent]
    exact sendRouted_aside s l t _
  · rw [show s.toPeer e m = _ from if_neg hpresent, show (aside s l t).toPeer e m = _ from if_neg hpresent]

theorem foldl_toPeer_aside (src : Nat) (ms : List PeerMsg) (s : State) (l : List Slice) (t : Tab Table) :
    ms.foldl (fun acc m => acc.toPeer src m) (aside s l t) = aside (ms.foldl (fun acc m => acc.toPeer src m) s) l t := by
  induction ms generalizing s with
  | nil => rfl
  | cons m r ih => rw [List.foldl_cons, List.foldl_cons, toPeer_aside, ih]

theorem tables_toPeer (s : State) (e : Nat) (m : PeerMsg) : (s.toPeer e m).tables = s.tables := by simp

theorem toPeer_slicesOnly {s u : State} (h : SlicesOnly s u) (e : Nat) (m : PeerMsg) : SlicesOnly (s.toPeer e m) (u.toPeer e m) := by
  have haside : u = aside s u.slices s.tables := h
  rw [SlicesOnly, haside, toPeer_aside, aside, ← tables_toPeer s e m]

theorem toPeer_tablesOnly {s u : State} (h : TablesOnly s u) (e : Nat) (m : PeerMsg) : TablesOnly (s.toPeer e m) (u.toPeer e m) := by
  have haside : u = aside s u.slices u.tables := h
  rw [TablesOnly, haside, toPeer_aside]
  rfl

/-! Row requests. -/

/-- Whom the engine itself reads for. -/
def engineActor : Actor := { who := .engine, ctx := 0, pasid := 0, fw := none }

/-- The sectors of a row that were read poisoned. -/
def badSectors (n : Nat) (l : List PB) : List Nat := (List.range (n / 32)).filter (fun k => anyPoison (sliceP l (32 * k) 32))

theorem mem_badSectors {n i : Nat} {l : List PB} : i ∈ badSectors n l ↔ i < n / 32 ∧ anyPoison (sliceP l (32 * i) 32) = true := by
  simp [badSectors]

section
variable {s : State} {src table mapId row tag : Nat} {y : Layer} {t : Table} {l : Loc} {b : Acc (List PB)}

theorem exec_peerRowRequest (hsrc : presentIn s.self s.declared src = true) (hy : Tab.get? (s.slc 3).layers table = some y) :
    exec (.peerRowRequest src table mapId row tag) s = .next (if (s.serveRow src table mapId row tag y).2 then (s.serveRow src table mapId row tag y).1
      else (s.serveRow src table mapId row tag y).1.holdPeer (.peerRowRequest src table mapId row tag) y) := by
  rw [show exec (.peerRowRequest src table mapId row tag) s = execPeerRowRequest src table mapId row tag s from rfl, execPeerRowRequest, hsrc, hy]
  rfl

theorem exec_peerRowRequest_closed (hsrc : presentIn s.self s.declared src = true) (hy : Tab.get? (s.slc 3).layers table = none) :
    exec (.peerRowRequest src table mapId row tag) s = .next (s.toPeer src (.reply tag .absent)) := by
  rw [show exec (.peerRowRequest src table mapId row tag) s = execPeerRowRequest src table mapId row tag s from rfl, execPeerRowRequest, hsrc, hy]
  rfl

theorem serveRow_absent (hcopy : s.peerCopy table mapId row y = none) :
    s.serveRow src table mapId row tag y = (s.toPeer src (.reply tag .absent), true) := by
  rw [State.serveRow, hcopy]

theorem serveRow_served (hcopy : s.peerCopy table mapId row y = some (t, l)) (hb : b = s.copyBytes engineActor (l.stack / 3) [] t y row l)
    (hneeds : b.needs = []) : s.serveRow src table mapId row tag y =
      ((s.skewAccess table l.stack (t.bucket table row) row (isHot y row l) true).toPeer src
        (.reply tag (.row (dataOf b.val) (badSectors t.stored b.val))), true) := by
  subst hb
  rw [State.serveRow, hcopy]
  exact if_neg (by rw [← engineActor, hneeds]; simp)

theorem serveRow_waits (hcopy : s.peerCopy table mapId row y = some (t, l)) (hb : b = s.copyBytes engineActor (l.stack / 3) [] t y row l)
    (hneeds : b.needs ≠ []) : s.serveRow src table mapId row tag y = (s.askAll 0 b.needs, false) := by
  subst hb
  rw [State.serveRow, hcopy]
  exact if_pos (by rw [← engineActor]; simpa using hneeds)

/-- No copy is served under a closing layer or another map. -/
theorem peerCopy_none (h : y.closing = true ∨ ∀ t, Tab.get? s.tables table = some t → t.mapId ≠ mapId) : s.peerCopy table mapId row y = none := by
  unfold State.peerCopy
  cases ht : Tab.get? s.tables table with
  | none => rfl
  | some t =>
    refine if_pos ?_
    rcases h with hclosing | hmap
    · simp [hclosing]
    · simp [hmap t ht]

theorem rowIsServed (hsrc : presentIn s.self s.declared src = true) (hy : Tab.get? (s.slc 3).layers table = some y)
    (hcopy : s.peerCopy table mapId row y = some (t, l)) (hb : b = s.copyBytes engineActor (l.stack / 3) [] t y row l) (hneeds : b.needs = []) :
    Completes (.peerRowRequest src table mapId row tag) s (fun u => ∃ bad : List Nat,
      (∀ i, i ∈ bad ↔ i < t.stored / 32 ∧ anyPoison (sliceP b.val (32 * i) 32) = true) ∧
      u = { s.toPeer src (.reply tag (.row (dataOf b.val) bad)) with slices := u.slices }) := by
  have hexec := exec_peerRowRequest (mapId := mapId) (row := row) (tag := tag) hsrc hy
  rw [serveRow_served hcopy hb hneeds] at hexec
  refine completes_of_exec hexec ⟨badSectors t.stored b.val, fun i => mem_badSectors, ?_⟩
  exact toPeer_slicesOnly (skewAccess_slicesOnly ..) src _

theorem rowIsHeld (hsrc : presentIn s.self s.declared src = true) (hy : Tab.get? (s.slc 3).layers table = some y)
    (hcopy : s.peerCopy table mapId row y = some (t, l)) (hb : b = s.copyBytes engineActor (l.stack / 3) [] t y row l) (hneeds : b.needs ≠ []) :
    Completes (.peerRowRequest src table mapId row tag) s (fun u => u.dev = s.dev ∧ u.cmds = s.cmds ∧ u.tables = s.tables ∧
      ∃ p, u.heldPeer = s.heldPeer ++ [p] ∧ p.ins = .peerRowRequest src table mapId row tag ∧ p.view = y) := by
  have hexec := exec_peerRowRequest (mapId := mapId) (row := row) (tag := tag) hsrc hy
  rw [serveRow_waits hcopy hb hneeds] at hexec
  have hasked : (s.askAll 0 b.needs).dev = s.dev ∧ (s.askAll 0 b.needs).cmds = s.cmds ∧ (s.askAll 0 b.needs).tables = s.tables ∧
      (s.askAll 0 b.needs).heldPeer = s.heldPeer := by simp
  generalize s.askAll 0 b.needs = u at hexec hasked
  obtain ⟨hdev, hcmds, htables, hheld⟩ := hasked
  exact completes_of_exec hexec ⟨hdev, hcmds, htables, _, congrArg (· ++ [_]) hheld, rfl, rfl⟩

end

/-! Replies. -/

theorem exec_rowReply {s : State} {src tag : Nat} {reply : Reply} {q : PeerReq}
    (hfind : s.peerReqs.find? (fun q => q.tag == tag && q.peer == src) = some q) (hwant : ∀ i, q.want ≠ .contribution i) :
    Gives (.rowReply src tag reply) s { s with
      peerReqs := s.peerReqs.erase q, cmds := Tab.modify s.cmds q.h (fun d => { d with got := d.got ++ [(q.want, reply)] }) } := by
  rw [Gives, show exec (.rowReply src tag reply) s = execRowReply src tag reply s from rfl, execRowReply, hfind]
  dsimp only
  cases hq : q.want with
  | contribution i => exact absurd hq (hwant i)
  | row _ | scan _ | replica _ => rfl

theorem exec_rowReply_dropped {s : State} {src tag : Nat} {reply : Reply} (hnone : ∀ q ∈ s.peerReqs, q.tag ≠ tag ∨ q.peer ≠ src) :
    Gives (.rowReply src tag reply) s s := by
  have hfind : s.peerReqs.find? (fun q => q.tag == tag && q.peer == src) = none :=
    List.find?_eq_none.mpr (fun q hq => by have := hnone q hq; simp; omega)
  rw [Gives, show exec (.rowReply src tag reply) s = execRowReply src tag reply s from rfl, execRowReply, hfind]

/-! Contributions. -/

/-- A contribution of a peer as it arrives. -/
def arriving (s : State) (src : Nat) (n : Fin 4) (step : Word) (row batch : Nat) (elems : List (F32 × Bool)) (o : Loc) : Contrib where
  row := row
  engine := src
  slice := n.val
  batch := batch
  step := step
  elems := elems.map (fun e => { v := e.1, p := e.2 })
  owner := o.stack / 3
  level := 0
  arrival := 0
  id := s.nextCmd
  stack := o.stack

/-- A table with one more contribution that waits for space. -/
def stalledAt (k : Contrib) (tag : Nat) (t : Table) : Table := { t with stalled := t.stalled ++ [(k, tag)] }

/-- The state in which a contribution waits for space. -/
def heldBack (s : State) (table tag : Nat) (k : Contrib) : State :=
  { (s.countTbl k.owner table 1 1).modTable table (stalledAt k tag) with nextCmd := (s.countTbl k.owner table 1 1).nextCmd + 1 }

/-- A contribution as the partition holds it. -/
def placed (t : Table) (k : Contrib) : Contrib :=
  { k with
    level := 0
    pos := ((List.range (((t.atLevel k.owner 0).map Contrib.pos).length + 1)).find? (fun i => !((t.atLevel k.owner 0).map Contrib.pos).contains i)).getD 0
    arrival := t.arrivals
    id := 0 }

theorem buffer_partition {s : State} {num : Nat} {t : Table} {k : Contrib} (ht : Tab.get? s.tables num = some t) (hroom : t.hasRoom k.owner 0 = true) :
    ∃ u, s.buffer num k = some u ∧ TablesOnly s u ∧ Tab.get? u.tables num = some (accepted (placed t k) t) := by
  have hlevel : t.nextLevel k.owner = some 0 := List.find?_cons_of_pos hroom
  have hbuffer : s.buffer num k =
      some ((s.modTable num (accepted (placed t k))).skewAccess num k.stack (t.bucket num k.row) k.row false (k.engine != s.self)) := by
    rw [State.buffer, ht]
    dsimp only
    rw [hlevel]
    rfl
  have hskew := skewAccess_slicesOnly (s.modTable num (accepted (placed t k))) num k.stack (t.bucket num k.row) k.row false (k.engine != s.self)
  generalize (s.modTable num (accepted (placed t k))).skewAccess num k.stack (t.bucket num k.row) k.row false (k.engine != s.self) = u at hbuffer hskew
  rw [SlicesOnly] at hskew
  refine ⟨u, hbuffer, by rw [TablesOnly, hskew]; rfl, ?_⟩
  rw [hskew]
  exact (tab_get?_modify ..).trans ((if_pos rfl).trans (by rw [ht]; rfl))

theorem buffer_full {s : State} {num : Nat} {t : Table} {k : Contrib} (ht : Tab.get? s.tables num = some t) (hfull : t.nextLevel k.owner = none) :
    s.buffer num k = none := by
  rw [State.buffer, ht]
  dsimp only
  rw [hfull]

section
variable {s : State} {src : Nat} {n : Fin 4} {table mapId row batch tag : Nat} {step : Word} {elems : List (F32 × Bool)} {t : Table} {y : Layer}

theorem exec_contribution_refused (hsrc : presentIn s.self s.declared src = true)
    (hrefused : s.refuses table mapId step row elems.length = true ∨ s.ownerDown table step row = true) :
    exec (.contributionArrival src n table mapId step row batch elems tag) s = .next ((s.countTbl 0 table 3 1).toPeer src (.reply tag .refused)) := by
  rw [show exec (.contributionArrival src n table mapId step row batch elems tag) s =
    execContributionArrival src n table mapId step row batch elems tag s from rfl, execContributionArrival]
  rw [if_neg (by simp [hsrc]), if_pos (by simpa using hrefused)]

theorem exec_contribution_taken (hsrc : presentIn s.self s.declared src = true) (hkept : s.refuses table mapId step row elems.length = false)
    (ht : Tab.get? s.tables table = some t) (hy : Tab.get? (s.slc 3).layers table = some y)
    (hup : s.sliceUp ((t.contribOwner y table step row).stack / 3) = true) :
    exec (.contributionArrival src n table mapId step row batch elems tag) s =
      .next (match s.buffer table (arriving s src n step row batch elems (t.contribOwner y table step row)) with
        | some u => u.toPeer src (.reply tag .accepted)
        | none => heldBack s table tag (arriving s src n step row batch elems (t.contribOwner y table step row))) := by
  have hdown : s.ownerDown table step row = false := by simp [State.ownerDown, ht, hy, hup]
  rw [show exec (.contributionArrival src n table mapId step row batch elems tag) s =
    execContributionArrival src n table mapId step row batch elems tag s from rfl, execContributionArrival]
  rw [if_neg (by simp [hsrc]), if_neg (by simp [hkept, hdown]), ht, hy]
  dsimp only
  rw [← arriving]
  cases s.buffer table (arriving s src n step row batch elems (t.contribOwner y table step row)) with
  | some u => rfl
  | none => rfl

theorem countTbl_slicesOnly (s : State) (n t i k : Nat) : SlicesOnly s (s.countTbl n t i k) := by
  unfold State.countTbl
  split
  · exact .refl s
  · rfl

theorem contributionRefused (hsrc : presentIn s.self s.declared src = true)
    (hrefused : s.refuses table mapId step row elems.length = true ∨ s.ownerDown table step row = true) :
    Completes (.contributionArrival src n table mapId step row batch elems tag) s (fun u =>
      u = { s.toPeer src (.reply tag .refused) with slices := u.slices }) :=
  completes_of_exec (exec_contribution_refused hsrc hrefused) (toPeer_slicesOnly (countTbl_slicesOnly s 0 table 3 1) src _)

theorem contributionAccepted (hsrc : presentIn s.self s.declared src = true) (hkept : s.refuses table mapId step row elems.length = false)
    (ht : Tab.get? s.tables table = some t) (hy : Tab.get? (s.slc 3).layers table = some y)
    (hup : s.sliceUp ((t.contribOwner y table step row).stack / 3) = true) (hroom : t.hasRoom ((t.contribOwner y table step row).stack / 3) 0 = true) :
    Completes (.contributionArrival src n table mapId step row batch elems tag) s (fun u =>
      u = { s.toPeer src (.reply tag .accepted) with tables := u.tables, slices := u.slices } ∧
      ∃ k, Tab.get? u.tables table = some { t with contribs := t.contribs ++ [k], arrivals := t.arrivals + 1 } ∧ k.row = row ∧ k.engine = src ∧
        k.slice = n.val ∧ k.batch = batch ∧ k.step = step ∧ k.level = 0 ∧ k.elems = elems.map (fun e => ⟨e.1, e.2⟩)) := by
  obtain ⟨u, hbuffer, honly, htable⟩ := buffer_partition ht
    (show t.hasRoom (arriving s src n step row batch elems (t.contribOwner y table step row)).owner 0 = true from hroom)
  have hexec := exec_contribution_taken (n := n) (batch := batch) (tag := tag) hsrc hkept ht hy hup
  rw [hbuffer] at hexec
  exact completes_of_exec hexec ⟨toPeer_tablesOnly honly src _, _, (congrArg (Tab.get? · table) (tables_toPeer ..)).trans htable,
    rfl, rfl, rfl, rfl, rfl, rfl, rfl⟩

theorem contributionStalls (hsrc : presentIn s.self s.declared src = true) (hkept : s.refuses table mapId step row elems.length = false)
    (ht : Tab.get? s.tables table = some t) (hy : Tab.get? (s.slc 3).layers table = some y)
    (hup : s.sliceUp ((t.contribOwner y table step row).stack / 3) = true) (hfull : t.nextLevel ((t.contribOwner y table step row).stack / 3) = none) :
    Completes (.contributionArrival src n table mapId step row batch elems tag) s (fun u => u.out = s.out ∧ u.dev = s.dev ∧ u.cmds = s.cmds ∧
      ∃ k, Tab.get? u.tables table = some { t with stalled := t.stalled ++ [(k, tag)] } ∧ k.row = row ∧ k.engine = src ∧ k.step = step ∧
        k.batch = batch) := by
  have hexec := exec_contribution_taken (n := n) (batch := batch) (tag := tag) hsrc hkept ht hy hup
  rw [buffer_full ht (show t.nextLevel (arriving s src n step row batch elems (t.contribOwner y table step row)).owner = none from hfull)] at hexec
  dsimp only at hexec
  refine completes_of_exec hexec ?_
  have hcount : SlicesOnly s (s.countTbl (arriving s src n step row batch elems (t.contribOwner y table step row)).owner table 1 1) :=
    countTbl_slicesOnly ..
  unfold heldBack
  generalize s.countTbl (arriving s src n step row batch elems (t.contribOwner y table step row)).owner table 1 1 = v at hcount ⊢
  rw [SlicesOnly] at hcount
  rw [hcount]
  exact ⟨rfl, rfl, rfl, _, (tab_get?_modify ..).trans ((if_pos rfl).trans (by rw [ht]; rfl)), rfl, rfl, rfl, rfl⟩

end

theorem rowsAndContributionsAreAnswered : Claims.RowsAndContributionsAreAnswered := by
  unfold Claims.RowsAndContributionsAreAnswered
  intro s src hsrc
  refine ⟨fun table mapId row tag => ⟨exec_peerRowRequest_closed hsrc, fun y hy => ⟨fun hcopy => ?_, peerCopy_none, fun t l b hcopy hb =>
    ⟨rowIsServed hsrc hy hcopy hb, rowIsHeld hsrc hy hcopy hb⟩⟩⟩, fun tag reply q => exec_rowReply, fun tag reply => exec_rowReply_dropped,
    fun n table mapId step row batch elems tag => ⟨contributionRefused hsrc, fun t y hkept ht hy hup =>
      ⟨contributionAccepted hsrc hkept ht hy hup, contributionStalls hsrc hkept ht hy hup⟩⟩⟩
  rw [Gives, exec_peerRowRequest hsrc hy, serveRow_absent hcopy]
  rfl

end Sys2Proof.Proofs.PeerRows
end

section
/-! Scans and replica writes of peers (O50, second part). -/

namespace Sys2Proof.Proofs.PeerScans

open Sys2Proof Sys2Proof.Machine Sys2Proof.Claims Sys2Proof.Laws Sys2Proof.Proofs.Basic Sys2Proof.Proofs.Layer Sys2Proof.Proofs.Scoring
open Sys2Proof.Proofs.PeerRows Sys2Proof.Proofs.RowWrites

/-! Scan requests. -/

/-- Messages to one peer, in order. -/
def sendAll (s : State) (src : Nat) (ms : List PeerMsg) : State := ms.foldl (fun acc m => acc.toPeer src m) s

/-- The answer that a part is absent. -/
def absentAnswer (tag p : Nat) : PeerMsg := .scanPartial tag 0 0 0 p [0, 0, 0, 0] []

/-- The answer with the results of a part. -/
def partAnswer (tag : Nat) (v : ScanPart × Ev × List Nat) : PeerMsg :=
  .scanPartial tag v.1.fed v.1.masked v.1.absent v.1.num (evCounts v.2.1) v.1.queries

/-- Messages that answer every part of a request. -/
def AnswersAll (tag : Nat) (parts : List Nat) (ms : List PeerMsg) : Prop :=
  ∀ p ∈ parts, ∃ fed masked absent ev qs, PeerMsg.scanPartial tag fed masked absent p ev qs ∈ ms

theorem absentAnswers_all (tag : Nat) (parts : List Nat) : AnswersAll tag parts (parts.map (absentAnswer tag)) :=
  fun p hp => ⟨0, 0, 0, [0, 0, 0, 0], [], List.mem_map.mpr ⟨p, hp, rfl⟩⟩

theorem partAnswers_all (tag : Nat) (parts own : List Nat) (f : Nat → Acc (ScanPart × Ev × List Nat)) (hf : ∀ p, (f p).val.1.num = p) :
    AnswersAll tag parts ((Acc.list ((own ++ parts).map f)).val.map (partAnswer tag)) := by
  intro p hp
  refine ⟨(f p).val.1.fed, (f p).val.1.masked, (f p).val.1.absent, evCounts (f p).val.2.1, (f p).val.1.queries, List.mem_map.mpr ⟨(f p).val, ?_, ?_⟩⟩
  · rw [accList_val]
    exact List.mem_map.mpr ⟨p, List.mem_append_right _ hp, rfl⟩
  · rw [partAnswer, hf]

theorem foldl_absent_eq (s : State) (src tag : Nat) (parts : List Nat) :
    parts.foldl (fun acc p => acc.toPeer src (.scanPartial tag 0 0 0 p [0, 0, 0, 0] [])) s = sendAll s src (parts.map (absentAnswer tag)) := by
  rw [sendAll, List.foldl_map]
  rfl

theorem sendAll_slicesOnly {s u : State} (h : SlicesOnly s u) (src : Nat) (ms : List PeerMsg) :
    SlicesOnly (sendAll s src ms) (sendAll u src ms) := by
  induction ms generalizing s u with
  | nil => exact h
  | cons m r ih => exact ih (toPeer_slicesOnly h src m)

theorem sendAll_keeps (s : State) (src : Nat) (ms : List PeerMsg) :
    (sendAll s src ms).dev = s.dev ∧ (sendAll s src ms).cmds = s.cmds ∧ (sendAll s src ms).tables = s.tables ∧
      (sendAll s src ms).heldPeer = s.heldPeer := by
  unfold sendAll
  exact ⟨foldl_field _ State.dev (fun _ _ => by simp) _ _, foldl_field _ State.cmds (fun _ _ => by simp) _ _,
    foldl_field _ State.tables (fun _ _ => by simp) _ _, foldl_field _ State.heldPeer (fun _ _ => by simp) _ _⟩

/-- What serving a scan leads to: answers to every part, or a wait. -/
inductive Served (s : State) (src tag : Nat) (parts : List Nat) (r : State × Bool) : Prop
  | answered (u : State) (ms : List PeerMsg) (hslices : SlicesOnly s u) (hall : AnswersAll tag parts ms) (hr : r = (sendAll u src ms, true))
  | waits (l : List Need) (hr : r = (s.askAll 0 l, false))

section
variable {s : State} {src table mapId tag variant : Nat} {packet image mask : List Byte} {queries : List (List (F32 × Bool))} {parts : List Nat}

theorem serveScan_absent {y : Option Layer} (h : Tab.get? s.tables table = none ∨ y = none) :
    s.serveScan src table mapId tag packet image variant queries mask parts y = (sendAll s src (parts.map (absentAnswer tag)), true) := by
  rw [← foldl_absent_eq]
  unfold State.serveScan
  split
  · rename_i t z ht
    rcases h with hnone | hnone
    · exact absurd (ht.symm.trans hnone) (by simp)
    · cases hnone
  · rfl

theorem foldl_answers (u : State) (l : List (ScanPart × Ev × List Nat)) : (l.foldl (fun acc v =>
      acc.toPeer src (.scanPartial tag v.1.fed v.1.masked v.1.absent v.1.num (evCounts v.2.1) v.1.queries)) u, true) =
    (sendAll u src (l.map (partAnswer tag)), true) := by
  rw [sendAll, List.foldl_map]
  rfl

theorem num_scanPart (a : Actor) (slice num : Nat) (t : Table) (y : Layer) (j : ScanJob) (p : Nat) :
    (s.scanPart a slice num t y j p).val.1.num = p := rfl

theorem serveScan_served (y : Option Layer) :
    Served s src tag parts (s.serveScan src table mapId tag packet image variant queries mask parts y) := by
  unfold State.serveScan
  dsimp only
  split
  · split
    · exact .answered s _ rfl (absentAnswers_all tag parts) (by rw [← foldl_absent_eq]; rfl)
    · split
      · exact .waits _ rfl
      · exact .answered _ _ (skewScan_slicesOnly ..) (partAnswers_all tag parts _ _ (num_scanPart _ _ _ _ _ _)) (foldl_answers ..)
  · exact .answered s _ rfl (absentAnswers_all tag parts) (by rw [← foldl_absent_eq]; rfl)

theorem exec_scanRequest (hsrc : presentIn s.self s.declared src = true) {r : State × Bool}
    (hr : r = s.serveScan src table mapId tag packet image variant queries mask parts (Tab.get? (s.slc 3).layers table)) :
    exec (.scanRequest src table mapId tag packet image variant queries mask parts) s = .next (if r.2 then r.1
      else r.1.holdPeer (.scanRequest src table mapId tag packet image variant queries mask parts) ((Tab.get? (s.slc 3).layers table).getD {})) := by
  subst hr
  rw [show exec (.scanRequest src table mapId tag packet image variant queries mask parts) s =
    execScanRequest src table mapId tag packet image variant queries mask parts s from rfl, execScanRequest, if_neg (by simp [hsrc])]

theorem scanIsServed (hsrc : presentIn s.self s.declared src = true) :
    Completes (.scanRequest src table mapId tag packet image variant queries mask parts) s (fun u =>
      u.dev = s.dev ∧ u.cmds = s.cmds ∧ u.tables = s.tables ∧
      (Tab.get? s.tables table = none ∨ Tab.get? (s.slc 3).layers table = none →
        u = parts.foldl (fun acc p => acc.toPeer src (.scanPartial tag 0 0 0 p [0, 0, 0, 0] [])) s) ∧
      (u.heldPeer = s.heldPeer → ∃ ms : List PeerMsg, u = { ms.foldl (fun acc m => acc.toPeer src m) s with slices := u.slices } ∧
        ∀ p ∈ parts, ∃ fed masked absent ev qs, PeerMsg.scanPartial tag fed masked absent p ev qs ∈ ms)) := by
  have habsent := serveScan_absent (s := s) (src := src) (table := table) (mapId := mapId) (tag := tag) (packet := packet) (image := image)
    (variant := variant) (queries := queries) (mask := mask) (parts := parts) (y := Tab.get? (s.slc 3).layers table)
  have hserved := serveScan_served (s := s) (src := src) (table := table) (mapId := mapId) (tag := tag) (packet := packet) (image := image)
    (variant := variant) (queries := queries) (mask := mask) (parts := parts) (Tab.get? (s.slc 3).layers table)
  have hexec := exec_scanRequest (table := table) (mapId := mapId) (tag := tag) (packet := packet) (image := image)
    (variant := variant) (queries := queries) (mask := mask) (parts := parts) hsrc rfl
  generalize s.serveScan src table mapId tag packet image variant queries mask parts (Tab.get? (s.slc 3).layers table) = r at habsent hserved hexec
  rw [foldl_absent_eq]
  cases hserved with
  | answered u ms hslices hall hr =>
    obtain ⟨hdev, hcmds, htables, -⟩ := sendAll_keeps u src ms
    rw [SlicesOnly] at hslices
    subst hr
    refine completes_of_exec hexec ⟨hdev.trans (by rw [hslices]), hcmds.trans (by rw [hslices]), htables.trans (by rw [hslices]),
      fun hclosed => congrArg Prod.fst (habsent hclosed), fun _ => ⟨ms, sendAll_slicesOnly hslices src ms, hall⟩⟩
  | waits l hr =>
    have hasked : (s.askAll 0 l).dev = s.dev ∧ (s.askAll 0 l).cmds = s.cmds ∧ (s.askAll 0 l).tables = s.tables ∧
        (s.askAll 0 l).heldPeer = s.heldPeer := by simp
    generalize s.askAll 0 l = v at hr hasked
    obtain ⟨hdev, hcmds, htables, hheld⟩ := hasked
    subst hr
    refine completes_of_exec hexec ⟨hdev, hcmds, htables, fun hclosed => absurd (congrArg Prod.snd (habsent hclosed)) Bool.false_ne_true,
      fun hsame => absurd (congrArg List.length hsame) ?_⟩
    rw [if_neg Bool.false_ne_true, State.holdPeer, hheld]
    simp

end

/-! Answers to scans. -/

/-- A part as its answer gives it. -/
def answered (src part fed masked absent : Nat) (qs : List ScanQuery) : ScanPart where
  num := part
  src := src
  fed := fed
  masked := masked
  absent := absent
  queries := qs

/-- A command with a part put in. -/
def withPart (p : ScanPart) (d : Cmd) : Cmd := { d with scans := putPart d.scans p }

/-- A part that is put in is there, whether it keeps its statistics or not. -/
theorem mem_putPart (l : List ScanPart) (p : ScanPart) :
    ∃ q ∈ putPart l p, q.num = p.num ∧ q.fed = p.fed ∧ q.masked = p.masked ∧ q.absent = p.absent := by
  induction l with
  | nil => exact ⟨p, List.mem_singleton.mpr rfl, rfl, rfl, rfl, rfl⟩
  | cons a r ih =>
    rw [putPart]
    split
    · refine ⟨_, List.mem_cons_self, ?_⟩
      split
      · exact ⟨rfl, rfl, rfl, rfl⟩
      · exact ⟨rfl, rfl, rfl, rfl⟩
    · obtain ⟨q, hq, hfields⟩ := ih
      exact ⟨q, List.mem_cons_of_mem _ hq, hfields⟩

theorem scoreFinish_of_pending {u : State} {h : Nat} {d : Cmd} (hd : Tab.get? u.cmds h = some d) (hpend : d.scans.any ScanPart.pending = true) :
    u.scoreFinish h = u := by
  unfold State.scoreFinish
  split
  · rfl
  · next c hrun =>
    obtain rfl : d = c := Option.some.inj (hd.symm.trans (running_eq_some hrun).1)
    exact if_pos (.inr hpend)

section
variable {s : State} {src tag fed masked absent part : Nat} {ev : List Nat} {qs : List ScanQuery} {q : PeerReq} {c : Cmd}

/-- The state in which the events of an answer are counted, its request is over, and its part is put in. -/
def partTaken (s : State) (q : PeerReq) (c : Cmd) (ev : List Nat) (p : ScanPart) : State :=
  (State.countPress { s with peerReqs := s.peerReqs.erase q } c.slice c.ctx (evOf ev)).modCmd q.h (withPart p)

theorem exec_scanPartial (hfind : s.peerReqs.find? (fun q => q.tag == tag && q.peer == src && q.want == .scan part) = some q) (hqs : qs ≠ [])
    (hc : Tab.get? s.cmds q.h = some c) (hop : c.opcode = 3) (hphase : c.phase ≠ .done) :
    exec (.scanPartial src tag fed masked absent part ⟨ev, qs⟩) s =
      .next ((partTaken s q c ev (answered src part fed masked absent qs)).scoreFinish q.h) := by
  rw [show exec (.scanPartial src tag fed masked absent part ⟨ev, qs⟩) s = execScanPartial src tag fed masked absent part ⟨ev, qs⟩ s from rfl,
    execScanPartial, hfind]
  dsimp only [Option.some_or, Option.isSome_some, Option.isNone_some, if_true]
  rw [hc]
  dsimp only
  rw [if_neg (by simp [Cmd.ended, hphase, hop])]
  cases qs with
  | nil => exact absurd rfl hqs
  | cons a r => rfl

theorem answerIsTaken (hfind : s.peerReqs.find? (fun q => q.tag == tag && q.peer == src && q.want == .scan part) = some q) (hqs : qs ≠ [])
    (hc : Tab.get? s.cmds q.h = some c) (hop : c.opcode = 3) (hphase : c.phase ≠ .done) (hpend : ∃ p ∈ c.scans, p.num ≠ part ∧ p.pending = true) :
    Completes (.scanPartial src tag fed masked absent part ⟨ev, qs⟩) s (fun u => u.peerReqs = s.peerReqs.erase q ∧ u.dev = s.dev ∧ u.out = s.out ∧
      (∃ d, Tab.get? u.cmds q.h = some d ∧ d.phase = c.phase ∧
        ∃ p ∈ d.scans, p.num = part ∧ p.fed = fed ∧ p.masked = masked ∧ p.absent = absent)) := by
  have hexec := exec_scanPartial (fed := fed) (masked := masked) (absent := absent) (ev := ev) hfind hqs hc hop hphase
  obtain ⟨p, hp, hnum, hpending⟩ := hpend
  have hcount := countPress_slicesOnly { s with peerReqs := s.peerReqs.erase q } c.slice c.ctx (evOf ev)
  rw [SlicesOnly] at hcount
  have htaken : Tab.get? (partTaken s q c ev (answered src part fed masked absent qs)).cmds q.h =
      some (withPart (answered src part fed masked absent qs) c) := by
    rw [partTaken, get?_modCmd, if_pos rfl, hcount, hc]
    rfl
  have hstill : (withPart (answered src part fed masked absent qs) c).scans.any ScanPart.pending = true :=
    List.any_eq_true.mpr ⟨p, mem_putPart_of_mem hp hnum, hpending⟩
  rw [scoreFinish_of_pending htaken hstill] at hexec
  refine completes_of_exec hexec ⟨?_, ?_, ?_, _, htaken, rfl, mem_putPart ..⟩
  · simp [partTaken]
  · simp [partTaken]
  · simp [partTaken]

end

/-! Replica writes. -/

section
variable {s : State} {src table mapId row tag : Nat} {bytes : List Byte} {poison : List Nat} {t : Table} {y : Layer}

theorem exec_replicaWrite (hsrc : presentIn s.self s.declared src = true) (ht : Tab.get? s.tables table = some t)
    (hy : Tab.get? (s.slc 3).layers table = some y) (hmap : t.mapId = mapId) (hrow : row < t.rows) (hclosing : y.closing = false)
    (hreplacing : y.replacing = false) (hreaders : s.readersBefore s.nextCmd table = false) (hwrites : s.writeHeld s.nextCmd table row = false)
    (hneeds : s.rowNeeds .engine table t y row = []) : exec (.replicaWrite src table mapId row bytes poison tag) s =
      .next (s.writeCopies t (s.copiesHere t y table row) (replyBytes t.stored bytes poison)) := by
  have hserve : s.serveReplica s.nextCmd table mapId row bytes poison y =
      (s.writeCopies t (s.copiesHere t y table row) (replyBytes t.stored bytes poison), true) := by
    rw [State.serveReplica, ht]
    dsimp only
    rw [if_neg (by simp [hclosing, hmap, hrow]), if_neg (by simp [hreplacing, hreaders, hwrites]), hneeds, State.writeRow, hreplacing]
    rfl
  rw [show exec (.replicaWrite src table mapId row bytes poison tag) s = execReplicaWrite src table mapId row bytes poison tag s from rfl,
    execReplicaWrite, hy]
  dsimp only
  rw [if_neg (by simp [hsrc]), hserve]
  rfl

theorem length_replyBytes (n : Nat) (bytes : List Byte) (poison : List Nat) : (replyBytes n bytes poison).length = n := by
  simp [replyBytes]

theorem dataOf_replyBytes {n i : Nat} (bytes : List Byte) (poison : List Nat) (hi : i < n) :
    (dataOf (replyBytes n bytes poison)).getD i 0 = bytes.getD i 0 := by
  simp [dataOf, replyBytes, List.getD_eq_getElem?_getD, List.getElem?_map, List.getElem?_range hi]

/-- A row written to its one copy here reads back. -/
theorem byte_writeCopies_one {l : Loc} (hup : s.sliceUp (l.stack / 3) = true) (hs : s.inv) {i : Nat} (hi : i < t.stored) :
    (s.writeCopies t [l] (replyBytes t.stored bytes poison)).dev.byte (t.addrOf l false + i) = bytes.getD i 0 := by
  have hone : s.writeCopies t [l] (replyBytes t.stored bytes poison) = s.devWrite (t.addrOf l false) (replyBytes t.stored bytes poison) := by
    rw [State.writeCopies, State.upLocs, List.filter_cons, if_pos hup]
    rfl
  rw [hone, State.devWrite, byte_write _ _ _ _ hs, length_replyBytes, if_pos (by omega), Nat.add_sub_cancel_left, dataOf_replyBytes _ _ hi]

theorem replicaIsWritten (hsrc : presentIn s.self s.declared src = true) (ht : Tab.get? s.tables table = some t)
    (hy : Tab.get? (s.slc 3).layers table = some y) (hmap : t.mapId = mapId) (hrow : row < t.rows) (hclosing : y.closing = false)
    (hreplacing : y.replacing = false) (hreaders : s.readersBefore s.nextCmd table = false) (hwrites : s.writeHeld s.nextCmd table row = false)
    (hneeds : s.rowNeeds .engine table t y row = []) (hs : s.inv) :
    Completes (.replicaWrite src table mapId row bytes poison tag) s (fun u =>
      u = { s with dev := u.dev } ∧
      (∀ a, (∀ l ∈ s.copiesHere t y table row, off (t.addrOf l false) t.stored a) → u.dev.byte a = s.dev.byte a) ∧
      (∀ l, s.copiesHere t y table row = [l] → s.sliceUp (l.stack / 3) = true →
        ∀ i, i < t.stored → u.dev.byte (t.addrOf l false + i) = bytes.getD i 0)) := by
  refine completes_of_exec (exec_replicaWrite hsrc ht hy hmap hrow hclosing hreplacing hreaders hwrites hneeds)
    ⟨by rw [state_eq_iff]; simp, fun a hoff => byte_writeCopies_of_off _ _ _ _ a (by rwa [length_replyBytes]), fun l hl hup i hi => ?_⟩
  rw [hl]
  exact byte_writeCopies_one hup hs hi

end

theorem scansAndReplicasAreServed : Claims.ScansAndReplicasAreServed := by
  unfold Claims.ScansAndReplicasAreServed
  intro s src hsrc
  exact ⟨fun table mapId tag packet image variant queries mask parts => scanIsServed hsrc,
    fun tag fed masked absent part ev qs q c hfind hqs hc hop hphase hpend => answerIsTaken hfind hqs hc hop hphase hpend,
    fun table mapId row bytes poison tag t y ht hy hmap hrow hclosing hreplacing hreaders hwrites hneeds hs =>
      replicaIsWritten hsrc ht hy hmap hrow hclosing hreplacing hreaders hwrites hneeds hs⟩

/-- Settles O50: rows, contributions, scans and replica writes of peers are answered or held, and their answers reach the commands that asked. -/
theorem peersAreAnswered : Obligations.PeersAreAnswered := ⟨rowsAndContributionsAreAnswered, scansAndReplicasAreServed⟩

end Sys2Proof.Proofs.PeerScans
end

section
/-! Which functions of the model leave device memory as it is (O4): what an operation that writes no byte does to `dev`. -/

namespace Sys2Proof.Proofs.Memory

open Sys2Proof Sys2Proof.Machine Sys2Proof.Laws Sys2Proof.Proofs.Basic Sys2Proof.Proofs.Layer Sys2Proof.Proofs.Scoring
open Sys2Proof.Proofs.RowWrites Sys2Proof.Proofs.PeerScans


@[simp] theorem msixFlush_dev (s : State) : (s.msixFlush).dev = s.dev := foldl_field _ State.dev (fun _ _ => by simp) _ _

@[simp] theorem linkWaiting_dev (s : State) (l fuel : Nat) : (s.linkWaiting l fuel).dev = s.dev := by
  induction fuel generalizing s with
  | zero => rfl
  | succ n ih =>
    rw [State.linkWaiting]
    repeat' split
    · rfl
    · rw [ih]; simp
    · rfl

@[simp] theorem modFw_dev (s : State) (p : Nat) (f : FwPort → FwPort) : (s.modFw p f).dev = s.dev := rfl

@[simp] theorem linkControl_dev (s : State) (l : Nat) (nak : Bool) : (s.linkControl l nak).dev = s.dev := by
  unfold State.linkControl
  dsimp only
  repeat' split
  all_goals simp

@[simp] theorem answer_dev (s : State) (port : Nat) (tag : Option Nat) (x off : Nat) (data : List Byte) (poison : Bool) :
    (s.answer port tag x off data poison).dev = s.dev := by
  unfold State.answer
  repeat' split
  all_goals simp

@[simp] theorem refuseRead_dev (s : State) (port : Nat) (tag : Option Nat) (x off : Nat) : (s.refuseRead port tag x off).dev = s.dev := by
  unfold State.refuseRead
  repeat' split
  all_goals simp

@[simp] theorem fwTake_dev (s : State) (port : Nat) (read : Bool) : (s.fwTake port read).dev = s.dev := by
  unfold State.fwTake
  repeat' split
  all_goals simp

@[simp] theorem fwReturn_dev (s : State) (port : Nat) (read : Bool) : (s.fwReturn port read).dev = s.dev := by
  unfold State.fwReturn
  repeat' split
  all_goals simp

@[simp] theorem creditBack_dev (s : State) (port : Nat) : (s.creditBack port).dev = s.dev := by
  unfold State.creditBack
  repeat' split
  all_goals simp

@[simp] theorem flushAnswer_dev (s : State) (f : FlushWait) : (s.flushAnswer f).dev = s.dev := by simp [State.flushAnswer]

@[simp] theorem flushDone_dev (s : State) (f : FlushWait) : (s.flushDone f).dev = s.dev := by simp [State.flushDone]

@[simp] theorem flushSettle_dev (s : State) : (s.flushSettle).dev = s.dev := foldl_field _ State.dev (fun _ _ => by simp) _ _

@[simp] theorem sendWaiting_dev (s : State) (p fuel : Nat) : (s.sendWaiting p fuel).dev = s.dev := by
  induction fuel generalizing s with
  | zero => rfl
  | succ n ih =>
    rw [State.sendWaiting]
    split
    · rfl
    · dsimp only
      rw [apply_ite State.dev, ih]
      repeat' split
      all_goals simp

@[simp] theorem frameCtl_dev (s : State) (p : Nat) (nak : Bool) (ack : Nat) : (s.frameCtl p nak ack).dev = s.dev := rfl

@[simp] theorem invalSettle_dev (s : State) : (s.invalSettle).dev = s.dev := foldl_field _ State.dev (fun _ _ => by simp) _ _

@[simp] theorem dropWrites_dev (s : State) (keep : HostWr → Bool) : (s.dropWrites keep).dev = s.dev := by simp [State.dropWrites]

@[simp] theorem skewReads_dev (s : State) (c : Cmd) (rows : List Nat) : (s.skewReads c rows).dev = s.dev := (skewReads_slicesOnly s c rows).dev

theorem buffer_dev {s u : State} {num : Nat} {k : Contrib} (h : s.buffer num k = some u) : u.dev = s.dev := by
  unfold State.buffer at h
  dsimp only at h
  repeat' split at h
  · cases h
  · cases h
  · cases h; simp
  · cases h; simp

/-- A fold over a state and a count keeps what each step keeps. -/
theorem foldl_fst_dev {α β : Type} (f : State × β → α → State × β) (h : ∀ p a, (f p a).1.dev = p.1.dev) (l : List α) (p : State × β) :
    (l.foldl f p).1.dev = p.1.dev := by
  induction l generalizing p with
  | nil => rfl
  | cons a r ih => rw [List.foldl_cons, ih, h]

@[simp] theorem bufferAll_dev (s : State) (num : Nat) (l : List Contrib) : (s.bufferAll num l).1.dev = s.dev := by
  refine foldl_fst_dev _ (fun p k => ?_) l (s, [])
  split
  · next u hu => exact buffer_dev hu
  · rfl

@[simp] theorem countStalls_dev (s : State) (num : Nat) (l : List Contrib) :
    (s.countStalls num l).dev = s.dev := foldl_field _ State.dev (fun _ _ => by simp) _ _

@[simp] theorem sendContribution_dev (s : State) (h : Nat) (c : Cmd) (t : Table) (i : Nat) (o : Loc) (k : Contrib) :
    (s.sendContribution h c t i o k).dev = s.dev := by simp [State.sendContribution]

@[simp] theorem scatterEnd_dev (s : State) (h : Nat) : (s.scatterEnd h).dev = s.dev := by
  unfold State.scatterEnd
  repeat' split
  all_goals simp

@[simp] theorem dropLate_dev (s : State) (num : Nat) (gone : List Nat) (late : List (Contrib × Nat)) :
    (s.dropLate num gone late).dev = s.dev := foldl_field _ State.dev (fun _ _ => by simp) _ _

@[simp] theorem unstall_dev (s : State) (num : Nat) : (s.unstall num).dev = s.dev := by
  unfold State.unstall
  split
  · rfl
  · refine (foldl_field _ State.dev (fun u k => ?_) _ _).trans rfl
    split
    · next v hv => rw [← buffer_dev hv]; simp
    · rfl

@[simp] theorem sendReplicas_dev (s : State) (num : Nat) (t : Table) (y : Layer) (present r : Nat) (bytes : List PB) :
    (s.sendReplicas num t y present r bytes).1.dev = s.dev := (sendReplicas_writesOnly s num t y present r bytes).2

@[simp] theorem dropSource_dev (s : State) (e : Nat) : (s.dropSource e).dev = s.dev := rfl

@[simp] theorem applyFinish_dev (s : State) (h : Nat) (c : Cmd) : (s.applyFinish h c).dev = s.dev := by simp [State.applyFinish]

@[simp] theorem holdPeer_dev (s : State) (ins : Instr) (y : Layer) : (s.holdPeer ins y).dev = s.dev := rfl

@[simp] theorem clearTableCounts_dev (s : State) (num : Nat) : (s.clearTableCounts num).dev = s.dev := by simp [State.clearTableCounts]

@[simp] theorem endPublished_dev (s : State) (h : Nat) (c : Cmd) (drain : Bool) : (s.endPublished h c drain).dev = s.dev := by
  unfold State.endPublished
  repeat' split
  all_goals simp

@[simp] theorem discardWaiting_dev (s : State) (num : Nat) : (s.discardWaiting num).1.dev = s.dev := by
  refine foldl_fst_dev _ (fun p c => ?_) s.cmds (s, 0)
  split
  · simp
  · rfl

@[simp] theorem dropTable_dev (s : State) (num : Nat) (replacing : Bool) : (s.dropTable num replacing).dev = s.dev := rfl

@[simp] theorem traceUndeep_dev (s : State) : (s.traceUndeep).dev = s.dev := by
  unfold State.traceUndeep
  repeat' split
  all_goals simp

@[simp] theorem staged_dev (s : State) : (s.staged).dev = s.dev := by
  unfold State.staged
  repeat' split
  all_goals simp

@[simp] theorem versionPublish_dev (s : State) (num : Nat) (maker : Option Nat) :
    (s.versionPublish num maker).dev = s.dev := by simp [State.versionPublish]

@[simp] theorem askScan_dev (s : State) (h : Nat) (c : Cmd) (t : Table) (j : ScanJob) (peer : Nat) (parts : List Nat) :
    (s.askScan h c t j peer parts).dev = s.dev := by
  unfold State.askScan
  repeat' split
  all_goals simp

@[simp] theorem skewScan_dev (s : State) (num : Nat) (t : Table) (y : Layer) (rows : List Nat) (peer : Bool) :
    (s.skewScan num t y rows peer).dev = s.dev := (skewScan_slicesOnly s num t y rows peer).dev

@[simp] theorem askScans_dev (s : State) (h : Nat) (c : Cmd) (t : Table) (j : ScanJob) (parts : List (Nat × Nat)) :
    (s.askScans h c t j parts).dev = s.dev := foldl_field _ State.dev (fun _ _ => by simp) _ _

@[simp] theorem serveScan_dev (s : State) (src table mapId tag : Nat) (packet image : List Byte) (variant : Nat)
    (queries : List (List (F32 × Bool))) (mask : List Byte) (parts : List Nat) (y : Option Layer) :
    (s.serveScan src table mapId tag packet image variant queries mask parts y).1.dev = s.dev := by
  rcases serveScan_served (s := s) (src := src) (table := table) (mapId := mapId) (tag := tag) (packet := packet) (image := image)
    (variant := variant) (queries := queries) (mask := mask) (parts := parts) y with ⟨u, ms, hslices, -, hr⟩ | ⟨l, hr⟩
  · rw [hr, (sendAll_keeps u src ms).1]
    exact hslices.dev
  · rw [hr]
    simp

@[simp] theorem modNode_dev (s : State) (h i : Nat) (f : McNode → McNode) : (s.modNode h i f).dev = s.dev := rfl

@[simp] theorem mcRead_dev (s : State) (h t i lo hi : Nat) : (s.mcRead h t i lo hi).1.dev = s.dev := by
  unfold State.mcRead
  dsimp only
  repeat' split
  all_goals simp

@[simp] theorem mcHold_dev (s : State) (h t : Nat) : (s.mcHold h t).dev = s.dev := rfl

@[simp] theorem multicastEnd_dev (s : State) (h : Nat) : (s.multicastEnd h).dev = s.dev := by
  unfold State.multicastEnd
  repeat' split
  all_goals simp

@[simp] theorem holdArrival_dev (s : State) (a : Nat × Word) : (s.holdArrival a).dev = s.dev := by
  unfold State.holdArrival
  dsimp only
  repeat' split
  all_goals simp

@[simp] theorem holdPending_dev (s : State) (e : Nat) : (s.holdPending e).dev = s.dev := by
  refine (foldl_field _ State.dev (fun u c => ?_) _ _).trans rfl
  repeat' split
  all_goals simp

@[simp] theorem freeArrivals_dev (s : State) : (s.freeArrivals).dev = s.dev := foldl_field _ State.dev (fun _ _ => by simp) _ _

@[simp] theorem barrierTry_dev (s : State) (h : Nat) : (s.barrierTry h).dev = s.dev := by
  unfold State.barrierTry
  dsimp only
  repeat' split
  all_goals simp

@[simp] theorem barrierReach_dev (s : State) (h : Nat) : (s.barrierReach h).dev = s.dev := by
  have hsent : ∀ (l : List Nat) (m : PeerMsg), (l.foldl (fun acc e => acc.toPeer e m) s).dev = s.dev :=
    fun l m => foldl_field _ State.dev (fun _ _ => by simp) _ _
  unfold State.barrierReach
  repeat' split
  all_goals simp [hsent]

@[simp] theorem planRelease_dev (s : State) (p : Nat) : (s.planRelease p).dev = s.dev := by
  unfold State.planRelease
  repeat' split
  all_goals simp

@[simp] theorem sampleFence_dev (s : State) (n f : Nat) : (s.sampleFence n f).dev = s.dev := rfl

@[simp] theorem fenceWaitTry_dev (s : State) (h : Nat) : (s.fenceWaitTry h).dev = s.dev := by
  unfold State.fenceWaitTry
  dsimp only
  repeat' split
  all_goals simp

@[simp] theorem deliverFence_dev (s : State) (n f : Nat) : (s.deliverFence n f).dev = s.dev := foldl_field _ State.dev (fun _ _ => by simp) _ _

theorem windowBlocked_dev {s u : State} {n x : Nat} (h : s.windowBlocked n x = some u) : u.dev = s.dev := by
  unfold State.windowBlocked at h
  repeat' split at h
  · cases h; rfl
  · cases h; simp
  · cases h; simp
  · cases h

@[simp] theorem fslotCommit_dev (s : State) (n x data : Nat) : (s.fslotCommit n x data).dev = s.dev := by
  unfold State.fslotCommit
  repeat' split
  all_goals simp

@[simp] theorem ringDoorbell_dev (s : State) (n x i tail : Nat) : (s.ringDoorbell n x i tail).dev = s.dev := by
  unfold State.ringDoorbell
  repeat' split
  all_goals simp

@[simp] theorem ringRelease_dev (s : State) (x i released : Nat) : (s.ringRelease x i released).dev = s.dev := by
  unfold State.ringRelease
  repeat' split
  all_goals simp

@[simp] theorem readAfresh_dev (s : State) (q : Nat) (k : SQ) : (s.readAfresh q k).dev = s.dev := by simp [State.readAfresh]

@[simp] theorem takeSlot_dev (s : State) (q : Nat) (k : SQ) (r : List PB × List PB) : (s.takeSlot q k r).dev = s.dev := by simp [State.takeSlot]

@[simp] theorem addDone_dev (s : State) (c : Cmd) : (s.addDone c).dev = s.dev := by simp [State.addDone]

@[simp] theorem slotEvent_dev (s : State) (q : Nat) (k : SQ) (r : List PB × List PB) : (s.slotEvent q k r).dev = s.dev := by
  unfold State.slotEvent
  repeat' split
  all_goals simp

@[simp] theorem doorbellAhead_dev (s : State) (q : Nat) (k : SQ) (r : List PB × List PB) (detail : Nat) :
    (s.doorbellAhead q k r detail).dev = s.dev := by simp [State.doorbellAhead]

@[simp] theorem fetchAwait_dev (s : State) (q : Nat) (k : SQ) (l : List Need) : (s.fetchAwait q k l).dev = s.dev := by simp [State.fetchAwait]

@[simp] theorem onAdmit_dev (s : State) (h : Nat) (a : Actor) (c : Cmd) : (s.onAdmit h a c).dev = s.dev := by
  unfold State.onAdmit
  repeat' split
  all_goals simp

@[simp] theorem dropPkt_dev (s : State) (q : Nat) : (s.dropPkt q).dev = s.dev := by simp [State.dropPkt]

@[simp] theorem rejectPkt_dev (s : State) (q : Nat) (c : Cmd) (status detail : Nat) :
    (s.rejectPkt q c status detail).dev = s.dev := by simp [State.rejectPkt]

@[simp] theorem admitPkt_dev (s : State) (q : Nat) (a : Actor) (c : Cmd) : (s.admitPkt q a c).dev = s.dev := by simp [State.admitPkt]

@[simp] theorem tryAdmit_dev (s : State) (q : Nat) (k : SQ) (p : Pkt) : (s.tryAdmit q k p).dev = s.dev := by
  unfold State.tryAdmit
  dsimp only
  repeat' split
  all_goals simp

@[simp] theorem beginWait_dev (s : State) (q : Nat) (k : SQ) (p : Pkt) : (s.beginWait q k p).dev = s.dev := by
  unfold State.beginWait
  repeat' split
  all_goals simp

@[simp] theorem signalSlot_dev (s : State) (h : Nat) (c : Cmd) : (s.signalSlot h c).dev = s.dev := by
  unfold State.signalSlot
  repeat' split
  all_goals simp

@[simp] theorem retire_dev (s : State) (h : Nat) (c : Cmd) : (s.retire h c).dev = s.dev := by simp [State.retire]

@[simp] theorem countDiscard_dev (s : State) (x : Nat) : (s.countDiscard x).dev = s.dev := rfl

@[simp] theorem killPkts_dev (s : State) (x : Nat) : (s.killPkts x).dev = s.dev := by
  refine foldl_field _ State.dev (fun u p => ?_) _ _
  exact foldl_field _ State.dev (fun _ _ => by simp) p.2.pkts u

@[simp] theorem killStart_dev (s : State) (x : Nat) (h : Option Nat) : (s.killStart x h).dev = s.dev := by simp [State.killStart]

@[simp] theorem modKill_dev (s : State) (x : Nat) (f : Kill → Kill) : (s.modKill x f).dev = s.dev := rfl

@[simp] theorem killGo_dev (s : State) (x n : Nat) : (s.killGo x n).dev = s.dev := rfl

@[simp] theorem drainRead_dev (s : State) (x q : Nat) (k : SQ) : (s.drainRead x q k).dev = s.dev := by
  simp [State.drainRead, apply_ite State.dev]

@[simp] theorem killCmds_dev (s : State) (x : Nat) (keep : Option Nat) :
    (s.killCmds x keep).dev = s.dev := foldl_field _ State.dev (fun _ _ => by simp) _ _

@[simp] theorem freeCtx_dev (s : State) (x : Nat) : (s.freeCtx x).dev = s.dev := by simp [State.freeCtx]

@[simp] theorem actCtxOpen_dev (s : State) (a0 : Nat) (d : List Byte) : (s.actCtxOpen a0 d).s.dev = s.dev := by
  unfold State.actCtxOpen
  dsimp only
  repeat' split
  all_goals rfl

@[simp] theorem actSqCreate_dev (s : State) (a0 base : Nat) : (s.actSqCreate a0 base).s.dev = s.dev := by
  unfold State.actSqCreate
  dsimp only
  repeat' split
  all_goals rfl

@[simp] theorem actSqDestroy_dev (s : State) (a0 : Nat) : (s.actSqDestroy a0).s.dev = s.dev := by
  unfold State.actSqDestroy
  repeat' split
  all_goals rfl

@[simp] theorem actCqCreate_dev (s : State) (a0 base : Nat) : (s.actCqCreate a0 base).s.dev = s.dev := by
  unfold State.actCqCreate
  dsimp only
  repeat' split
  all_goals rfl

@[simp] theorem actCqDestroy_dev (s : State) (a0 : Nat) : (s.actCqDestroy a0).s.dev = s.dev := by
  unfold State.actCqDestroy
  repeat' split
  all_goals rfl

@[simp] theorem actFwSet_dev (s : State) (a0 addr : Nat) : (s.actFwSet a0 addr).s.dev = s.dev := by
  unfold State.actFwSet
  dsimp only
  repeat' split
  all_goals rfl

@[simp] theorem ctlWrite_dev (s : State) (n x off data : Nat) : (s.ctlWrite n x off data).dev = s.dev := by
  unfold State.ctlWrite
  repeat' split
  all_goals simp

@[simp] theorem windowLoad_dev (s : State) (n x off len : Nat) : (s.windowLoad n x off len).1.dev = s.dev := by
  unfold State.windowLoad
  repeat' split
  all_goals simp

@[simp] theorem readBack_dev (s : State) (port x off : Nat) : (s.readBack port x off).dev = s.dev := by
  unfold State.readBack
  repeat' split
  all_goals simp

@[simp] theorem flushBegin_dev (s : State) (port : Nat) (tag : Option Nat) (x : Nat) : (s.flushBegin port tag x).dev = s.dev := by
  unfold State.flushBegin
  dsimp only
  repeat' split
  all_goals simp

@[simp] theorem countDown_dev (s : State) (n x : Nat) : (s.countDown n x).dev = s.dev := by simp [State.countDown]

@[simp] theorem memLoad_dev (s : State) (port addr count : Nat) :
    (s.memLoad port addr count).dev = s.dev := foldl_field _ State.dev (fun _ _ => by simp) _ _

@[simp] theorem refuse_dev (s : State) (r : AtsReq) : (s.refuse r).dev = s.dev := by
  unfold State.refuse
  repeat' split
  all_goals simp

@[simp] theorem keepXlat_dev (s : State) (n : Nat) (x : Xlat) : (s.keepXlat n x).dev = s.dev := rfl

@[simp] theorem biasStatus_dev (s : State) (result flipped : Nat) : (s.biasStatus result flipped).dev = s.dev := rfl

@[simp] theorem biasAsk_dev (s : State) (b : BiasReq) (i : Nat) : (s.biasAsk b i).dev = s.dev := by simp [State.biasAsk]

@[simp] theorem readReturned_dev (s : State) (r : LineReq) : (s.readReturned r).dev = s.dev := by simp [State.readReturned]

@[simp] theorem modState_dev (s : State) (l m st : Nat) : (s.modState l m st).dev = s.dev := by simp [State.modState]

@[simp] theorem retrain_dev (s : State) (l m : Nat) : (s.retrain l m).dev = s.dev := by simp [State.retrain]

@[simp] theorem linkDrop_dev (s : State) (l : Nat) : (s.linkDrop l).dev = s.dev := by
  unfold State.linkDrop
  repeat' split
  all_goals simp

@[simp] theorem linkTrain_dev (s : State) (l : Nat) (fail : Bool) : (s.linkTrain l fail).dev = s.dev := by
  have htrained : ∀ (ms : List Nat) (u : State), (ms.foldl (fun acc m =>
      if (acc.linkMod l m).state = 0 then acc.modState l m (if fail then 3 else (acc.linkMod l m).trained) else acc) u).dev = u.dev :=
    fun ms u => foldl_field _ State.dev (fun v m => by split <;> simp) ms u
  unfold State.linkTrain
  dsimp only
  rw [apply_ite State.dev, linkDrop_dev, ite_self, apply_ite State.dev, htrained]
  exact ite_self _

@[simp] theorem linkReset_dev (s : State) (n : Nat) : (s.linkReset n).dev = s.dev := by
  refine foldl_field _ State.dev (fun u l => foldl_field _ State.dev (fun v m => ?_) _ _) _ _
  dsimp only
  repeat' split
  all_goals simp

@[simp] theorem ringDrop_dev (s : State) (n : Nat) : (s.ringDrop n).dev = s.dev := by
  refine foldl_field _ State.dev (fun u l => ?_) _ _
  split
  · rfl
  · rw [linkDrop_dev]
    exact foldl_field _ State.dev (fun v m => by split <;> simp) _ _

@[simp] theorem bootFail_dev (s : State) (n : Nat) : (s.bootFail n).dev = s.dev := by
  unfold State.bootFail
  dsimp only
  repeat' split
  all_goals simp

@[simp] theorem bootFails_dev (s : State) (result : Nat) : (s.bootFails result).dev = s.dev := by
  refine foldl_field _ State.dev (fun u n => ?_) _ _
  dsimp only
  split
  · simp
  · rfl

@[simp] theorem bootLinks_dev (s : State) (result : Nat) : (s.bootLinks result).dev = s.dev := by
  unfold State.bootLinks
  rw [foldl_field _ State.dev (fun _ _ => by simp), foldl_field _ State.dev (fun _ _ => by simp)]
  exact foldl_field _ State.dev (fun u n => foldl_field _ State.dev (fun _ _ => by simp) _ _) _ _

@[simp] theorem bootRing_dev (s : State) (result : Nat) : (s.bootRing result).dev = s.dev := by
  refine foldl_field _ State.dev (fun u l => ?_) _ _
  split
  · rfl
  · simp

@[simp] theorem bootVats_dev (s : State) : (s.bootVats).dev = s.dev := by simp [State.bootVats]

@[simp] theorem bootStop_dev (s : State) : (s.bootStop).dev = s.dev := by simp [State.bootStop]

@[simp] theorem bootCtl_dev (s : State) (port : Nat) (repair skip : Bool) : (s.bootCtl port repair skip).dev = s.dev := by
  unfold State.bootCtl
  repeat' split
  all_goals simp

@[simp] theorem restartGo_dev (s : State) (n k : Nat) : (s.restartGo n k).dev = s.dev := by simp [State.restartGo]

@[simp] theorem restartNext_dev (s : State) : (s.restartNext).dev = s.dev := by
  unfold State.restartNext
  repeat' split
  all_goals simp

@[simp] theorem restartTrigger_dev (s : State) (n trig : Nat) : (s.restartTrigger n trig).dev = s.dev := by
  unfold State.restartTrigger
  repeat' split
  all_goals simp

@[simp] theorem loseCmds_dev (s : State) (n : Nat) : (s.loseCmds n).dev = s.dev := by
  have hrefused : ∀ (l : List (Contrib × Nat)) (u : State),
      (l.foldl (fun a k => a.toPeer k.1.engine (.reply k.2 .refused)) u).dev = u.dev :=
    fun l u => foldl_field _ State.dev (fun _ _ => by simp) l u
  unfold State.loseCmds
  rw [foldl_field _ State.dev (fun _ _ => by simp), apply_ite State.dev, ite_self]
  refine (foldl_field _ State.dev (fun u t => ?_) _ _).trans rfl
  simp [hrefused]

@[simp] theorem loseContribs_dev (s : State) (n : Nat) : (s.loseContribs n).dev = s.dev := by
  unfold State.loseContribs
  rw [foldl_field _ State.dev (fun u p => ?_)]
  · refine (foldl_field _ State.dev (fun u t => ?_) _ _).trans rfl
    rw [foldl_field _ State.dev (fun _ _ => by simp), foldl_field _ State.dev (fun _ _ => by simp)]
    rfl
  · dsimp only
    split
    · rfl
    · simp

@[simp] theorem loseVats_dev (s : State) (n : Nat) : (s.loseVats n).dev = s.dev := by
  refine (foldl_field _ State.dev (fun u p => ?_) _ _).trans rfl
  dsimp only
  repeat' split
  all_goals simp

@[simp] theorem losePort_dev (s : State) (n : Nat) : (s.losePort n).dev = s.dev := foldl_field _ State.dev (fun _ _ => by simp) _ _

@[simp] theorem loseSlice_dev (s : State) (n : Nat) : (s.loseSlice n).dev = s.dev := by simp [State.loseSlice]

@[simp] theorem sliceLost_dev (s : State) (n : Nat) : (s.sliceLost n).dev = s.dev := by simp [State.sliceLost]

@[simp] theorem notValid_dev (s : State) (q : Nat) : (s.notValid q).dev = s.dev := rfl

@[simp] theorem cdcCycle_dev (s : State) (q : Nat) : (s.cdcCycle q).dev = s.dev := by
  unfold State.cdcCycle
  repeat' split
  all_goals simp

@[simp] theorem patrolOn_dev (s : State) (k : Nat) : (s.patrolOn k).dev = s.dev := by
  unfold State.patrolOn
  dsimp only
  repeat' split
  all_goals simp

@[simp] theorem patrolFix_dev (s : State) (k : Nat) : (s.patrolFix k).dev = s.dev := by
  unfold State.patrolFix
  dsimp only
  repeat' split
  all_goals simp

@[simp] theorem retireRowNow_dev (s : State) (k : Nat) (d : DRow) : (s.retireRowNow k d).dev = s.dev := by simp [State.retireRowNow]

@[simp] theorem frames_dev (s : State) : (s.frames).dev = s.dev := rfl

@[simp] theorem tgStart_dev (s : State) (n i : Nat) : (s.tgStart n i).dev = s.dev := by simp [State.tgStart]

@[simp] theorem tgEnd_dev (s : State) (n i : Nat) : (s.tgEnd n i).dev = s.dev := by simp [State.tgEnd]

@[simp] theorem tgRead_dev (s : State) (k : Nat) (g : TgRun) (o : Nat) : (s.tgRead k g o).dev = s.dev := by
  unfold State.tgRead
  dsimp only
  repeat' split
  all_goals simp

@[simp] theorem tgWrite_dev (s : State) (n i data : Nat) : (s.tgWrite n i data).dev = s.dev := by
  unfold State.tgWrite
  dsimp only
  repeat' split
  all_goals simp

@[simp] theorem dropFrames_dev (s : State) (e : Nat) : (s.dropFrames e).dev = s.dev := foldl_field _ State.dev (fun _ _ => by simp) _ _

@[simp] theorem presence_dev (s : State) (cause : Nat) : (s.presence cause).dev = s.dev := by
  unfold State.presence
  dsimp only
  split
  · rfl
  · rw [foldl_field _ State.dev (fun _ _ => by simp), foldl_field _ State.dev (fun _ _ => by simp)]

@[simp] theorem loseDirect_dev (s : State) (p cause : Nat) : (s.loseDirect p cause).dev = s.dev := by
  unfold State.loseDirect
  dsimp only
  repeat' split
  all_goals simp

@[simp] theorem opticDown_dev (s : State) (p : Nat) : (s.opticDown p).dev = s.dev := by simp [State.opticDown]

@[simp] theorem beaconIn_dev (s : State) (p : Nat) (b : Beacon) : (s.beaconIn p b).dev = s.dev := by
  unfold State.beaconIn
  dsimp only
  repeat' split
  all_goals simp

@[simp] theorem deny_dev (s : State) (p : Nat) : (s.deny p).dev = s.dev := rfl

@[simp] theorem countLost_dev (s : State) (p src : Nat) : (s.countLost p src).dev = s.dev := by
  unfold State.countLost
  repeat' split
  all_goals simp

@[simp] theorem frameControl_dev (s : State) (p : Nat) (nak : Bool) (next : Nat) : (s.frameControl p nak next).dev = s.dev := by
  unfold State.frameControl
  dsimp only
  repeat' split
  · rfl
  · simp
  · rw [sendWaiting_dev, foldl_field _ State.dev (fun _ _ => by simp)]
    simp
  · simp

@[simp] theorem frameIn_dev (s : State) (p : Nat) (f : List Byte) : (s.frameIn p f).dev = s.dev := by
  unfold State.frameIn
  dsimp only
  repeat' split
  all_goals simp

@[simp] theorem frameNak_dev (s : State) (p : Nat) : (s.frameNak p).dev = s.dev := by
  unfold State.frameNak
  dsimp only
  repeat' split
  all_goals simp

@[simp] theorem frameReceive_dev (s : State) (p : Nat) (frame : List Byte) : (s.frameReceive p frame).dev = s.dev := by
  unfold State.frameReceive
  dsimp only
  repeat' split
  all_goals simp

@[simp] theorem opEnable_dev (s : State) (on : Bool) : (s.opEnable on).dev = s.dev := by
  have hlit : ∀ (l : List Nat) (u : State), (l.foldl (fun acc p => acc.send (.laser p true)) u).dev = u.dev :=
    fun l u => foldl_field _ State.dev (fun _ _ => by simp) l u
  have hbegun : ∀ (l : List Nat) (u : State),
      (l.foldl (fun acc p => acc.modOptic p (fun o => { o with bseq := 0, nextBeacon := s.kTick + 1000 })) u).dev = u.dev :=
    fun l u => foldl_field _ State.dev (fun _ _ => by simp) l u
  unfold State.opEnable
  dsimp only
  repeat' split
  all_goals simp [hlit, hbegun]

@[simp] theorem opUp_dev (s : State) (on : Bool) : (s.opUp on).dev = s.dev := by simp [State.opUp]

@[simp] theorem opReadmit_dev (s : State) : (s.opReadmit).dev = s.dev := by simp [State.opReadmit]

@[simp] theorem opCtlWrite_dev (s : State) (data : Nat) : (s.opCtlWrite data).dev = s.dev := by
  unfold State.opCtlWrite
  dsimp only
  repeat' split
  all_goals simp

@[simp] theorem carried_dev (s : State) (l m : Nat) (failed : Bool) : (s.carried l m failed).dev = s.dev := by
  unfold State.carried
  dsimp only
  repeat' split
  all_goals simp

@[simp] theorem linkNak_dev (s : State) (l : Nat) : (s.linkNak l).dev = s.dev := by
  unfold State.linkNak
  repeat' split
  all_goals simp

@[simp] theorem linkDown_dev (s : State) (l : Nat) : (s.linkDown l).dev = s.dev := by
  unfold State.linkDown
  repeat' split
  all_goals simp

@[simp] theorem spareEntries_dev (s : State) (l m : Nat) (old : LinkMod) :
    (s.spareEntries l m old).dev = s.dev := foldl_field _ State.dev (fun _ _ => by simp) _ _

@[simp] theorem skewTail_dev (s : State) (tail : Nat) : (s.skewTail tail).dev = s.dev := by
  unfold State.skewTail
  repeat' split
  all_goals simp

@[simp] theorem traceBegin_dev (s : State) : (s.traceBegin).dev = s.dev := by
  unfold State.traceBegin
  dsimp only
  repeat' split
  all_goals simp

@[simp] theorem traceCtl_dev (s : State) (data : Nat) : (s.traceCtl data).dev = s.dev := by
  unfold State.traceCtl
  dsimp only
  repeat' split
  all_goals simp

@[simp] theorem traceMark_dev (s : State) (v : Nat) : (s.traceMark v).dev = s.dev := by simp [State.traceMark]

@[simp] theorem skewCtl_dev (s : State) (data : Nat) : (s.skewCtl data).dev = s.dev := by
  unfold State.skewCtl
  dsimp only
  repeat' split
  all_goals simp

@[simp] theorem serveRow_dev (s : State) (src table mapId row tag : Nat) (y : Layer) : (s.serveRow src table mapId row tag y).1.dev = s.dev := by
  unfold State.serveRow
  dsimp only
  repeat' split
  all_goals simp

@[simp] theorem keepTemps_dev (s : State) (l : List (Option Nat)) : (s.keepTemps l).dev = s.dev := by
  refine foldl_field _ State.dev (fun u i => ?_) _ _
  split
  · simp
  · simp

@[simp] theorem traceThrottle_dev (s : State) (old : Power) (sensor : Nat) : (s.traceThrottle old sensor).dev = s.dev := by
  unfold State.traceThrottle
  repeat' split
  all_goals simp

@[simp] theorem powerLimit_dev (s : State) (cap : Nat) : (s.powerLimit cap).dev = s.dev := by simp [State.powerLimit]

@[simp] theorem readStat_dev (s : State) (e i : Nat) : (s.readStat e i).1.dev = s.dev := by simp [State.readStat]

@[simp] theorem keeperRead_dev (s : State) (off : Nat) : (s.keeperRead off).1.dev = s.dev := by
  simp [State.keeperRead, apply_ite Prod.fst, apply_ite State.dev]

@[simp] theorem sliceRead_dev (s : State) (n off : Nat) : (s.sliceRead n off).1.dev = s.dev := by
  unfold State.sliceRead
  repeat' split
  all_goals simp

@[simp] theorem sliceWrite_dev (s : State) (n off data : Nat) : (s.sliceWrite n off data).dev = s.dev := by
  unfold State.sliceWrite
  dsimp only
  repeat' split
  all_goals simp

@[simp] theorem spaceRead_dev (s : State) (port offset size : Nat) : (s.spaceRead port offset size).dev = s.dev := by
  unfold State.spaceRead
  dsimp only
  repeat' split
  all_goals simp

@[simp] theorem tickAll_dev (s : State) : (s.tickAll).dev = s.dev := rfl

end Sys2Proof.Proofs.Memory
end

section
/-! Which functions of the model write device memory, and that they keep its canonical form (O4). -/

namespace Sys2Proof.Proofs.MemoryKept

open Sys2Proof Sys2Proof.Machine Sys2Proof.Laws Sys2Proof.Proofs.Basic Sys2Proof.Proofs.Layer Sys2Proof.Proofs.Memory

/-! The writing operations. -/

section
variable {s : State}

@[simp] theorem devWrite_wf (hs : s.dev.wf = true) (a : Nat) (bs : List PB) : (s.devWrite a bs).dev.wf = true := devWrite_inv s a bs hs

@[simp] theorem devPut_wf (hs : s.dev.wf = true) (a : Nat) (bs : List Byte) : (s.devPut a bs).dev.wf = true := devPut_inv s a bs hs

@[simp] theorem outWrite_wf (hs : s.dev.wf = true) (a : Nat) (bs : List PB) : (s.outWrite a bs).dev.wf = true := outWrite_inv s a bs hs

@[simp] theorem landAll_wf (hs : s.dev.wf = true) (x h : Nat) (l : List (OutWr × List Landing)) : (s.landAll x h l).dev.wf = true :=
  landAll_inv s x h l hs

@[simp] theorem wheyAdd_wf (hs : s.dev.wf = true) (l : List (Option Nat)) : (s.wheyAdd l).dev.wf = true := wheyAdd_inv s l hs

@[simp] theorem writeCopies_wf (hs : s.dev.wf = true) (t : Table) (l : List Loc) (bs : List PB) : (s.writeCopies t l bs).dev.wf = true :=
  writeCopies_inv s t l bs hs

@[simp] theorem writeAlternate_wf (hs : s.dev.wf = true) (t : Table) (y : Layer) (l : List Loc) (bs : List PB) (k : Nat) :
    (s.writeAlternate t y l bs k).dev.wf = true := writeAlternate_inv s t y l bs k hs

@[simp] theorem applySignal_wf (hs : s.dev.wf = true) (f : Nat) (v : Word) : (s.applySignal f v).dev.wf = true := applySignal_inv s f v hs

@[simp] theorem handover_wf (hs : s.dev.wf = true) (n : Nat) (t : Table) (l : List Ovr) : (s.handover n t l).dev.wf = true :=
  handover_inv s n t l hs

/-- What every step of a fold keeps canonical, the fold keeps canonical. -/
theorem foldl_wf {α : Type} (f : State → α → State) (h : ∀ s a, s.dev.wf = true → (f s a).dev.wf = true) (l : List α) (hs : s.dev.wf = true) :
    (l.foldl f s).dev.wf = true := foldl_keeps f (fun t => t.dev.wf = true) h l s hs

theorem foldl_fst_wf {α β : Type} (f : State × β → α → State × β) (h : ∀ p a, p.1.dev.wf = true → (f p a).1.dev.wf = true) (l : List α)
    (p : State × β) (hp : p.1.dev.wf = true) : (l.foldl f p).1.dev.wf = true := by
  induction l generalizing p with
  | nil => exact hp
  | cons a r ih => exact ih _ (h p a hp)

theorem foldl_mark_wf (ks : List Nat) (m : Mem) (h : m.wf = true) : (ks.foldl (fun m k => m.mark k true) m).wf = true := by
  induction ks generalizing m with
  | nil => exact h
  | cons k r ih => exact ih _ (mark_wf m k true h)

/-! Tables: rows, their gathering, training and table life. -/

@[simp] theorem gatherBooks_wf (hs : s.dev.wf = true) (c : Cmd) (o : GatherOut) (evs : List FaultEv) (whey : List (Option Nat)) :
    (s.gatherBooks c o evs whey).dev.wf = true := by simp [State.gatherBooks, hs]

@[simp] theorem writeRow_wf (hs : s.dev.wf = true) (num : Nat) (t : Table) (y : Layer) (row : Nat) (bytes : List PB) :
    (s.writeRow num t y row bytes).dev.wf = true := by
  unfold State.writeRow
  dsimp only
  split
  · simp [hs]
  · simp [hs]

@[simp] theorem rowWrites_wf (hs : s.dev.wf = true) (c : Cmd) (t : Table) (y : Layer) (rows : List RowIn) :
    (s.rowWrites c t y rows).1.dev.wf = true := foldl_fst_wf _ (fun p r hp => by simp [hp]) rows (s, 0, 0) hs

@[simp] theorem fillWrite_wf (hs : s.dev.wf = true) (num : Nat) (t : Table) (f : Fill) (rows : List (Nat × Option (List PB))) :
    (s.fillWrite num t f rows).dev.wf = true := by
  refine foldl_wf _ (fun u r hu => ?_) rows hs
  split
  · simp [hu]
  · exact hu

@[simp] theorem serveReplica_wf (hs : s.dev.wf = true) (id table mapId row : Nat) (bytes : List Byte) (poison : List Nat) (y : Layer) :
    (s.serveReplica id table mapId row bytes poison y).1.dev.wf = true := by
  unfold State.serveReplica
  dsimp only
  repeat' split
  all_goals simp [hs]

@[simp] theorem applyOne_wf (hs : s.dev.wf = true) (c : Cmd) (num : Nat) (t : Table) (y : Layer) (ks : List Contrib) (r : Nat) (n : ApplyCount) :
    (s.applyOne c num t y ks r n).1.dev.wf = true := by
  unfold State.applyOne
  simp [apply_ite Prod.fst, apply_ite State.dev, apply_ite Mem.wf, hs]

@[simp] theorem shiftTable_wf (hs : s.dev.wf = true) (num k : Nat) : (s.shiftTable num k).dev.wf = true := by
  unfold State.shiftTable
  dsimp only
  repeat' split
  all_goals simp [hs]

/-- The rows of a sealed step, applied. -/
theorem foldl_applyOne_wf (c : Cmd) (num : Nat) (t : Table) (y : Layer) (ks : List Contrib) (rows : List Nat) (p : State × ApplyCount)
    (hp : p.1.dev.wf = true) : (rows.foldl (fun acc r => acc.1.applyOne c num t y ks r acc.2) p).1.dev.wf = true :=
  foldl_fst_wf _ (fun _ r hq => applyOne_wf hq c num t y ks r _) rows p hp

@[simp] theorem applyTry_wf (hs : s.dev.wf = true) (h : Nat) : (s.applyTry h).dev.wf = true := by
  unfold State.applyTry
  split
  · exact hs
  · split
    · exact hs
    · split
      · exact hs
      · dsimp only
        split
        · simp [hs]
        · generalize hr : List.foldl _ _ _ = r
          have hrows : r.1.dev.wf = true := by
            rw [← hr]
            exact foldl_applyOne_wf _ _ _ _ _ _ _ (by simp [hs])
          split
          · simp [hrows]
          · simp [hrows]

/-! Scores. -/

@[simp] theorem scoreFinish_wf (hs : s.dev.wf = true) (h : Nat) : (s.scoreFinish h).dev.wf = true := by
  unfold State.scoreFinish
  dsimp only
  repeat' split
  all_goals simp [hs]

@[simp] theorem scanHere_wf (hs : s.dev.wf = true) (h : Nat) : (s.scanHere h).dev.wf = true := by
  unfold State.scanHere
  dsimp only
  repeat' split
  all_goals simp [hs]

@[simp] theorem scanLost_wf (hs : s.dev.wf = true) (h : Nat) : (s.scanLost h).dev.wf = true := by
  unfold State.scanLost
  dsimp only
  repeat' split
  all_goals simp [hs]

/-! Multicasts and records. -/

@[simp] theorem mcWrite_wf (hs : s.dev.wf = true) (h t i lo hi : Nat) : (s.mcWrite h t i lo hi).1.dev.wf = true := by
  unfold State.mcWrite
  dsimp only
  repeat' split
  all_goals simp [hs]

@[simp] theorem mcNode_wf (ns : List McNode) (h t : Nat) (hs : s.dev.wf = true) (i : Nat) : (State.mcNode ns h t s i).dev.wf = true := by
  unfold State.mcNode
  split
  · exact hs
  · simp [apply_ite Prod.fst, apply_ite State.dev, apply_ite Mem.wf, hs]

@[simp] theorem mcCycle_wf (hs : s.dev.wf = true) (h : Nat) : (s.mcCycle h).dev.wf = true := by
  unfold State.mcCycle
  repeat' split
  · exact hs
  · exact hs
  · exact hs
  · rw [multicastEnd_dev, mcHold_dev]
    exact foldl_wf _ (fun u i hu => mcNode_wf _ _ _ hu i) _ hs

@[simp] theorem writeRecord_wf (hs : s.dev.wf = true) (h : Nat) (c : Cmd) (k : CQ) : (s.writeRecord h c k).dev.wf = true := by
  unfold State.writeRecord
  dsimp only
  split
  · simp [hs]
  · simp [hs]

end

end Sys2Proof.Proofs.MemoryKept
end

section
/-! Which services of the keeper, the host port, the channels and the package write device memory, and that they keep its canonical form
(O4). -/

namespace Sys2Proof.Proofs.ServicesKeepMemory

open Sys2Proof Sys2Proof.Machine Sys2Proof.Laws Sys2Proof.Proofs.Basic Sys2Proof.Proofs.Layer Sys2Proof.Proofs.Memory
open Sys2Proof.Proofs.MemoryKept Sys2Proof.Proofs.ChannelTests

section
variable {s : State}

/-! Contexts, fences and management actions. -/

@[simp] theorem writeCaps_wf (hs : s.dev.wf = true) : s.writeCaps.dev.wf = true := devPut_wf hs ..

@[simp] theorem pageToHost_wf (hs : s.dev.wf = true) (p : Nat) : (s.pageToHost p).dev.wf = true := devPut_wf hs ..

@[simp] theorem setBias_wf (hs : s.dev.wf = true) (p e : Nat) : (s.setBias p e).dev.wf = true := devPut_wf hs ..

@[simp] theorem orphan_wf (hs : s.dev.wf = true) (f : Nat) : (s.orphan f).dev.wf = true :=
  foldl_wf _ (fun u n hu => by simp [hu]) _ (devPut_wf (devPut_wf hs ..) ..)

@[simp] theorem actFenceAlloc_wf (hs : s.dev.wf = true) (a0 value : Nat) : (s.actFenceAlloc a0 value).s.dev.wf = true := by
  unfold State.actFenceAlloc
  dsimp only
  repeat' split
  all_goals simp [hs]

@[simp] theorem actFenceFree_wf (hs : s.dev.wf = true) (a0 : Nat) : (s.actFenceFree a0).s.dev.wf = true := by
  unfold State.actFenceFree
  dsimp only
  split
  · exact hs
  · simp [hs]

@[simp] theorem actFenceGrant_wf (hs : s.dev.wf = true) (a0 : Nat) : (s.actFenceGrant a0).s.dev.wf = true := by
  unfold State.actFenceGrant
  dsimp only
  repeat' split
  all_goals simp [hs]

@[simp] theorem actFenceRevoke_wf (hs : s.dev.wf = true) (a0 : Nat) : (s.actFenceRevoke a0).s.dev.wf = true := by
  unfold State.actFenceRevoke
  dsimp only
  repeat' split
  all_goals simp [hs]

@[simp] theorem mgmtRun_wf (hs : s.dev.wf = true) (a : MgmtAct) : (s.mgmtRun a).s.dev.wf = true := by
  unfold State.mgmtRun
  dsimp only
  repeat' split
  all_goals simp [hs]

@[simp] theorem mgmtDrain_wf (hs : s.dev.wf = true) (fuel : Nat) : (s.mgmtDrain fuel).dev.wf = true := by
  induction fuel generalizing s with
  | zero => exact hs
  | succ n ih =>
    unfold State.mgmtDrain
    dsimp only
    repeat' split
    · exact hs
    · simp [hs]
    · exact ih (by simp [hs])
    · exact ih (by simp [hs])
    · exact hs

@[simp] theorem mgmtWrite_wf (hs : s.dev.wf = true) (port action tag : Nat) : (s.mgmtWrite port action tag).dev.wf = true := by
  unfold State.mgmtWrite
  dsimp only
  repeat' split
  all_goals simp [hs]

/-- No management action is in progress. -/
def unbusied (u : State) : State := { u with mgmtBusy := none }

@[simp] theorem unbusied_dev (u : State) : (unbusied u).dev = u.dev := rfl

theorem killCounts_action {x : Nat} {k : Kill} {a : MgmtAct} (hk : k.h = none) (ha : (s.killGo x 7).mgmtBusy = some a) :
    s.killCounts x k = ((((unbusied (s.killGo x 7)).mgmtDone a 0 [k.ended, k.discarded, k.orphaned, k.pages]).modCtx x
      (fun c => { c with state := 3 })).killGo x 8).mgmtDrain 16 := by
  rw [State.killCounts, hk]
  dsimp only
  rw [ha]
  rfl

@[simp] theorem killCounts_wf (hs : s.dev.wf = true) (x : Nat) (k : Kill) : (s.killCounts x k).dev.wf = true := by
  cases hk : k.h with
  | some h => simp [State.killCounts, hk, hs]
  | none =>
    cases ha : (s.killGo x 7).mgmtBusy with
    | none => simp [State.killCounts, hk, ha, hs]
    | some a =>
      have hbusy : ((unbusied (s.killGo x 7)).mgmtDone a 0 [k.ended, k.discarded, k.orphaned, k.pages]).dev = (unbusied (s.killGo x 7)).dev := by
        simp only [mgmtDone_frame]
      rw [killCounts_action hk ha]
      refine mgmtDrain_wf ?_ 16
      rw [killGo_dev, show ∀ u : State, (u.modCtx x (fun c => { c with state := 3 })).dev = u.dev from fun u => rfl, hbusy, unbusied_dev,
        killGo_dev]
      exact hs

/-- Fences orphaned and pages returned one after another. -/
theorem foldl_orphan_wf (l : List Nat) (hs : s.dev.wf = true) : (l.foldl State.orphan s).dev.wf = true :=
  foldl_wf _ (fun _ f hu => orphan_wf hu f) l hs

theorem foldl_pageToHost_wf (l : List Nat) (hs : s.dev.wf = true) : (l.foldl State.pageToHost s).dev.wf = true :=
  foldl_wf _ (fun _ p hu => pageToHost_wf hu p) l hs

@[simp] theorem killStep_wf (hs : s.dev.wf = true) (x : Nat) (k : Kill) : (s.killStep x k).dev.wf = true := by
  unfold State.killStep
  dsimp only
  repeat' split
  all_goals simp [hs, foldl_orphan_wf, foldl_pageToHost_wf]

/-! The host port. -/

@[simp] theorem windowStore_wf (hs : s.dev.wf = true) (n x off : Nat) (bs : List Byte) (enables : List Bool) (poisoned : Bool) :
    (s.windowStore n x off bs enables poisoned).dev.wf = true := by
  unfold State.windowStore
  dsimp only
  split
  · simp [hs]
  · split
    · repeat' split
      all_goals simp [hs]
    · split
      · simp [hs]
      · exact foldl_wf _ (fun u r hu => by simp [hu]) _ hs

@[simp] theorem poisonLines_wf (hs : s.dev.wf = true) (a n : Nat) : (s.poisonLines a n).dev.wf = true := by
  unfold State.poisonLines
  split
  · exact hs
  · exact foldl_mark_wf _ _ hs

@[simp] theorem memStore_wf (hs : s.dev.wf = true) (addr : Nat) (bytes : List Byte) (poisoned : Bool) :
    (s.memStore addr bytes poisoned).dev.wf = true := by
  unfold State.memStore
  dsimp only
  repeat' split
  all_goals simp [hs]

@[simp] theorem memRelease_wf (hs : s.dev.wf = true) : s.memRelease.dev.wf = true := by
  refine foldl_wf _ (fun u i hu => ?_) _ hs
  split
  · simp [hu]
  · simp [hu]
  · exact hu

@[simp] theorem biasGo_wf (hs : s.dev.wf = true) (fuel : Nat) : (s.biasGo fuel).dev.wf = true := by
  have hasked : ∀ (l : List Nat) (b : BiasReq) (u : State), (l.foldl (fun acc i => acc.biasAsk b i) u).dev = u.dev :=
    fun l b u => foldl_field _ State.dev (fun _ _ => by simp) l u
  induction fuel generalizing s with
  | zero => exact hs
  | succ n ih =>
    unfold State.biasGo
    dsimp only
    repeat' split
    · exact hs
    · simp [hs]
    · exact hs
    · exact hs
    · simp [hasked, hs]
    · exact ih (by simp [hs])
    · exact ih (by simp [hs])

@[simp] theorem biasBegin_wf (hs : s.dev.wf = true) (b : BiasReq) : (s.biasBegin b).dev.wf = true := by
  unfold State.biasBegin
  repeat' split
  all_goals simp [hs]

@[simp] theorem biasWrite_wf (hs : s.dev.wf = true) (port first count owner : Nat) (toDevice own : Bool) :
    (s.biasWrite port first count owner toDevice own).dev.wf = true := by
  unfold State.biasWrite
  dsimp only
  repeat' split
  all_goals simp [hs]

@[simp] theorem biasGrant_wf (hs : s.dev.wf = true) : s.biasGrant.dev.wf = true := by
  unfold State.biasGrant
  dsimp only
  repeat' split
  all_goals simp [hs]

@[simp] theorem fwServe_wf (hs : s.dev.wf = true) (p : Nat) (write : Bool) (x off : Nat) (bs : List Byte) (poisoned : Bool) (tag : Option Nat) :
    (s.fwServe p write x off bs poisoned tag).dev.wf = true := by
  unfold State.fwServe
  dsimp only
  repeat' split
  all_goals simp [hs]

@[simp] theorem commandPort_wf (hs : s.dev.wf = true) (p : Nat) (write : Bool) (x off : Nat) (bs : List Byte) (poisoned : Bool)
    (tag : Option Nat) : (s.commandPort p write x off bs poisoned tag).dev.wf = true := by
  unfold State.commandPort
  repeat' split
  all_goals simp [hs]

@[simp] theorem cmdAt_wf (hs : s.dev.wf = true) (p o : Nat) (payload : List Byte) : (s.cmdAt p o payload).dev.wf = true := by
  unfold State.cmdAt
  dsimp only
  split
  · simp [hs]
  · simp [hs]
  · exact hs

@[simp] theorem deliver_wf (hs : s.dev.wf = true) (l : Nat) (payload : List Byte) : (s.deliver l payload).dev.wf = true := by
  unfold State.deliver
  split
  · exact foldl_wf _ (fun u o hu => cmdAt_wf hu ..) _ hs
  · simp [hs]

@[simp] theorem dataFlit_wf (hs : s.dev.wf = true) (l : Nat) (flit : List Byte) : (s.dataFlit l flit).dev.wf = true := by
  unfold State.dataFlit
  dsimp only
  repeat' split
  all_goals simp [hs]

/-! Channels. -/

@[simp] theorem retirePut_wf (hs : s.dev.wf = true) (i : Nat) (e : List Byte) : (s.retirePut i e).dev.wf = true := by
  unfold State.retirePut
  split
  · simp [hs]
  · exact hs

@[simp] theorem remap_wf (hs : s.dev.wf = true) (k : Nat) (d : DRow) : (s.remap k d).dev.wf = true := by
  unfold State.remap
  simpa using foldl_mark_wf _ _ hs

@[simp] theorem uncorrectable_wf (hs : s.dev.wf = true) (k o : Nat) : (s.uncorrectable k o).dev.wf = true := by
  unfold State.uncorrectable
  simpa using bad_wf _ _ hs

@[simp] theorem parityError_wf (hs : s.dev.wf = true) (k o : Nat) : (s.parityError k o).dev.wf = true := by
  unfold State.parityError
  simpa using bad_wf _ _ hs

@[simp] theorem sectorSeen_wf (hs : s.dev.wf = true) (k o : Nat) (r : SectorResult) : (s.sectorSeen k o r).dev.wf = true := by
  unfold State.sectorSeen
  dsimp only
  repeat' split
  all_goals simp [hs]

@[simp] theorem tgPut_wf (hs : s.dev.wf = true) (k seed o : Nat) : (s.tgPut k seed o).dev.wf = true := devPut_wf hs ..

@[simp] theorem tgCycle_wf (hs : s.dev.wf = true) (k : Nat) : (s.tgCycle k).dev.wf = true := by
  have hfilled : ∀ (l : List Nat) (g : TgRun), (l.foldl (fun acc o => acc.tgPut k g.seed o) s).dev.wf = true :=
    fun l g => foldl_wf _ (fun u o hu => tgPut_wf hu ..) l hs
  have hrun : ∀ (l : List Nat) (g : TgRun) (w : Bool),
      (l.foldl (fun acc o => if w then acc.tgRead k g o else acc.tgPut k g.seed o) s).dev.wf = true :=
    fun l g w => foldl_wf _ (fun u o hu => by split <;> simp [hu]) l hs
  unfold State.tgCycle
  split
  · exact hs
  · dsimp only
    split
    · exact hs
    · split
      · simp [hfilled]
      · split
        · rw [tgEnd_dev]
          exact hrun ..
        · exact hrun ..

/-! Boot and restart. -/

@[simp] theorem hardRepair_wf (hs : s.dev.wf = true) (i : Nat) (fails : Bool) : (s.hardRepair i fails).dev.wf = true := by
  unfold State.hardRepair
  dsimp only
  repeat' split
  all_goals simp [hs]

@[simp] theorem bootReady_wf (hs : s.dev.wf = true) : s.bootReady.dev.wf = true := by
  unfold State.bootReady
  dsimp only
  split
  · simp [hs]
  · simp [hs]

/-- The entries of the row-retire list, repaired one after another. -/
theorem foldl_hardRepair_wf (l : List Nat) (result : Nat) (hs : s.dev.wf = true) :
    (l.foldl (fun acc i => acc.hardRepair i (bitAt result i)) s).dev.wf = true := foldl_wf _ (fun _ _ hu => hardRepair_wf hu ..) l hs

@[simp] theorem bootStep_wf (hs : s.dev.wf = true) (result : Nat) : (s.bootStep result).dev.wf = true := by
  unfold State.bootStep
  dsimp only
  repeat' split
  all_goals simp [hs, empty_wf, pinned_wf, foldl_hardRepair_wf]

@[simp] theorem retireHeld_wf (hs : s.dev.wf = true) : s.retireHeld.dev.wf = true :=
  foldl_wf (s := s) _ (fun u e hu => by simp [hu]) s.retirePend hs

/-- The entries, the capability copy and the actions that PS0 held go on. -/
def heldServed (u : State) : State := (if u.retireHeld.boot.ready then u.retireHeld.writeCaps else u.retireHeld).mgmtDrain 16

/-- The bias request that waited for PS0 begins. -/
def nextBias (u : State) : State :=
  match u.biasWait with
  | b :: r => State.biasBegin { u with biasWait := r } b
  | [] => u

/-- The bias request that executes goes on. -/
def biasOn (u : State) : State :=
  match u.biasReq with
  | some b => u.biasGo (b.count + 1)
  | none => u

theorem sliceIn_eq (n : Nat) : s.sliceIn n = (biasOn (if n = 0 then nextBias (heldServed (s.modSlice n (fun l => { l with run := 2, rstep := 0 })))
    else s.modSlice n (fun l => { l with run := 2, rstep := 0 }))).restartNext := rfl

theorem heldServed_wf (hs : s.dev.wf = true) : (heldServed s).dev.wf = true := by
  refine mgmtDrain_wf ?_ 16
  split
  · exact writeCaps_wf (retireHeld_wf hs)
  · exact retireHeld_wf hs

theorem nextBias_wf (hs : s.dev.wf = true) : (nextBias s).dev.wf = true := by
  unfold nextBias
  split
  · simp [hs]
  · exact hs

theorem biasOn_wf (hs : s.dev.wf = true) : (biasOn s).dev.wf = true := by
  unfold biasOn
  split
  · simp [hs]
  · exact hs

@[simp] theorem sliceIn_wf (hs : s.dev.wf = true) (n : Nat) : (s.sliceIn n).dev.wf = true := by
  have hin : (s.modSlice n (fun l => { l with run := 2, rstep := 0 })).dev.wf = true := hs
  rw [sliceIn_eq, restartNext_dev]
  split
  · exact biasOn_wf (nextBias_wf (heldServed_wf hin))
  · exact biasOn_wf hin

@[simp] theorem restartStep_wf (hs : s.dev.wf = true) (n result : Nat) : (s.restartStep n result).dev.wf = true := by
  have htrained : ∀ (l : List Nat) (u : State), (l.foldl (fun acc l => acc.linkTrain l (bitAt result 0)) u).dev = u.dev :=
    fun l u => foldl_field _ State.dev (fun _ _ => by simp) l u
  have hring : ∀ (l : List (Nat × Nat)) (u : State), (l.foldl (fun acc l => acc.linkTrain l.1 (bitAt result l.2)) u).dev = u.dev :=
    fun l u => foldl_field _ State.dev (fun _ _ => by simp) l u
  unfold State.restartStep
  dsimp only
  repeat' split
  all_goals simp [hs, htrained, hring]

theorem resetAll_wf : s.resetAll.dev.wf = true := empty_wf

@[simp] theorem thermalTrip_wf : s.thermalTrip.dev.wf = true := empty_wf

/-! Losses of peers, and writes of the engine's own. -/

@[simp] theorem cmdLost_wf (hs : s.dev.wf = true) (h : Nat) (gone : List Nat) : (s.cmdLost h gone).dev.wf = true := by
  unfold State.cmdLost
  dsimp only
  repeat' split
  all_goals simp [hs]

@[simp] theorem lossShown_wf (hs : s.dev.wf = true) (p : LossPub) : (s.lossShown p).dev.wf = true := by
  have hmsix : ∀ (u : State) (n : Nat), (u.msix n).dev = u.dev := fun u n => by simp
  unfold State.lossShown
  dsimp only
  rw [hmsix, foldl_field _ State.dev (fun _ _ => by simp)]
  simp [apply_ite State.dev, apply_ite Mem.wf, hs]

@[simp] theorem workLand_wf (hs : s.dev.wf = true) (w : EngWr) : (s.workLand w).dev.wf = true := by
  unfold State.workLand
  repeat' split
  all_goals simp [hs]

@[simp] theorem engineWrite_wf (hs : s.dev.wf = true) (w : EngWr) : (s.engineWrite w).dev.wf = true := by
  unfold State.engineWrite
  dsimp only
  split
  · simp [hs]
  · simp [hs]

@[simp] theorem workRetry_wf (hs : s.dev.wf = true) : s.workRetry.dev.wf = true := foldl_wf _ (fun _ w hu => engineWrite_wf hu w) _ hs

@[simp] theorem traceDump_wf (hs : s.dev.wf = true) (addr : Nat) : (s.traceDump addr).dev.wf = true := by
  unfold State.traceDump
  split
  · simp [hs]
  · simp [hs]

@[simp] theorem serveHeld_wf (hs : s.dev.wf = true) (p : HeldPeer) : (s.serveHeld p).1.dev.wf = true := by
  unfold State.serveHeld
  repeat' split
  all_goals simp [hs]

@[simp] theorem serveAll_wf (hs : s.dev.wf = true) : s.serveAll.dev.wf = true := by
  refine foldl_wf _ (fun u p hu => ?_) _ hs
  dsimp only
  split
  · simp [hu]
  · simp [hu]

/-! Register writes. -/

@[simp] theorem keeperWrite_wf (hs : s.dev.wf = true) (port off data : Nat) : (s.keeperWrite port off data).dev.wf = true := by
  have hrestart : ∀ (l : List Nat) (u : State), (l.foldl (fun acc n => if bitAt data n then acc.restartTrigger n 0 else acc) u).dev = u.dev :=
    fun l u => foldl_field _ State.dev (fun _ _ => by split <;> simp) l u
  unfold State.keeperWrite
  simp [apply_ite State.dev, apply_ite Mem.wf, hs, hrestart]

@[simp] theorem spaceWrite_wf (hs : s.dev.wf = true) (port offset size data : Nat) (poisoned : Bool) :
    (s.spaceWrite port offset size data poisoned).dev.wf = true := by
  unfold State.spaceWrite
  dsimp only
  repeat' split
  all_goals simp [hs]

/-! One cycle of the sequencers. -/

@[simp] theorem ownWork_wf (hs : s.dev.wf = true) : s.ownWork.dev.wf = true := by
  unfold State.ownWork
  dsimp only
  split
  · simp [hs]
  · simp [hs]

theorem idle_wf (hs : s.dev.wf = true) : s.idle.dev.wf = true := by
  unfold State.idle
  dsimp only
  split
  · exact hs
  · rw [foldl_field _ State.dev (fun _ _ => by simp)]
    refine foldl_wf _ (fun u k hu => tgCycle_wf hu k) _ ?_
    rw [frames_dev]
    exact foldl_wf _ (fun u h hu => mcCycle_wf hu h) _ (ownWork_wf (by simp [hs]))

end

end Sys2Proof.Proofs.ServicesKeepMemory
end

section
/-! Every command but a host access beyond the device answers a next state, and keeps device memory canonical (O4, O6). -/

namespace Sys2Proof.Proofs.CommandsKeepMemory

open Sys2Proof Sys2Proof.Machine Sys2Proof.Laws Sys2Proof.Proofs.Basic Sys2Proof.Proofs.Layer Sys2Proof.Proofs.Memory
open Sys2Proof.Proofs.MemoryKept Sys2Proof.Proofs.ServicesKeepMemory Sys2Proof.Proofs.ChannelTests
open Sys2Proof.Proofs.Publishing

/-- The answer is a next state whose memory is canonical if that of `s` is. -/
def Ends (s : State) (o : Host.Outcome State Fault Refusal) : Prop := ∃ t, o = .next t ∧ (s.dev.wf = true → t.dev.wf = true)

theorem Ends.next {s t : State} (h : s.dev.wf = true → t.dev.wf = true) : Ends s (.next t) := ⟨t, rfl, h⟩

theorem Ends.same {s t : State} (h : t.dev = s.dev) : Ends s (.next t) := .next fun hs => by rw [h]; exact hs

section
variable {s : State}

theorem execLookup_ends (h : Nat) : Ends s (execLookup h s) := by
  unfold execLookup
  dsimp only
  repeat' split
  all_goals exact .next fun hs => by simp [hs]

theorem execLookupPool_ends (h : Nat) : Ends s (execLookupPool h s) := by
  unfold execLookupPool
  dsimp only
  repeat' split
  all_goals exact .next fun hs => by simp [hs]

theorem execTileDrain_ends (slice : Fin 4) (vat : Fin 16) : Ends s (execTileDrain slice vat s) := by
  unfold execTileDrain
  dsimp only
  repeat' split
  all_goals exact .next fun hs => by simp [hs]

theorem foldl_sendContribution_dev (h : Nat) (c : Cmd) (t : Table) (l : List (Nat × Loc × Contrib)) (u : State) :
    (l.foldl (fun acc k => acc.sendContribution h c t k.1 k.2.1 k.2.2) u).dev = u.dev :=
  foldl_field _ State.dev (fun _ _ => by simp) l u

theorem execScatterGrad_ends (h : Nat) : Ends s (execScatterGrad h s) := by
  unfold execScatterGrad
  dsimp only
  split
  · exact .same rfl
  · split
    · exact .same (by simp)
    · split
      · exact .same rfl
      · repeat' split
        all_goals exact .next fun hs => by simp [foldl_sendContribution_dev, hs]

theorem execContributionArrival_ends (src : Nat) (srcSlice : Fin 4) (table mapId : Nat) (step : Word) (row batch : Nat) (elems : List (F32 × Bool))
    (tag : Nat) : Ends s (execContributionArrival src srcSlice table mapId step row batch elems tag s) := by
  unfold execContributionArrival
  dsimp only
  repeat' split
  · exact .same rfl
  · exact .same (by simp)
  · next u hu => exact .same (by rw [← buffer_dev hu]; simp)
  · exact .same (by simp)
  · exact .same rfl

theorem execApplyStep_ends (h : Nat) : Ends s (execApplyStep h s) := by
  unfold execApplyStep
  repeat' split
  all_goals exact .next fun hs => by simp [hs]

theorem execSealSend_ends (h : Nat) : Ends s (execSealSend h s) := by
  have hsent : ∀ (l : List Nat) (m : PeerMsg), (l.foldl (fun acc e => acc.toPeer e m) s).dev = s.dev :=
    fun l m => foldl_field _ State.dev (fun _ _ => by simp) l s
  unfold execSealSend
  dsimp only
  repeat' split
  · exact .same rfl
  · exact .same rfl
  · exact .next fun hs => by simp [hsent, hs]

theorem execSealArrival_ends (src : Nat) (table : Nat) (step : Word) : Ends s (execSealArrival src table step s) := by
  unfold execSealArrival
  dsimp only
  repeat' split
  all_goals exact .next fun hs => by simp [hs]

theorem execSealTimeout_ends (h : Nat) : Ends s (execSealTimeout h s) := by
  unfold execSealTimeout
  dsimp only
  repeat' split
  all_goals exact .next fun hs => by simp [hs]

theorem execReplicaWrite_ends (src : Nat) (table mapId row : Nat) (bytes : List Byte) (poison : List Nat) (tag : Nat) :
    Ends s (execReplicaWrite src table mapId row bytes poison tag s) := by
  unfold execReplicaWrite
  dsimp only
  repeat' split
  all_goals exact .next fun hs => by simp [hs]

theorem execTableOpen_ends (h : Nat) : Ends s (execTableOpen h s) := by
  unfold execTableOpen
  dsimp only
  repeat' split
  all_goals exact .next fun hs => by simp [hs]

theorem execEpochAdopt_ends (slice : Fin 4) (table : Nat) : Ends s (execEpochAdopt slice table s) := by
  unfold execEpochAdopt
  repeat' split
  all_goals exact .next fun hs => by simp [hs]

theorem execDrainComplete_ends (table : Nat) : Ends s (execDrainComplete table s) := by
  unfold execDrainComplete
  split
  · exact .next fun hs => by simp [hs]
  · exact .next fun hs => by simp [hs]

theorem execTableClose_ends (h : Nat) : Ends s (execTableClose h s) := by
  unfold execTableClose
  dsimp only
  repeat' split
  · exact .same rfl
  · exact .same rfl
  · refine .same ((foldl_field _ State.dev (fun u p => ?_) _ _).trans (by simp))
    split
    · simp
    · rfl
  · exact .same rfl
  · refine .same ((foldl_field _ State.dev (fun _ _ => by simp) _ _).trans (by simp))

theorem execHotLoad_ends (h : Nat) : Ends s (execHotLoad h s) := by
  unfold execHotLoad
  dsimp only
  repeat' split
  all_goals exact .next fun hs => by simp [hs]

theorem execMigrate_ends (h : Nat) : Ends s (execMigrate h s) := by
  unfold execMigrate
  dsimp only
  repeat' split
  all_goals exact .next fun hs => by simp [hs]

theorem execReplicate_ends (h : Nat) : Ends s (execReplicate h s) := by
  have hfilled : ∀ (num : Nat) (t : Table) (l : List (Fill × List (Nat × Option (List PB)))) (u : State), u.dev.wf = true →
      (l.foldl (fun acc p => acc.fillWrite num t p.1 p.2) u).dev.wf = true :=
    fun num t l u hu => foldl_wf _ (fun _ _ hv => fillWrite_wf hv ..) l hu
  unfold execReplicate
  dsimp only
  repeat' split
  · exact .same rfl
  · exact .same rfl
  · exact .same (by simp)
  · exact .same (by simp)
  · exact .next fun hs => by simp [hfilled, hs]

theorem execReplaceBegin_ends (h : Nat) : Ends s (execReplaceBegin h s) := by
  have hstamped : ∀ (bs : List Byte) (l : List Nat) (u : State), u.dev.wf = true → (l.foldl (fun acc a => acc.devPut a bs) u).dev.wf = true :=
    fun bs l u hu => foldl_wf _ (fun _ _ hv => devPut_wf hv ..) l hu
  unfold execReplaceBegin
  dsimp only
  repeat' split
  · exact .same rfl
  · exact .same (by simp)
  · exact .same (by simp)
  · exact .same (by simp)
  · exact .same (by simp)
  · exact .next fun hs => by simp [hstamped, hs]

theorem execVersionPublication_ends (table : Nat) : Ends s (execVersionPublication table s) := by
  unfold execVersionPublication
  repeat' split
  all_goals exact .next fun hs => by simp [hs]

theorem execReplaceCommit_ends (h : Nat) : Ends s (execReplaceCommit h s) := by
  have hcopied : ∀ (t : Table) (l : List Loc) (u : State), u.dev.wf = true → (l.foldl (fun acc l =>
      (acc.countBad (t.addrOf l true) t.stored).devWrite (t.addrOf l false) (zeroPad t.fmt t.dim (acc.dev.read (t.addrOf l true) t.stored)))
      u).dev.wf = true := fun t l u hu => foldl_wf _ (fun _ _ hv => by simp [hv]) l hu
  unfold execReplaceCommit
  dsimp only
  repeat' split
  · exact .same rfl
  · exact .same (by simp)
  · exact .same rfl
  · exact .same (by simp)
  · exact .same rfl
  · exact .same (by simp)
  · exact .next fun hs => by simp [hcopied, hs]
  · exact .same rfl
  · exact .same (by simp)
  · exact .same rfl

theorem execRowWrite_ends (h : Nat) : Ends s (execRowWrite h s) := by
  unfold execRowWrite
  dsimp only
  repeat' split
  all_goals exact .next fun hs => by simp [hs]

theorem execScoreTopk_ends (h : Nat) : Ends s (execScoreTopk h s) := by
  unfold execScoreTopk
  dsimp only
  repeat' split
  all_goals exact .next fun hs => by simp [hs]

theorem execScanRequest_ends (src : Nat) (table mapId tag : Nat) (packet image : List Byte) (variant : Nat) (queries : List (List (F32 × Bool))) (mask : List Byte) (parts : List Nat) :
    Ends s (execScanRequest src table mapId tag packet image variant queries mask parts s) := by
  unfold execScanRequest
  dsimp only
  repeat' split
  all_goals exact .next fun hs => by simp [hs]

theorem execScanPartial_ends (src tag fed masked absent part : Nat) (answer : ScanAnswer) :
    Ends s (execScanPartial src tag fed masked absent part answer s) := by
  unfold execScanPartial
  dsimp only
  repeat' split
  all_goals exact .next fun hs => by simp [hs]

theorem execTileRead_ends (h : Nat) : Ends s (execTileRead h s) := by
  unfold execTileRead
  dsimp only
  repeat' split
  all_goals exact .next fun hs => by simp [hs]

theorem execTileWrite_ends (h : Nat) : Ends s (execTileWrite h s) := by
  unfold execTileWrite
  dsimp only
  repeat' split
  all_goals exact .next fun hs => by simp [hs]

theorem execStream_ends (h : Nat) : Ends s (execStream h s) := by
  unfold execStream
  dsimp only
  repeat' split
  all_goals exact .next fun hs => by simp [hs]

theorem execMulticast_ends (h : Nat) : Ends s (execMulticast h s) := by
  unfold execMulticast
  repeat' split
  all_goals exact .next fun hs => by simp [hs]

theorem execDetachTimeout_ends (h : Nat) : Ends s (execDetachTimeout h s) := by
  unfold execDetachTimeout
  repeat' split
  all_goals exact .next fun hs => by simp [hs]

theorem execBarrier_ends (h : Nat) : Ends s (execBarrier h s) := .next fun hs => by simp [hs]

theorem execBarrierReached_ends (h : Nat) : Ends s (execBarrierReached h s) := .next fun hs => by simp [hs]

theorem execBarrierArrival_ends (src : Nat) (tag : Word) : Ends s (execBarrierArrival src tag s) := by
  unfold execBarrierArrival
  dsimp only
  split
  · exact .same rfl
  · exact .same ((foldl_field _ State.dev (fun _ _ => by simp) _ _).trans (by simp))

theorem execBarrierTimeout_ends (h : Nat) : Ends s (execBarrierTimeout h s) := by
  unfold execBarrierTimeout
  dsimp only
  repeat' split
  all_goals exact .next fun hs => by simp [hs]

theorem execPlanLoad_ends (h : Nat) : Ends s (execPlanLoad h s) := by
  unfold execPlanLoad
  dsimp only
  repeat' split
  all_goals exact .next fun hs => by simp [hs]

theorem execPlanBind_ends (h : Nat) : Ends s (execPlanBind h s) := by
  unfold execPlanBind
  dsimp only
  repeat' split
  all_goals exact .next fun hs => by simp [hs]

theorem execPlanUnbind_ends (h : Nat) : Ends s (execPlanUnbind h s) := by
  unfold execPlanUnbind
  split
  · exact .next fun hs => by simp [hs]
  · exact .next fun hs => by simp [hs]

theorem execPlanUnload_ends (h : Nat) : Ends s (execPlanUnload h s) := by
  unfold execPlanUnload
  repeat' split
  all_goals exact .next fun hs => by simp [hs]

theorem execFenceSignal_ends (h : Nat) : Ends s (execFenceSignal h s) := by
  unfold execFenceSignal
  repeat' split
  all_goals exact .next fun hs => by simp [hs]

theorem execFenceApply_ends : Ends s (execFenceApply s) := by
  unfold execFenceApply
  dsimp only
  repeat' split
  all_goals exact .next fun hs => by simp [hs]

theorem execFenceWait_ends (h : Nat) : Ends s (execFenceWait h s) := .next fun hs => by simp [hs]

theorem execFenceValueDelivery_ends (slice : Fin 4) (fence : Nat) : Ends s (execFenceValueDelivery slice fence s) := by
  unfold execFenceValueDelivery
  split
  · exact .next fun hs => by simp [hs]
  · exact .next fun hs => by simp [hs]

theorem execFenceWaitTimeout_ends (h : Nat) : Ends s (execFenceWaitTimeout h s) := by
  unfold execFenceWaitTimeout
  dsimp only
  repeat' split
  all_goals exact .next fun hs => by simp [hs]

theorem execFenceSlotCommit_ends (port : Fin 4) (ctx : Fin 4096) (data : Word) : Ends s (execFenceSlotCommit port ctx data s) := by
  unfold execFenceSlotCommit
  split
  · next u hu => exact .same (windowBlocked_dev hu)
  · exact .same (by simp)

theorem execFaultClear_ends (port : Fin 4) (ctx : Fin 4096) : Ends s (execFaultClear port ctx s) := by
  unfold execFaultClear
  repeat' split
  all_goals exact .next fun hs => by simp [hs]

theorem execDoorbell_ends (port : Fin 4) (ctx : Fin 4096) (n : Fin 64) (tail : BitVec 32) : Ends s (execDoorbell port ctx n tail s) := by
  unfold execDoorbell
  split
  · next u hu => exact .same (windowBlocked_dev hu)
  · exact .same (by simp)

theorem execCompletionRelease_ends (port : Fin 4) (ctx : Fin 4096) (n : Fin 64) (released : BitVec 32) :
    Ends s (execCompletionRelease port ctx n released s) := by
  unfold execCompletionRelease
  split
  · next u hu => exact .same (windowBlocked_dev hu)
  · exact .same (by simp)

theorem execPacketFetch_ends (q : Nat) : Ends s (execPacketFetch q s) := by
  unfold execPacketFetch
  dsimp only
  repeat' split
  all_goals exact .next fun hs => by simp [hs]

theorem execPacketReread_ends (q : Nat) : Ends s (execPacketReread q s) := by
  unfold execPacketReread
  dsimp only
  repeat' split
  all_goals exact .next fun hs => by simp [hs]

theorem execAdmission_ends (q : Nat) : Ends s (execAdmission q s) := by
  unfold execAdmission
  dsimp only
  repeat' split
  all_goals exact .next fun hs => by simp [hs]

theorem execWaitSlotTimeout_ends (q : Nat) : Ends s (execWaitSlotTimeout q s) := by
  unfold execWaitSlotTimeout
  repeat' split
  all_goals exact .next fun hs => by simp [hs]

theorem execBuoy_ends (h : Nat) : Ends s (execBuoy h s) := by
  unfold execBuoy
  split
  · exact .next fun hs => by simp [hs]
  · exact .next fun hs => by simp [hs]

theorem execCompletionRecord_ends (h : Nat) : Ends s (execCompletionRecord h s) := by
  unfold execCompletionRecord
  repeat' split
  all_goals exact .next fun hs => by simp [hs]

theorem execQuery_ends (h : Nat) : Ends s (execQuery h s) := by
  unfold execQuery
  dsimp only
  repeat' split
  all_goals exact .next fun hs => by simp [hs]

theorem execCtxOpen_ends (port : Fin 4) (tag : BitVec 16) : Ends s (execCtxOpen port tag s) := .next fun hs => by simp [hs]

theorem execCtxKill_ends (port : Fin 4) (tag : BitVec 16) : Ends s (execCtxKill port tag s) := .next fun hs => by simp [hs]

theorem execSqCreate_ends (port : Fin 4) (tag : BitVec 16) : Ends s (execSqCreate port tag s) := .next fun hs => by simp [hs]

theorem execSqDestroy_ends (port : Fin 4) (tag : BitVec 16) : Ends s (execSqDestroy port tag s) := .next fun hs => by simp [hs]

theorem execCqCreate_ends (port : Fin 4) (tag : BitVec 16) : Ends s (execCqCreate port tag s) := .next fun hs => by simp [hs]

theorem execCqDestroy_ends (port : Fin 4) (tag : BitVec 16) : Ends s (execCqDestroy port tag s) := .next fun hs => by simp [hs]

theorem execFenceAlloc_ends (port : Fin 4) (tag : BitVec 16) : Ends s (execFenceAlloc port tag s) := .next fun hs => by simp [hs]

theorem execFenceFree_ends (port : Fin 4) (tag : BitVec 16) : Ends s (execFenceFree port tag s) := .next fun hs => by simp [hs]

theorem execFenceGrant_ends (port : Fin 4) (tag : BitVec 16) : Ends s (execFenceGrant port tag s) := .next fun hs => by simp [hs]

theorem execFenceRevoke_ends (port : Fin 4) (tag : BitVec 16) : Ends s (execFenceRevoke port tag s) := .next fun hs => by simp [hs]

theorem execFwSet_ends (port : Fin 4) (tag : BitVec 16) : Ends s (execFwSet port tag s) := .next fun hs => by simp [hs]

theorem execContextKill_ends (h : Nat) : Ends s (execContextKill h s) := by
  unfold execContextKill
  dsimp only
  repeat' split
  all_goals exact .next fun hs => by simp [hs]

theorem execKillStepDone_ends (ctx : Fin 4096) : Ends s (execKillStepDone ctx s) := by
  unfold execKillStepDone
  split
  · exact .next fun hs => by simp [hs]
  · exact .next fun hs => by simp [hs]

theorem execWindowWrite_ends (port : Fin 4) (ctx : Fin 4096) (offset : Nat) (bytes : List Byte) (enables : List Bool) (poisoned : Bool) :
    Ends s (execWindowWrite port ctx offset bytes enables poisoned s) := by
  unfold execWindowWrite
  repeat' split
  all_goals exact .next fun hs => by simp [hs]

theorem execFlush_ends (port : Fin 4) (ctx : Fin 4096) : Ends s (execFlush port ctx s) := by
  unfold execFlush
  repeat' split
  all_goals exact .next fun hs => by simp [hs]

theorem execReadBack_ends (port : Fin 4) (ctx : Fin 4096) (offset : Fin 4096) : Ends s (execReadBack port ctx offset s) := by
  unfold execReadBack
  split
  · exact .next fun hs => by simp [hs]
  · exact .next fun hs => by simp [hs]

theorem execGoResponse_ends (port : Fin 4) (ctx : Fin 4096) : Ends s (execGoResponse port ctx s) := by
  unfold execGoResponse
  split
  · exact .next fun hs => by simp [hs]
  · exact .next fun hs => by simp [hs]

/-- A host write of device memory ends, or faults for an address beyond it. -/
theorem execMemWrite_ends (port : Fin 4) (addr : Nat) (bytes : List Byte) (poisoned : Bool) :
    Ends s (execMemWrite port addr bytes poisoned s) ∨
      (Config.devBytes < addr + bytes.length ∧ execMemWrite port addr bytes poisoned s = .fault (.noSuchAddress addr)) := by
  unfold execMemWrite
  split
  · exact .inl (.same rfl)
  · split
    · next hout => exact .inr ⟨by simpa [inDevice] using hout, rfl⟩
    · split
      · exact .inl (.same rfl)
      · exact .inl (.next fun hs => memStore_wf hs ..)

/-- A host read of device memory ends, or faults for an address beyond it. -/
theorem execMemRead_ends (port : Fin 4) (addr count : Nat) : Ends s (execMemRead port addr count s) ∨
    (Config.devBytes < addr + count ∧ execMemRead port addr count s = .fault (.noSuchAddress addr)) := by
  unfold execMemRead
  split
  · exact .inl (.same rfl)
  · split
    · next hout => exact .inr ⟨by simpa [inDevice] using hout, rfl⟩
    · split
      · exact .inl (.same rfl)
      · exact .inl (.same (memLoad_dev ..))

theorem execSnoop_ends (port : Fin 4) (_addr : Nat) : Ends s (execSnoop port _addr s) := by
  unfold execSnoop
  split
  · exact .next fun hs => by simp [hs]
  · exact .next fun hs => by simp [hs]

theorem execAtsInvalidation_ends (port : Fin 4) (pasid : BitVec 20) (firstPage pages : Nat) :
    Ends s (execAtsInvalidation port pasid firstPage pages s) := by
  unfold execAtsInvalidation
  dsimp only
  repeat' split
  all_goals exact .next fun hs => by simp [hs]

theorem execAtsResponse_ends (port : Fin 4) (who : Who) (page : Nat) (read write toDevice : Bool) (target : Nat) :
    Ends s (execAtsResponse port who page read write toDevice target s) := by
  unfold execAtsResponse
  dsimp only
  split
  · exact .same rfl
  · split
    · exact .same rfl
    · refine .same ((foldl_field _ State.dev (fun _ _ => by simp) _ _).trans ?_)
      split
      · simp
      · rfl

theorem execBiasToDevice_ends (port : Fin 4) (first count : Nat) (owner : Fin 4096) (own : Bool) :
    Ends s (execBiasToDevice port first count owner own s) := .next fun hs => by simp [hs]

theorem execBiasToHost_ends (port : Fin 4) (first count : Nat) (owner : Fin 4096) (own : Bool) :
    Ends s (execBiasToHost port first count owner own s) := .next fun hs => by simp [hs]

theorem execH2dResponse_ends (port : Fin 4) (who : Who) (line : Nat) (data : List Byte) (poisoned : Bool) :
    Ends s (execH2dResponse port who line data poisoned s) := by
  unfold execH2dResponse
  repeat' split
  all_goals exact .next fun hs => by simp [hs]

theorem execCommandPortTransaction_ends (port : Fin 8) (write : Bool) (ctx : Nat) (offset : Nat) (bytes : List Byte) (poisoned : Bool) :
    Ends s (execCommandPortTransaction port write ctx offset bytes poisoned s) := .next fun hs => by simp [hs]

theorem execPor_ends : Ends s (execPor s) := .next fun _ => resetAll_wf (s := s)

theorem execEngineReset_ends : Ends s (execEngineReset s) := by
  unfold execEngineReset
  split
  · exact .next fun _ => resetAll_wf (s := s)
  · exact .same rfl

theorem execPowerOff_ends : Ends s (execPowerOff s) := .next fun _ => resetAll_wf (s := s)

theorem execResetRelease_ends (engine gsize : BitVec 8) : Ends s (execResetRelease engine gsize s) := by
  unfold execResetRelease
  split
  · exact .next fun hs => by simp [hs]
  · exact .next fun hs => by simp [hs]

theorem execBootStepDone_ends (result : Nat) : Ends s (execBootStepDone result s) := by
  unfold execBootStepDone
  split
  · exact .next fun hs => by simp [hs]
  · exact .next fun hs => by simp [hs]

theorem execBootRepair_ends (port : Fin 4) : Ends s (execBootRepair port s) := .next fun hs => by simp [hs]

theorem execBootSkip_ends (port : Fin 4) : Ends s (execBootSkip port s) := .next fun hs => by simp [hs]

theorem execSliceRestart_ends (slice : Fin 4) (trigger : Fin 3) : Ends s (execSliceRestart slice trigger s) := by
  unfold execSliceRestart
  split
  · exact .next fun hs => by simp [hs]
  · exact .next fun hs => by simp [hs]

theorem execRestartStepDone_ends (slice : Fin 4) (result : Nat) : Ends s (execRestartStepDone slice result s) := by
  unfold execRestartStepDone
  split
  · exact .next fun hs => by simp [hs]
  · exact .next fun hs => by simp [hs]

theorem execQueueWrite_ends (queue : Nat) (word : List Byte) (vbytes : Nat) (psec : Nat) (last : Bool) :
    Ends s (execQueueWrite queue word vbytes psec last s) := by
  unfold execQueueWrite
  split
  · exact .next fun hs => by simp [hs]
  · exact .next fun hs => by simp [hs]

theorem execQueueRead_ends (queue : Nat) : Ends s (execQueueRead queue s) := by
  unfold execQueueRead
  dsimp only
  repeat' split
  all_goals exact .next fun hs => by simp [hs]

theorem execQueueDrop_ends (queue : Nat) : Ends s (execQueueDrop queue s) := by
  unfold execQueueDrop
  dsimp only
  repeat' split
  all_goals exact .next fun hs => by simp [hs]

theorem execSectorRead_ends (stack : Fin 12) (offset : Nat) (result : SectorResult) (retried : Bool) :
    Ends s (execSectorRead stack offset result retried s) := by
  unfold execSectorRead
  dsimp only
  repeat' split
  all_goals exact .next fun hs => by simp [hs]

theorem execScrubPatrol_ends (stack : Fin 12) (result : SectorResult) : Ends s (execScrubPatrol stack result s) := by
  unfold execScrubPatrol
  dsimp only
  repeat' split
  all_goals exact .next fun hs => by simp [hs]

theorem execScrubLate_ends (stack : Fin 12) : Ends s (execScrubLate stack s) := by
  unfold execScrubLate
  dsimp only
  repeat' split
  all_goals exact .next fun hs => by simp [hs]

theorem execRepair_ends (stack : Fin 12) : Ends s (execRepair stack s) := by
  unfold execRepair
  dsimp only
  repeat' split
  all_goals exact .next fun hs => by simp [hs]

theorem execRetireMove_ends (stack : Fin 12) : Ends s (execRetireMove stack s) := by
  unfold execRetireMove
  dsimp only
  split
  · exact .same rfl
  · exact .next fun hs => foldl_wf _ (fun u p hu => shiftTable_wf hu ..) _ hs

theorem execThermalSample_ends (stack : Fin 12) (value : Option Nat) : Ends s (execThermalSample stack value s) := by
  unfold execThermalSample
  dsimp only
  repeat' split
  all_goals exact .next fun hs => by simp [hs]

theorem execSplitReselect_ends (stack : Fin 12) (plans : List Nat) : Ends s (execSplitReselect stack plans s) := by
  unfold execSplitReselect
  repeat' split
  all_goals exact .next fun hs => by simp [hs]

theorem execTgRun_ends (port : Fin 4) (chan : Fin 3) (data : Word) : Ends s (execTgRun port chan data s) := by
  unfold execTgRun
  split
  · exact .next fun hs => by simp [hs]
  · exact .next fun hs => by simp [hs]

theorem execTgStop_ends (port : Fin 4) (chan : Fin 3) (data : Word) : Ends s (execTgStop port chan data s) := by
  unfold execTgStop
  split
  · exact .next fun hs => by simp [hs]
  · exact .next fun hs => by simp [hs]

theorem execBeaconReceive_ends (port : Fin 6) (b : Beacon) : Ends s (execBeaconReceive port b s) := by
  unfold execBeaconReceive
  repeat' split
  all_goals exact .next fun hs => by simp [hs]

theorem execBeaconSend_ends (port : Fin 6) : Ends s (execBeaconSend port s) := by
  unfold execBeaconSend
  dsimp only
  repeat' split
  all_goals exact .next fun hs => by simp [hs]

theorem execFrameReceive_ends (port : Fin 6) (frame : List Byte) : Ends s (execFrameReceive port frame s) := .next fun hs => by simp [hs]

theorem execLinkControlFrame_ends (port : Fin 6) (head body : List Byte) : Ends s (execLinkControlFrame port head body s) := by
  unfold execLinkControlFrame
  dsimp only
  repeat' split
  all_goals exact .next fun hs => by simp [hs]

theorem execMissTimeout_ends (port : Fin 6) : Ends s (execMissTimeout port s) := by
  unfold execMissTimeout
  split
  · exact .next fun hs => by simp [hs]
  · exact .next fun hs => by simp [hs]

theorem execOpLos_ends (port : Fin 6) (dark : Bool) : Ends s (execOpLos port dark s) := by
  unfold execOpLos
  split
  · exact .next fun hs => by simp [hs]
  · exact .next fun hs => by simp [hs]

theorem execLossOfLight_ends (port : Fin 6) : Ends s (execLossOfLight port s) := by
  unfold execLossOfLight
  dsimp only
  repeat' split
  all_goals exact .next fun hs => by simp [hs]

theorem execOpLock_ends (port : Fin 6) (locked : Bool) : Ends s (execOpLock port locked s) := by
  unfold execOpLock
  repeat' split
  all_goals exact .next fun hs => by simp [hs]

theorem execWavelengthChange_ends (port : Fin 6) (count : Fin 17) : Ends s (execWavelengthChange port count s) := by
  unfold execWavelengthChange
  dsimp only
  repeat' split
  all_goals exact .next fun hs => by simp [hs]

theorem execOpEnable_ends (port : Fin 4) (on : Bool) : Ends s (execOpEnable port on s) := by
  unfold execOpEnable
  split
  · exact .next fun hs => by simp [hs]
  · exact .next fun hs => by simp [hs]

theorem execOpUp_ends (port : Fin 4) (on : Bool) : Ends s (execOpUp port on s) := by
  unfold execOpUp
  split
  · exact .next fun hs => by simp [hs]
  · exact .next fun hs => by simp [hs]

theorem execReadmit_ends (port : Fin 4) : Ends s (execReadmit port s) := by
  unfold execReadmit
  split
  · exact .next fun hs => by simp [hs]
  · exact .next fun hs => by simp [hs]

theorem execLossStateAdopt_ends (slice : Fin 4) : Ends s (execLossStateAdopt slice s) := by
  have hlost : ∀ (gone l : List Nat) (u : State), u.dev.wf = true → (l.foldl (fun acc h => acc.cmdLost h gone) u).dev.wf = true :=
    fun gone l u hu => foldl_wf _ (fun v h hv => cmdLost_wf hv ..) l hu
  unfold execLossStateAdopt
  dsimp only
  repeat' split
  · exact .same rfl
  · exact .next fun hs => by simp [hlost, hs]
  · exact .next fun hs => by simp [hlost, hs]

theorem execFlitReceive_ends (link module : Nat) (flit : List Byte) : Ends s (execFlitReceive link module flit s) := by
  unfold execFlitReceive
  repeat' split
  all_goals exact .next fun hs => by simp [hs]

theorem execLinkControlFlit_ends (link module : Nat) (flit : List Byte) : Ends s (execLinkControlFlit link module flit s) := by
  unfold execLinkControlFlit
  dsimp only
  repeat' split
  all_goals exact .next fun hs => by simp [hs]

theorem execModuleLockLoss_ends (link module : Nat) : Ends s (execModuleLockLoss link module s) := by
  unfold execModuleLockLoss
  split
  · exact .next fun hs => by simp [hs]
  · exact .next fun hs => by simp [hs]

theorem execRetrainComplete_ends (link module : Nat) (failRx failTx : BitVec 34) : Ends s (execRetrainComplete link module failRx failTx s) := by
  unfold execRetrainComplete
  dsimp only
  repeat' split
  all_goals exact .next fun hs => by simp [hs]

theorem execCounterForward_ends (slice : Fin 4) : Ends s (execCounterForward slice s) := by
  unfold execCounterForward
  split
  · exact .next fun hs => by simp [hs]
  · exact .next fun hs => by simp [hs]

theorem execTraceStart_ends (port : Fin 4) (data : Word) : Ends s (execTraceStart port data s) := by
  unfold execTraceStart
  split
  · exact .next fun hs => by simp [hs]
  · exact .next fun hs => by simp [hs]

theorem execTraceDeepRelease_ends (port : Fin 4) (data : Word) : Ends s (execTraceDeepRelease port data s) := by
  unfold execTraceDeepRelease
  split
  · exact .next fun hs => by simp [hs]
  · exact .next fun hs => by simp [hs]

theorem execTraceDump_ends (port : Fin 4) (addr : Word) : Ends s (execTraceDump port addr s) := by
  unfold execTraceDump
  split
  · exact .next fun hs => by simp [hs]
  · exact .next fun hs => by simp [hs]

theorem execTraceMark_ends (port : Fin 4) (value : Word) : Ends s (execTraceMark port value s) := by
  unfold execTraceMark
  split
  · exact .next fun hs => by simp [hs]
  · exact .next fun hs => by simp [hs]

theorem execSkewWindowEnd_ends (slice : Fin 4) : Ends s (execSkewWindowEnd slice s) := by
  unfold execSkewWindowEnd
  split
  · exact .next fun hs => by simp [hs]
  · exact .next fun hs => by simp [hs]

theorem execSkewMerge_ends : Ends s (execSkewMerge s) := by
  unfold execSkewMerge
  dsimp only
  split
  · exact .same rfl
  · refine .next fun hs => foldl_wf _ (fun u t hu => ?_) _ hs
    split
    · exact hu
    · exact engineWrite_wf hu _

theorem execSkewEnable_ends (port : Fin 4) (data : Word) : Ends s (execSkewEnable port data s) := by
  unfold execSkewEnable
  split
  · exact .next fun hs => by simp [hs]
  · exact .next fun hs => by simp [hs]

theorem execSkewRelease_ends (port : Fin 4) (tail : BitVec 32) : Ends s (execSkewRelease port tail s) := by
  unfold execSkewRelease
  split
  · exact .next fun hs => by simp [hs]
  · exact .next fun hs => by simp [hs]

theorem execTapInstruction_ends (code : Nat) (data : Nat) : Ends s (execTapInstruction code data s) := by
  unfold execTapInstruction
  repeat' split
  all_goals exact .next fun hs => by simp [hs]

theorem execPeerRowRequest_ends (src : Nat) (table mapId row tag : Nat) : Ends s (execPeerRowRequest src table mapId row tag s) := by
  unfold execPeerRowRequest
  dsimp only
  repeat' split
  all_goals exact .next fun hs => by simp [hs]

theorem execRowReply_ends (src : Nat) (tag : Nat) (reply : Reply) : Ends s (execRowReply src tag reply s) := by
  unfold execRowReply
  repeat' split
  all_goals exact .next fun hs => by simp [hs]

theorem execPowerSample_ends (rails : List (Nat × Nat)) (junctions : List (Option Nat)) : Ends s (execPowerSample rails junctions s) := by
  unfold execPowerSample
  dsimp only
  repeat' split
  all_goals exact .next fun hs => by simp [hs]

theorem execPowerWindow_ends : Ends s (execPowerWindow s) := by
  have hset : ∀ (l : List Nat) (f g : Nat → Nat) (u : State), (l.foldl (fun acc n => acc.setKreg (f n) (g n)) u).dev = u.dev :=
    fun l f g u => foldl_field _ State.dev (fun _ _ => by simp) l u
  unfold execPowerWindow
  dsimp only
  split
  · exact .same rfl
  · exact .same (by rw [traceThrottle_dev, hset]; rfl)

theorem execSlewPeriod_ends (slice : Fin 4) (demand : Nat) : Ends s (execSlewPeriod slice demand s) := by
  unfold execSlewPeriod
  split
  · exact .next fun hs => by simp [hs]
  · exact .next fun hs => by simp [hs]

theorem execPowerLimitWrite_ends (port : Fin 4) (cap : BitVec 16) : Ends s (execPowerLimitWrite port cap s) := by
  unfold execPowerLimitWrite
  split
  · exact .next fun hs => by simp [hs]
  · exact .next fun hs => by simp [hs]

theorem execRegisterWrite_ends (port : Fin 4) (offset : Nat) (size : Nat) (data : Word) (poisoned : Bool) :
    Ends s (execRegisterWrite port offset size data poisoned s) := .next fun hs => by simp [hs]

theorem execRegisterRead_ends (port : Fin 4) (offset : Nat) (size : Nat) :
    Ends s (execRegisterRead port offset size s) := .next fun hs => by simp [hs]

end

end Sys2Proof.Proofs.CommandsKeepMemory
end

section
/-! Every step keeps device memory canonical, and only absent addresses stop a command (O4, O6). -/

namespace Sys2Proof.Proofs.Canonical

open Sys2Proof Sys2Proof.Machine Sys2Proof.Proofs.ServicesKeepMemory Sys2Proof.Proofs.CommandsKeepMemory

/-- A host access that reaches beyond the device, and what it answers. -/
def Absent (i : Instr) (s : State) : Prop :=
  (∃ port addr bytes poisoned, i = .memWrite port addr bytes poisoned ∧ Config.devBytes < addr + bytes.length ∧
    exec i s = .fault (.noSuchAddress addr)) ∨
  (∃ port addr count, i = .memRead port addr count ∧ Config.devBytes < addr + count ∧ exec i s = .fault (.noSuchAddress addr))

/-- Every command ends in a next state, but a host access beyond the device. -/
theorem exec_ends_or_absent (i : Instr) (s : State) : Ends s (exec i s) ∨ Absent i s := by
  cases i with
  | lookup h => exact .inl (execLookup_ends h)
  | lookupPool h => exact .inl (execLookupPool_ends h)
  | scoreTopk h => exact .inl (execScoreTopk_ends h)
  | scatterGrad h => exact .inl (execScatterGrad_ends h)
  | applyStep h => exact .inl (execApplyStep_ends h)
  | rowWrite h => exact .inl (execRowWrite_ends h)
  | migrate h => exact .inl (execMigrate_ends h)
  | replicate h => exact .inl (execReplicate_ends h)
  | stream h => exact .inl (execStream_ends h)
  | multicast h => exact .inl (execMulticast_ends h)
  | tileRead h => exact .inl (execTileRead_ends h)
  | tileWrite h => exact .inl (execTileWrite_ends h)
  | fenceSignal h => exact .inl (execFenceSignal_ends h)
  | fenceWait h => exact .inl (execFenceWait_ends h)
  | barrier h => exact .inl (execBarrier_ends h)
  | buoy h => exact .inl (execBuoy_ends h)
  | planLoad h => exact .inl (execPlanLoad_ends h)
  | planBind h => exact .inl (execPlanBind_ends h)
  | planUnbind h => exact .inl (execPlanUnbind_ends h)
  | planUnload h => exact .inl (execPlanUnload_ends h)
  | tableOpen h => exact .inl (execTableOpen_ends h)
  | replaceBegin h => exact .inl (execReplaceBegin_ends h)
  | replaceCommit h => exact .inl (execReplaceCommit_ends h)
  | tableClose h => exact .inl (execTableClose_ends h)
  | hotLoad h => exact .inl (execHotLoad_ends h)
  | contextKill h => exact .inl (execContextKill_ends h)
  | query h => exact .inl (execQuery_ends h)
  | ctxOpen port tag => exact .inl (execCtxOpen_ends port tag)
  | ctxKill port tag => exact .inl (execCtxKill_ends port tag)
  | sqCreate port tag => exact .inl (execSqCreate_ends port tag)
  | sqDestroy port tag => exact .inl (execSqDestroy_ends port tag)
  | cqCreate port tag => exact .inl (execCqCreate_ends port tag)
  | cqDestroy port tag => exact .inl (execCqDestroy_ends port tag)
  | fenceAlloc port tag => exact .inl (execFenceAlloc_ends port tag)
  | fenceFree port tag => exact .inl (execFenceFree_ends port tag)
  | fenceGrant port tag => exact .inl (execFenceGrant_ends port tag)
  | fenceRevoke port tag => exact .inl (execFenceRevoke_ends port tag)
  | fwSet port tag => exact .inl (execFwSet_ends port tag)
  | biasToDevice port first count owner own => exact .inl (execBiasToDevice_ends port first count owner own)
  | biasToHost port first count owner own => exact .inl (execBiasToHost_ends port first count owner own)
  | bootRepair port => exact .inl (execBootRepair_ends port)
  | bootSkip port => exact .inl (execBootSkip_ends port)
  | sliceRestart slice trigger => exact .inl (execSliceRestart_ends slice trigger)
  | opEnable port on => exact .inl (execOpEnable_ends port on)
  | opUp port on => exact .inl (execOpUp_ends port on)
  | readmit port => exact .inl (execReadmit_ends port)
  | traceStart port data => exact .inl (execTraceStart_ends port data)
  | traceDeepRelease port data => exact .inl (execTraceDeepRelease_ends port data)
  | traceDump port addr => exact .inl (execTraceDump_ends port addr)
  | traceMark port value => exact .inl (execTraceMark_ends port value)
  | skewEnable port data => exact .inl (execSkewEnable_ends port data)
  | skewRelease port tail => exact .inl (execSkewRelease_ends port tail)
  | tgRun port chan data => exact .inl (execTgRun_ends port chan data)
  | tgStop port chan data => exact .inl (execTgStop_ends port chan data)
  | powerLimitWrite port cap => exact .inl (execPowerLimitWrite_ends port cap)
  | doorbell port ctx n tail => exact .inl (execDoorbell_ends port ctx n tail)
  | completionRelease port ctx n released => exact .inl (execCompletionRelease_ends port ctx n released)
  | fenceSlotCommit port ctx data => exact .inl (execFenceSlotCommit_ends port ctx data)
  | faultClear port ctx => exact .inl (execFaultClear_ends port ctx)
  | flush port ctx => exact .inl (execFlush_ends port ctx)
  | readBack port ctx offset => exact .inl (execReadBack_ends port ctx offset)
  | registerWrite port offset size data poisoned => exact .inl (execRegisterWrite_ends port offset size data poisoned)
  | windowWrite port ctx offset bytes enables poisoned => exact .inl (execWindowWrite_ends port ctx offset bytes enables poisoned)
  | memWrite port addr bytes poisoned => exact (execMemWrite_ends port addr bytes poisoned).imp_right fun h => .inl ⟨port, addr, bytes, poisoned, rfl, h.1, h.2⟩
  | memRead port addr count => exact (execMemRead_ends port addr count).imp_right fun h => .inr ⟨port, addr, count, rfl, h.1, h.2⟩
  | snoop port addr => exact .inl (execSnoop_ends port addr)
  | atsInvalidation port pasid firstPage pages => exact .inl (execAtsInvalidation_ends port pasid firstPage pages)
  | atsResponse port who page read write toDevice target => exact .inl (execAtsResponse_ends port who page read write toDevice target)
  | goResponse port ctx => exact .inl (execGoResponse_ends port ctx)
  | commandPortTransaction port write ctx offset bytes poisoned => exact .inl (execCommandPortTransaction_ends port write ctx offset bytes poisoned)
  | packetFetch q => exact .inl (execPacketFetch_ends q)
  | packetReread q => exact .inl (execPacketReread_ends q)
  | admission q => exact .inl (execAdmission_ends q)
  | completionRecord h => exact .inl (execCompletionRecord_ends h)
  | waitSlotTimeout q => exact .inl (execWaitSlotTimeout_ends q)
  | fenceWaitTimeout h => exact .inl (execFenceWaitTimeout_ends h)
  | fenceApply => exact .inl execFenceApply_ends
  | fenceValueDelivery slice fence => exact .inl (execFenceValueDelivery_ends slice fence)
  | sealSend h => exact .inl (execSealSend_ends h)
  | sealArrival src table step => exact .inl (execSealArrival_ends src table step)
  | sealTimeout h => exact .inl (execSealTimeout_ends h)
  | barrierReached h => exact .inl (execBarrierReached_ends h)
  | barrierArrival src tag => exact .inl (execBarrierArrival_ends src tag)
  | barrierTimeout h => exact .inl (execBarrierTimeout_ends h)
  | detachTimeout h => exact .inl (execDetachTimeout_ends h)
  | epochAdopt slice table => exact .inl (execEpochAdopt_ends slice table)
  | drainComplete table => exact .inl (execDrainComplete_ends table)
  | versionPublication table => exact .inl (execVersionPublication_ends table)
  | tileDrain slice vat => exact .inl (execTileDrain_ends slice vat)
  | killStepDone ctx => exact .inl (execKillStepDone_ends ctx)
  | flitReceive link module flit => exact .inl (execFlitReceive_ends link module flit)
  | linkControlFlit link module flit => exact .inl (execLinkControlFlit_ends link module flit)
  | moduleLockLoss link module => exact .inl (execModuleLockLoss_ends link module)
  | retrainComplete link module failRx failTx => exact .inl (execRetrainComplete_ends link module failRx failTx)
  | frameReceive port frame => exact .inl (execFrameReceive_ends port frame)
  | beaconSend port => exact .inl (execBeaconSend_ends port)
  | beaconReceive port b => exact .inl (execBeaconReceive_ends port b)
  | peerRowRequest src table mapId row tag => exact .inl (execPeerRowRequest_ends src table mapId row tag)
  | rowReply src tag reply => exact .inl (execRowReply_ends src tag reply)
  | contributionArrival src srcSlice table mapId step row batch elems tag => exact .inl (execContributionArrival_ends src srcSlice table mapId step row batch elems tag)
  | scanRequest src table mapId tag packet image variant queries mask parts => exact .inl (execScanRequest_ends src table mapId tag packet image variant queries mask parts)
  | scanPartial src tag fed masked absent part answer => exact .inl (execScanPartial_ends src tag fed masked absent part answer)
  | replicaWrite src table mapId row bytes poison tag => exact .inl (execReplicaWrite_ends src table mapId row bytes poison tag)
  | linkControlFrame port head body => exact .inl (execLinkControlFrame_ends port head body)
  | missTimeout port => exact .inl (execMissTimeout_ends port)
  | lossOfLight port => exact .inl (execLossOfLight_ends port)
  | opLos port dark => exact .inl (execOpLos_ends port dark)
  | opLock port locked => exact .inl (execOpLock_ends port locked)
  | wavelengthChange port count => exact .inl (execWavelengthChange_ends port count)
  | lossStateAdopt slice => exact .inl (execLossStateAdopt_ends slice)
  | powerSample rails junctions => exact .inl (execPowerSample_ends rails junctions)
  | powerWindow => exact .inl execPowerWindow_ends
  | slewPeriod slice demand => exact .inl (execSlewPeriod_ends slice demand)
  | thermalSample stack value => exact .inl (execThermalSample_ends stack value)
  | splitReselect stack plans => exact .inl (execSplitReselect_ends stack plans)
  | sectorRead stack offset result retried => exact .inl (execSectorRead_ends stack offset result retried)
  | repair stack => exact .inl (execRepair_ends stack)
  | retireMove stack => exact .inl (execRetireMove_ends stack)
  | scrubPatrol stack result => exact .inl (execScrubPatrol_ends stack result)
  | scrubLate stack => exact .inl (execScrubLate_ends stack)
  | counterForward slice => exact .inl (execCounterForward_ends slice)
  | skewWindowEnd slice => exact .inl (execSkewWindowEnd_ends slice)
  | skewMerge => exact .inl execSkewMerge_ends
  | queueWrite queue word vbytes psec last => exact .inl (execQueueWrite_ends queue word vbytes psec last)
  | queueRead queue => exact .inl (execQueueRead_ends queue)
  | queueDrop queue => exact .inl (execQueueDrop_ends queue)
  | por => exact .inl execPor_ends
  | engineReset => exact .inl execEngineReset_ends
  | resetRelease engine gsize => exact .inl (execResetRelease_ends engine gsize)
  | bootStepDone result => exact .inl (execBootStepDone_ends result)
  | restartStepDone slice result => exact .inl (execRestartStepDone_ends slice result)
  | powerOff => exact .inl execPowerOff_ends
  | tapInstruction code data => exact .inl (execTapInstruction_ends code data)
  | h2dResponse port who line data poisoned => exact .inl (execH2dResponse_ends port who line data poisoned)
  | registerRead port offset size => exact .inl (execRegisterRead_ends port offset size)

theorem Absent.fault {i : Instr} {s : State} (h : Absent i s) : ∃ addr, exec i s = .fault (.noSuchAddress addr) := by
  rcases h with ⟨_, addr, _, _, -, -, hf⟩ | ⟨_, addr, _, -, -, hf⟩
  · exact ⟨addr, hf⟩
  · exact ⟨addr, hf⟩

/-- A command that answers a next state keeps device memory canonical. -/
theorem exec_wf {i : Instr} {s t : State} (hs : s.dev.wf = true) (h : exec i s = .next t) : t.dev.wf = true := by
  rcases exec_ends_or_absent i s with ⟨u, hu, hwf⟩ | habsent
  · obtain rfl : u = t := Host.Outcome.next.inj (hu.symm.trans h)
    exact hwf hs
  · obtain ⟨addr, hf⟩ := habsent.fault
    cases hf.symm.trans h

/-- Settles O4: a command keeps memory canonical by `exec_wf`, and so does a cycle of the sequencers. -/
theorem everyStepKeepsMemoryCanonical : Obligations.EveryStepKeepsMemoryCanonical := by
  unfold Obligations.EveryStepKeepsMemoryCanonical
  intro s t hs hstep
  unfold step at hstep
  cases hp : s.pending with
  | nil =>
    rw [hp] at hstep
    cases hstep
    exact idle_wf hs
  | cons c r =>
    rw [hp] at hstep
    exact exec_wf (s := { s with pending := r }) hs hstep

/-- Settles O6: a command that ends is neither refused nor faulted, and the accesses that do not end are those beyond the device. -/
theorem onlyAbsentAddressesStop : Obligations.OnlyAbsentAddressesStop := by
  unfold Obligations.OnlyAbsentAddressesStop
  intro i s
  rcases exec_ends_or_absent i s with ⟨u, hu, -⟩ | habsent
  · exact ⟨fun r hr => (by cases hu.symm.trans hr), fun f hf => (by cases hu.symm.trans hf)⟩
  · refine ⟨fun r hr => ?_, fun f hf => ?_⟩
    · obtain ⟨addr, hfault⟩ := habsent.fault
      cases hfault.symm.trans hr
    · rcases habsent with ⟨port, addr, bytes, poisoned, hi, hout, hfault⟩ | ⟨port, addr, count, hi, hout, hfault⟩
      · exact .inl ⟨port, addr, bytes, poisoned, hi, hout, Host.Outcome.fault.inj (hf.symm.trans hfault)⟩
      · exact .inr ⟨port, addr, count, hi, hout, Host.Outcome.fault.inj (hf.symm.trans hfault)⟩

end Sys2Proof.Proofs.Canonical
end
